-- ==== Sys2Proof/Word.lean ====
section
/-! DEFINITION. The word types of the IVH-3251: bytes, registers, addresses and lane masks (R1, R134, R147). -/

namespace Sys2Proof

/-- One byte of memory. -/
abbrev Byte := BitVec 8

/-- One lane of a v register (R147). -/
abbrev Word := BitVec 32

/-- An s register, a v pair, a virtual address or a system register (R147, R162, R399). -/
abbrev DWord := BitVec 64

/-- A set of lanes of one group, bit L for lane L (R134, R135). -/
abbrev LaneMask := BitVec 128

/-- One instruction word (R264). -/
abbrev IWord := BitVec 96

/-- A word index from the code segment base, the program counter of a lane (R264, R282). -/
abbrev Pc := BitVec 32

/-- A sparse map: what no entry lists has the default that the reader names. -/
abbrev SMap (α : Type) := List (Nat × α)

end Sys2Proof
end

