-- ==== Sys2Proof/Syntax.lean ====
section
/-! DEFINITION. The syntax of the machine's steps: every row of the opcode table is a constructor of `Instr`.
Rows with an instruction word carry the word's fields; event rows carry what names the unit that acts and
what the spec leaves to the world outside the model (log entries 1 and 7). -/

namespace Sys2Proof

/-- The type codes of MOD[11:8] (R269), in code order 0 to 14. -/
inductive Ty where
  | s32 | z32 | s64 | z64 | f32 | f16 | bf16 | e4m3 | e5m2 | s8 | z8 | s16 | z16 | i4 | b4
deriving DecidableEq, Repr

/-- The scopes of MOD[4:3] (R188). -/
inductive Scope where
  | core | clu | dev | sys
deriving DecidableEq, Repr

/-- The orderings of OPX[1:0] of a memory instruction (R269). -/
inductive Ord where
  | plain | acq | rel | acqrel
deriving DecidableEq, Repr

/-- The rounding modes of MOD[7:6] (R207, R269). -/
inductive Rnd where
  | rn | rz | rd | ru
deriving DecidableEq, Repr

/-- The relations of ICMP and FCMP (R280, R297); `num` and `nan` are FCMP's alone. -/
inductive Cmp where
  | eq | ne | lt | le | gt | ge | num | nan
deriving DecidableEq, Repr

/-- The operations of PLOG (R280). -/
inductive PlogOp where
  | and | or | xor
deriving DecidableEq, Repr

/-- The modes of POLL (R280, R299). -/
inductive PollMode where
  | all | some | same | mask
deriving DecidableEq, Repr

/-- The modes of LXCH (R280, R344). -/
inductive LxMode where
  | get | fwd | back | xor
deriving DecidableEq, Repr

/-- The operations of REDUX and SCAN (R280, R345). -/
inductive RedOp where
  | add | min | max | and | or | xor
deriving DecidableEq, Repr

/-- The number system T of a block's scale byte (R212, R280). -/
inductive BlkTy where
  | int | e2m1 | pow2 | hybrid
deriving DecidableEq, Repr

/-- The operations of CCTL (R280, R358). -/
inductive CctlOp where
  | wb | inv | wbinv
deriving DecidableEq, Repr

/-- The atomic operations, codes 0 to 9 (R274, R354). -/
inductive AtomOp where
  | add | min | max | and | or | xor | exch | cas | inc | dec
deriving DecidableEq, Repr

/-- The fields of an instruction word that every format has (R264). -/
structure Hdr where
  /-- GUARD[85:82]: bit 3 negates, bits 2 to 0 name the predicate (R265). -/
  guard : BitVec 4
  /-- FE[23:21], for A, B and C (R270). -/
  fe    : BitVec 3
  /-- SP: a LIVE word follows (R243). -/
  sp    : Bool
  /-- DIST (R151). -/
  dist  : BitVec 4
  /-- WAIT: bit k waits on fk (R152). -/
  wait  : BitVec 12
  /-- SET: the flag counted, 15 for none (R152). -/
  set   : BitVec 4
deriving DecidableEq, Repr

/-- A source operand of class 00, 01, 10 (kind q) or 11 (R266). -/
inductive Src where
  | v (n : BitVec 10)
  | s (n : BitVec 6)
  | q (n : BitVec 2)
  | imm (n : BitVec 10)
deriving DecidableEq, Repr

/-- A register operand of class 00 or 01: a destination, or a source that takes no other class (R266). -/
inductive Reg where
  | v (n : BitVec 10)
  | s (n : BitVec 6)
deriving DecidableEq, Repr

/-- A source that is an s register or an immediate (R286, R348, R381). -/
inductive SImm where
  | s (n : BitVec 6)
  | imm (n : BitVec 10)
deriving DecidableEq, Repr

/-- The destination of POLL: a predicate, or an even s register for `.mask` (R299). -/
inductive PollDst where
  | p (n : BitVec 3)
  | s (n : BitVec 6)
deriving DecidableEq, Repr

/-- The destination of PEERS: v for `.lead`, p for `.one` (R300). -/
inductive PeerDst where
  | lead (v : BitVec 10)
  | one (p : BitVec 3)
deriving DecidableEq, Repr

/-- The operands of PXFR (R298). -/
inductive PxArgs where
  | ps (pd : BitVec 3) (a : Src)
  | vp (vd : BitVec 10) (pa : BitVec 3)
  | vs (vd : BitVec 10) (a : SImm)
deriving DecidableEq, Repr

/-- The address operands of the memory format (R273): base s register, offset v register, displacement, and the
residency predicate of C[2:0]. -/
structure MemRef where
  base : BitVec 6
  off  : BitVec 10
  disp : BitVec 10
  pk   : BitVec 3
deriving DecidableEq, Repr

/-- What an uncorrectable error struck (R187). -/
inductive ErrSite where
  /-- Storage of the team `uid`, named for its group `gid`: kind 0 registers, 1 backing tier, 2 scratchpad, 4 matrix state. -/
  | team (uid gid kind : Nat)
  /-- A byte of an L1 line (address space, virtual line index, byte offset), and the group whose byte it is. -/
  | l1 (core asid line off uid gid : Nat)
  /-- A line of L2, a hot array, the SRAM tier or HBM. -/
  | line (line : Nat)
  /-- A line of save area A or B met while image `image` of context `ctx` is written (R256). -/
  | save (ctx image : Nat) (areaB : Bool)
  /-- The saved group `uid`, as its restore meets the error (R256). -/
  | restore (uid kind : Nat)
deriving DecidableEq, Repr

/-- What RESIDENCY_RESOLVED resumes (R100, R307, R375, R377, R378). -/
inductive Resolved where
  | group (g : Nat)
  | stream (g q : Nat)
  | rowOp (stack pch : Nat)
  | rowWait (id : Nat)
deriving DecidableEq, Repr

/-- What DRONE_TIMED_START starts (R40). -/
inductive TimedUnit where
  | task (ctx : Nat) (handle : DWord)
  | copy (core : Nat)
  | gang (gang : Nat)
  | twait (g : Nat)
deriving DecidableEq, Repr

/-- An image that a boot stage verifies (R76): absent, or its bytes, security version, key and signature. -/
structure BootImage where
  present   : Bool
  bytes     : List Byte
  version   : BitVec 32
  key       : List Byte
  signature : List Byte
  /-- Drags whose copy of the stage 2 image differs from the measured one (R80); of no use in other stages. -/
  badDrags  : List Nat
deriving DecidableEq, Repr

/-- A peer's access that arrives on a flue port (R423). -/
inductive PeerAccess where
  | load (sram : Bool) (addr size : Nat)
  | store (sram : Bool) (addr : Nat) (bytes : List Byte)
  | atomic (sram : Bool) (addr : Nat) (op : AtomOp) (ty : Ty) (x y : DWord)
deriving DecidableEq, Repr

/-- What a peer refuses (R423): a pending result, in the lanes that the event names; the oldest queued store of a group; a line that
a copy, a matrix operation of a core, a stream, the fills of a consort entry or a sub-block reaches; a line that an L1 writes
back. -/
inductive PeerItem where
  | access (id : Nat)
  | store (uid : Nat)
  | copy (id line : Nat)
  | matrix (core i line : Nat)
  | stream (uid : Nat) (q : BitVec 2) (line : Nat)
  | fills (entry line : Nat)
  | subBlock (id line : Nat)
  | writeBack (core asid vline : Nat)
deriving DecidableEq, Repr

/-- Every step of the machine: one constructor per row of the opcode table, in the table's order. -/
inductive Instr where
  -- class 0x0, control (R286 to R295)
  | nop (h : Hdr)
  | bra (h : Hdr) (off : BitVec 32)
  | brx (h : Hdr) (a : Reg)
  | call (h : Hdr) (off : BitVec 32)
  | ret (h : Hdr) (a : Reg)
  | exit (h : Hdr)
  | rjset (h : Hdr) (k : BitVec 3)
  | rjoin (h : Hdr) (k : BitVec 3)
  | rjclr (h : Hdr) (k : BitVec 3)
  | yield (h : Hdr) (n : BitVec 10)
  | waitf (h : Hdr)
  | trap (h : Hdr) (a : SImm)
  | bkpt (h : Hdr)
  | uivec (h : Hdr) (a : SImm)
  | uiret (h : Hdr)
  -- class 0x1, integer (R314 to R320)
  | iadd (h : Hdr) (t : Ty) (sat : Bool) (d : Reg) (a b : Src)
  | isub (h : Hdr) (t : Ty) (sat : Bool) (d : Reg) (a b : Src)
  | iaddc (h : Hdr) (t : Ty) (d : Reg) (a b : Src) (pk : BitVec 3)
  | isubb (h : Hdr) (t : Ty) (d : Reg) (a b : Src) (pk : BitVec 3)
  | imul (h : Hdr) (t : Ty) (sat : Bool) (d : Reg) (a b : Src)
  | imulh (h : Hdr) (t : Ty) (d : Reg) (a b : Src)
  | imad (h : Hdr) (t : Ty) (sat : Bool) (d : Reg) (a b : Src) (c : BitVec 10)
  | idiv (h : Hdr) (t : Ty) (d : Reg) (a b : Src)
  | irem (h : Hdr) (t : Ty) (d : Reg) (a b : Src)
  | imin (h : Hdr) (t : Ty) (d : Reg) (a b : Src)
  | imax (h : Hdr) (t : Ty) (d : Reg) (a b : Src)
  | iabs (h : Hdr) (t : Ty) (sat : Bool) (d : Reg) (a : Src)
  | ineg (h : Hdr) (t : Ty) (sat : Bool) (d : Reg) (a : Src)
  | idp4 (h : Hdr) (t : Ty) (sat : Bool) (d : Reg) (a b : Src) (c : BitVec 10)
  | idp2 (h : Hdr) (t : Ty) (sat : Bool) (d : Reg) (a b : Src) (c : BitVec 10)
  | iadd3 (h : Hdr) (t : Ty) (sat : Bool) (d : Reg) (a b : Src) (c : BitVec 10)
  -- class 0x2, bit (R321 to R327)
  | and (h : Hdr) (t : Ty) (d : Reg) (a b : Src)
  | or (h : Hdr) (t : Ty) (d : Reg) (a b : Src)
  | xor (h : Hdr) (t : Ty) (d : Reg) (a b : Src)
  | andn (h : Hdr) (t : Ty) (d : Reg) (a b : Src)
  | not (h : Hdr) (t : Ty) (d : Reg) (a : Src)
  | bmix3 (h : Hdr) (t : Ty) (d : Reg) (a b : Src) (c : BitVec 10) (tbl : BitVec 8)
  | shl (h : Hdr) (t : Ty) (d : Reg) (a b : Src)
  | shr (h : Hdr) (t : Ty) (d : Reg) (a b : Src)
  | sar (h : Hdr) (t : Ty) (d : Reg) (a b : Src)
  | rotl (h : Hdr) (t : Ty) (d : Reg) (a b : Src)
  | rotr (h : Hdr) (t : Ty) (d : Reg) (a b : Src)
  | dshr (h : Hdr) (t : Ty) (d : Reg) (a b : Src) (c : BitVec 10)
  | ones (h : Hdr) (t : Ty) (d : Reg) (a : Src)
  | clz (h : Hdr) (t : Ty) (d : Reg) (a : Src)
  | ctz (h : Hdr) (t : Ty) (d : Reg) (a : Src)
  | brev (h : Hdr) (t : Ty) (d : Reg) (a : Src)
  | fxtr (h : Hdr) (t : Ty) (d : Reg) (a b : Src)
  | fins (h : Hdr) (t : Ty) (d : Reg) (a b : Src) (c : BitVec 10)
  | clmul (h : Hdr) (t : Ty) (d : Reg) (a b : Src)
  | clmulh (h : Hdr) (t : Ty) (d : Reg) (a b : Src)
  | bsel (h : Hdr) (d : Reg) (a b : Src) (c : BitVec 10)
  -- class 0x3, FP32 (R328 to R333)
  | fadd (h : Hdr) (r : Rnd) (d : Reg) (a b : Src)
  | fsub (h : Hdr) (r : Rnd) (d : Reg) (a b : Src)
  | fmul (h : Hdr) (r : Rnd) (d : Reg) (a b : Src)
  | ffma (h : Hdr) (r : Rnd) (d : Reg) (a b : Src) (c : BitVec 10)
  | fmin (h : Hdr) (d : Reg) (a b : Src)
  | fmax (h : Hdr) (d : Reg) (a b : Src)
  | frnd (h : Hdr) (r : Rnd) (d : Reg) (a : Src)
  | fscale (h : Hdr) (r : Rnd) (d : Reg) (a b : Src)
  | fclass (h : Hdr) (d : Reg) (a : Src)
  | fabs (h : Hdr) (d : Reg) (a : Src)
  | fneg (h : Hdr) (d : Reg) (a : Src)
  | fcpys (h : Hdr) (d : Reg) (a b : Src)
  -- class 0x4, packed half and conversion (R334 to R340)
  | hadd2 (h : Hdr) (t : Ty) (r : Rnd) (d : Reg) (a b : Src)
  | hmul2 (h : Hdr) (t : Ty) (r : Rnd) (d : Reg) (a b : Src)
  | hfma2 (h : Hdr) (t : Ty) (r : Rnd) (d : Reg) (a b : Src) (c : BitVec 10)
  | hmin2 (h : Hdr) (t : Ty) (d : Reg) (a b : Src)
  | hmax2 (h : Hdr) (t : Ty) (d : Reg) (a b : Src)
  | cvt (h : Hdr) (dt st : Ty) (r : Rnd) (sat : Bool) (d : Reg) (a : Src)
  | cvtpk (h : Hdr) (dt st : Ty) (r : Rnd) (sat : Bool) (d : Reg) (a b : Src)
  | qblk (h : Hdr) (t : BlkTy) (d : BitVec 10) (a b : Src)
  | dqblk (h : Hdr) (d : BitVec 10) (a : Src)
  -- class 0x5, move and compare (R286, R296 to R303)
  | mov (h : Hdr) (t : Ty) (d : Reg) (a : Src)
  | movi (h : Hdr) (d : BitVec 10) (imm : BitVec 32)
  | movh (h : Hdr) (t : Ty) (d : Reg) (a b : Src)
  | sel (h : Hdr) (t : Ty) (d : Reg) (a b : Src) (pk : BitVec 3)
  | icmp (h : Hdr) (t : Ty) (c : Cmp) (pd : BitVec 3) (a b : Src)
  | fcmp (h : Hdr) (c : Cmp) (pd : BitVec 3) (a b : Src)
  | plog (h : Hdr) (op : PlogOp) (pd pa pb : BitVec 3)
  | pxfr (h : Hdr) (x : PxArgs)
  | poll (h : Hdr) (m : PollMode) (d : PollDst) (pa : BitVec 3)
  | peers (h : Hdr) (t : Ty) (d : PeerDst) (a : Src)
  | rdsys (h : Hdr) (d : Reg) (wide : Bool) (num axis : BitVec 10)
  | wrsys (h : Hdr) (num : BitVec 10) (a : SImm)
  -- class 0x6, special functions and cross-lane (R341 to R346)
  | frcp (h : Hdr) (r : Rnd) (d : Reg) (a : Src)
  | frsq (h : Hdr) (d : Reg) (a : Src)
  | fsqrt (h : Hdr) (r : Rnd) (d : Reg) (a : Src)
  | fexp2 (h : Hdr) (d : Reg) (a : Src)
  | flog2 (h : Hdr) (d : Reg) (a : Src)
  | fsin (h : Hdr) (d : Reg) (a : Src)
  | fcos (h : Hdr) (d : Reg) (a : Src)
  | ftanh (h : Hdr) (d : Reg) (a : Src)
  | lxch (h : Hdr) (t : Ty) (m : LxMode) (d : BitVec 10) (a b : Src)
  | redux (h : Hdr) (t : Ty) (op : RedOp) (r : Rnd) (d : Reg) (a : Src)
  | scan (h : Hdr) (t : Ty) (op : RedOp) (r : Rnd) (d : BitVec 10) (a : Src)
  -- class 0x7, memory (R348 to R358)
  | ld (h : Hdr) (t : Ty) (strong acq : Bool) (sc : Scope) (d : BitVec 10) (m : MemRef)
  | st (h : Hdr) (t : Ty) (strong rel : Bool) (sc : Scope) (x : BitVec 10) (m : MemRef)
  | lds (h : Hdr) (t : Ty) (strong acq : Bool) (d : BitVec 10) (base : BitVec 6) (off disp : BitVec 10)
  | sts (h : Hdr) (t : Ty) (strong rel : Bool) (x : BitVec 10) (base : BitVec 6) (off disp : BitVec 10)
  | atom (h : Hdr) (op : AtomOp) (t : Ty) (o : Ord) (sc : Scope) (d : BitVec 10) (base : BitVec 6) (off x : BitVec 10) (pk : BitVec 3)
  | atoms (h : Hdr) (op : AtomOp) (t : Ty) (o : Ord) (d : BitVec 10) (base : BitVec 6) (off x : BitVec 10)
  | red (h : Hdr) (op : AtomOp) (t : Ty) (rel : Bool) (sc : Scope) (x : BitVec 10) (m : MemRef)
  | ldsc (h : Hdr) (t : Ty) (strong acq : Bool) (sc : Scope) (d : BitVec 6) (base : BitVec 6) (disp : BitVec 10) (pk : BitVec 3)
  | preq (h : Hdr) (t : Ty) (base : BitVec 6) (off disp : BitVec 10)
  | pref (h : Hdr) (t : Ty) (base : BitVec 6) (off disp : BitVec 10)
  | cctl (h : Hdr) (op : CctlOp) (t : Ty) (base : BitVec 6) (off disp : BitVec 10)
  -- class 0x8, sink, consort, order (R359 to R365)
  | sink (h : Hdr) (n : BitVec 4)
  | srec (h : Hdr) (d : BitVec 10)
  | fence (h : Hdr) (o : Ord) (sc : Scope)
  | cjoin (h : Hdr) (c : BitVec 4) (idx timer : SImm)
  | cleave (h : Hdr) (c : BitVec 4)
  | cld (h : Hdr) (ui : Bool) (c : BitVec 4) (sa sb : BitVec 6)
  | cstat (h : Hdr) (d : BitVec 6) (c : BitVec 4)
  -- class 0x9, engines (R366 to R378)
  | cpy (h : Hdr) (ui : Bool) (pk : BitVec 3) (a : Reg)
  | cpyfill (h : Hdr) (ui : Bool) (pk : BitVec 3) (a : Reg)
  | cbinit (h : Hdr) (b : BitVec 4) (sa sb sc : BitVec 6)
  | cbacq (h : Hdr) (d : Reg) (b : BitVec 4)
  | cbrel (h : Hdr) (b : BitVec 4) (sa : BitVec 6)
  | blws (h : Hdr) (t : Ty) (q : BitVec 2) (sa : BitVec 6)
  | blwstop (h : Hdr) (q : BitVec 2)
  | qcfg (h : Hdr) (q : BitVec 2) (rbase depth : SImm)
  | nmcpy (h : Hdr) (ui : Bool) (sd ss : BitVec 6) (n : SImm)
  | nmzero (h : Hdr) (ui : Bool) (sd : BitVec 6) (n : SImm)
  -- class 0xA, matrix (R380 to R393)
  | obres (h : Hdr) (k : BitVec 4) (sa : BitVec 6)
  | obrel (h : Hdr) (k : BitVec 4)
  | scpy (h : Hdr) (ui : Bool) (sa sb : BitVec 6)
  | ptld (h : Hdr) (ui : Bool) (t : BitVec 3) (sa : BitVec 6)
  | mma (h : Hdr) (sat ui : Bool) (sa : BitVec 6) (pk : BitVec 3)
  | accz (h : Hdr) (a b : SImm)
  | accld (h : Hdr) (t : Ty) (ui : Bool) (sa sb : BitVec 6)
  | accst (h : Hdr) (t : Ty) (r : Rnd) (ui : Bool) (sa sb : BitVec 6)
  | batonTake (h : Hdr)
  | batonPass (h : Hdr)
  | batonQuery (h : Hdr) (d : BitVec 6)
  -- class 0xB, task and time (R304 to R311)
  | bar (h : Hdr) (sc : Scope)
  | phase (h : Hdr) (n : SImm)
  | signal (h : Hdr) (i : SImm)
  | spawnTask (h : Hdr) (sa : BitVec 6) (pk : BitVec 3)
  | spawnGrid (h : Hdr) (sa : BitVec 6) (pk : BitVec 3)
  | spawnGraph (h : Hdr) (sa : BitVec 6) (pk : BitVec 3)
  | amsg (h : Hdr) (sa : BitVec 6) (vb : BitVec 10)
  | tnow (h : Hdr) (d : Reg) (a : SImm)
  | twait (h : Hdr) (sa : BitVec 6)
  | gwnote (h : Hdr) (sa : BitVec 6)
  -- class 0xC, fitting (R394 to R398)
  | apxb (h : Hdr) (id : SImm) (vin : BitVec 10) (nin : BitVec 3) (vout : BitVec 10) (nout : BitVec 2) (fin : BitVec 12)
  | apxe (h : Hdr)
  | ftcfg (h : Hdr) (id : SImm) (sa : BitVec 6)
  | ftinv (h : Hdr) (id : SImm)
  | ftstat (h : Hdr) (d : BitVec 6) (id : SImm)
  -- class 0xD, system (R399 to R407)
  | sysrd (h : Hdr) (d sa : BitVec 6)
  | syswr (h : Hdr) (sa sb : BitVec 6)
  | slcfg (h : Hdr) (a : SImm)
  | tlbinv (h : Hdr) (ctx : SImm) (sa : BitVec 6) (size : BitVec 4)
  | cres (h : Hdr) (a : SImm)
  | cresHold (h : Hdr) (a b : SImm)
  | crrel (h : Hdr)
  | quiesce (h : Hdr) (a : SImm)
  | quiesceResume (h : Hdr) (a : SImm)
  | halt (h : Hdr) (a : SImm)
  | haltRelease (h : Hdr) (a : SImm)
  -- words that are no instruction (R275)
  | illegalOpcode (w : IWord)
  | liveExec (w : IWord)
  -- events of groups, traps and debug; g is a group's slot key, 64 x core + 16 x quarter + slot
  | deferredTrap (g : Nat)
  | breakpoint (g : Nat)
  | debugStep (core : Nat)
  | joinStall (g : Nat) (k : BitVec 3)
  | ageBoost (g : Nat)
  | pathAgeBoost (g : Nat) (pc : Pc)
  | uiDeliver (g : Nat)
  -- tasks, gangs, messages
  | taskAdmit (core quarter ctx : Nat) (handle : DWord)
  | steal (core quarter : Nat)
  | depsDecrement (i : Nat)
  | poisonedDecrement (i : Nat)
  | taskReleaseTime (ctx : Nat) (handle : DWord)
  | gangPlace (gang : Nat) (places : List (Nat × Nat))
  | gangRelease (gang : Nat)
  | handlerSpawn (core : Nat) (hostCtx : Option Nat)
  | messageArrival (i : Nat)
  -- graph walker: flask, graph number, thread number
  | walkerTask (fl inst th : Nat)
  | walkerTaskDone (fl inst th : Nat)
  | walkerCond (fl inst th : Nat)
  | walkerWhile (fl inst th : Nat)
  | walkerJoin (fl inst th : Nat)
  | walkerEnd (fl inst th : Nat)
  | instanceEnd (fl inst : Nat)
  -- register tiering and the bellows
  | tierOut (g : Nat)
  | tierRecall (g : Nat)
  | tierMoveDone (g : Nat)
  | bellowsElement (g : Nat) (q : BitVec 2)
  -- sinking, consorts
  | subBlockLand (id : Nat)
  | followAccess (id : Nat)
  | subBlockReturn (id : Nat)
  | consortTimer (id : Nat)
  | consortFillDone (id team : Nat)
  -- copy engine, buffers, matrix unit, row engines
  | cpyStart (core : Nat)
  | cpyComplete (core : Nat)
  | cbacqServe (core : Nat) (b : BitVec 4)
  | mmaStart (core : Nat)
  | mmaComplete (core : Nat)
  | matrixOpComplete (core : Nat)
  | rowOpStart (stack pch : Nat)
  | rowPair (stack pch : Nat)
  | refreshDue (stack pch bank : Nat)
  | rowOpComplete (stack pch : Nat)
  -- residency, notices, saves and the kernel's answers
  | preqComplete (id page : Nat) (mapped : Bool)
  | noticeWrite (i : Nat)
  | groupParked (g : Nat)
  | groupResume (i core quarter : Nat)
  | groupRedirect (i core quarter : Nat)
  | groupKill (i : Nat)
  | ctxctlPark (ctx : Nat)
  | ctxctlResume (ctx : Nat)
  | uncorrectableError (site : ErrSite)
  | corrected (kind unit line : Nat)
  -- host, management, boot, trust
  | hostMessage (ctx off : Nat) (bytes : List Byte)
  | mgmtReadRegister (sel : BitVec 17)
  | hostLinkReset
  | moduleReset
  | powerOn (images : List BootImage)
  | recoveryImage (img : BootImage)
  | attestationQuote (nonce : List Byte)
  | antiRollbackAdvance (v : BitVec 32)
  -- power, clocks, drone; c is a power cluster, 4 x flask + cluster; the figures are those that the rules give (log entry 7)
  | piControllerStep (c est : Nat)
  | standingGrant (c : Nat) (used : List (Nat × Nat))
  | arbiterGrant (c : Nat)
  | currentRamp (c : Nat)
  | burstEnd (g used : Nat)
  | quotaWrite (ctx : Nat) (x : DWord)
  | governorStep (fl temp : Nat) (sums : List Nat) (hot busy : Bool)
  | migrated (team fl : Nat)
  | regionOverrun (g : Nat)
  | pointChangeSwitch (fl : Nat)
  | droopDetect (fl : Nat)
  | droopClear (fl : Nat)
  | droneTimedStart (u : TimedUnit)
  | twaitRelease (g : Nat)
  | syncMessage (port : Nat) (offset : Int)
  | holdover
  -- fabric, replication, write-backs
  | replicationWindow (fl : Nat)
  | remoteRead (fl pa : Nat)
  | replicaFill (i : Nat)
  | repWrite (fl pa : Nat) (bytes : List Byte)
  | replicaInvalidate (i : Nat)
  | rthreshWrite (fl : Nat) (x : DWord)
  | homeWriteback (core asid line : Nat)
  -- registers with rules of their own
  | slicecfgWrite (fl : Nat) (x : DWord)
  | repartitionDone (fl : Nat)
  | hashmaskWrite (fl : Nat) (x : DWord)
  | fluectlModeWrite (port : Nat) (x : DWord)
  | flueRetrainDone (port : Nat)
  | flitReplay (port : Nat)
  | peerRefusal (what : PeerItem) (lanes : LaneMask)
  | quietctlWrite (ctx : Nat) (x : DWord)
  -- keys and service
  | keyIssue (id : Nat)
  | keyRetire (id : Nat)
  | keyRetireDone (id : Nat)
  | svcRetireCore (fl c : Nat)
  | svcRetireSlice (fl k : Nat)
  | svcRetirePseudoChannel (stack p : Nat)
  | svcRetireFlueLane (port lane : Nat)
  | svcRetireUcieLane (fl edge mod lane : Nat)
  | svcDone
  -- fitting engine
  | fitRequest (fl : Nat)
  | apxbReply (id : Nat)
  | fitSample (fl : Nat)
  | registerWrite (sel : BitVec 17) (x : DWord)
  -- rows the table adds last
  | pointChangeComplete (fl : Nat)
  | peerAccessArrival (port : Nat) (a : PeerAccess)
  | hostStagingWrite (off : Nat) (bytes : List Byte)
  | residencyResolved (u : Resolved) (mapped : Bool)
  | variableLatencyResult (id : Nat)
deriving DecidableEq, Repr

end Sys2Proof
end

