-- ==== Sys2Proof/Config.lean ====
section
/-! DEFINITION. What one part, one silicon stepping or no rule at all decides (log entry 4): every constant here is without
a body, so that no proof can see its value. -/

namespace Sys2Proof.Config

/-- A choice the spec leaves open, drawn with the counter and a key that names the place. -/
opaque freeBit : Nat → Nat → Bool

/-- A number the spec leaves open; its user takes it modulo a bound. -/
opaque freeNat : Nat → Nat → Nat

/-- The word that register and lane `k` holds in storage of seed `n` (R84, R101, R245, R394). -/
opaque freeWord : Nat → Nat → Word

/-- The value of s register `k` in storage of seed `n` (R84, R101, R245). -/
opaque freeDWord : Nat → Nat → DWord

/-- The lanes of predicate `k` in storage of seed `n` (R101, R245). -/
opaque freeMask : Nat → Nat → LaneMask

/-- The byte that a read finds where the spec leaves it open (R84, R368, R386), by draw and address. -/
opaque freeByte : Nat → Nat → Byte

/-- The stepping's own candidate for a special function (R342), by function (0 FRSQ, 1 FEXP2, 2 FLOG2, 3 FSIN, 4 FCOS,
5 FTANH) and argument. -/
opaque specialFn : Nat → Word → Word

/-- SHAKE256 with 64 bytes of output (R80), a named standard that the spec does not spell out (log entry 12). -/
opaque shake256 : List Byte → List Byte

/-- ML-DSA-65 verification of key, message and signature (R76), a named standard (log entry 12). -/
opaque mlDsaVerify : List Byte → List Byte → List Byte → Bool

/-- The module's ML-DSA-65 signature of a message under its identity key (R79, R80; log entry 12). -/
opaque mlDsaSign : List Byte → List Byte

/-- The public key of the module's identity key pair (R79). -/
opaque identityKey : List Byte

/-- The Kermonsdal certificate over a public key (R79; log entry 12). -/
opaque kermonsdalCert : List Byte → List Byte

/-- The fused Kermonsdal root public key (R76). -/
opaque rootKey : List Byte

/-- The stage 0 ROM (R80). -/
opaque stage0Rom : List Byte

/-- The key named in the certificate of a stage 3 image (R76). -/
opaque stage3Key : List Byte → List Byte

/-- The certificate in the image is signed by the root key (R76). -/
opaque stage3CertOk : List Byte → Bool

/-- ASSY of DEVIDENT (R4): its value less 1, taken modulo 255. -/
opaque assyFuse : Nat

/-- The security version that the fuse counter held at manufacture (R78). -/
opaque svnFuse : BitVec 32

/-- Spare cores of each flask at manufacture, taken modulo 3 (R8, R85). -/
opaque spareFuse : Nat → Nat

/-- How far a flask's count is from the module reference, taken modulo 17, in eighths of 0.25 ns around 0 (R39). -/
opaque droneSkew : Nat → Nat

/-- The energy of one event of a kind, in pJ: the coefficients fused at test (R46). -/
opaque eventPj : Nat → Nat

/-- The fixed order in which a part breaks what no rule orders. -/
opaque l1Victim : Nat → Nat

end Sys2Proof.Config
end

