-- ==== Sys2Proof/Machine/Maps.lean ====
section
/-! DEFINITION. Sparse maps, lane sets, bytes and bit fields: the plain helpers of every operation. -/

namespace Sys2Proof.Machine

/-- What a map lists at a key. -/
def mget? {α : Type} : SMap α → Nat → Option α
  | [], _ => none
  | (a, x) :: r, k => if a = k then some x else if k < a then none else mget? r k

/-- What a map lists at a key, or the default. -/
def mget {α : Type} (m : SMap α) (k : Nat) (d : α) : α := (mget? m k).getD d

/-- Put a value at a key; keys stay rising. -/
def mput {α : Type} : SMap α → Nat → α → SMap α
  | [], k, x => [(k, x)]
  | (a, y) :: r, k, x => if a = k then (k, x) :: r else if k < a then (k, x) :: (a, y) :: r else (a, y) :: mput r k x

/-- Remove a key. -/
def mdel {α : Type} : SMap α → Nat → SMap α
  | [], _ => []
  | (a, y) :: r, k => if a = k then r else (a, y) :: mdel r k

/-- A map's keys rise (the form in which equal maps are equal lists). -/
def Rising {α : Type} (m : SMap α) : Prop := m.Pairwise fun a b => a.1 < b.1

/-- Change the value at a key. -/
def mmod {α : Type} (m : SMap α) (k : Nat) (d : α) (f : α → α) : SMap α := mput m k (f (mget m k d))

/-- The first element that satisfies a test becomes `f` of it. -/
def updFirst {α : Type} (p : α → Bool) (f : α → α) : List α → List α
  | [] => []
  | x :: r => if p x then f x :: r else x :: updFirst p f r

/-- A bit field of a 64-bit value: `n` bits from bit `lo`. -/
def fld (x : DWord) (lo n : Nat) : Nat := (x.toNat / 2 ^ lo) % 2 ^ n

/-- A 64-bit value with `n` bits from bit `lo` replaced. -/
def setFld (x : DWord) (lo n v : Nat) : DWord :=
  let old := fld x lo n
  BitVec.ofNat 64 (x.toNat - old * 2 ^ lo + (v % 2 ^ n) * 2 ^ lo)

/-- Bit `k` of a 64-bit value. -/
def bit (x : DWord) (k : Nat) : Bool := x.getLsbD k

/-- Lane `l` is in the set. -/
def inLanes (m : LaneMask) (l : Nat) : Bool := m.getLsbD l

/-- The set of one lane. -/
def laneBit (l : Nat) : LaneMask := BitVec.ofNat 128 (2 ^ l)

/-- The lanes of a set, increasing. -/
def lanesOf (m : LaneMask) : List Nat := (List.range 128).filter fun l => m.getLsbD l

/-- The set of some lanes. -/
def maskOf (ls : List Nat) : LaneMask := ls.foldl (fun acc l => acc ||| laneBit l) 0

/-- The lanes 0 to `n - 1`. -/
def firstLanes (n : Nat) : LaneMask := BitVec.ofNat 128 (2 ^ n - 1)

/-- How many lanes a set holds. -/
def countLanes (m : LaneMask) : Nat := (lanesOf m).length

/-- The lowest lane of a set. -/
def lowLane (m : LaneMask) : Option Nat := (lanesOf m).head?

/-- A mask with one lane's bit set to `b`. -/
def setLane (m : LaneMask) (l : Nat) (b : Bool) : LaneMask := if b then m ||| laneBit l else m &&& ~~~ laneBit l

/-- `n` bytes of a number, lowest first (R1). -/
def natBytes : Nat → Nat → List Byte
  | 0, _ => []
  | n + 1, x => BitVec.ofNat 8 x :: natBytes n (x / 256)

/-- The number that bytes spell, lowest first (R1). -/
def bytesNat : List Byte → Nat
  | [] => 0
  | b :: r => b.toNat + 256 * bytesNat r

/-- A slice of a list of bytes as a number. -/
def bytesAt (bs : List Byte) (off n : Nat) : Nat := bytesNat ((bs.drop off).take n)

/-- A 1,024-bit line from bytes. -/
def lineOfBytes (bs : List Byte) : BitVec 1024 := BitVec.ofNat 1024 (bytesNat bs)

/-- Byte `i` of a line. -/
def lineByte (d : BitVec 1024) (i : Nat) : Byte := d.extractLsb' (8 * i) 8

/-- A line with byte `i` replaced. -/
def setLineByte (d : BitVec 1024) (i : Nat) (b : Byte) : BitVec 1024 :=
  (d &&& ~~~ (BitVec.ofNat 1024 (255 * 2 ^ (8 * i)))) ||| BitVec.ofNat 1024 (b.toNat * 2 ^ (8 * i))

/-- A signed number as a 64-bit value. -/
def ofInt64 (x : Int) : DWord := BitVec.ofInt 64 x

/-- Sign extension of the low `n` bits of a number, as an integer. -/
def sextNat (n x : Nat) : Int :=
  let y := x % 2 ^ n
  if y < 2 ^ (n - 1) then (y : Int) else (y : Int) - (2 ^ n : Nat)

/-- Quotient rounded up. -/
def ceilDiv (a b : Nat) : Nat := (a + b - 1) / b

/-- Distinct elements, in order of first appearance. -/
def dedup (xs : List Nat) : List Nat := xs.foldl (fun acc x => if acc.contains x then acc else acc ++ [x]) []

end Sys2Proof.Machine
end

