-- ==== Sys2Proof/WellFormed.lean ====
section
/-! DEFINITION. What an instruction word may hold (R264 to R274, R286, R313, R348, R381): the checks that depend on the
word alone. A word that fails one traps with RESERVED_FIELD (R275). -/

namespace Sys2Proof

/-- Width of a type in bits; i4 and b4 move one packed byte in memory but are 4-bit elements (R206, R273). -/
def Ty.bits : Ty → Nat
  | .s32 | .z32 | .f32 => 32
  | .s64 | .z64 => 64
  | .f16 | .bf16 | .s16 | .z16 => 16
  | .e4m3 | .e5m2 | .s8 | .z8 => 8
  | .i4 | .b4 => 4

/-- Access size of a memory instruction in bytes (R273). -/
def Ty.size : Ty → Nat
  | .s32 | .z32 | .f32 => 4
  | .s64 | .z64 => 8
  | .f16 | .bf16 | .s16 | .z16 => 2
  | .e4m3 | .e5m2 | .s8 | .z8 | .i4 | .b4 => 1

/-- A type of 64 bits: its v operands are even pairs (R148). -/
def Ty.wide : Ty → Bool
  | .s64 | .z64 => true
  | _ => false

/-- An integer type read as signed (R315). -/
def Ty.signed : Ty → Bool
  | .s32 | .s64 | .s8 | .s16 | .i4 => true
  | _ => false

/-- The 32-bit and 64-bit integer types (R314). -/
def Ty.int4 (t : Ty) : Bool := t == .s32 || t == .z32 || t == .s64 || t == .z64

/-- z32 and z64 (R321). -/
def Ty.z2 (t : Ty) : Bool := t == .z32 || t == .z64

/-- s32 and s64 (R314, R321). -/
def Ty.s2 (t : Ty) : Bool := t == .s32 || t == .s64

/-- The types of MOV and SEL (R286). -/
def Ty.movable (t : Ty) : Bool := t.int4 || t == .f32

/-- f16 and bf16 (R334). -/
def Ty.half (t : Ty) : Bool := t == .f16 || t == .bf16

/-- An even register number (R148). -/
def evenReg (n : BitVec 10) : Bool := n.toNat % 2 == 0

/-- A register that a 64-bit type may name as D (R148). -/
def Reg.pairOk (t : Ty) : Reg → Bool
  | .v n => !t.wide || evenReg n
  | .s _ => true

/-- A source that a 64-bit type may name (R148, R313). -/
def Src.pairOk (t : Ty) : Src → Bool
  | .v n => !t.wide || evenReg n
  | _ => true

/-- A third source that a 64-bit type may name. -/
def cPairOk (t : Ty) (n : BitVec 10) : Bool := !t.wide || evenReg n

/-- A source that may stand under an s destination (R267). -/
def Src.scalar : Src → Bool
  | .s _ | .imm _ => true
  | _ => false

/-- The destination is an s register. -/
def Reg.isS : Reg → Bool
  | .s _ => true
  | .v _ => false

/-- The destination is a v register. -/
def Reg.isV (r : Reg) : Bool := !r.isS

/-- With an s destination every source is an s register or an immediate (R267). -/
def scalarOk (d : Reg) (xs : List Src) : Bool := d.isV || xs.all Src.scalar

/-- A source of class 00 or of kind q (R334, R341). -/
def Src.vq : Src → Bool
  | .v _ | .q _ => true
  | _ => false

/-- A source that is not an immediate (R325). -/
def Src.vs : Src → Bool
  | .v _ | .s _ => true
  | _ => false

/-- A source that is not a queue. -/
def Src.notQ : Src → Bool
  | .q _ => false
  | _ => true

/-- An immediate within a stated range; a register passes here and is checked at issue (R286, R348, R381). -/
def SImm.within (lo hi : Nat) : SImm → Bool
  | .s _ => true
  | .imm n => lo ≤ n.toNat && n.toNat ≤ hi

/-- A variable-latency s or p destination names a flag in SET (R152). -/
def Reg.flagged (h : Hdr) : Reg → Bool
  | .s _ => h.set != 15
  | .v _ => true

/-- GUARD is not !p7 and SET is 0 to 11 or 15 (R265, R271). -/
def Hdr.ok (h : Hdr) : Bool := h.guard != 15 && h.set != 12 && h.set != 13 && h.set != 14

/-- The raw 8-bit immediate of an e4m3 or e5m2 source (R267). -/
def Src.rawOk (st : Ty) : Src → Bool
  | .imm n => !(st == .e4m3 || st == .e5m2) || n.toNat ≤ 255
  | _ => true

/-- The types an atomic operation accepts (R354). -/
def AtomOp.typeOk (op : AtomOp) (t : Ty) : Bool :=
  match op with
  | .add | .min | .max | .exch | .cas => t.movable
  | .and | .or | .xor => t.int4
  | .inc | .dec => t.z2

/-- The operations of RED (R274). -/
def AtomOp.redOk (op : AtomOp) : Bool := op != .exch && op != .cas

/-- The types REDUX and SCAN accept (R341). -/
def RedOp.typeOk (op : RedOp) (t : Ty) : Bool :=
  match op with
  | .add | .min | .max => t.movable
  | .and | .or | .xor => t.z2

/-- RND is read by f32 add alone (R341). -/
def RedOp.rndOk (op : RedOp) (t : Ty) (r : Rnd) : Bool := r == .rn || (op == .add && t == .f32)

/-- The opcodes that are assigned (R276). -/
def assignedOp (op : Nat) : Bool :=
  let idx := op % 64
  match op / 64 with
  | 0x0 => idx ≤ 0x0E
  | 0x1 => idx ≤ 0x0F
  | 0x2 => idx ≤ 0x14
  | 0x3 => idx ≤ 0x0B
  | 0x4 => idx ≤ 0x08
  | 0x5 => idx ≤ 0x0B
  | 0x6 => idx ≤ 0x0A
  | 0x7 => idx ≤ 0x0A
  | 0x8 => idx ≤ 0x06
  | 0x9 => idx ≤ 0x09
  | 0xA => idx ≤ 0x08
  | 0xB => idx ≤ 0x07
  | 0xC => idx ≤ 0x04
  | 0xD => idx ≤ 0x07
  | _ => false

/-- OP of a word (R264). -/
def opOf (w : IWord) : Nat := (w.extractLsb' 86 10).toNat

/-- A LIVE word has one of the opcodes 0x3FC to 0x3FF (R243, R275). -/
def isLive (w : IWord) : Bool := 0x3FC ≤ opOf w

/-- Integer operands of a three-operand form. -/
def arithOk (t : Ty) (d : Reg) (a b : Src) : Bool :=
  d.pairOk t && a.pairOk t && b.pairOk t && scalarOk d [a, b]

/-- Operands of a form that reads C: D is a v register (R313). -/
def arithCOk (t : Ty) (d : Reg) (a b : Src) (c : BitVec 10) : Bool :=
  d.isV && d.pairOk t && a.pairOk t && b.pairOk t && cPairOk t c

/-- A shift or rotate: the count is a 32-bit source (R313, R323). -/
def shiftOk (t : Ty) (d : Reg) (a b : Src) : Bool := d.pairOk t && a.pairOk t && scalarOk d [a, b]

/-- One-source forms. -/
def unaryOk (t : Ty) (d : Reg) (a : Src) : Bool := d.pairOk t && a.pairOk t && scalarOk d [a]

/-- A special function: an s destination names a flag (R341, R152). -/
def specialOk (h : Hdr) (d : Reg) (a : Src) : Bool := h.ok && scalarOk d [a] && d.flagged h

/-- Types of CVTPK's destination (R334). -/
def Ty.packable : Ty → Bool
  | .f16 | .bf16 | .s16 | .z16 | .e4m3 | .e5m2 | .s8 | .z8 | .i4 => true
  | _ => false

/-- Types of a stream (R348). -/
def Ty.streamable : Ty → Bool
  | .z32 | .s32 | .f32 | .z16 | .s16 | .f16 | .bf16 | .z8 | .s8 => true
  | _ => false

/-- RDSYS names a register of R301, an axis it has, and no per-lane register into an s register. DESIGN CHOICE (log entry 15): CLSHAPE has
axes 0 and 1 only, and axis 2 is RESERVED_FIELD. -/
def rdsysOk (d : Reg) (num axis : BitVec 10) : Bool :=
  let n := num.toNat
  let ax := axis.toNat
  n ≤ 19 && (n ≥ 2 || d.isV)
    && (if n = 5 || n = 9 then ax ≤ 2 else if n = 8 then ax ≤ 1 else ax = 0)

/-- POLL's destination fits its mode (R299). -/
def pollOk (m : PollMode) : PollDst → Bool
  | .s n => m == .mask && n.toNat % 2 == 0
  | .p _ => m != .mask

/-- An operand set of a shape that the encoding admits: the checks of R264 to R274 and of each instruction's table
that depend on the word alone. Event rows have no word and are accepted as they stand. DESIGN CHOICE (log entry 15): the v sources of
MOVH, of which 32 bits are read, and the v destination of PEERS.lead may be odd under a 64-bit type. -/
def Instr.wf : Instr → Bool
  | .nop h => h.ok && h.set == 15
  | .bra h _ | .call h _ | .movi h _ _ => h.ok && h.fe == 0
  | .brx h _ | .ret h _ | .exit h | .rjset h _ | .rjoin h _ | .rjclr h _ | .trap h _ | .bkpt h | .uiret h => h.ok
  | .yield h n => h.ok && n.toNat ≤ 511
  | .waitf h => h.ok && h.wait != 0
  | .uivec h a => h.ok && a.within 0 511
  | .iadd h t _ d a b | .isub h t _ d a b | .imul h t _ d a b => h.ok && t.int4 && arithOk t d a b
  | .iaddc h t d a b _ | .isubb h t d a b _ => h.ok && t.int4 && arithOk t d a b
  | .imulh h t d a b | .imin h t d a b | .imax h t d a b => h.ok && t.int4 && arithOk t d a b
  | .imad h t _ d a b c | .iadd3 h t _ d a b c => h.ok && t.int4 && arithCOk t d a b c
  | .idiv h t d a b | .irem h t d a b => h.ok && t.int4 && arithOk t d a b && d.flagged h
  | .iabs h t _ d a | .ineg h t _ d a => h.ok && t.s2 && unaryOk t d a
  | .idp4 h t _ d a b c => h.ok && (t == .s8 || t == .z8) && arithCOk t d a b c
  | .idp2 h t _ d a b c => h.ok && (t == .s16 || t == .z16) && arithCOk t d a b c
  | .and h t d a b | .or h t d a b | .xor h t d a b | .andn h t d a b => h.ok && t.z2 && arithOk t d a b
  | .not h t d a | .brev h t d a => h.ok && t.z2 && unaryOk t d a
  | .bmix3 h t d a b c _ => h.ok && t.z2 && arithCOk t d a b c
  | .shl h t d a b | .shr h t d a b | .rotl h t d a b | .rotr h t d a b => h.ok && t.z2 && shiftOk t d a b
  | .sar h t d a b => h.ok && t.s2 && shiftOk t d a b
  | .dshr h t d a b _ => h.ok && t.z2 && d.isV && arithOk t d a b
  | .ones h t d a | .clz h t d a | .ctz h t d a => h.ok && t.z2 && a.pairOk t && scalarOk d [a]
  | .fxtr h t d a b => h.ok && t.int4 && b.vs && shiftOk t d a b
  | .fins h t d a b c => h.ok && t.z2 && b.vs && d.isV && shiftOk t d a b && cPairOk t c
  | .clmul h t d a b | .clmulh h t d a b => h.ok && t.z2 && arithOk t d a b
  | .bsel h d _ _ _ => h.ok && d.isV
  | .fadd h _ d a b | .fsub h _ d a b | .fmul h _ d a b | .fscale h _ d a b => h.ok && scalarOk d [a, b]
  | .ffma h _ d _ _ _ => h.ok && d.isV
  | .fmin h d a b | .fmax h d a b | .fcpys h d a b => h.ok && scalarOk d [a, b]
  | .frnd h _ d a => h.ok && scalarOk d [a]
  | .fclass h d a | .fabs h d a | .fneg h d a => h.ok && scalarOk d [a]
  | .hadd2 h t _ d a b | .hmul2 h t _ d a b => h.ok && t.half && scalarOk d [a, b]
  | .hfma2 h t _ d _ _ _ => h.ok && t.half && d.isV
  | .hmin2 h t d a b | .hmax2 h t d a b => h.ok && t.half && scalarOk d [a, b]
  | .cvt h dt su _ _ d a =>
      h.ok && dt != .b4 && su != .b4 && dt != su && d.pairOk dt && a.pairOk su && a.rawOk su && scalarOk d [a]
  | .cvtpk h dt su _ _ d a b =>
      h.ok && dt.packable && su != .b4 && dt != su && a.pairOk su && b.pairOk su && a.rawOk su && b.rawOk su
        && scalarOk d [a, b]
  | .qblk h _ _ a b => h.ok && a.vq && b.notQ
  | .dqblk h _ a => h.ok && a.vq
  | .mov h t d a => h.ok && t.movable && unaryOk t d a
  | .movh h t d a b =>
      h.ok && (t == .z64 || t == .s64) && d.pairOk t && scalarOk d [a, b]
  | .sel h t d a b _ => h.ok && t.movable && arithOk t d a b
  | .icmp h t c _ a b => h.ok && t.int4 && c != .num && c != .nan && a.pairOk t && b.pairOk t
  | .fcmp h _ _ _ _ => h.ok
  | .plog h _ _ _ _ => h.ok
  | .pxfr h (.ps _ a) => h.ok && a.notQ
  | .pxfr h _ => h.ok
  | .poll h m d _ => h.ok && pollOk m d
  | .peers h t _ a =>
      h.ok && t.z2 && a.vq && a.pairOk t
  | .rdsys h d w num axis =>
      h.ok && rdsysOk d num axis && d.flagged h
        && (match d with | .v n => !w || evenReg n | .s _ => w)
  | .wrsys h num _ => h.ok && 16 ≤ num.toNat && num.toNat ≤ 19
  | .frcp h _ d a | .fsqrt h _ d a => specialOk h d a
  | .frsq h d a | .fexp2 h d a | .flog2 h d a | .fsin h d a | .fcos h d a | .ftanh h d a => specialOk h d a
  | .lxch h t _ d a b => h.ok && t.z2 && cPairOk t d && a.vq && a.pairOk t && b.notQ
  | .redux h t op r d a => h.ok && op.typeOk t && op.rndOk t r && d.pairOk t && a.vq && a.pairOk t && d.flagged h
  | .scan h t op r d a => h.ok && op.typeOk t && op.rndOk t r && cPairOk t d && a.vq && a.pairOk t
  | .ld h t _ _ _ d _ | .st h t _ _ _ d _ => h.ok && cPairOk t d
  | .lds h t _ _ d _ _ _ | .sts h t _ _ d _ _ _ => h.ok && cPairOk t d
  | .atom h op t _ _ d _ _ x _ => h.ok && op.typeOk t && cPairOk t d && cPairOk t x
  | .atoms h op t _ d _ _ x => h.ok && op.typeOk t && cPairOk t d && cPairOk t x
  | .red h op t _ _ x _ => h.ok && op.redOk && op.typeOk t && cPairOk t x
  | .ldsc h _ _ _ _ _ _ _ _ => h.ok && h.set != 15
  | .preq h _ _ _ _ | .pref h _ _ _ _ | .cctl h _ _ _ _ _ => h.ok
  | .sink h n => h.ok && 1 ≤ n.toNat && n.toNat ≤ 8
  | .srec h _ => h.ok
  | .fence h o _ => h.ok && o != .plain
  | .cjoin h _ idx timer => h.ok && idx.within 0 11 && timer.within 0 511
  | .cleave h _ | .cld h _ _ _ _ | .cstat h _ _ => h.ok
  | .cpy h _ _ a | .cpyfill h _ _ a => h.ok && a.pairOk .z64
  | .cbinit h _ _ _ _ | .cbrel h _ _ => h.ok
  | .cbacq h d _ => h.ok && d.flagged h
  | .blws h t _ _ => h.ok && t.streamable
  | .blwstop h _ => h.ok
  | .qcfg h _ rb dp => h.ok && rb.within 0 511 && dp.within 0 256
  | .nmcpy h _ _ _ n | .nmzero h _ _ n => h.ok && n.within 1 511
  | .obres h _ _ | .obrel h _ | .scpy h _ _ _ | .ptld h _ _ _ | .mma h _ _ _ _ => h.ok
  | .accz h a b => h.ok && a.within 0 511 && b.within 1 511
  | .accld h t _ _ _ => h.ok && (t == .f32 || t == .s32)
  | .accst h t r _ _ _ => h.ok && (t.half || ((t == .f32 || t == .s32) && r == .rn))
  | .batonTake h | .batonPass h | .batonQuery h _ => h.ok
  | .bar h _ => h.ok
  | .phase h n => h.ok && !h.sp && n.within 0 511
  | .signal h i => h.ok && i.within 0 15
  | .spawnTask h _ _ | .spawnGrid h _ _ | .spawnGraph h _ _ => h.ok
  | .amsg h _ _ => h.ok
  | .tnow h d _ => h.ok && d.pairOk .z64
  | .twait h _ | .gwnote h _ => h.ok
  | .apxb h id _ _ _ _ fin => h.ok && !h.sp && id.within 0 255 && 2 ≤ fin.toNat
  | .apxe h => h.ok
  | .ftcfg h id _ | .ftinv h id => h.ok && id.within 0 255
  | .ftstat h _ id => h.ok && id.within 0 255 && h.set != 15
  | .sysrd h _ _ => h.ok && h.set != 15
  | .syswr h _ _ => h.ok
  | .slcfg h a => h.ok && a.within 0 31
  | .tlbinv h ctx _ size => h.ok && ctx.within 0 255 && (size.toNat ≤ 11 || size == 15)
  | .cres h a => h.ok && a.within 1 511
  | .cresHold h a b => h.ok && a.within 1 511 && b.within 0 511 && b != .imm 0
  | .crrel h => h.ok
  | .quiesce h a | .quiesceResume h a => h.ok && a.within 0 255
  | .halt h a | .haltRelease h a => h.ok && a.within 0 31
  | .illegalOpcode w => !isLive w && !assignedOp (opOf w)
  | .liveExec w => isLive w
  | _ => true

end Sys2Proof
end

