-- ==== Sys2Proof/Machine/Numbers.lean ====
section
/-! DEFINITION. Floating-point values and their rounding, exactly (R206, R207, R211, R329 to R343). Every operation is
computed on exact numbers and rounded once. -/

namespace Sys2Proof.Machine

/-- The flags of FSTAT[4:0] (R208). -/
abbrev Fl := BitVec 5

def flNV : Fl := 16
def flDZ : Fl := 8
def flOF : Fl := 4
def flUF : Fl := 2
def flPE : Fl := 1

/-- A floating-point format (R206): exponent bits, fraction bits, bias. -/
structure FFmt where
  eb   : Nat
  mb   : Nat
  bias : Nat
  nan  : Nat
deriving DecidableEq, Repr

/-- The formats of R206. -/
def fmtOf : Ty → FFmt
  | .f16 => { eb := 5, mb := 10, bias := 15, nan := 0x7E00 }
  | .bf16 => { eb := 8, mb := 7, bias := 127, nan := 0x7FC0 }
  | .e4m3 => { eb := 4, mb := 3, bias := 7, nan := 0x7F }
  | .e5m2 => { eb := 5, mb := 2, bias := 15, nan := 0x7E }
  | _ => { eb := 8, mb := 23, bias := 127, nan := 0x7FC00000 }

/-- A float type. -/
def isFloat : Ty → Bool
  | .f32 | .f16 | .bf16 | .e4m3 | .e5m2 => true
  | _ => false

/-- FTZ acts on this type (R207). -/
def ftzType : Ty → Bool
  | .f32 | .f16 | .bf16 => true
  | _ => false

/-- An exact value: NaN, an infinity, or (-1)^neg × m × 2^e. -/
inductive FV where
  | nan (signalling : Bool)
  | inf (neg : Bool)
  | fin (neg : Bool) (m : Nat) (e : Int)
deriving DecidableEq, Repr

/-- The smallest exponent of a unit in the last place. -/
def FFmt.qmin (f : FFmt) : Int := 1 - (f.bias : Int) - (f.mb : Int)

/-- Bits of infinity without a sign; for e4m3, where none is, the first code past 448. -/
def FFmt.infBits (f : FFmt) : Nat := (2 ^ f.eb - 1) * 2 ^ f.mb

/-- The sign bit's weight. -/
def FFmt.signW (f : FFmt) : Nat := 2 ^ (f.eb + f.mb)

/-- Unpack a value of a type (R206). -/
def unpack (t : Ty) (x : Nat) : FV :=
  let f := fmtOf t
  let x := x % (2 * f.signW)
  let neg := f.signW ≤ x
  let ex := x / 2 ^ f.mb % 2 ^ f.eb
  let fr := x % 2 ^ f.mb
  if t == .e4m3 then
    (if ex = 15 && fr = 7 then .nan false
     else if ex = 0 then .fin neg fr f.qmin else .fin neg (fr + 8) (f.qmin + ((ex : Int) - 1)))
  else if ex = 2 ^ f.eb - 1 then
    (if fr = 0 then .inf neg else .nan (fr / 2 ^ (f.mb - 1) == 0))
  else if ex = 0 then .fin neg fr f.qmin
  else .fin neg (fr + 2 ^ f.mb) (f.qmin + ((ex : Int) - 1))

/-- A subnormal input reads as zero of its sign under FTZ (R207). -/
def ftzIn (t : Ty) (ftz : Bool) (v : FV) : FV :=
  if !ftz || !ftzType t then v
  else match v with
    | .fin neg m _ => if m < 2 ^ (fmtOf t).mb then .fin neg 0 0 else v
    | _ => v

/-- Bits of a number: 0 for 0. -/
def bitLen (n : Nat) : Nat := if n = 0 then 0 else Nat.log2 n + 1

/-- m × 2^(-k), rounded to an integer by a mode; the flag says inexact. -/
def roundShift (r : Rnd) (neg : Bool) (m : Nat) (k : Int) : Nat × Bool :=
  if k ≤ 0 then (m * 2 ^ (-k).toNat, false)
  else
    let k := k.toNat
    let k := min k (bitLen m + 2)
    let q := m / 2 ^ k
    let rem := m % 2 ^ k
    let half := 2 ^ (k - 1)
    let up := match r with
      | .rn => half < rem || (rem = half && q % 2 = 1)
      | .rz => false
      | .rd => neg && rem != 0
      | .ru => !neg && rem != 0
    (if up then q + 1 else q, rem != 0)

/-- A signed pattern. -/
def withSign (f : FFmt) (neg : Bool) (n : Nat) : Nat := if neg then n + f.signW else n

/-- Overflow gives infinity or the largest finite value by the direction (R211); with sat the largest finite value.
Log entry 10. -/
def overflowBits (f : FFmt) (r : Rnd) (sat neg : Bool) : Nat :=
  let toInf := match r with
    | .rn => true
    | .rz => false
    | .rd => neg
    | .ru => !neg
  withSign f neg (if toInf && !sat then f.infBits else f.infBits - 1)

/-- Round and pack a finite non-zero value (R207, R211). -/
def packFin (t : Ty) (r : Rnd) (sat ftz neg : Bool) (m : Nat) (e : Int) : Nat × Fl :=
  let f := fmtOf t
  let top : Int := e + (bitLen m : Int) - 1
  let emin : Int := 1 - (f.bias : Int)
  let q : Int := max (top - f.mb) f.qmin
  let (n, inex) := roundShift r neg m (q - e)
  let tiny := top < emin && !(top = emin - 1 && (roundShift r neg m (top - f.mb - e)).1 = 2 ^ (f.mb + 1))
  let bits := (q - f.qmin).toNat * 2 ^ f.mb + n
  let pe : Fl := if inex then flPE else 0
  let uf : Fl := if tiny && inex then flUF else 0
  if t == .e4m3 then
    (if 0x7E < bits then (withSign f neg 0x7E, flOF ||| flPE) else (withSign f neg bits, pe ||| uf))
  else if f.infBits ≤ bits then (overflowBits f r sat neg, flOF ||| flPE)
  else if ftz && ftzType t && n != 0 && n < 2 ^ f.mb then (withSign f neg 0, flUF ||| flPE)
  else (withSign f neg bits, pe ||| uf)

/-- Round and pack a value (R206, R207, R211). -/
def pack (t : Ty) (r : Rnd) (sat ftz : Bool) (v : FV) : Nat × Fl :=
  let f := fmtOf t
  match v with
  | .nan _ => (f.nan, 0)
  | .inf neg =>
    if t == .e4m3 then (withSign f neg 0x7E, flOF ||| flPE)
    else if sat then (withSign f neg (f.infBits - 1), flOF) else (withSign f neg f.infBits, 0)
  | .fin neg m e => if m = 0 then (withSign f neg 0, 0) else packFin t r sat ftz neg m e

/-- NV for a signalling NaN among the operands. -/
def nvOf (vs : List FV) : Fl := if vs.any fun v => v == .nan true then flNV else 0

def FV.isNan : FV → Bool
  | .nan _ => true
  | _ => false

/-- Exact sum (R329): the sign of an exact zero follows the mode. -/
def addFV (r : Rnd) (x y : FV) : FV × Fl :=
  match x, y with
  | .nan _, _ | _, .nan _ => (.nan false, nvOf [x, y])
  | .inf a, .inf b => if a = b then (.inf a, 0) else (.nan false, flNV)
  | .inf a, _ => (.inf a, 0)
  | _, .inf b => (.inf b, 0)
  | .fin sa ma ea, .fin sb mb eb =>
    let e := min ea eb
    let a : Int := (if sa then -1 else 1) * (ma * 2 ^ (ea - e).toNat : Nat)
    let b : Int := (if sb then -1 else 1) * (mb * 2 ^ (eb - e).toNat : Nat)
    let s := a + b
    if s = 0 then (.fin (if ma = 0 && mb = 0 && sa = sb then sa else r == .rd) 0 0, 0)
    else (.fin (s < 0) s.natAbs e, 0)

def negFV : FV → FV
  | .nan b => .nan b
  | .inf a => .inf (!a)
  | .fin s m e => .fin (!s) m e

/-- Exact product (R329). -/
def mulFV (x y : FV) : FV × Fl :=
  match x, y with
  | .nan _, _ | _, .nan _ => (.nan false, nvOf [x, y])
  | .inf a, .inf b => (.inf (a != b), 0)
  | .inf a, .fin b m _ | .fin b m _, .inf a => if m = 0 then (.nan false, flNV) else (.inf (a != b), 0)
  | .fin a m e, .fin b n k => (.fin (a != b) (m * n) (e + k), 0)

/-- Exact a × b + c (R329); 0 × ∞ sets NV whatever c is. -/
def fmaFV (r : Rnd) (x y z : FV) : FV × Fl :=
  let (p, f) := mulFV x y
  match z with
  | .nan _ => (.nan false, f ||| nvOf [x, y, z])
  | _ =>
    if p.isNan then (.nan false, f)
    else
      let (s, g) := addFV r p z
      (s, f ||| g)

/-- Order of values that are not NaN; −0 below +0 where `zeros`. -/
def ltFV (zeros : Bool) (x y : FV) : Bool :=
  match x, y with
  | .nan _, _ | _, .nan _ => false
  | .inf a, .inf b => a && !b
  | .inf a, _ => a
  | _, .inf b => !b
  | .fin sa ma ea, .fin sb mb eb =>
    let e := min ea eb
    let a : Int := (if sa then -1 else 1) * (ma * 2 ^ (ea - e).toNat : Nat)
    let b : Int := (if sb then -1 else 1) * (mb * 2 ^ (eb - e).toNat : Nat)
    a < b || (zeros && ma = 0 && mb = 0 && sa && !sb)

/-- minimumNumber or maximumNumber (R207, R330). -/
def minmaxFV (isMin : Bool) (x y : FV) : FV × Fl :=
  match x, y with
  | .nan _, .nan _ => (.nan false, nvOf [x, y])
  | .nan _, _ => (y, nvOf [x])
  | _, .nan _ => (x, nvOf [y])
  | _, _ => (if ltFV true x y == isMin then x else y, 0)

/-- Two operands of a type through an exact operation, rounded once (R207). -/
def bin (t : Ty) (r : Rnd) (ftz : Bool) (f : FV → FV → FV × Fl) (a b : Nat) : Nat × Fl :=
  let (v, g) := f (ftzIn t ftz (unpack t a)) (ftzIn t ftz (unpack t b))
  let (n, k) := pack t r false ftz v
  (n, g ||| k)

def fAdd (t : Ty) (r : Rnd) (ftz : Bool) (a b : Nat) : Nat × Fl := bin t r ftz (addFV r) a b
def fSub (t : Ty) (r : Rnd) (ftz : Bool) (a b : Nat) : Nat × Fl := bin t r ftz (fun x y => addFV r x (negFV y)) a b
def fMul (t : Ty) (r : Rnd) (ftz : Bool) (a b : Nat) : Nat × Fl := bin t r ftz mulFV a b

def fFma (t : Ty) (r : Rnd) (ftz : Bool) (a b c : Nat) : Nat × Fl :=
  let u := fun x => ftzIn t ftz (unpack t x)
  let (v, g) := fmaFV r (u a) (u b) (u c)
  let (n, k) := pack t r false ftz v
  (n, g ||| k)

/-- FMIN and FMAX round nothing. -/
def fMinMax (t : Ty) (isMin ftz : Bool) (a b : Nat) : Nat × Fl := bin t .rn ftz (minmaxFV isMin) a b

/-- The integral value of a rounding mode (R331); no flag but NV. -/
def fRnd (r : Rnd) (ftz : Bool) (a : Nat) : Nat × Fl :=
  let v := ftzIn .f32 ftz (unpack .f32 a)
  match v with
  | .fin s m e =>
    if 0 ≤ e then ((pack .f32 .rn false ftz v).1, 0)
    else ((pack .f32 .rn false ftz (.fin s (roundShift r s m (-e)).1 0)).1, 0)
  | _ => ((pack .f32 .rn false ftz v).1, nvOf [v])

/-- a × 2^n, rounded (R331). -/
def fScale (r : Rnd) (ftz : Bool) (a : Nat) (n : Int) : Nat × Fl :=
  let v := ftzIn .f32 ftz (unpack .f32 a)
  let w := match v with
    | .fin s m e => .fin s m (e + n)
    | x => x
  let (k, g) := pack .f32 r false ftz w
  (k, g ||| nvOf [v])

/-- The class mask (R332). -/
def fClass (a : Nat) : Nat :=
  match unpack .f32 a with
  | .nan true => 256
  | .nan false => 512
  | .inf true => 1
  | .inf false => 128
  | .fin neg m _ =>
    if m = 0 then (if neg then 8 else 16)
    else if m < 2 ^ 23 then (if neg then 4 else 32)
    else if neg then 2 else 64

/-! ### Conversions (R211, R336, R337) -/

/-- Lowest and highest value of an integer type. -/
def intRange (t : Ty) : Int × Int :=
  if t.signed then (-(2 ^ (t.bits - 1) : Nat), ((2 ^ (t.bits - 1) : Nat) : Int) - 1) else (0, ((2 ^ t.bits : Nat) : Int) - 1)

def clampTo (t : Ty) (x : Int) : Int := max (intRange t).1 (min (intRange t).2 x)

/-- An integer of a type from bits. Log entry 10. -/
def intOf (t : Ty) (x : Nat) : Int := if t.signed then sextNat t.bits x else ((x % 2 ^ t.bits : Nat) : Int)

/-- The pattern of an integer in 64 bits. -/
def patOf (x : Int) : Nat := (BitVec.ofInt 64 x).toNat

/-- A conversion that is exact, where SAT has no effect (R211, R337). -/
def exactPair (dt st : Ty) : Bool := dt == .f32 || ((st == .e4m3 || st == .e5m2) && (dt == .f16 || dt == .bf16))

/-- Convert bits of one type to another (R211, R337): the pattern of the target in its own width, or its integer sign-
extended to 64 bits for an s type and i4. -/
def convert (dt st : Ty) (r : Rnd) (sat ftz : Bool) (x : Nat) : Nat × Fl :=
  if isFloat st then
    let v := ftzIn st ftz (unpack st x)
    if isFloat dt then
      let (n, g) := pack dt r (sat && !exactPair dt st) ftz v
      (n, g ||| nvOf [v])
    else match v with
      | .nan _ => (0, flNV)
      | .inf neg => (patOf (if neg then (intRange dt).1 else (intRange dt).2), flNV)
      | .fin neg m e =>
        let (n, inex) := roundShift r neg m (-e)
        let i : Int := if neg then -(n : Int) else n
        if clampTo dt i = i then (patOf i, if inex then flPE else 0) else (patOf (clampTo dt i), flNV)
  else
    let i := intOf st x
    if isFloat dt then
      (if i = 0 then (0, 0) else packFin dt r sat ftz (i < 0) i.natAbs 0)
    else (patOf (if sat then clampTo dt i else intOf dt (patOf i)), 0)

/-! ### Blocks of four-bit codes (R212 to R214, R339, R340) -/

/-- A decoded code before scaling, in eighths (R213). -/
def b4Eighths (ty code : Nat) : Int :=
  let c := code % 8
  if ty = 0 then 8 * sextNat 4 code
  else if c = 0 then 0
  else
    let m : Nat := match ty with
      | 1 => if c / 2 = 0 then 4 else (2 + c % 2) * 2 ^ (c / 2 - 1) * 4
      | 2 => 2 ^ (c - 1)
      | _ => if c < 4 then 8 * c else 8 * ((2 + c % 2) * 2 ^ (1 + c / 2 % 2))
    if code / 8 % 2 = 1 then -(m : Int) else m

/-- decode_b4 (R213). -/
def decodeB4 (code sb : Nat) : FV :=
  let v := b4Eighths (sb / 64 % 4) (code % 16)
  .fin (v < 0) v.natAbs ((sb % 64 : Nat) - 31 - 3)

/-- The largest decoded magnitude of a type (R214). -/
def b4Lim (ty : Nat) : Nat :=
  match ty with
  | 0 => 7 | 1 => 6 | 2 => 8 | _ => 12

/-- |a| ≤ n × 2^k for a finite or infinite value. -/
def absLe (v : FV) (n : Nat) (k : Int) : Bool :=
  match v with
  | .nan _ => true
  | .inf _ => false
  | .fin _ m e =>
    let lo := min e k
    m * 2 ^ (e - lo).toNat ≤ n * 2 ^ (k - lo).toNat

/-- Magnitude order of values that are not NaN. -/
def absLt (a b : FV) : Bool :=
  match a, b with
  | .nan _, _ | _, .nan _ => false
  | .inf _, _ => false
  | _, .inf _ => true
  | .fin _ m e, .fin _ n k => ltFV false (.fin false m e) (.fin false n k)

/-- The largest magnitude over values that are not NaN; zero where there is none. -/
def maxAbs (vs : List FV) : FV :=
  vs.foldl (fun acc v => if v.isNan then acc else if absLt acc v then v else acc) (.fin false 0 0)

def FV.isZero : FV → Bool
  | .fin _ m _ => m == 0
  | _ => false

/-- The exponent of a block (R214): the smallest e with mx ≤ lim × 2^(e - 31), else 63. -/
def blockExp (ty : Nat) (mx : FV) : Nat :=
  if mx.isZero then 0
  else ((List.range 64).find? fun (e : Nat) => absLe mx (b4Lim ty) ((e : Int) - 31)).getD 63

/-- Distance of |y| in units of 2^lo from a magnitude of eighths. -/
def b4Dist (m : Nat) (lo : Int) (e : Int) (n8 : Nat) : Nat :=
  let a : Int := (m * 2 ^ (e - lo).toNat : Nat)
  let b : Int := (n8 * 2 ^ (-3 - lo).toNat : Nat)
  (a - b).natAbs

/-- The code of an element scaled by 2^-(E - 31), and its flags (R214): nearest magnitude, ties to an even code. -/
def b4Code (ty ex : Nat) (x : FV) : Nat × Fl :=
  match x with
  | .nan _ => (0, flNV)
  | .inf neg => (if ty = 0 then (if neg then 9 else 7) else if neg then 15 else 7, flOF ||| flPE)
  | .fin neg m e =>
    let e := e - ((ex : Int) - 31)
    let lo := min e (-3)
    let mags := (List.range 8).map fun c => (c, (b4Eighths ty c).natAbs)
    let best := mags.foldl (fun (acc : Nat × Nat) p =>
      let d := b4Dist m lo e p.2
      let da := b4Dist m lo e acc.2
      if d < da || (d = da && p.1 % 2 = 0 && acc.1 % 2 = 1) then p else acc) (0, 0)
    let past := !absLe (.fin neg m e) (b4Lim ty) 0
    let exact := b4Dist m lo e best.2 = 0
    let fl : Fl := (if past then flOF else 0) ||| (if exact then 0 else flPE)
    let c := best.1
    (if c = 0 then 0 else if !neg then c else if ty = 0 then 16 - c else c + 8, fl)

/-! ### Special functions (R342, R343) -/

/-- Integer square root of `n` with `k` further bits of search, by bits. -/
def isqrtGo (n : Nat) : Nat → Nat → Nat
  | 0, r => r
  | k + 1, r => if (r + 2 ^ k) * (r + 2 ^ k) ≤ n then isqrtGo n k (r + 2 ^ k) else isqrtGo n k r

def isqrt (n : Nat) : Nat := isqrtGo n (bitLen n / 2 + 1) 0

/-- A value whose last bit stands for everything cut off below it. -/
def jam (q : Nat) (exact : Bool) : Nat := 2 * q + (if exact then 0 else 1)

/-- 1 / (m × 2^e) with 80 bits (R342). -/
def recip (m : Nat) (e : Int) : Nat × Int :=
  let k := bitLen m + 80
  (jam (2 ^ k / m) (2 ^ k % m = 0), -e - k - 1)

/-- √(m × 2^e) with enough bits. -/
def sqrtOf (m : Nat) (e : Int) : Nat × Int :=
  let k : Nat := if (e - 80) % 2 = 0 then 80 else 81
  let n := m * 2 ^ k
  let q := isqrt n
  (jam q (q * q = n), (e - k) / 2 - 1)

/-- FRCP (R342, R343). Log entry 10. -/
def fRcp (r : Rnd) (ftz : Bool) (a : Nat) : Nat × Fl :=
  let v := ftzIn .f32 ftz (unpack .f32 a)
  match v with
  | .nan s => (0x7FC00000, if s then flNV else 0)
  | .inf neg => (withSign (fmtOf .f32) neg 0, 0)
  | .fin neg m e =>
    if m = 0 then (withSign (fmtOf .f32) neg 0x7F800000, flDZ)
    else
      let (q, k) := recip m e
      packFin .f32 r false ftz neg q k

/-- FSQRT (R342, R343). -/
def fSqrt (r : Rnd) (ftz : Bool) (a : Nat) : Nat × Fl :=
  let v := ftzIn .f32 ftz (unpack .f32 a)
  match v with
  | .nan s => (0x7FC00000, if s then flNV else 0)
  | .inf neg => if neg then (0x7FC00000, flNV) else (0x7F800000, 0)
  | .fin neg m e =>
    if m = 0 then (withSign (fmtOf .f32) neg 0, 0)
    else if neg then (0x7FC00000, flNV)
    else
      let (q, k) := sqrtOf m e
      packFin .f32 r false ftz false q k

/-- Fixed-point numbers of 96 fraction bits. -/
def fx : Nat := 2 ^ 96
def ln2Fx : Nat := 0xb17217f7d1cf79abc9e3b398
def log2eFx : Nat := 0x171547652b82fe1777d0ffda0
/-- 2π with 320 fraction bits. -/
def twoPi320 : Nat := 0x6487ed5110b4611a62633145c06e0e68948127044533e63a0105df531d89cd9128a5043cc71a026ef

/-- Sum of the exponential series of `x` (96 fraction bits): terms from `t`, number `i` on. -/
def expGo (x : Nat) : Nat → Nat → Nat → Nat → Nat
  | 0, _, _, acc => acc
  | k + 1, i, t, acc => expGo x k (i + 1) (t * x / fx / i) (acc + t)

/-- 2^f for f in [0, 1), 96 fraction bits. -/
def exp2Fx (f : Nat) : Nat := expGo (f * ln2Fx / fx) 40 1 fx 0

/-- Alternating series of sine (from t = x, i = 2) or cosine (from t = 1, i = 1). -/
def trigGo (x2 : Nat) : Nat → Nat → Nat → Bool → Int → Int
  | 0, _, _, _, acc => acc
  | k + 1, i, t, neg, acc => trigGo x2 k (i + 2) (t * x2 / fx / (i * (i + 1))) (!neg) (if neg then acc - t else acc + t)

/-- Fraction bits of log2 of `m` in [1, 2): repeated squaring. -/
def log2Go : Nat → Nat → Nat → Nat
  | 0, _, acc => acc
  | k + 1, m, acc =>
    let s := m * m / fx
    if 2 * fx ≤ s then log2Go k (s / 2) (2 * acc + 1) else log2Go k s (2 * acc)

/-- A finite value in units of 2^-320. -/
def scaled320 (m : Nat) (e : Int) : Nat := if 0 ≤ e + 320 then m * 2 ^ (e + 320).toNat else m / 2 ^ (-(e + 320)).toNat

/-- A close approximation of a special function of a finite non-zero argument, in units of 2^-320: 1 FEXP2, 2 FLOG2,
3 FSIN, 4 FCOS, 5 FTANH. -/
def specialReal (k : Nat) (neg : Bool) (m : Nat) (e : Int) : Int :=
  let a320 := scaled320 m e
  let sg : Int := if neg then -1 else 1
  match k with
  | 1 =>
    let x : Int := sg * a320
    let i := x / (2 ^ 320 : Nat)
    let f := (x % (2 ^ 320 : Nat)).toNat / 2 ^ 224
    let p := exp2Fx f
    if i < -400 then 0
    else if 0 ≤ i + 224 then ((p * 2 ^ (min (i + 224) 400).toNat : Nat) : Int) else ((p / 2 ^ (-(i + 224)).toNat : Nat) : Int)
  | 2 =>
    let top : Int := e + (bitLen m : Int) - 1
    let mant := m * 2 ^ 96 / 2 ^ (bitLen m - 1)
    let fr := log2Go 80 mant 0
    top * (2 ^ 320 : Nat) + (fr * 2 ^ 240 : Nat)
  | 3 | 4 =>
    let x := a320 % twoPi320 / 2 ^ 224
    let x2 := x * x / fx
    let y : Int := if k = 3 then sg * trigGo x2 40 2 x false 0 else trigGo x2 40 1 fx false 0
    y * (2 ^ 224 : Nat)
  | _ =>
    let a := a320 / 2 ^ 224
    let y : Nat :=
      if 24 * fx ≤ a then fx
      else
        let u := 2 * a * log2eFx / fx
        let p := exp2Fx (u % fx) * 2 ^ (u / fx)
        fx - 2 * fx * fx / (p + fx)
    sg * (y * 2 ^ 224 : Nat)

/-- Twice a unit in the last place of a value given in units of 2^-320. Log entry 22. -/
def twoUlp (x : Nat) : Nat :=
  let top : Int := (bitLen x : Int) - 1 - 320
  2 ^ (max top (-126) - 23 + 1 + 320).toNat

/-- A result is within the bound of R342. Log entry 22. -/
def specialOk320 (k : Nat) (x : Int) (w : Word) : Bool :=
  match unpack .f32 w.toNat with
  | .fin neg m e =>
    let y : Int := (if neg then -1 else 1) * scaled320 m e
    let d := (y - x).natAbs
    let one := 2 ^ 320
    if k = 1 || (k = 2 && !(x.natAbs ≤ one)) then d ≤ twoUlp x.natAbs else d ≤ 2 ^ 298
  | _ => false

/-- The exact cases of R342: an integral argument of FEXP2 from −149 to 127, a power of two for FLOG2.
Log entries 10 and 22. -/
def specialExact (k : Nat) (neg : Bool) (m : Nat) (e : Int) : Option (Nat × Fl) :=
  let (low, rem) := if 0 ≤ e then (m * 2 ^ (min e 40).toNat, 0) else (m / 2 ^ (-e).toNat, m % 2 ^ (-e).toNat)
  match k with
  | 1 =>
    if rem = 0 && (if neg then low ≤ 149 else low ≤ 127) then
      some (packFin .f32 .rn false false false 1 (if neg then -(low : Int) else low))
    else none
  | 2 =>
    if m = 2 ^ (bitLen m - 1) then
      let n : Int := e + (bitLen m : Int) - 1
      some (if n = 0 then (0, 0) else packFin .f32 .rn false false (n < 0) n.natAbs 0)
    else none
  | _ => none

/-- Flags and flushing of an inexact result of R342. -/
def specialFlags (ftz exact : Bool) (w : Nat) : Nat × Fl :=
  let mag := w % 2 ^ 31
  if mag = 0 then (w, 0)
  else if mag < 2 ^ 23 then
    (if ftz then (w - mag, flUF ||| flPE) else if exact then (w, 0) else (w, flUF ||| flPE))
  else (w, if exact then 0 else flPE)

/-- FRSQ, one of the two values around the exact result: the stepping's candidate picks (R342). Log entry 22. -/
def fRsq (ftz : Bool) (a : Nat) : Nat × Fl :=
  let v := ftzIn .f32 ftz (unpack .f32 a)
  match v with
  | .nan s => (0x7FC00000, if s then flNV else 0)
  | .inf neg => if neg then (0x7FC00000, flNV) else (0, 0)
  | .fin neg m e =>
    if m = 0 then (withSign (fmtOf .f32) neg 0x7F800000, flDZ)
    else if neg then (0x7FC00000, flNV)
    else
      let (q, k) := sqrtOf m e
      let (p, j) := recip q k
      let top : Int := e + (bitLen m : Int) - 1
      if m = 2 ^ (bitLen m - 1) && top % 2 = 0 then ((packFin .f32 .rn false false false 1 (-(top / 2))).1, 0)
      else
        let r : Rnd := if (Config.specialFn 0 (BitVec.ofNat 32 a)).getLsbD 0 then .ru else .rz
        specialFlags ftz false (packFin .f32 r false false false p j).1

/-- FEXP2, FLOG2, FSIN, FCOS and FTANH (R342, R343): the stepping's candidate where the bound admits it, else the nearest
value. Log entry 22. -/
def fSpecial (k : Nat) (ftz : Bool) (a : Nat) : Nat × Fl :=
  let v := ftzIn .f32 ftz (unpack .f32 a)
  let nv : Nat × Fl := (0x7FC00000, flNV)
  match v with
  | .nan s => (0x7FC00000, if s then flNV else 0)
  | .inf neg =>
    match k with
    | 1 => (if neg then 0 else 0x7F800000, 0)
    | 2 => if neg then nv else (0x7F800000, 0)
    | 3 | 4 => nv
    | _ => (if neg then 0xBF800000 else 0x3F800000, 0)
  | .fin neg m e =>
    if m = 0 then
      match k with
      | 1 | 4 => (0x3F800000, 0)
      | 2 => (0xFF800000, flDZ)
      | _ => (withSign (fmtOf .f32) neg 0, 0)
    else if k = 2 && neg then nv
    else if k = 1 && !neg && 128 * 2 ^ 320 ≤ scaled320 m e then (0x7F800000, flOF ||| flPE)
    else match specialExact k neg m e with
      | some x => specialFlags ftz true x.1
      | none =>
        let x := specialReal k neg m e
        let c := Config.specialFn k (BitVec.ofNat 32 a)
        let w := if specialOk320 k x c then c.toNat
          else if x = 0 then 0 else (packFin .f32 .rn false false (x < 0) x.natAbs (-320)).1
        specialFlags ftz false w

end Sys2Proof.Machine
end

