-- ==== Sys2Proof/Decode.lean ====
section
/-! DEFINITION. The decoder, total on any bytes, and the encoder (R264 to R276, R280, R286, R314, R321, R328, R334, R341,
R348, R381). A word of a class it does not admit is rejected by name; every rejection traps with RESERVED_FIELD (R275). -/

namespace Sys2Proof

/-- Why a word is no well-formed instruction. Each traps with RESERVED_FIELD (R265 to R274, R275). -/
inductive DecodeError where
  /-- Fewer than twelve bytes were given. -/
  | truncated
  /-- A field that the format does not use is not zero (R264). -/
  | unusedField
  /-- An operand class or kind that the position does not accept (R266). -/
  | operandClass
  /-- TYPE is 15 (R269). -/
  | badType
  /-- A modifier code that the instruction does not list (R280). -/
  | badModifier
  /-- A range, type, register or flag that the instruction does not accept (`Instr.wf`). -/
  | illFormed
  /-- The opcode has no format; the caller has excluded it. -/
  | noFormat
deriving DecidableEq, Repr

/-- The fields of a word (R264). -/
structure Fields where
  op    : BitVec 10
  guard : BitVec 4
  d     : BitVec 10
  a     : BitVec 10
  b     : BitVec 10
  cd    : BitVec 2
  ca    : BitVec 2
  cb    : BitVec 2
  c     : BitVec 10
  mod   : BitVec 12
  fe    : BitVec 3
  sp    : BitVec 1
  dist  : BitVec 4
  wait  : BitVec 12
  set   : BitVec 4
deriving DecidableEq, Repr

/-- The fields of a word. -/
def Fields.ofWord (w : IWord) : Fields :=
  { op := w.extractLsb' 86 10, guard := w.extractLsb' 82 4, d := w.extractLsb' 72 10, a := w.extractLsb' 62 10,
    b := w.extractLsb' 52 10, cd := w.extractLsb' 50 2, ca := w.extractLsb' 48 2, cb := w.extractLsb' 46 2,
    c := w.extractLsb' 36 10, mod := w.extractLsb' 24 12, fe := w.extractLsb' 21 3, sp := w.extractLsb' 20 1,
    dist := w.extractLsb' 16 4, wait := w.extractLsb' 4 12, set := w.extractLsb' 0 4 }

/-- The word of some fields. -/
def Fields.toWord (f : Fields) : IWord :=
  (f.op ++ f.guard ++ f.d ++ f.a ++ f.b ++ f.cd ++ f.ca ++ f.cb ++ f.c ++ f.mod ++ f.fe ++ f.sp ++ f.dist ++ f.wait
    ++ f.set : BitVec 96)

/-- The part of the fields that every format has. -/
def Fields.hdr (f : Fields) : Hdr :=
  { guard := f.guard, fe := f.fe, sp := f.sp == 1, dist := f.dist, wait := f.wait, set := f.set }

def Ty.ofCode (n : BitVec 4) : Option Ty :=
  match n.toNat with
  | 0 => some .s32 | 1 => some .z32 | 2 => some .s64 | 3 => some .z64 | 4 => some .f32
  | 5 => some .f16 | 6 => some .bf16 | 7 => some .e4m3 | 8 => some .e5m2 | 9 => some .s8
  | 10 => some .z8 | 11 => some .s16 | 12 => some .z16 | 13 => some .i4 | 14 => some .b4
  | _ => none

def Ty.code : Ty → BitVec 4
  | .s32 => 0 | .z32 => 1 | .s64 => 2 | .z64 => 3 | .f32 => 4 | .f16 => 5 | .bf16 => 6 | .e4m3 => 7
  | .e5m2 => 8 | .s8 => 9 | .z8 => 10 | .s16 => 11 | .z16 => 12 | .i4 => 13 | .b4 => 14

def Rnd.ofCode (n : BitVec 2) : Rnd :=
  match n.toNat with
  | 0 => .rn | 1 => .rz | 2 => .rd | _ => .ru

def Rnd.code : Rnd → BitVec 2
  | .rn => 0 | .rz => 1 | .rd => 2 | .ru => 3

def Scope.ofCode (n : BitVec 2) : Scope :=
  match n.toNat with
  | 0 => .core | 1 => .clu | 2 => .dev | _ => .sys

def Scope.code : Scope → BitVec 2
  | .core => 0 | .clu => 1 | .dev => 2 | .sys => 3

def Ord.ofCode (n : BitVec 2) : Ord :=
  match n.toNat with
  | 0 => .plain | 1 => .acq | 2 => .rel | _ => .acqrel

def Ord.code : Ord → BitVec 2
  | .plain => 0 | .acq => 1 | .rel => 2 | .acqrel => 3

def Cmp.ofCode (n : BitVec 3) : Cmp :=
  match n.toNat with
  | 0 => .eq | 1 => .ne | 2 => .lt | 3 => .le | 4 => .gt | 5 => .ge | 6 => .num | _ => .nan

def Cmp.code : Cmp → BitVec 3
  | .eq => 0 | .ne => 1 | .lt => 2 | .le => 3 | .gt => 4 | .ge => 5 | .num => 6 | .nan => 7

def AtomOp.ofCode (n : BitVec 4) : Option AtomOp :=
  match n.toNat with
  | 0 => some .add | 1 => some .min | 2 => some .max | 3 => some .and | 4 => some .or | 5 => some .xor
  | 6 => some .exch | 7 => some .cas | 8 => some .inc | 9 => some .dec | _ => none

def AtomOp.code : AtomOp → BitVec 4
  | .add => 0 | .min => 1 | .max => 2 | .and => 3 | .or => 4 | .xor => 5 | .exch => 6 | .cas => 7 | .inc => 8 | .dec => 9

def RedOp.ofCode (n : BitVec 3) : Option RedOp :=
  match n.toNat with
  | 0 => some .add | 1 => some .min | 2 => some .max | 3 => some .and | 4 => some .or | 5 => some .xor | _ => none

def RedOp.code : RedOp → BitVec 3
  | .add => 0 | .min => 1 | .max => 2 | .and => 3 | .or => 4 | .xor => 5

def PlogOp.ofCode (n : BitVec 3) : Option PlogOp :=
  match n.toNat with
  | 0 => some .and | 1 => some .or | 2 => some .xor | _ => none

def PlogOp.code : PlogOp → BitVec 3
  | .and => 0 | .or => 1 | .xor => 2

def PollMode.ofCode (n : BitVec 3) : Option PollMode :=
  match n.toNat with
  | 0 => Option.some .all | 1 => Option.some .some | 2 => Option.some .same | 3 => Option.some .mask | _ => none

def PollMode.code : PollMode → BitVec 3
  | .all => 0 | .some => 1 | .same => 2 | .mask => 3

def LxMode.ofCode (n : BitVec 3) : Option LxMode :=
  match n.toNat with
  | 0 => some .get | 1 => some .fwd | 2 => some .back | 3 => some .xor | _ => none

def LxMode.code : LxMode → BitVec 3
  | .get => 0 | .fwd => 1 | .back => 2 | .xor => 3

def BlkTy.ofCode (n : BitVec 3) : Option BlkTy :=
  match n.toNat with
  | 0 => some .int | 1 => some .e2m1 | 2 => some .pow2 | 3 => some .hybrid | _ => none

def BlkTy.code : BlkTy → BitVec 3
  | .int => 0 | .e2m1 => 1 | .pow2 => 2 | .hybrid => 3

def CctlOp.ofCode (n : BitVec 3) : Option CctlOp :=
  match n.toNat with
  | 0 => some .wb | 1 => some .inv | 2 => some .wbinv | _ => none

def CctlOp.code : CctlOp → BitVec 3
  | .wb => 0 | .inv => 1 | .wbinv => 2

/-- MOD of the common layout (R269). -/
def modOf (t : BitVec 4) (r : BitVec 2) (sat : BitVec 1) (sc : BitVec 2) (opx : BitVec 3) : BitVec 12 :=
  t ++ r ++ sat ++ sc ++ opx

def mTy (m : BitVec 12) : BitVec 4 := m.extractLsb' 8 4
def mRnd (m : BitVec 12) : BitVec 2 := m.extractLsb' 6 2
def mSat (m : BitVec 12) : BitVec 1 := m.extractLsb' 5 1
def mScope (m : BitVec 12) : BitVec 2 := m.extractLsb' 3 2
def mOpx (m : BitVec 12) : BitVec 3 := m.extractLsb' 0 3
/-- The atomic operation of MOD (R274): MOD[7:5], MOD[2]. -/
def mAtom (m : BitVec 12) : BitVec 4 := m.extractLsb' 5 3 ++ m.extractLsb' 2 1

/-- MOD of an atomic instruction (R274). -/
def modAtom (t : BitVec 4) (op : BitVec 4) (sc : BitVec 2) (o : BitVec 2) : BitVec 12 :=
  t ++ op.extractLsb' 1 3 ++ sc ++ op.extractLsb' 0 1 ++ o

/-- A result, or the name of what is wrong with the word. -/
abbrev Dec := Except DecodeError

/-- Demand a condition. -/
def need (b : Bool) (e : DecodeError) : Dec Unit := if b then .ok () else .error e

/-- An Option as a decoding step. -/
def get? {α : Type} (x : Option α) (e : DecodeError) : Dec α :=
  match x with
  | some a => .ok a
  | none => .error e

/-- TYPE of MOD (R269). -/
def dTy (f : Fields) : Dec Ty := get? (Ty.ofCode (mTy f.mod)) .badType

/-- The MOD fields that an instruction reads; the others are zero (R269). -/
structure ModUse where
  ty : Bool := false
  rnd : Bool := false
  sat : Bool := false
  sc : Bool := false
  opx : Bool := false

/-- Every MOD field that is not read is zero. -/
def dMod (f : Fields) (u : ModUse) : Dec Unit :=
  need ((u.ty || mTy f.mod == 0) && (u.rnd || mRnd f.mod == 0) && (u.sat || mSat f.mod == 0)
    && (u.sc || mScope f.mod == 0) && (u.opx || mOpx f.mod == 0)) .unusedField

def noD (f : Fields) : Dec Unit := need (f.d == 0 && f.cd == 0) .unusedField
def noA (f : Fields) : Dec Unit := need (f.a == 0 && f.ca == 0) .unusedField
def noB (f : Fields) : Dec Unit := need (f.b == 0 && f.cb == 0) .unusedField
def noC (f : Fields) : Dec Unit := need (f.c == 0) .unusedField

/-- A v or s register of an operand position (R266). -/
def dReg (cls : BitVec 2) (x : BitVec 10) : Dec Reg :=
  match cls.toNat with
  | 0 => .ok (.v x)
  | 1 => if x.extractLsb' 6 4 == 0 then .ok (.s (x.extractLsb' 0 6)) else .error .unusedField
  | _ => .error .operandClass

def eReg : Reg → BitVec 2 × BitVec 10
  | .v n => (0, n)
  | .s n => (1, 0#4 ++ n)

/-- Any source of class 00, 01, q or 11 (R266). -/
def dSrc (cls : BitVec 2) (x : BitVec 10) : Dec Src :=
  match cls.toNat with
  | 0 => .ok (.v x)
  | 1 => if x.extractLsb' 6 4 == 0 then .ok (.s (x.extractLsb' 0 6)) else .error .unusedField
  | 2 => if x.extractLsb' 2 8 == 0x80 then .ok (.q (x.extractLsb' 0 2)) else .error .operandClass
  | _ => .ok (.imm x)

def eSrc : Src → BitVec 2 × BitVec 10
  | .v n => (0, n)
  | .s n => (1, 0#4 ++ n)
  | .q n => (2, 0x80#8 ++ n)
  | .imm n => (3, n)

/-- An s register or an immediate. -/
def dSImm (cls : BitVec 2) (x : BitVec 10) : Dec SImm :=
  match cls.toNat with
  | 1 => if x.extractLsb' 6 4 == 0 then .ok (.s (x.extractLsb' 0 6)) else .error .unusedField
  | 3 => .ok (.imm x)
  | _ => .error .operandClass

def eSImm : SImm → BitVec 2 × BitVec 10
  | .s n => (1, 0#4 ++ n)
  | .imm n => (3, n)

/-- A v register position. -/
def dV (cls : BitVec 2) (x : BitVec 10) : Dec (BitVec 10) := if cls == 0 then .ok x else .error .operandClass

/-- An s register position. -/
def dS (cls : BitVec 2) (x : BitVec 10) : Dec (BitVec 6) :=
  if cls == 1 then (if x.extractLsb' 6 4 == 0 then .ok (x.extractLsb' 0 6) else .error .unusedField)
  else .error .operandClass

/-- A p register (class 10, kind 00). -/
def dP (cls : BitVec 2) (x : BitVec 10) : Dec (BitVec 3) :=
  if cls == 2 then (if x.extractLsb' 3 7 == 0 then .ok (x.extractLsb' 0 3) else .error .operandClass)
  else .error .operandClass

/-- A j register (class 10, kind 01). -/
def dJ (cls : BitVec 2) (x : BitVec 10) : Dec (BitVec 3) :=
  if cls == 2 then (if x.extractLsb' 3 7 == 0x20 then .ok (x.extractLsb' 0 3) else .error .operandClass)
  else .error .operandClass

/-- A q register (class 10, kind 10). -/
def dQ (cls : BitVec 2) (x : BitVec 10) : Dec (BitVec 2) :=
  if cls == 2 then (if x.extractLsb' 2 8 == 0x80 then .ok (x.extractLsb' 0 2) else .error .operandClass)
  else .error .operandClass

/-- An immediate or special target of `n` low bits, the rest zero (class 11). -/
def dI (n : Nat) (cls : BitVec 2) (x : BitVec 10) : Dec (BitVec n) :=
  if cls == 3 then (if x.toNat < 2 ^ n then .ok (x.setWidth n) else .error .illFormed) else .error .operandClass

/-- A predicate in C[2:0], the rest of C zero. -/
def dCP (f : Fields) : Dec (BitVec 3) :=
  if f.c.extractLsb' 3 7 == 0 then .ok (f.c.extractLsb' 0 3) else .error .unusedField

/-- The 32-bit value of the wide format (R272). -/
def Fields.wide (f : Fields) : BitVec 32 := f.a.extractLsb' 0 6 ++ f.b ++ f.cd ++ f.ca ++ f.cb ++ f.c

/-- The memory format (R273): base in A, offset in B, displacement in A[9:6] and C[8:3]. -/
def dMem (f : Fields) : Dec MemRef := do
  need (f.ca == 1 && f.cb == 0 && f.c.extractLsb' 9 1 == 0) .operandClass
  .ok { base := f.a.extractLsb' 0 6, off := f.b, disp := f.a.extractLsb' 6 4 ++ f.c.extractLsb' 3 6, pk := f.c.extractLsb' 0 3 }

/-- The memory format without a residency predicate: C[2:0] = 7 (R348). -/
def dMem7 (f : Fields) : Dec MemRef := do
  let m ← dMem f
  need (m.pk == 7) .unusedField
  .ok m

/-- Plain forms `d, a, b` of one type. -/
def dABT (f : Fields) (u : ModUse) : Dec (Ty × Reg × Src × Src) := do
  dMod f u; noC f
  .ok (← dTy f, ← dReg f.cd f.d, ← dSrc f.ca f.a, ← dSrc f.cb f.b)

/-- Forms `d, a, b, vc`. -/
def dABCT (f : Fields) (u : ModUse) : Dec (Ty × Reg × Src × Src × BitVec 10) := do
  dMod f u
  .ok (← dTy f, ← dReg f.cd f.d, ← dSrc f.ca f.a, ← dSrc f.cb f.b, f.c)

/-- Forms `d, a`. -/
def dAT (f : Fields) (u : ModUse) : Dec (Ty × Reg × Src) := do
  dMod f u; noB f; noC f
  .ok (← dTy f, ← dReg f.cd f.d, ← dSrc f.ca f.a)

def Fields.sat (f : Fields) : Bool := mSat f.mod == 1
def Fields.rnd (f : Fields) : Rnd := Rnd.ofCode (mRnd f.mod)
def Fields.scope (f : Fields) : Scope := Scope.ofCode (mScope f.mod)
def Fields.ord (f : Fields) : Ord := Ord.ofCode ((mOpx f.mod).extractLsb' 0 2)
def Fields.strong (f : Fields) : Bool := (mOpx f.mod).extractLsb' 2 1 == 1

/-- TYPE must be f32 (R328, R341). -/
def needF32 (f : Fields) : Dec Unit := need (mTy f.mod == 4) .badType

/-- TYPE must be b4 (R334). -/
def needB4 (f : Fields) : Dec Unit := need (mTy f.mod == 14) .badType

/-- Class 0x0 (R286). -/
def dClass0 (f : Fields) : Dec Instr := do
  let h := f.hdr
  match f.op.toNat % 64 with
  | 0 => dMod f {}; noD f; noA f; noB f; noC f; .ok (.nop h)
  | 1 => need (f.d == 0 && f.a.extractLsb' 6 4 == 0 && f.mod == 0) .unusedField; .ok (.bra h f.wide)
  | 2 => dMod f {}; noD f; noB f; noC f; .ok (.brx h (← dReg f.ca f.a))
  | 3 => need (f.d == 0 && f.a.extractLsb' 6 4 == 0 && f.mod == 0) .unusedField; .ok (.call h f.wide)
  | 4 => dMod f {}; noD f; noB f; noC f; .ok (.ret h (← dReg f.ca f.a))
  | 5 => dMod f {}; noD f; noA f; noB f; noC f; .ok (.exit h)
  | 6 => dMod f {}; noA f; noB f; noC f; .ok (.rjset h (← dJ f.cd f.d))
  | 7 => dMod f {}; noA f; noB f; noC f; .ok (.rjoin h (← dJ f.cd f.d))
  | 8 => dMod f {}; noA f; noB f; noC f; .ok (.rjclr h (← dJ f.cd f.d))
  | 9 => dMod f {}; noD f; noB f; noC f; .ok (.yield h (← dI 10 f.ca f.a))
  | 10 => dMod f {}; noD f; noA f; noB f; noC f; .ok (.waitf h)
  | 11 => dMod f {}; noD f; noB f; noC f; .ok (.trap h (← dSImm f.ca f.a))
  | 12 => dMod f {}; noD f; noA f; noB f; noC f; .ok (.bkpt h)
  | 13 => dMod f {}; noD f; noB f; noC f; .ok (.uivec h (← dSImm f.ca f.a))
  | 14 => dMod f {}; noD f; noA f; noB f; noC f; .ok (.uiret h)
  | _ => .error .noFormat

/-- Class 0x1 (R314). -/
def dClass1 (f : Fields) : Dec Instr := do
  let h := f.hdr
  let ts : ModUse := { ty := true, sat := true }
  let ty : ModUse := { ty := true }
  match f.op.toNat % 64 with
  | 0 => let (t, d, a, b) ← dABT f ts; .ok (.iadd h t f.sat d a b)
  | 1 => let (t, d, a, b) ← dABT f ts; .ok (.isub h t f.sat d a b)
  | 2 => dMod f ty; .ok (.iaddc h (← dTy f) (← dReg f.cd f.d) (← dSrc f.ca f.a) (← dSrc f.cb f.b) (← dCP f))
  | 3 => dMod f ty; .ok (.isubb h (← dTy f) (← dReg f.cd f.d) (← dSrc f.ca f.a) (← dSrc f.cb f.b) (← dCP f))
  | 4 => let (t, d, a, b) ← dABT f ts; .ok (.imul h t f.sat d a b)
  | 5 => let (t, d, a, b) ← dABT f ty; .ok (.imulh h t d a b)
  | 6 => let (t, d, a, b, c) ← dABCT f ts; .ok (.imad h t f.sat d a b c)
  | 7 => let (t, d, a, b) ← dABT f ty; .ok (.idiv h t d a b)
  | 8 => let (t, d, a, b) ← dABT f ty; .ok (.irem h t d a b)
  | 9 => let (t, d, a, b) ← dABT f ty; .ok (.imin h t d a b)
  | 10 => let (t, d, a, b) ← dABT f ty; .ok (.imax h t d a b)
  | 11 => let (t, d, a) ← dAT f ts; .ok (.iabs h t f.sat d a)
  | 12 => let (t, d, a) ← dAT f ts; .ok (.ineg h t f.sat d a)
  | 13 => let (t, d, a, b, c) ← dABCT f ts; .ok (.idp4 h t f.sat d a b c)
  | 14 => let (t, d, a, b, c) ← dABCT f ts; .ok (.idp2 h t f.sat d a b c)
  | 15 => let (t, d, a, b, c) ← dABCT f ts; .ok (.iadd3 h t f.sat d a b c)
  | _ => .error .noFormat

/-- Class 0x2 (R321). -/
def dClass2 (f : Fields) : Dec Instr := do
  let h := f.hdr
  let ty : ModUse := { ty := true }
  let bm : ModUse := { ty := true, rnd := true, sat := true, sc := true, opx := true }
  match f.op.toNat % 64 with
  | 0 => let (t, d, a, b) ← dABT f ty; .ok (.and h t d a b)
  | 1 => let (t, d, a, b) ← dABT f ty; .ok (.or h t d a b)
  | 2 => let (t, d, a, b) ← dABT f ty; .ok (.xor h t d a b)
  | 3 => let (t, d, a, b) ← dABT f ty; .ok (.andn h t d a b)
  | 4 => let (t, d, a) ← dAT f ty; .ok (.not h t d a)
  | 5 => let (t, d, a, b, c) ← dABCT f bm; .ok (.bmix3 h t d a b c (f.mod.extractLsb' 0 8))
  | 6 => let (t, d, a, b) ← dABT f ty; .ok (.shl h t d a b)
  | 7 => let (t, d, a, b) ← dABT f ty; .ok (.shr h t d a b)
  | 8 => let (t, d, a, b) ← dABT f ty; .ok (.sar h t d a b)
  | 9 => let (t, d, a, b) ← dABT f ty; .ok (.rotl h t d a b)
  | 10 => let (t, d, a, b) ← dABT f ty; .ok (.rotr h t d a b)
  | 11 => let (t, d, a, b, c) ← dABCT f ty; .ok (.dshr h t d a b c)
  | 12 => let (t, d, a) ← dAT f ty; .ok (.ones h t d a)
  | 13 => let (t, d, a) ← dAT f ty; .ok (.clz h t d a)
  | 14 => let (t, d, a) ← dAT f ty; .ok (.ctz h t d a)
  | 15 => let (t, d, a) ← dAT f ty; .ok (.brev h t d a)
  | 16 => let (t, d, a, b) ← dABT f ty; .ok (.fxtr h t d a b)
  | 17 => let (t, d, a, b, c) ← dABCT f ty; .ok (.fins h t d a b c)
  | 18 => let (t, d, a, b) ← dABT f ty; .ok (.clmul h t d a b)
  | 19 => let (t, d, a, b) ← dABT f ty; .ok (.clmulh h t d a b)
  | 20 => let (t, d, a, b, c) ← dABCT f ty; need (t == .z32) .badType; .ok (.bsel h d a b c)
  | _ => .error .noFormat

/-- Class 0x3 (R328). -/
def dClass3 (f : Fields) : Dec Instr := do
  let h := f.hdr
  let ty : ModUse := { ty := true }
  let tr : ModUse := { ty := true, rnd := true }
  needF32 f
  match f.op.toNat % 64 with
  | 0 => let (_, d, a, b) ← dABT f tr; .ok (.fadd h f.rnd d a b)
  | 1 => let (_, d, a, b) ← dABT f tr; .ok (.fsub h f.rnd d a b)
  | 2 => let (_, d, a, b) ← dABT f tr; .ok (.fmul h f.rnd d a b)
  | 3 => let (_, d, a, b, c) ← dABCT f tr; .ok (.ffma h f.rnd d a b c)
  | 4 => let (_, d, a, b) ← dABT f ty; .ok (.fmin h d a b)
  | 5 => let (_, d, a, b) ← dABT f ty; .ok (.fmax h d a b)
  | 6 => let (_, d, a) ← dAT f tr; .ok (.frnd h f.rnd d a)
  | 7 => let (_, d, a, b) ← dABT f tr; .ok (.fscale h f.rnd d a b)
  | 8 => let (_, d, a) ← dAT f ty; .ok (.fclass h d a)
  | 9 => let (_, d, a) ← dAT f ty; .ok (.fabs h d a)
  | 10 => let (_, d, a) ← dAT f ty; .ok (.fneg h d a)
  | 11 => let (_, d, a, b) ← dABT f ty; .ok (.fcpys h d a b)
  | _ => .error .noFormat

/-- The source type of CVT and CVTPK (R280). -/
def dStTy (f : Fields) : Dec Ty := do
  need (f.c.extractLsb' 4 6 == 0) .unusedField
  get? (Ty.ofCode (f.c.extractLsb' 0 4)) .badType

/-- Class 0x4 (R334). -/
def dClass4 (f : Fields) : Dec Instr := do
  let h := f.hdr
  let ty : ModUse := { ty := true }
  let tr : ModUse := { ty := true, rnd := true }
  let trs : ModUse := { ty := true, rnd := true, sat := true }
  let dsts : ModUse := { ty := true, opx := true }
  match f.op.toNat % 64 with
  | 0 => let (t, d, a, b) ← dABT f tr; .ok (.hadd2 h t f.rnd d a b)
  | 1 => let (t, d, a, b) ← dABT f tr; .ok (.hmul2 h t f.rnd d a b)
  | 2 => let (t, d, a, b, c) ← dABCT f tr; .ok (.hfma2 h t f.rnd d a b c)
  | 3 => let (t, d, a, b) ← dABT f ty; .ok (.hmin2 h t d a b)
  | 4 => let (t, d, a, b) ← dABT f ty; .ok (.hmax2 h t d a b)
  | 5 => dMod f trs; noB f; .ok (.cvt h (← dTy f) (← dStTy f) f.rnd f.sat (← dReg f.cd f.d) (← dSrc f.ca f.a))
  | 6 =>
    dMod f trs
    .ok (.cvtpk h (← dTy f) (← dStTy f) f.rnd f.sat (← dReg f.cd f.d) (← dSrc f.ca f.a) (← dSrc f.cb f.b))
  | 7 =>
    needB4 f; dMod f dsts; noC f
    .ok (.qblk h (← get? (BlkTy.ofCode (mOpx f.mod)) .badModifier) (← dV f.cd f.d) (← dSrc f.ca f.a) (← dSrc f.cb f.b))
  | 8 => needB4 f; dMod f ty; noB f; noC f; .ok (.dqblk h (← dV f.cd f.d) (← dSrc f.ca f.a))
  | _ => .error .noFormat

/-- The operands of PXFR (R286, R298): two of class 00 or two of class 10 are refused. -/
def dPx (f : Fields) : Dec PxArgs :=
  if f.cd == 2 then do
    let pd ← dP f.cd f.d
    .ok (.ps pd (← dSrc f.ca f.a))
  else do
    let vd ← dV f.cd f.d
    if f.ca == 2 then .ok (.vp vd (← dP f.ca f.a)) else .ok (.vs vd (← dSImm f.ca f.a))

/-- Class 0x5 (R286). -/
def dClass5 (f : Fields) : Dec Instr := do
  let h := f.hdr
  let ty : ModUse := { ty := true }
  let dsts : ModUse := { ty := true, opx := true }
  let ox : ModUse := { opx := true }
  match f.op.toNat % 64 with
  | 0 => let (t, d, a) ← dAT f ty; .ok (.mov h t d a)
  | 1 => need (f.a.extractLsb' 6 4 == 0 && f.mod == 0) .unusedField; .ok (.movi h f.d f.wide)
  | 2 => let (t, d, a, b) ← dABT f ty; .ok (.movh h t d a b)
  | 3 => dMod f ty; .ok (.sel h (← dTy f) (← dReg f.cd f.d) (← dSrc f.ca f.a) (← dSrc f.cb f.b) (← dCP f))
  | 4 =>
    dMod f dsts; noC f
    .ok (.icmp h (← dTy f) (Cmp.ofCode (mOpx f.mod)) (← dP f.cd f.d) (← dSrc f.ca f.a) (← dSrc f.cb f.b))
  | 5 =>
    needF32 f; dMod f dsts; noC f
    .ok (.fcmp h (Cmp.ofCode (mOpx f.mod)) (← dP f.cd f.d) (← dSrc f.ca f.a) (← dSrc f.cb f.b))
  | 6 =>
    dMod f ox; noC f
    .ok (.plog h (← get? (PlogOp.ofCode (mOpx f.mod)) .badModifier) (← dP f.cd f.d) (← dP f.ca f.a) (← dP f.cb f.b))
  | 7 => dMod f {}; noB f; noC f; .ok (.pxfr h (← dPx f))
  | 8 =>
    dMod f ox; noB f; noC f
    let m ← get? (PollMode.ofCode (mOpx f.mod)) .badModifier
    if m == .mask then .ok (.poll h m (.s (← dS f.cd f.d)) (← dP f.ca f.a))
    else .ok (.poll h m (.p (← dP f.cd f.d)) (← dP f.ca f.a))
  | 9 =>
    dMod f dsts; noB f; noC f
    match (mOpx f.mod).toNat with
    | 0 => .ok (.peers h (← dTy f) (.lead (← dV f.cd f.d)) (← dSrc f.ca f.a))
    | 1 => .ok (.peers h (← dTy f) (.one (← dP f.cd f.d)) (← dSrc f.ca f.a))
    | _ => .error .badModifier
  | 10 =>
    dMod f ty; noC f
    let t ← dTy f
    need (t == .z32 || t == .z64) .badType
    .ok (.rdsys h (← dReg f.cd f.d) (t == .z64) (← dI 10 f.ca f.a) (← dI 10 f.cb f.b))
  | 11 => dMod f {}; noB f; noC f; .ok (.wrsys h (← dI 10 f.cd f.d) (← dSImm f.ca f.a))
  | _ => .error .noFormat

/-- Class 0x6 (R341). -/
def dClass6 (f : Fields) : Dec Instr := do
  let h := f.hdr
  let ty : ModUse := { ty := true }
  let tr : ModUse := { ty := true, rnd := true }
  let dsts : ModUse := { ty := true, opx := true }
  let tro : ModUse := { ty := true, rnd := true, opx := true }
  match f.op.toNat % 64 with
  | 0 => needF32 f; let (_, d, a) ← dAT f tr; .ok (.frcp h f.rnd d a)
  | 1 => needF32 f; let (_, d, a) ← dAT f ty; .ok (.frsq h d a)
  | 2 => needF32 f; let (_, d, a) ← dAT f tr; .ok (.fsqrt h f.rnd d a)
  | 3 => needF32 f; let (_, d, a) ← dAT f ty; .ok (.fexp2 h d a)
  | 4 => needF32 f; let (_, d, a) ← dAT f ty; .ok (.flog2 h d a)
  | 5 => needF32 f; let (_, d, a) ← dAT f ty; .ok (.fsin h d a)
  | 6 => needF32 f; let (_, d, a) ← dAT f ty; .ok (.fcos h d a)
  | 7 => needF32 f; let (_, d, a) ← dAT f ty; .ok (.ftanh h d a)
  | 8 =>
    dMod f dsts; noC f
    .ok (.lxch h (← dTy f) (← get? (LxMode.ofCode (mOpx f.mod)) .badModifier) (← dV f.cd f.d) (← dSrc f.ca f.a) (← dSrc f.cb f.b))
  | 9 =>
    dMod f tro; noB f; noC f
    .ok (.redux h (← dTy f) (← get? (RedOp.ofCode (mOpx f.mod)) .badModifier) f.rnd (← dReg f.cd f.d) (← dSrc f.ca f.a))
  | 10 =>
    dMod f tro; noB f; noC f
    .ok (.scan h (← dTy f) (← get? (RedOp.ofCode (mOpx f.mod)) .badModifier) f.rnd (← dV f.cd f.d) (← dSrc f.ca f.a))
  | _ => .error .noFormat

/-- A load or a store names no other order than its own (R348). -/
def dOrd1 (f : Fields) (o : Ord) : Dec Bool := do
  need (f.ord == .plain || f.ord == o) .badModifier
  .ok (f.ord == o)

/-- The data register of ATOM and ATOMS (R274): A[9:6], C[8:3]. -/
def Fields.atomX (f : Fields) : BitVec 10 := f.a.extractLsb' 6 4 ++ f.c.extractLsb' 3 6

/-- Class 0x7 (R273, R274, R348). -/
def dClass7 (f : Fields) : Dec Instr := do
  let h := f.hdr
  let ld : ModUse := { ty := true, sc := true, opx := true }
  let sp : ModUse := { ty := true, opx := true }
  let at' : ModUse := { ty := true, rnd := true, sat := true, sc := true, opx := true }
  let as' : ModUse := { ty := true, rnd := true, sat := true, opx := true }
  let pr : ModUse := { ty := true }
  match f.op.toNat % 64 with
  | 0 => dMod f ld; .ok (.ld h (← dTy f) f.strong (← dOrd1 f .acq) f.scope (← dV f.cd f.d) (← dMem f))
  | 1 => dMod f ld; .ok (.st h (← dTy f) f.strong (← dOrd1 f .rel) f.scope (← dV f.cd f.d) (← dMem f))
  | 2 => dMod f sp; let m ← dMem7 f; .ok (.lds h (← dTy f) f.strong (← dOrd1 f .acq) (← dV f.cd f.d) m.base m.off m.disp)
  | 3 => dMod f sp; let m ← dMem7 f; .ok (.sts h (← dTy f) f.strong (← dOrd1 f .rel) (← dV f.cd f.d) m.base m.off m.disp)
  | 4 =>
    dMod f at'; let m ← dMem f
    .ok (.atom h (← get? (AtomOp.ofCode (mAtom f.mod)) .badModifier) (← dTy f) f.ord f.scope (← dV f.cd f.d) m.base m.off f.atomX m.pk)
  | 5 =>
    dMod f as'; let m ← dMem7 f
    .ok (.atoms h (← get? (AtomOp.ofCode (mAtom f.mod)) .badModifier) (← dTy f) f.ord (← dV f.cd f.d) m.base m.off f.atomX)
  | 6 =>
    dMod f at'
    .ok (.red h (← get? (AtomOp.ofCode (mAtom f.mod)) .badModifier) (← dTy f) (← dOrd1 f .rel) f.scope (← dV f.cd f.d) (← dMem f))
  | 7 =>
    dMod f ld; need (f.b == 0) .unusedField; let m ← dMem f
    .ok (.ldsc h (← dTy f) f.strong (← dOrd1 f .acq) f.scope (← dS f.cd f.d) m.base m.disp m.pk)
  | 8 => dMod f pr; noD f; let m ← dMem7 f; .ok (.preq h (← dTy f) m.base m.off m.disp)
  | 9 => dMod f pr; noD f; let m ← dMem7 f; .ok (.pref h (← dTy f) m.base m.off m.disp)
  | 10 =>
    dMod f sp; noD f; let m ← dMem7 f
    .ok (.cctl h (← get? (CctlOp.ofCode (mOpx f.mod)) .badModifier) (← dTy f) m.base m.off m.disp)
  | _ => .error .noFormat

/-- OPX[0] alone, the .ui bit (R280). -/
def dUi (f : Fields) : Dec Bool := do
  need ((mOpx f.mod).toNat ≤ 1) .badModifier
  .ok (mOpx f.mod == 1)

/-- Class 0x8 (R348). -/
def dClass8 (f : Fields) : Dec Instr := do
  let h := f.hdr
  let ox : ModUse := { opx := true }
  match f.op.toNat % 64 with
  | 0 =>
    dMod f {}; noD f; noA f; noB f
    need (f.c.extractLsb' 4 6 == 0) .unusedField
    .ok (.sink h (f.c.extractLsb' 0 4))
  | 1 => dMod f {}; noA f; noB f; noC f; .ok (.srec h (← dV f.cd f.d))
  | 2 =>
    dMod f { sc := true, opx := true }; noD f; noA f; noB f; noC f
    need (!f.strong) .badModifier
    .ok (.fence h f.ord f.scope)
  | 3 => dMod f {}; noC f; .ok (.cjoin h (← dI 4 f.cd f.d) (← dSImm f.ca f.a) (← dSImm f.cb f.b))
  | 4 => dMod f {}; noA f; noB f; noC f; .ok (.cleave h (← dI 4 f.cd f.d))
  | 5 => dMod f ox; noC f; .ok (.cld h (← dUi f) (← dI 4 f.cd f.d) (← dS f.ca f.a) (← dS f.cb f.b))
  | 6 => dMod f {}; noB f; noC f; .ok (.cstat h (← dS f.cd f.d) (← dI 4 f.ca f.a))
  | _ => .error .noFormat

/-- Class 0x9 (R348). -/
def dClass9 (f : Fields) : Dec Instr := do
  let h := f.hdr
  let ox : ModUse := { opx := true }
  match f.op.toNat % 64 with
  | 0 => dMod f ox; noB f; noC f; .ok (.cpy h (← dUi f) (← dP f.cd f.d) (← dReg f.ca f.a))
  | 1 => dMod f ox; noB f; noC f; .ok (.cpyfill h (← dUi f) (← dP f.cd f.d) (← dReg f.ca f.a))
  | 2 =>
    dMod f {}; noC f
    need (f.ca == 1 && f.cb == 1 && f.b.extractLsb' 8 2 == 0) .operandClass
    .ok (.cbinit h (← dI 4 f.cd f.d) (f.a.extractLsb' 0 6) (f.b.extractLsb' 0 6) (f.a.extractLsb' 6 4 ++ f.b.extractLsb' 6 2))
  | 3 => dMod f {}; noB f; noC f; .ok (.cbacq h (← dReg f.cd f.d) (← dI 4 f.ca f.a))
  | 4 => dMod f {}; noB f; noC f; .ok (.cbrel h (← dI 4 f.cd f.d) (← dS f.ca f.a))
  | 5 => dMod f { ty := true }; noB f; noC f; .ok (.blws h (← dTy f) (← dQ f.cd f.d) (← dS f.ca f.a))
  | 6 => dMod f {}; noA f; noB f; noC f; .ok (.blwstop h (← dQ f.cd f.d))
  | 7 => dMod f {}; noC f; .ok (.qcfg h (← dQ f.cd f.d) (← dSImm f.ca f.a) (← dSImm f.cb f.b))
  | 8 => dMod f ox; noC f; .ok (.nmcpy h (← dUi f) (← dS f.cd f.d) (← dS f.ca f.a) (← dSImm f.cb f.b))
  | 9 => dMod f ox; noB f; noC f; .ok (.nmzero h (← dUi f) (← dS f.cd f.d) (← dSImm f.ca f.a))
  | _ => .error .noFormat

/-- Class 0xA (R381). -/
def dClassA (f : Fields) : Dec Instr := do
  let h := f.hdr
  let ox : ModUse := { opx := true }
  match f.op.toNat % 64 with
  | 0 => dMod f {}; noB f; noC f; .ok (.obres h (← dI 4 f.cd f.d) (← dS f.ca f.a))
  | 1 => dMod f {}; noA f; noB f; noC f; .ok (.obrel h (← dI 4 f.cd f.d))
  | 2 => dMod f ox; noD f; noC f; .ok (.scpy h (← dUi f) (← dS f.ca f.a) (← dS f.cb f.b))
  | 3 => dMod f ox; noB f; noC f; .ok (.ptld h (← dUi f) (← dI 3 f.cd f.d) (← dS f.ca f.a))
  | 4 =>
    dMod f { sat := true, opx := true }; noB f; noC f
    .ok (.mma h f.sat (← dUi f) (← dS f.ca f.a) (← dP f.cd f.d))
  | 5 => dMod f {}; noD f; noC f; .ok (.accz h (← dSImm f.ca f.a) (← dSImm f.cb f.b))
  | 6 =>
    dMod f { ty := true, opx := true }; noD f; noC f
    .ok (.accld h (← dTy f) (← dUi f) (← dS f.ca f.a) (← dS f.cb f.b))
  | 7 =>
    dMod f { ty := true, rnd := true, opx := true }; noD f; noC f
    .ok (.accst h (← dTy f) f.rnd (← dUi f) (← dS f.ca f.a) (← dS f.cb f.b))
  | 8 =>
    dMod f ox; noA f; noB f; noC f
    match (mOpx f.mod).toNat with
    | 0 => noD f; .ok (.batonTake h)
    | 1 => noD f; .ok (.batonPass h)
    | 2 => .ok (.batonQuery h (← dS f.cd f.d))
    | _ => .error .badModifier
  | _ => .error .noFormat

/-- Class 0xB (R286). -/
def dClassB (f : Fields) : Dec Instr := do
  let h := f.hdr
  match f.op.toNat % 64 with
  | 0 => dMod f { sc := true }; noD f; noA f; noB f; noC f; .ok (.bar h f.scope)
  | 1 => dMod f {}; noD f; noB f; noC f; .ok (.phase h (← dSImm f.ca f.a))
  | 2 => dMod f {}; noD f; noB f; noC f; .ok (.signal h (← dSImm f.ca f.a))
  | 3 =>
    dMod f {}; noD f
    let sa ← dS f.ca f.a
    let pk ← dCP f
    match (← dI 10 f.cb f.b).toNat with
    | 0 => .ok (.spawnTask h sa pk)
    | 1 => .ok (.spawnGrid h sa pk)
    | 2 => .ok (.spawnGraph h sa pk)
    | _ => .error .illFormed
  | 4 => dMod f {}; noD f; noC f; .ok (.amsg h (← dS f.ca f.a) (← dV f.cb f.b))
  | 5 => needTyZ64; noB f; noC f; .ok (.tnow h (← dReg f.cd f.d) (← dSImm f.ca f.a))
  | 6 => dMod f {}; noD f; noB f; noC f; .ok (.twait h (← dS f.ca f.a))
  | 7 => dMod f {}; noD f; noB f; noC f; .ok (.gwnote h (← dS f.ca f.a))
  | _ => .error .noFormat
where
  needTyZ64 : Dec Unit := do
    dMod f { ty := true }
    need (mTy f.mod == 3) .badType

/-- Class 0xC (R381). -/
def dClassC (f : Fields) : Dec Instr := do
  let h := f.hdr
  match f.op.toNat % 64 with
  | 0 =>
    need (f.c.extractLsb' 5 5 == 0) .unusedField
    .ok (.apxb h (← dSImm f.cb f.b) (← dV f.ca f.a) (f.c.extractLsb' 0 3) (← dV f.cd f.d) (f.c.extractLsb' 3 2) f.mod)
  | 1 => dMod f {}; noD f; noA f; noB f; noC f; .ok (.apxe h)
  | 2 => dMod f {}; noD f; noC f; .ok (.ftcfg h (← dSImm f.ca f.a) (← dS f.cb f.b))
  | 3 => dMod f {}; noD f; noB f; noC f; .ok (.ftinv h (← dSImm f.ca f.a))
  | 4 => dMod f {}; noB f; noC f; .ok (.ftstat h (← dS f.cd f.d) (← dSImm f.ca f.a))
  | _ => .error .noFormat

/-- Class 0xD (R381). -/
def dClassD (f : Fields) : Dec Instr := do
  let h := f.hdr
  match f.op.toNat % 64 with
  | 0 => dMod f {}; noB f; noC f; .ok (.sysrd h (← dS f.cd f.d) (← dS f.ca f.a))
  | 1 => dMod f {}; noD f; noC f; .ok (.syswr h (← dS f.ca f.a) (← dS f.cb f.b))
  | 2 => dMod f {}; noD f; noB f; noC f; .ok (.slcfg h (← dSImm f.ca f.a))
  | 3 =>
    dMod f {}; noD f
    need (f.c.extractLsb' 4 6 == 0) .unusedField
    .ok (.tlbinv h (← dSImm f.ca f.a) (← dS f.cb f.b) (f.c.extractLsb' 0 4))
  | 4 =>
    dMod f {}; noD f; noC f
    let a ← dSImm f.ca f.a
    let b ← dSImm f.cb f.b
    if b == .imm 0 then .ok (.cres h a) else .ok (.cresHold h a b)
  | 5 => dMod f {}; noD f; noA f; noB f; noC f; .ok (.crrel h)
  | 6 =>
    dMod f {}; noD f; noC f
    let a ← dSImm f.ca f.a
    match (← dI 10 f.cb f.b).toNat with
    | 0 => .ok (.quiesce h a)
    | 1 => .ok (.quiesceResume h a)
    | _ => .error .illFormed
  | 7 =>
    dMod f {}; noD f; noC f
    let a ← dSImm f.ca f.a
    match (← dI 10 f.cb f.b).toNat with
    | 0 => .ok (.halt h a)
    | 1 => .ok (.haltRelease h a)
    | _ => .error .illFormed
  | _ => .error .noFormat

/-- The instruction that the fields of an assigned opcode spell, before the checks of `Instr.wf`. -/
def parse (f : Fields) : Dec Instr :=
  match f.op.toNat / 64 with
  | 0x0 => dClass0 f
  | 0x1 => dClass1 f
  | 0x2 => dClass2 f
  | 0x3 => dClass3 f
  | 0x4 => dClass4 f
  | 0x5 => dClass5 f
  | 0x6 => dClass6 f
  | 0x7 => dClass7 f
  | 0x8 => dClass8 f
  | 0x9 => dClass9 f
  | 0xA => dClassA f
  | 0xB => dClassB f
  | 0xC => dClassC f
  | 0xD => dClassD f
  | _ => .error .noFormat

/-- Parse, then check. -/
def decodeFields (f : Fields) : Dec Instr :=
  match parse f with
  | .ok i => if i.wf then .ok i else .error .illFormed
  | .error e => .error e

/-- The instruction of a word, in the order of R275: a LIVE word and an unassigned opcode are steps of their own
(LIVE_EXEC, ILLEGAL_OPCODE), and any other word is an instruction or is rejected by name. -/
def decode (w : IWord) : Dec Instr :=
  if isLive w then .ok (.liveExec w)
  else if assignedOp (opOf w) then decodeFields (Fields.ofWord w)
  else .ok (.illegalOpcode w)

/-- Twelve bytes, little-endian, as a word (R264). -/
def wordOfBytes (bs : List Byte) : IWord :=
  bs.foldr (fun b (acc : IWord) => (acc <<< 8) ||| b.setWidth 96) 0

/-- The twelve bytes of a word, lowest address first (R264). -/
def bytesOfWord (w : IWord) : List Byte := (List.range 12).map fun i => (w >>> (8 * i)).setWidth 8

/-- The decoder on bytes: the first twelve are the word. -/
def decodeBytes (bs : List Byte) : Dec Instr :=
  if bs.length < 12 then .error .truncated else decode (wordOfBytes (bs.take 12))

/-! ### The encoder -/

/-- Fields of an instruction with operands given as (class, field) pairs. -/
def eMk (op : BitVec 10) (h : Hdr) (d a b : BitVec 2 × BitVec 10) (c : BitVec 10) (m : BitVec 12) : Fields :=
  { op := op, guard := h.guard, d := d.2, a := a.2, b := b.2, cd := d.1, ca := a.1, cb := b.1, c := c, mod := m,
    fe := h.fe, sp := if h.sp then 1 else 0, dist := h.dist, wait := h.wait, set := h.set }

def e0 : BitVec 2 × BitVec 10 := (0, 0)
def eV (n : BitVec 10) : BitVec 2 × BitVec 10 := (0, n)
def eS (n : BitVec 6) : BitVec 2 × BitVec 10 := (1, 0#4 ++ n)
def eP (n : BitVec 3) : BitVec 2 × BitVec 10 := (2, 0#7 ++ n)
def eJ (n : BitVec 3) : BitVec 2 × BitVec 10 := (2, 0x20#7 ++ n)
def eQ (n : BitVec 2) : BitVec 2 × BitVec 10 := (2, 0x80#8 ++ n)
def eI {k : Nat} (n : BitVec k) : BitVec 2 × BitVec 10 := (3, n.setWidth 10)
def eCP (pk : BitVec 3) : BitVec 10 := 0#7 ++ pk
def eB (b : Bool) : BitVec 1 := if b then 1 else 0
def eUi (ui : Bool) : BitVec 12 := modOf 0 0 0 0 (if ui then 1 else 0)

/-- The wide format (R272): A[5:0], B, CLS and C hold the value. -/
def eWide (op : BitVec 10) (h : Hdr) (d : BitVec 10) (x : BitVec 32) : Fields :=
  { op := op, guard := h.guard, d := d, a := 0#4 ++ x.extractLsb' 26 6, b := x.extractLsb' 16 10,
    cd := x.extractLsb' 14 2, ca := x.extractLsb' 12 2, cb := x.extractLsb' 10 2, c := x.extractLsb' 0 10, mod := 0,
    fe := h.fe, sp := if h.sp then 1 else 0, dist := h.dist, wait := h.wait, set := h.set }

/-- The memory format (R273). -/
def eMem (op : BitVec 10) (h : Hdr) (d : BitVec 2 × BitVec 10) (m : MemRef) (mod : BitVec 12) : Fields :=
  eMk op h d (1, m.disp.extractLsb' 6 4 ++ m.base) (0, m.off) (0#1 ++ m.disp.extractLsb' 0 6 ++ m.pk) mod

/-- OPX of a memory instruction (R269). -/
def eOpx (strong : Bool) (o : Ord) : BitVec 3 := eB strong ++ o.code

def eAcq (acq : Bool) : Ord := if acq then .acq else .plain
def eRel (rel : Bool) : Ord := if rel then .rel else .plain

/-- MOD of an arithmetic form. -/
def eTS (t : Ty) (sat : Bool) : BitVec 12 := modOf t.code 0 (eB sat) 0 0
def eT (t : Ty) : BitVec 12 := modOf t.code 0 0 0 0
def eTR (t : Ty) (r : Rnd) : BitVec 12 := modOf t.code r.code 0 0 0
def eTO (t : Ty) (o : BitVec 3) : BitVec 12 := modOf t.code 0 0 0 o

def eABT (op : BitVec 10) (h : Hdr) (m : BitVec 12) (d : Reg) (a b : Src) (c : BitVec 10) : Fields :=
  eMk op h (eReg d) (eSrc a) (eSrc b) c m

def eAT (op : BitVec 10) (h : Hdr) (m : BitVec 12) (d : Reg) (a : Src) : Fields :=
  eMk op h (eReg d) (eSrc a) e0 0 m

/-- The fields of an instruction; none for an event, which has no word. -/
def encodeFields : Instr → Option Fields
  | .nop h => some (eMk 0x000 h e0 e0 e0 0 0)
  | .bra h off => some (eWide 0x001 h 0 off)
  | .brx h a => some (eMk 0x002 h e0 (eReg a) e0 0 0)
  | .call h off => some (eWide 0x003 h 0 off)
  | .ret h a => some (eMk 0x004 h e0 (eReg a) e0 0 0)
  | .exit h => some (eMk 0x005 h e0 e0 e0 0 0)
  | .rjset h k => some (eMk 0x006 h (eJ k) e0 e0 0 0)
  | .rjoin h k => some (eMk 0x007 h (eJ k) e0 e0 0 0)
  | .rjclr h k => some (eMk 0x008 h (eJ k) e0 e0 0 0)
  | .yield h n => some (eMk 0x009 h e0 (eI n) e0 0 0)
  | .waitf h => some (eMk 0x00A h e0 e0 e0 0 0)
  | .trap h a => some (eMk 0x00B h e0 (eSImm a) e0 0 0)
  | .bkpt h => some (eMk 0x00C h e0 e0 e0 0 0)
  | .uivec h a => some (eMk 0x00D h e0 (eSImm a) e0 0 0)
  | .uiret h => some (eMk 0x00E h e0 e0 e0 0 0)
  | .iadd h t sat d a b => some (eABT 0x040 h (eTS t sat) d a b 0)
  | .isub h t sat d a b => some (eABT 0x041 h (eTS t sat) d a b 0)
  | .iaddc h t d a b pk => some (eABT 0x042 h (eT t) d a b (eCP pk))
  | .isubb h t d a b pk => some (eABT 0x043 h (eT t) d a b (eCP pk))
  | .imul h t sat d a b => some (eABT 0x044 h (eTS t sat) d a b 0)
  | .imulh h t d a b => some (eABT 0x045 h (eT t) d a b 0)
  | .imad h t sat d a b c => some (eABT 0x046 h (eTS t sat) d a b c)
  | .idiv h t d a b => some (eABT 0x047 h (eT t) d a b 0)
  | .irem h t d a b => some (eABT 0x048 h (eT t) d a b 0)
  | .imin h t d a b => some (eABT 0x049 h (eT t) d a b 0)
  | .imax h t d a b => some (eABT 0x04A h (eT t) d a b 0)
  | .iabs h t sat d a => some (eAT 0x04B h (eTS t sat) d a)
  | .ineg h t sat d a => some (eAT 0x04C h (eTS t sat) d a)
  | .idp4 h t sat d a b c => some (eABT 0x04D h (eTS t sat) d a b c)
  | .idp2 h t sat d a b c => some (eABT 0x04E h (eTS t sat) d a b c)
  | .iadd3 h t sat d a b c => some (eABT 0x04F h (eTS t sat) d a b c)
  | .and h t d a b => some (eABT 0x080 h (eT t) d a b 0)
  | .or h t d a b => some (eABT 0x081 h (eT t) d a b 0)
  | .xor h t d a b => some (eABT 0x082 h (eT t) d a b 0)
  | .andn h t d a b => some (eABT 0x083 h (eT t) d a b 0)
  | .not h t d a => some (eAT 0x084 h (eT t) d a)
  | .bmix3 h t d a b c tbl => some (eABT 0x085 h (t.code ++ tbl) d a b c)
  | .shl h t d a b => some (eABT 0x086 h (eT t) d a b 0)
  | .shr h t d a b => some (eABT 0x087 h (eT t) d a b 0)
  | .sar h t d a b => some (eABT 0x088 h (eT t) d a b 0)
  | .rotl h t d a b => some (eABT 0x089 h (eT t) d a b 0)
  | .rotr h t d a b => some (eABT 0x08A h (eT t) d a b 0)
  | .dshr h t d a b c => some (eABT 0x08B h (eT t) d a b c)
  | .ones h t d a => some (eAT 0x08C h (eT t) d a)
  | .clz h t d a => some (eAT 0x08D h (eT t) d a)
  | .ctz h t d a => some (eAT 0x08E h (eT t) d a)
  | .brev h t d a => some (eAT 0x08F h (eT t) d a)
  | .fxtr h t d a b => some (eABT 0x090 h (eT t) d a b 0)
  | .fins h t d a b c => some (eABT 0x091 h (eT t) d a b c)
  | .clmul h t d a b => some (eABT 0x092 h (eT t) d a b 0)
  | .clmulh h t d a b => some (eABT 0x093 h (eT t) d a b 0)
  | .bsel h d a b c => some (eABT 0x094 h (eT .z32) d a b c)
  | .fadd h r d a b => some (eABT 0x0C0 h (eTR .f32 r) d a b 0)
  | .fsub h r d a b => some (eABT 0x0C1 h (eTR .f32 r) d a b 0)
  | .fmul h r d a b => some (eABT 0x0C2 h (eTR .f32 r) d a b 0)
  | .ffma h r d a b c => some (eABT 0x0C3 h (eTR .f32 r) d a b c)
  | .fmin h d a b => some (eABT 0x0C4 h (eT .f32) d a b 0)
  | .fmax h d a b => some (eABT 0x0C5 h (eT .f32) d a b 0)
  | .frnd h r d a => some (eAT 0x0C6 h (eTR .f32 r) d a)
  | .fscale h r d a b => some (eABT 0x0C7 h (eTR .f32 r) d a b 0)
  | .fclass h d a => some (eAT 0x0C8 h (eT .f32) d a)
  | .fabs h d a => some (eAT 0x0C9 h (eT .f32) d a)
  | .fneg h d a => some (eAT 0x0CA h (eT .f32) d a)
  | .fcpys h d a b => some (eABT 0x0CB h (eT .f32) d a b 0)
  | .hadd2 h t r d a b => some (eABT 0x100 h (eTR t r) d a b 0)
  | .hmul2 h t r d a b => some (eABT 0x101 h (eTR t r) d a b 0)
  | .hfma2 h t r d a b c => some (eABT 0x102 h (eTR t r) d a b c)
  | .hmin2 h t d a b => some (eABT 0x103 h (eT t) d a b 0)
  | .hmax2 h t d a b => some (eABT 0x104 h (eT t) d a b 0)
  | .cvt h dt su r sat d a => some (eMk 0x105 h (eReg d) (eSrc a) e0 (0#6 ++ su.code) (modOf dt.code r.code (eB sat) 0 0))
  | .cvtpk h dt su r sat d a b => some (eABT 0x106 h (modOf dt.code r.code (eB sat) 0 0) d a b (0#6 ++ su.code))
  | .qblk h t d a b => some (eMk 0x107 h (eV d) (eSrc a) (eSrc b) 0 (eTO .b4 t.code))
  | .dqblk h d a => some (eMk 0x108 h (eV d) (eSrc a) e0 0 (eT .b4))
  | .mov h t d a => some (eAT 0x140 h (eT t) d a)
  | .movi h d x => some (eWide 0x141 h d x)
  | .movh h t d a b => some (eABT 0x142 h (eT t) d a b 0)
  | .sel h t d a b pk => some (eABT 0x143 h (eT t) d a b (eCP pk))
  | .icmp h t c pd a b => some (eMk 0x144 h (eP pd) (eSrc a) (eSrc b) 0 (eTO t c.code))
  | .fcmp h c pd a b => some (eMk 0x145 h (eP pd) (eSrc a) (eSrc b) 0 (eTO .f32 c.code))
  | .plog h op pd pa pb => some (eMk 0x146 h (eP pd) (eP pa) (eP pb) 0 (modOf 0 0 0 0 op.code))
  | .pxfr h (.ps pd a) => some (eMk 0x147 h (eP pd) (eSrc a) e0 0 0)
  | .pxfr h (.vp vd pa) => some (eMk 0x147 h (eV vd) (eP pa) e0 0 0)
  | .pxfr h (.vs vd a) => some (eMk 0x147 h (eV vd) (eSImm a) e0 0 0)
  | .poll h m (.p pd) pa => some (eMk 0x148 h (eP pd) (eP pa) e0 0 (modOf 0 0 0 0 m.code))
  | .poll h m (.s sd) pa => some (eMk 0x148 h (eS sd) (eP pa) e0 0 (modOf 0 0 0 0 m.code))
  | .peers h t (.lead v) a => some (eMk 0x149 h (eV v) (eSrc a) e0 0 (eTO t 0))
  | .peers h t (.one p) a => some (eMk 0x149 h (eP p) (eSrc a) e0 0 (eTO t 1))
  | .rdsys h d w num axis => some (eMk 0x14A h (eReg d) (eI num) (eI axis) 0 (eT (if w then .z64 else .z32)))
  | .wrsys h num a => some (eMk 0x14B h (eI num) (eSImm a) e0 0 0)
  | .frcp h r d a => some (eAT 0x180 h (eTR .f32 r) d a)
  | .frsq h d a => some (eAT 0x181 h (eT .f32) d a)
  | .fsqrt h r d a => some (eAT 0x182 h (eTR .f32 r) d a)
  | .fexp2 h d a => some (eAT 0x183 h (eT .f32) d a)
  | .flog2 h d a => some (eAT 0x184 h (eT .f32) d a)
  | .fsin h d a => some (eAT 0x185 h (eT .f32) d a)
  | .fcos h d a => some (eAT 0x186 h (eT .f32) d a)
  | .ftanh h d a => some (eAT 0x187 h (eT .f32) d a)
  | .lxch h t m d a b => some (eMk 0x188 h (eV d) (eSrc a) (eSrc b) 0 (eTO t m.code))
  | .redux h t op r d a => some (eAT 0x189 h (modOf t.code r.code 0 0 op.code) d a)
  | .scan h t op r d a => some (eMk 0x18A h (eV d) (eSrc a) e0 0 (modOf t.code r.code 0 0 op.code))
  | .ld h t strong acq sc d m => some (eMem 0x1C0 h (eV d) m (modOf t.code 0 0 sc.code (eOpx strong (eAcq acq))))
  | .st h t strong rel sc x m => some (eMem 0x1C1 h (eV x) m (modOf t.code 0 0 sc.code (eOpx strong (eRel rel))))
  | .lds h t strong acq d base off disp =>
      some (eMem 0x1C2 h (eV d) { base := base, off := off, disp := disp, pk := 7 } (modOf t.code 0 0 0 (eOpx strong (eAcq acq))))
  | .sts h t strong rel x base off disp =>
      some (eMem 0x1C3 h (eV x) { base := base, off := off, disp := disp, pk := 7 } (modOf t.code 0 0 0 (eOpx strong (eRel rel))))
  | .atom h op t o sc d base off x pk =>
      some (eMem 0x1C4 h (eV d) { base := base, off := off, disp := x, pk := pk } (modAtom t.code op.code sc.code o.code))
  | .atoms h op t o d base off x =>
      some (eMem 0x1C5 h (eV d) { base := base, off := off, disp := x, pk := 7 } (modAtom t.code op.code 0 o.code))
  | .red h op t rel sc x m => some (eMem 0x1C6 h (eV x) m (modAtom t.code op.code sc.code (eRel rel).code))
  | .ldsc h t strong acq sc d base disp pk =>
      some (eMem 0x1C7 h (eS d) { base := base, off := 0, disp := disp, pk := pk } (modOf t.code 0 0 sc.code (eOpx strong (eAcq acq))))
  | .preq h t base off disp => some (eMem 0x1C8 h e0 { base := base, off := off, disp := disp, pk := 7 } (eT t))
  | .pref h t base off disp => some (eMem 0x1C9 h e0 { base := base, off := off, disp := disp, pk := 7 } (eT t))
  | .cctl h op t base off disp => some (eMem 0x1CA h e0 { base := base, off := off, disp := disp, pk := 7 } (eTO t op.code))
  | .sink h n => some (eMk 0x200 h e0 e0 e0 (0#6 ++ n) 0)
  | .srec h d => some (eMk 0x201 h (eV d) e0 e0 0 0)
  | .fence h o sc => some (eMk 0x202 h e0 e0 e0 0 (modOf 0 0 0 sc.code (eOpx false o)))
  | .cjoin h c idx timer => some (eMk 0x203 h (eI c) (eSImm idx) (eSImm timer) 0 0)
  | .cleave h c => some (eMk 0x204 h (eI c) e0 e0 0 0)
  | .cld h ui c sa sb => some (eMk 0x205 h (eI c) (eS sa) (eS sb) 0 (eUi ui))
  | .cstat h d c => some (eMk 0x206 h (eS d) (eI c) e0 0 0)
  | .cpy h ui pk a => some (eMk 0x240 h (eP pk) (eReg a) e0 0 (eUi ui))
  | .cpyfill h ui pk a => some (eMk 0x241 h (eP pk) (eReg a) e0 0 (eUi ui))
  | .cbinit h b sa sb sc =>
      some (eMk 0x242 h (eI b) (1, sc.extractLsb' 2 4 ++ sa) (1, 0#2 ++ sc.extractLsb' 0 2 ++ sb) 0 0)
  | .cbacq h d b => some (eMk 0x243 h (eReg d) (eI b) e0 0 0)
  | .cbrel h b sa => some (eMk 0x244 h (eI b) (eS sa) e0 0 0)
  | .blws h t q sa => some (eMk 0x245 h (eQ q) (eS sa) e0 0 (eT t))
  | .blwstop h q => some (eMk 0x246 h (eQ q) e0 e0 0 0)
  | .qcfg h q rb dp => some (eMk 0x247 h (eQ q) (eSImm rb) (eSImm dp) 0 0)
  | .nmcpy h ui sd ss n => some (eMk 0x248 h (eS sd) (eS ss) (eSImm n) 0 (eUi ui))
  | .nmzero h ui sd n => some (eMk 0x249 h (eS sd) (eSImm n) e0 0 (eUi ui))
  | .obres h k sa => some (eMk 0x280 h (eI k) (eS sa) e0 0 0)
  | .obrel h k => some (eMk 0x281 h (eI k) e0 e0 0 0)
  | .scpy h ui sa sb => some (eMk 0x282 h e0 (eS sa) (eS sb) 0 (eUi ui))
  | .ptld h ui t sa => some (eMk 0x283 h (eI t) (eS sa) e0 0 (eUi ui))
  | .mma h sat ui sa pk => some (eMk 0x284 h (eP pk) (eS sa) e0 0 (modOf 0 0 (eB sat) 0 (if ui then 1 else 0)))
  | .accz h a b => some (eMk 0x285 h e0 (eSImm a) (eSImm b) 0 0)
  | .accld h t ui sa sb => some (eMk 0x286 h e0 (eS sa) (eS sb) 0 (eTO t (if ui then 1 else 0)))
  | .accst h t r ui sa sb => some (eMk 0x287 h e0 (eS sa) (eS sb) 0 (modOf t.code r.code 0 0 (if ui then 1 else 0)))
  | .batonTake h => some (eMk 0x288 h e0 e0 e0 0 (modOf 0 0 0 0 0))
  | .batonPass h => some (eMk 0x288 h e0 e0 e0 0 (modOf 0 0 0 0 1))
  | .batonQuery h d => some (eMk 0x288 h (eS d) e0 e0 0 (modOf 0 0 0 0 2))
  | .bar h sc => some (eMk 0x2C0 h e0 e0 e0 0 (modOf 0 0 0 sc.code 0))
  | .phase h n => some (eMk 0x2C1 h e0 (eSImm n) e0 0 0)
  | .signal h i => some (eMk 0x2C2 h e0 (eSImm i) e0 0 0)
  | .spawnTask h sa pk => some (eMk 0x2C3 h e0 (eS sa) (eI (0 : BitVec 10)) (eCP pk) 0)
  | .spawnGrid h sa pk => some (eMk 0x2C3 h e0 (eS sa) (eI (1 : BitVec 10)) (eCP pk) 0)
  | .spawnGraph h sa pk => some (eMk 0x2C3 h e0 (eS sa) (eI (2 : BitVec 10)) (eCP pk) 0)
  | .amsg h sa vb => some (eMk 0x2C4 h e0 (eS sa) (eV vb) 0 0)
  | .tnow h d a => some (eMk 0x2C5 h (eReg d) (eSImm a) e0 0 (eT .z64))
  | .twait h sa => some (eMk 0x2C6 h e0 (eS sa) e0 0 0)
  | .gwnote h sa => some (eMk 0x2C7 h e0 (eS sa) e0 0 0)
  | .apxb h id vin nin vout nout fin => some (eMk 0x300 h (eV vout) (eV vin) (eSImm id) (0#5 ++ nout ++ nin) fin)
  | .apxe h => some (eMk 0x301 h e0 e0 e0 0 0)
  | .ftcfg h id sa => some (eMk 0x302 h e0 (eSImm id) (eS sa) 0 0)
  | .ftinv h id => some (eMk 0x303 h e0 (eSImm id) e0 0 0)
  | .ftstat h d id => some (eMk 0x304 h (eS d) (eSImm id) e0 0 0)
  | .sysrd h d sa => some (eMk 0x340 h (eS d) (eS sa) e0 0 0)
  | .syswr h sa sb => some (eMk 0x341 h e0 (eS sa) (eS sb) 0 0)
  | .slcfg h a => some (eMk 0x342 h e0 (eSImm a) e0 0 0)
  | .tlbinv h ctx sa size => some (eMk 0x343 h e0 (eSImm ctx) (eS sa) (0#6 ++ size) 0)
  | .cres h a => some (eMk 0x344 h e0 (eSImm a) (3, 0) 0 0)
  | .cresHold h a b => some (eMk 0x344 h e0 (eSImm a) (eSImm b) 0 0)
  | .crrel h => some (eMk 0x345 h e0 e0 e0 0 0)
  | .quiesce h a => some (eMk 0x346 h e0 (eSImm a) (eI (0 : BitVec 10)) 0 0)
  | .quiesceResume h a => some (eMk 0x346 h e0 (eSImm a) (eI (1 : BitVec 10)) 0 0)
  | .halt h a => some (eMk 0x347 h e0 (eSImm a) (eI (0 : BitVec 10)) 0 0)
  | .haltRelease h a => some (eMk 0x347 h e0 (eSImm a) (eI (1 : BitVec 10)) 0 0)
  | .illegalOpcode w => some (Fields.ofWord w)
  | .liveExec w => some (Fields.ofWord w)
  | _ => none

/-- The word of an instruction; none for an event. -/
def encode (i : Instr) : Option IWord := (encodeFields i).map Fields.toWord

/-- The instruction this decoder reads from a word whose bits, numbered as the opcode table numbers them, are `w`: the
word's bits above `nbits` are zero. -/
def decodeTableWord (nbits w : Nat) : Option Instr :=
  match decodeBytes (bytesOfWord (BitVec.ofNat 96 (w % 2 ^ nbits))) with
  | .ok i => some i
  | .error _ => none

end Sys2Proof
end

