-- ==== Sys2Proof/Machine/State.lean ====
section
/-! DEFINITION. The state of the whole module as plain data, and the state right after reset. A list of pairs is a sparse
map: what it does not list has the default that its reader names. -/

namespace Sys2Proof.Machine

/-- Why a step has no next state. -/
inductive Fault where
  /-- Raised by an event that names a unit the module does not have (R6, R8, R36, R43): no such step exists. Safe. -/
  | noUnit
deriving DecidableEq, Repr

/-- Why a step is refused. -/
inductive Refusal where
  /-- Raised by an arm of `exec` whose instruction has no meaning yet. Safe. -/
  | notModelled (mnemonic : String)
deriving DecidableEq, Repr

/-- What the host reads: BAR0, where the driver finds the link's status and the HMSTAT instances; an aperture of BAR2; BAR4 (R66, R67,
R70). -/
inductive HostRead where
  | linkStatus
  | hmstat (ctx : Nat)
  | aperture (ctx off n : Nat)
  | staging (off n : Nat)
deriving DecidableEq, Repr

/-- Which agent acts next (log entry 1). -/
inductive Turn where
  /-- A step that no instruction word starts. -/
  | event (i : Instr)
  /-- The quarter of a core has an issue slot. -/
  | issue (core quarter : Nat)
  /-- This many fabric cycles pass. -/
  | pass (n : Nat)
  /-- The oldest store of the group in this slot leaves its queue (R190). -/
  | drain (g : Nat)
  /-- A slice drops the line from L2, where its set has no way left (R10, R424). -/
  | evict (line : Nat)
  /-- A flask drops its replica of the line, where its set has no way left (R34, R424). -/
  | dropReplica (fl line : Nat)
  /-- The host or a peer writes its own memory, tiers 10 and 11; the Cupola writes tiers 00 and 01 under a
  key identifier (R71). -/
  | world (key kid : Nat) (bytes : List Byte)
  /-- A message of the peer module arrives on a flue port (R36, R111). -/
  | peerMsg (port : Nat) (bytes : List Byte)
  /-- The kernel sets the code base of a context (log entry 5). -/
  | codeBase (ctx base : Nat)
  /-- The kernel maps 2 MiB of the staging window onto a device page, or nothing (R66). -/
  | stage (unit : Nat) (page : Option (Nat × Nat))
  /-- The host reads through a BAR (R66, R67, R70). -/
  | hostRead (what : HostRead)
  /-- The management controller has verified the recovery image (R77, R78). -/
  | recoveryVerified
  /-- The management controller is asked for its certificate (R79). -/
  | certificate
  /-- The hardware updates the queue link of a task under way (R90). -/
  | taskLink (ctx : Nat) (handle link : DWord)
  /-- The module becomes the time source (R42). -/
  | timeSource
deriving DecidableEq, Repr

/-- The flag that a completion counts down: flag `k` of the group `uid`, and of what that group has become (R153, R100). -/
inductive Sig where
  | none
  | grp (uid k : Nat)
deriving DecidableEq, Repr

/-- What a path waits for (R117, R137). -/
inductive Wait where
  | run
  | join (k : BitVec 3)
  /-- Parked at a BAR of this scope. -/
  | bar (sc : Scope)
  | time (t : DWord)
  /-- Parked at a PHASE, with the extra count named (R305). -/
  | phase (extra : Nat)
  /-- At a UIRET of the handler set (R295). -/
  | uiret
  /-- Waits for the reply to request `id` (R232). -/
  | apx (id : Nat)
  /-- Waits for the page of a record slot, at the word itself (R100, R307). -/
  | resid (page : Nat)
deriving DecidableEq, Repr

/-- A path: lanes of one PC and one wait state (R136, R137). -/
structure Path where
  pc     : Pc
  lanes  : LaneMask
  wait   : Wait := .run
  frozen : Bool := false
  held   : Bool := false
  /-- Compute cycle of the last issue; none when DIST counts as met (R151, R153). -/
  last   : Option Nat := none
  /-- Not ready before this compute cycle (R290). -/
  ready  : Nat := 0
  /-- Age count (R139). -/
  age    : Nat := 0
  /-- The LIVE words of the safe point where the path stands (R245); several after a merge. -/
  live   : List IWord := []
  /-- At a safe point without a LIVE word of its own: the whole allocation is live (R245). -/
  whole  : Bool := false
  /-- The instruction that led here (R250, LIVE_EXEC). -/
  via    : Pc := 0
  /-- A breakpoint match at this word has been taken already (R293). -/
  skipBp : Bool := false
deriving DecidableEq, Repr

/-- A rejoin register (R141). -/
structure Join where
  mask    : LaneMask := 0
  arrived : LaneMask := 0
deriving DecidableEq, Repr

/-- A live stream of the bellows (R374, R375). -/
structure Stream where
  ty      : Ty
  base    : DWord
  lstride : DWord
  counts  : List Nat
  strides : List DWord
  n       : Nat
  k       : Nat
  sig     : Sig
  word    : Pc
  req     : Nat
  /-- Halted at an element on this non-resident page; the flag says a notice has gone. -/
  halted  : Option Nat := none
  /-- Pages that the kernel has refused: their bytes read zero. -/
  refused : List Nat := []
  /-- Lines that a peer refuses it (R423). -/
  no      : List Nat := []
deriving DecidableEq, Repr

/-- A queue ring (R125). -/
structure Ring where
  rbase  : Nat := 0
  depth  : Nat := 0
  head   : Nat := 0
  tail   : Nat := 0
  conf   : Bool := false
  stream : Option Stream := none
deriving DecidableEq, Repr

/-- What a destination was before a fixed-latency result that is not yet due (R151): kind 0 v (register, lane), 1 s, 2 p
(register, lane). -/
structure Recent where
  kind : Nat
  reg  : Nat
  lane : Nat
  old  : DWord
  due  : Nat
deriving DecidableEq, Repr

/-- Where a queued store goes: an L1 line of an address space, a home, or scratchpad. -/
inductive StoreTo where
  /-- Weak, or strong at core scope: virtual address, physical key of its first byte, leaf entry. -/
  | l1 (asid va : Nat) (leaf : DWord)
  | scratch (off : Nat)
  /-- Strong at clu scope or wider: performed at the home. -/
  | home (asid va : Nat) (leaf : DWord)
deriving DecidableEq, Repr

/-- One lane's store, not yet drained (R190). -/
structure StoreQ where
  dst   : StoreTo
  bytes : List Byte
  lane  : Nat
  /-- Part of operation `op` (0 for none). -/
  op    : Nat
  word  : Pc
  /-- A TLBINV has dropped the entry that translated it (R403). -/
  old   : Bool := false
deriving DecidableEq, Repr

/-- A deferred cause (R249). -/
structure Cause where
  code   : Nat
  lanes  : LaneMask := 0
  addr   : DWord := 0
  aux    : DWord := 0
  word   : Nat := 0
  origin : Pc := 0
deriving DecidableEq, Repr

/-- A stop under way whose record waits for room, or the debugger's stop of a group (R247, R258). -/
structure Stop where
  code  : Nat
  pc    : Pc
  lanes : LaneMask
  addr  : DWord
  aux   : DWord
  word  : Nat
  origin : Pc
  drone : DWord
  flags : Nat
deriving DecidableEq, Repr

/-- Who asked for a park (R246, R251). -/
inductive ParkWhy where
  | preempt | quota | migrate | retire | halt | debug
  /-- A request that a trap of the team has withdrawn after the group had parked: the kernel decides for it (R65). -/
  | left
deriving DecidableEq, Repr

/-- A park request and the instructions issued since (R63, R246). -/
structure ParkReq where
  why    : ParkWhy
  issued : Nat := 0
deriving DecidableEq, Repr

/-- Where a group's registers are (R116, R122). -/
inductive Tier where
  | resident | tiered | movingOut | movingIn
deriving DecidableEq, Repr

/-- An open approximable region of a lane (R394). -/
structure Open where
  id    : Nat
  vout  : Nat
  nout  : Nat
  input : List Word
  /-- The PC of the APXB and the code granule (R241). -/
  pc    : Pc
deriving DecidableEq, Repr

/-- A vector burst or held current of a group (R404). -/
structure Burst where
  req   : Nat
  ns    : Nat
  hold  : Bool
  /-- Drone at which it went live. -/
  live  : Option Nat := none
  sig   : Sig
deriving DecidableEq, Repr

/-- A fence whose acquire waits for earlier loads (R360). -/
structure FenceS where
  /-- A release that is not complete. -/
  rel   : Option Scope
  acq   : Option Scope
  /-- Results and sink blocks that must have come first. -/
  waits : List Nat
  sig   : Sig
deriving DecidableEq, Repr

/-- A resident group (R134, R147 and the files named in INVENTORY). -/
structure Group where
  uid     : Nat
  ctx     : Nat
  sysT    : Bool := false
  handle  : DWord := 0
  /-- The group of a message has no task (R113). -/
  noTask  : Bool := false
  grid    : Nat := 0
  team    : Nat
  gid     : Nat := 0
  nlanes  : Nat
  regs    : Nat
  image   : Nat := 0
  phase   : Nat := 0
  paths   : List Path
  /-- Seed of the registers that nothing has written; none reads zero (R84, R101). -/
  seed    : Option Nat := none
  /-- Seed of the v registers that nothing has written, and their blocks of 8 that read zero all the same, for another context had
  held that storage last (R84). -/
  vseed   : Option Nat := none
  clean   : List Nat := []
  /-- The units of its quarter's file and of its core's backing tier that hold the registers, as `Core.lastBy` numbers them
  (R116, R122). -/
  units   : List Nat := []
  v       : SMap Word := []
  p       : SMap LaneMask := []
  s       : SMap DWord := []
  j       : SMap Join := []
  f       : SMap Nat := []
  q       : SMap Ring := []
  empt    : List Nat := []
  lent    : List Nat := []
  recents : List Recent := []
  fstat   : DWord := 0
  mstat   : DWord := 0
  uiEn    : Bool := true
  uiOvf   : Bool := false
  uiAct   : Bool := false
  uiTags  : List DWord := []
  uiVec   : BitVec 16 := 0xFFFF
  uiPc    : Pc := 0
  uiSet   : LaneMask := 0
  /-- What the handler path waited for when it took the tag: nothing, or the reply of an APXB (R117, R158). -/
  uiWait  : Wait := .run
  prio    : BitVec 4 := 0
  age     : Nat := 0
  /-- Compute cycle of the last issue or of the admission (R118). -/
  last    : Nat := 0
  /-- Compute cycle in which it was last eligible, or came to its slot (R121). -/
  elig    : Nat := 0
  storeq  : List StoreQ := []
  fence   : Option FenceS := none
  srec    : SMap (BitVec 4) := []
  apx     : SMap Open := []
  burst   : Option Burst := none
  stall   : Nat := 0
  park    : Option ParkReq := none
  causes  : List Cause := []
  stop    : Option Stop := none
  tier    : Tier := .resident
  /-- TASK_POISON is due at the first issue (R97): the first poisoning handle. -/
  poison  : Option DWord := none
  /-- The BKPT at which the group has last stopped carries SP (R293). -/
  bkptSp  : Bool := false
  /-- A step of the debugger under way (R157): the PC chosen, or all paths. -/
  stepPc  : Option Pc := none
  stepAll : Bool := false
  /-- Every lane has exited; the slot is held until the operations end (R154). -/
  done    : Bool := false
  /-- Operations that hold the slot (R154) or the save (R246): sub-blocks, CLDs, flagged operations by id. -/
  cldOut  : Nat := 0
  /-- PC of the last PHASE issued, its stream's guard lanes (R305), and bits [95:32] of its word, which a trap records (R250). -/
  phasePc : Pc := 0
  phaseLanes : LaneMask := 0
  phaseWord : DWord := 0
  /-- The largest count that TNOW has read (R39). -/
  tnow    : Nat := 0
deriving DecidableEq, Repr

/-- A group saved to an image (R247, R252, R255). What the image of R255 does not hold is kept here by the kernel and the
task machinery. -/
structure Parked where
  g      : Group
  core   : Nat
  quarter : Nat
  slot   : Nat
  areaB  : Bool
  /-- The trap code, 0 for a park (R255), and AUX of the record. -/
  code   : Nat
  aux    : DWord := 0
  pc     : Pc
  lanes  : LaneMask
  /-- The kernel resumes it by itself once what it waits for is done. -/
  why    : Option ParkWhy := none
deriving DecidableEq, Repr

/-- A launch record (R103). -/
structure Launch where
  addr   : DWord
  entry  : Pc
  regs   : Nat
  groups : Nat
  lastLanes : Nat
  carry  : DWord
  scratch : Nat
  clw    : Nat
  clh    : Nat
  gx     : Nat
  gy     : Nat
  gz     : Nat
  flags  : Nat
  param  : DWord
  prio   : Nat
  gang   : Nat
  ctx    : Nat
  quota  : DWord
  done   : DWord
  donemsg : Nat
  phaseBase : DWord
deriving DecidableEq, Repr

/-- A team with admitted groups or phase tasks to come (R115, R161, R224, R255). -/
structure Team where
  uid    : Nat
  ctx    : Nat
  sysT   : Bool := false
  grid   : Nat := 0
  index  : Nat := 0
  core   : Option Nat := none
  ngroups : Nat := 1
  /-- Groups that have not ended. -/
  left   : Nat := 1
  /-- Groups that have ended: GROUPID, and the phase in which the group ended. -/
  gone   : List (Nat × Nat) := []
  scratch : Nat := 0
  pin    : Bool := false
  mig    : Bool := false
  idem   : Bool := false
  /-- Seed of the scratchpad bytes that nothing has written, and the blocks of 128 that read zero all the same, for another context
  had held that storage last (R84); the units that it takes, as `Core.lastBy` numbers them. -/
  seed   : Option Nat := none
  clean  : List Nat := []
  pads   : List Nat := []
  spad   : List Host.Cell := []
  baton  : Option Nat := none
  image  : Option Nat := none
  /-- Status of the latest CLD per consort, and which that is (R365). -/
  cstat  : SMap DWord := []
  cldLast : SMap Nat := []
  killed : Bool := false
  /-- A migration request: the flask chosen (R64). -/
  migTo  : Option Nat := none
  /-- The park of core retirement or HALT (R86, R407). -/
  moving : Bool := false
  gang   : Nat := 0
  /-- No group is resident and the team image has been written (R255), in area B. -/
  saved  : Bool := false
  savedB : Bool := false
deriving DecidableEq, Repr

/-- Who launched a grid (R105). -/
inductive Origin where
  | core (c : Nat)
  | walker (fl inst th : Nat)
deriving DecidableEq, Repr

/-- A grid under way (R103 to R105). -/
structure Grid where
  uid   : Nat
  launch : Launch
  sysT  : Bool
  org   : Origin
  left  : Nat
  bad   : Bool := false
deriving DecidableEq, Repr

/-- A published task that has not ended (R93). -/
structure TaskE where
  ctx    : Nat
  handle : DWord
  sysT   : Bool := false
  grid   : Nat := 0
  team   : Nat := 0
  gid    : Nat := 0
  phase  : Nat := 0
  core   : Nat
  /-- Order of publication, and of becoming READY (R110). -/
  seq    : Nat
  ready  : Option Nat := none
  running : Bool := false
  /-- The task whose poisoned decrement has arrived first (R97). -/
  poison : Option DWord := none
  gang   : Nat := 0
  /-- Counted in GANGTAB.READY; placed at core (and slot kept) by GANG_PLACE; released (R129). -/
  counted : Bool := false
  placed : Option Nat := none
  badSent : Bool := false
deriving DecidableEq, Repr

/-- An operation of several parts: its flag falls with the last part. -/
structure Op where
  sig  : Sig
  left : Nat
  /-- Group whose slot waits for it (R154). -/
  uid  : Nat
deriving DecidableEq, Repr

/-- A variable-latency result (R152): lane values of v registers, or one s register. -/
structure Res where
  id    : Nat
  uid   : Nat
  /-- v registers, marked full at completion. -/
  vregs : List Nat := []
  vals  : List (Nat × Word) := []
  sreg  : Option (Nat × DWord) := none
  /-- Predicates: register, lane, value. -/
  pvals : List (Nat × Nat × Bool) := []
  sig   : Sig
  /-- A load, for FENCE.acq (R360). -/
  load  : Bool := false
  /-- A strong access or an atomic, for releases (R191). -/
  strong : Bool := false
  /-- Flags of FSTAT that the result sets (R209). -/
  fl    : DWord := 0
  /-- Compute cycle in which a fixed-latency result is written (R209, R271). -/
  due   : Option Nat := none
  /-- The instruction, the lanes whose access went to a peer module, with its address, and what each such access has changed
  there: lane, key, byte before the instruction, byte after it (R423). -/
  word  : Pc := 0
  peer  : List (Nat × DWord) := []
  undo  : List (Nat × Nat × Byte × Byte) := []
deriving DecidableEq, Repr

/-- A page request (R356): pages still asked for. -/
structure Preq where
  id    : Nat
  uid   : Nat
  ctx   : Nat
  pages : List Nat
  sig   : Sig
deriving DecidableEq, Repr

/-- A follow access that was refused (R173): word, lane, code, address, AUX. -/
abbrev Refused := Nat × Nat × Nat × DWord × DWord

/-- A sub-block of a sink block that has left its core (R172 to R178). -/
structure Sub where
  id     : Nat
  blk    : Nat
  uid    : Nat
  ctx    : Nat
  sysT   : Bool
  core   : Nat
  slot   : Nat
  /-- Address space and virtual line of the anchor, physical line, leaf. -/
  asid   : Nat
  vline  : Nat
  line   : Nat
  leaf   : DWord
  /-- Landing level; 8 until it lands. -/
  level  : Nat := 8
  lanes  : LaneMask
  words  : List Instr
  /-- Index of the anchor LD; next word; lanes whose follow accesses of that word are out. -/
  anchor : Nat
  at'    : Nat := 0
  sent   : List Nat := []
  /-- The registers as the SINK saw them, with the block's own writes: kind 0 v, 2 p; register; lane. -/
  grp    : Group
  wr     : List (Nat × Nat × Nat) := []
  carried : List (Nat × Byte) := []
  /-- The bytes of the replica that a sub-block of level 1 runs on. -/
  snap   : Option (BitVec 1024) := none
  /-- Accesses to the anchor line may still come, so no other is performed there (R175). -/
  keeps  : Bool := false
  done   : Bool := false
  bad    : List Refused := []
  faults : LaneMask := 0
  follow : SMap Nat := []
  poison : Option Nat := none
  planes : LaneMask := 0
  fl     : DWord := 0
  /-- Lines that a peer refuses it (R423). -/
  no     : List Nat := []
deriving DecidableEq, Repr

/-- A sink block under way: sub-blocks out, the registers to mark full, and what its lanes have brought back (R177). -/
structure Block where
  id    : Nat
  uid   : Nat
  left  : Nat
  vregs : List Nat
  sig   : Sig
  word  : Pc
  core  : Nat
  /-- The widest acquire among its words. -/
  acq   : Option Scope := none
  bad   : List Refused := []
  poison : Option Nat := none
  planes : LaneMask := 0
  v     : List (Nat × Word) := []
  p     : List (Nat × Nat × Bool) := []
  srec  : List (Nat × BitVec 4) := []
  fl    : DWord := 0
deriving DecidableEq, Repr

/-- A consort's table (R179). -/
structure Consort where
  fl      : Nat
  /-- Cluster: grid and cluster index. -/
  grid    : Nat
  cluster : Nat
  c       : Nat
  members : List (Nat × Nat) := []
  timer   : Nat := 0
deriving DecidableEq, Repr

/-- A request on a consort entry (R364). -/
structure CldReq where
  /-- Which CLD it is (R365). -/
  id   : Nat := 0
  team : Nat
  uid  : Nat
  core : Nat
  ob   : Bool
  off  : Nat
  hnd  : Nat
  sig  : Sig
  ui   : Bool
  tag  : Nat
  word : Pc
  lanes : LaneMask
deriving DecidableEq, Repr

/-- A fill on its way to a requester (R181, R182): its status, the bytes read, what stops the requester's group. -/
structure Fill where
  req    : CldReq
  status : Nat
  bytes  : List Byte
  /-- The first poisoned line, and which bytes come from poisoned lines: offset, number, line. -/
  poison : Option Nat := none
  marks  : List (Nat × Nat × Nat) := []
  range  : Option DWord := none
deriving DecidableEq, Repr

/-- An entry of a lead slice, 16 x flask + slice, or a request that waits for one (R180, R181). -/
structure Entry where
  id    : Nat
  grid  : Nat
  cluster : Nat
  c     : Nat
  tag   : Nat
  ctx   : Nat
  addr  : DWord
  size  : Nat
  lead  : Nat
  /-- Holds one of the 32 entries, since this drone. -/
  held  : Bool := false
  took  : Nat := 0
  asked : List CldReq
  /-- Completed; members enrolled at completion that have neither asked nor left; requesters, with the bits of their status, for whom
  the source is still to be read; fills on their way. -/
  comp  : Bool := false
  await : List Nat := []
  reads : List (List CldReq × Nat) := []
  fills : List Fill := []
deriving DecidableEq, Repr

/-- A copy of the copy engine (R366 to R369). -/
structure Copy where
  id     : Nat
  uid    : Nat
  team   : Nat
  ctx    : Nat
  sysT   : Bool
  fill   : Bool
  src    : DWord
  dst    : DWord
  bytes  : Nat
  rows   : Nat
  space  : Nat
  sstride : DWord
  dstride : DWord
  start  : DWord
  pat    : BitVec 32
  utag   : Nat
  recVa  : DWord
  ui     : Bool
  sig    : Sig
  word   : Pc
  prio   : Nat
  req    : Nat := 0
  claim  : Option Nat := none
  /-- The bytes move. -/
  going  : Bool := false
  /-- Lanes that named the record. -/
  lanes  : LaneMask := 0
  /-- The bytes have moved; STATUS as it will be written; what stops the group. -/
  moved  : Bool := false
  status : Nat := 0
  fault  : Option DWord := none
  /-- Lines that a peer refuses it (R423). -/
  no     : List Nat := []
deriving DecidableEq, Repr

/-- A waiting CBACQ (R371). -/
structure CbAcq where
  uid   : Nat
  lanes : LaneMask
  dst   : Reg
  sig   : Sig
deriving DecidableEq, Repr

/-- A circular buffer that a team holds (R183). -/
structure Buf where
  team   : Nat
  base   : Nat
  size   : Nat
  count  : Nat
  free   : Nat
  filled : Nat
  claim  : Nat := 0
  acq    : Nat := 0
  ret    : Nat := 0
  /-- Slots acquired and not returned, copies claimed and not complete. -/
  held   : Nat := 0
  copying : Nat := 0
  wait   : List CbAcq := []
deriving DecidableEq, Repr

/-- The kinds of accepted matrix-unit operation (R382). -/
inductive MxKind where
  | scpy (src : DWord) (stride : DWord) (ncols nrows col row : Nat)
  | ptld (t : Nat) (src : DWord)
  /-- M, K, slot and record of A, type of B, register base, first row, first B-scale column, wave. -/
  | mma (m k ah : Nat) (rec : DWord) (bty : Ty) (vb acc bscol : Nat) (zero sat : Bool) (doneTask : DWord) (wave : Nat)
  | accz (row n : Nat)
  | accld (addr stride : DWord) (scr : Bool) (nrows row : Nat)
  | accst (t : Ty) (r : Rnd) (ftz : Bool) (addr stride : DWord) (scr : Bool) (nrows row : Nat)
deriving DecidableEq, Repr

/-- An accepted operation of the matrix unit. -/
structure MxOp where
  kind  : MxKind
  uid   : Nat
  team  : Nat
  grid  : Nat := 0
  ctx   : Nat
  sysT  : Bool
  sig   : Sig
  ui    : Bool
  utag  : Nat
  word  : Pc
  prio  : Nat
  /-- The lane that issued it. -/
  lanes : LaneMask
  /-- GROUPIDs of the wave's members that had not retired when it issued (R216, R418). -/
  there : List Nat := []
  req   : Nat := 0
  going : Bool := false
  /-- Its bytes have moved, with these bits for FSTAT (R392). -/
  moved : Bool := false
  fl    : DWord := 0
  /-- Its team has been killed: results are discarded (R228, R383). -/
  dead  : Bool := false
  /-- Lines that a peer refuses it (R423). -/
  no    : List Nat := []
deriving DecidableEq, Repr

/-- The matrix unit of a core (R215 to R222). -/
structure Matrix where
  holder : Option Nat := none
  /-- The last context that held the unit (R84). -/
  last   : Option Nat := none
  /-- Live reservations by slot (R217). -/
  recs   : SMap DWord := []
  ob     : List Host.Cell := []
  acc    : SMap Word := []
  scale  : SMap Byte := []
  table  : SMap Byte := []
  /-- Units of 128 bytes of the operand buffer that hold bytes of a poisoned line, with the line (R187, R228). -/
  poison : SMap Nat := []
  ops    : List MxOp := []
deriving DecidableEq, Repr

/-- One line of an L1 (R159). -/
structure L1Line where
  asid  : Nat
  vline : Nat
  line  : Nat
  leaf  : DWord
  valid : BitVec 128
  dirty : BitVec 128
  data  : BitVec 1024
  poison : Bool := false
deriving DecidableEq, Repr

/-- A message in flight or queued (R111): its bytes, the operation it is part of, the core it came from. -/
structure Msg where
  bytes : List Byte
  dest  : Nat
  op    : Nat := 0
  /-- Where it enters the fabric (R24): a core, 0x10000 and a flue port, 0x20000 and a walker's flask; 0xFFFF from the host. -/
  src   : Nat := 0xFFFF
  /-- Leaves for the peer on this port. -/
  port  : Option Nat := none
deriving DecidableEq, Repr

/-- A core (R8, R159, R183, R215, R368, R113). -/
structure Core where
  cycle  : Nat := 0
  /-- Compute half-steps owed: MHz-fabric-cycles not yet turned into an edge. -/
  frac   : Nat := 0
  /-- Edges since the last suppressed one (R61). -/
  skip   : Nat := 0
  l1     : List L1Line := []
  /-- The last context that has held each piece of storage (R84): what a slot holds beside v registers, 0 to 63; 8 v registers of a
  quarter's file, 64 + 256 x quarter + unit; 8 of the backing tier, 2048 + unit; 128 bytes of scratchpad, 8192 + unit. -/
  lastBy : SMap Nat := []
  copies : List Copy := []
  bufs   : SMap Buf := []
  mx     : Matrix := {}
  msgs   : List Msg := []
  enabled : Bool := true
  /-- Stopped to admission by retirement (R86), spare position in use. -/
  noAdmit : Bool := false
  spare  : Bool := false
  /-- Compute cycle in which each quarter last issued (R117). -/
  qlast  : SMap Nat := []
  /-- By quarter, the compute cycles in which the vector slots under way leave their pipes (R49, R140). -/
  pipes  : SMap (List Nat) := []
deriving DecidableEq, Repr

/-- A directory entry (R31). -/
structure DirE where
  rep     : Bool := false
  count   : Nat := 0
  w       : Bool := false
  sharers : BitVec 32 := 0
  used    : Nat := 0
deriving DecidableEq, Repr

/-- A walker thread (R107): at a node, or its grid runs. -/
structure Thread where
  id   : Nat
  node : Nat
  grid : Option Nat := none
  /-- The grid has ended with this DONE value. -/
  ended : Option Nat := none
  /-- A notice for a record slot of its launch has gone (R307). -/
  told : Bool := false
deriving DecidableEq, Repr

/-- A graph (R106 to R109). -/
structure Inst where
  num    : Nat
  ctx    : Nat
  sysT   : Bool
  nodes  : DWord
  ncount : Nat
  gdone  : DWord
  bad    : Bool := false
  stopped : Bool := false
  threads : List Thread
  counts : SMap Nat := []
  /-- Order of publication, for identities of threads. -/
  nextTh : Nat := 1
deriving DecidableEq, Repr

/-- A sample of the fitting engine (R233). -/
structure Sample where
  ctx : Nat
  id  : Nat
  xs  : List Word
  ys  : List Word
deriving DecidableEq, Repr

/-- A request of an APXB (R232). -/
structure FitReq where
  id    : Nat
  uid   : Nat
  ctx   : Nat
  rid   : Nat
  /-- Lanes with their inputs, increasing. -/
  lanes : List (Nat × List Word)
  nout  : Nat
  vout  : Nat
  fin   : Nat
  pc    : Pc
  granule : Nat
  sig   : Sig
  /-- Answer: substituted lanes with their outputs. -/
  reply : Option (List (Nat × List Word)) := none
  /-- The region has never been configured: no sample follows (R230). -/
  never : Bool := false
deriving DecidableEq, Repr

/-- A region slot (R230, R231). -/
structure FitSlot where
  ctx    : Nat
  id     : Nat
  st     : Nat := 0
  nin    : Nat := 0
  nout   : Nat := 0
  hsel   : Nat := 0
  gen    : BitVec 32 := 1
  scount : Nat := 0
  lec    : BitVec 32 := 0
  passes : Nat := 0
  fails  : Nat := 0
  strikes : Nat := 0
  drift  : Nat := 0
  wcount : Nat := 0
  granule : Nat := 0
  mn     : SMap Word := []
  mx     : SMap Word := []
  w1     : SMap Word := []
  b1     : SMap Word := []
  w2     : SMap Word := []
  b2     : SMap Word := []
  used   : Nat := 0
  batch  : List Sample := []
  /-- Batches applied in the present stint; the largest error of the present round. -/
  nb     : Nat := 0
  roundErr : Word := 0
deriving DecidableEq, Repr

/-- A point change under way (R60). -/
structure Hop where
  target   : Nat
  up       : Bool
  switched : Bool := false
deriving DecidableEq, Repr

/-- A replica in a slice of the flask, and the way of its set that holds it (R33, R424). -/
structure Replica where
  data : BitVec 1024
  way  : Nat
deriving DecidableEq, Repr

/-- A flask (R7). -/
structure Flask where
  masks    : BitVec 48 := 0x888444222111
  dir      : SMap DirE := []
  replicas : SMap Replica := []
  /-- Units of the SRAM tier that a repartition has zeroed: a line of them that `State.lines` does not list has its clear bit
  set (R13, R14). -/
  clearUnits : List Nat := []
  insts    : List Inst := []
  notes    : List DWord := []
  fit      : List FitSlot := []
  samples  : List Sample := []
  reqs     : List FitReq := []
  /-- Requests occupy the engine until this fabric cycle; no sample leaves before that one (R234). -/
  fitBusy  : Nat := 0
  fitNext  : Nat := 0
  /-- Second-level TLB: (context, virtual 4 KiB page) and the leaf with its level (R167). -/
  tlb2     : List (Nat × Nat × DWord × Nat) := []
  gated    : Bool := false
  /-- The fabric cycle, plus 1, in which the directory's window last began (R32). -/
  winAt    : Nat := 0
  /-- The unit count that a repartition under way brings in force (R13). -/
  repart   : Option Nat := none
  hop      : Option Hop := none
  /-- The operating point whose voltage Vmv is (R47, R60). -/
  vpt      : Nat := 15
  /-- The fabric cycle, plus 1, of the last governor step; a group has been resident ever since (R59). -/
  govAt    : Nat := 0
  busy     : Bool := false
  migs     : List Nat := []
  spareUsed : Nat := 0
  sliceUsed : Bool := false
  lanes    : List Nat := []
  /-- HALT under way (R407). -/
  halting  : Bool := false
  inst     : Nat := 1
deriving DecidableEq, Repr

/-- What a reservation is for. -/
inductive ReqKind where
  | copy (core id : Nat)
  | mma (core : Nat)
  | stream (uid q : Nat)
  | burst (uid : Nat)
  | gang (team : Nat)
deriving DecidableEq, Repr

/-- A request or a grant of current (R48 to R54). -/
structure Grant where
  id    : Nat
  kind  : ReqKind
  ctx   : Nat
  team  : Nat
  cls   : Nat
  prio  : Nat
  /-- Drone, in eighths, at which it was presented (R50), and then granted. -/
  since : Nat
  /-- The current that counts in GRANTED once it is granted. -/
  amps  : Nat
  dur   : Nat
  /-- Drawn on the team's held gang reservation (R130). -/
  drawn : Nat := 0
  /-- Taken over from the operation before it: counts in GRANTED while it waits (R52). -/
  base  : Nat := 0
  granted : Bool := false
  live  : Nat := 0
  /-- The estimate charged (R56). -/
  est   : Nat := 0
  /-- Its engine has presented it, at `since` (R50). -/
  shown : Bool := false
  /-- Events counted while it runs, by kind (R46, R56). -/
  acts  : SMap Nat := []
deriving DecidableEq, Repr

/-- A power cluster (R43 to R57). -/
structure PClus where
  tlb      : List (Nat × Nat × DWord × Nat) := []
  grants   : List Grant := []
  slotNo   : Nat := 0
  slotLive : Nat := 0
  /-- Standing grants of the present microsecond: context, estimate. -/
  standing : List (Nat × Nat) := []
  /-- Current granted and not released; PCSTAT shows it as of the last step (R46). -/
  granted  : Nat := 0
  /-- Current that shrunk reservations have freed in fabric cycle `surAt` - 1, which the arbiter has from the next one (R52). -/
  surplus  : Nat := 0
  surAt    : Nat := 0
  /-- The fabric cycle, plus 1, of the last arbitration, controller step and standing grants (R47, R51, R56). -/
  arbAt    : Nat := 0
  piAt     : Nat := 0
  stdAt    : Nat := 0
  /-- Events of the present microsecond, 257 x kind + context, 256 for those under a grant; those outside every grant; those of
  overdrawn contexts that no standing grant covers (R46, R56, R57). -/
  events   : SMap Nat := []
  unres    : SMap Nat := []
  bare     : SMap Nat := []
  /-- EST of the last 50 steps, the latest first (R59). -/
  ests     : List Nat := []
deriving DecidableEq, Repr

/-- A row operation (R377, R378). -/
structure NmOp where
  id    : Nat
  uid   : Nat
  ctx   : Nat
  sysT  : Bool
  core  : Nat
  zero  : Bool
  sd    : DWord
  ss    : DWord
  n     : Nat
  row   : Nat := 0
  sig   : Sig
  ui    : Bool
  word  : Pc
  lanes : LaneMask
  /-- At the head of its queue, steps 1 and 2 of R185 done. -/
  going : Bool := false
  /-- Waits for this page, by its first 4 KiB; pages that the kernel has refused. -/
  halted : Option Nat := none
  refused : List Nat := []
  /-- Ended before its last row. -/
  past   : Bool := false
  /-- Drone at which the row pair under way ends, and the banks that it uses (R420). -/
  till   : Nat := 0
  banks  : List Nat := []
  /-- Drone to which it yields: a refresh that waited for a bank of its pair has then run (R186). -/
  yield  : Nat := 0
  /-- Lines that the operation has written. -/
  wrote  : SMap (BitVec 1024) := []
deriving DecidableEq, Repr

/-- An HBM stack (R88, R184 to R186, R378): queues of row operations by pseudo-channel; by bank, 64 x pseudo-channel + bank,
the drone at which the refreshes owed to it have run. -/
structure Stack where
  queues  : SMap (List NmOp) := []
  retired : List Nat := []
  fresh   : SMap Nat := []
deriving DecidableEq, Repr

/-- A flue port beyond FLUECTL (R36). -/
structure Port where
  retrain : Bool := false
  held    : List Msg := []
  /-- Sequence number of the next flit sent (R36). -/
  seq     : Nat := 0
  spare   : Bool := false
deriving DecidableEq, Repr

/-- A context beyond its descriptor in memory (R67, R264). -/
structure CtxS where
  hostq    : List (List Byte) := []
  codeBase : Nat := 0
deriving DecidableEq, Repr

/-- What is known of one 128-byte line below L1 (R10, R14, R81, R84, R187). -/
structure LineS where
  key    : Nat := 0
  gen    : Nat := 0
  clear  : Bool := false
  poison : Bool := false
  /-- The way of its set that holds the line in the home's L2 (R10, R424). -/
  way    : Option Nat := none
  dirty  : Bool := false
deriving DecidableEq, Repr

/-- A decrement on its way to a task (R94, R96). -/
structure DecS where
  ctx    : Nat
  handle : DWord
  bySrc  : DWord
  poison : Bool
  /-- Signalled with a flag (R306). -/
  sig    : Sig := .none
  /-- The decrements of one ending task are performed in the order in which they were sent (R95); 0 for others. -/
  batch  : Nat := 0
  /-- The core from whose router it was sent (R24); 0xFFFF where none is named. -/
  src    : Nat := 0xFFFF
deriving DecidableEq, Repr

/-- A replicable fill on its way, or an invalidation (R33, R34). -/
structure FillS where
  fl   : Nat
  line : Nat
  data : BitVec 1024
  /-- The context that it fills for, 256 for none (R132). -/
  ctx  : Nat := 256
deriving DecidableEq, Repr

structure InvS where
  fl      : Nat
  granule : Nat
  /-- The cores whose releases wait for it: those whose writes caused it, and those that have acquired since (R191, R193). -/
  cores   : List Nat
deriving DecidableEq, Repr

/-- A notice that its producer holds (R72): queue 0 to 3, or 4 + context for a trap queue. -/
structure NoticeS where
  queue : Nat
  bytes : List Byte
deriving DecidableEq, Repr

/-- What a flag of a system instruction waits for (R402, R406, R407). -/
inductive WaitFor where
  | parked (ctx : Nat)
  | gated (fl : Nat)
  | notBusy (fl : Nat)
  /-- SLCFG that found BUSY and applies L2UNITS afterwards. -/
  | slcfg (fl : Nat)
  /-- Accesses translated with an entry that TLBINV has dropped (R403): sub-blocks by id, and the bytes covered. -/
  | subs (ctx lo hi : Nat) (ids : List Nat)
deriving DecidableEq, Repr

structure Waiter where
  what : WaitFor
  sig  : Sig
deriving DecidableEq, Repr

/-- A placed gang (R129, R130): its gang number, members by context and handle, the requests of its teams, the tick at which it
starts, once every reservation is live, and the members that could not start at it and wait for a later tick (R132). -/
structure GangS where
  gang    : Nat
  members : List (Nat × DWord)
  teams   : List (Nat × Nat)
  tick    : Option Nat := none
  held    : List (Nat × DWord) := []
deriving DecidableEq, Repr

/-- The boot and its measurements (R76 to R80). -/
structure Boot where
  slots  : SMap (List Byte) := []
  /-- The advances of the anti-rollback counter; none: as fused. -/
  svn    : Option (BitVec 32) := none
  linkUp : Bool := false
  /-- The images of the boot under way, from the next stage on; the key for stage 4. -/
  images : List BootImage := []
  /-- The recovery image being verified (R78). -/
  recov  : Option BootImage := none
  key4   : List Byte := []
deriving DecidableEq, Repr

/-- What stream B of a slot sees (R138, R140, R149): its path, the flags, the v and s registers and the empty v registers as they
stood at issue, and the s registers that stream A has written. -/
structure Second where
  sr     : SMap DWord
  empt   : List Nat
  locked : List Nat
  v      : SMap Word
  recents : List Recent
  f      : SMap Nat
  path   : Path
deriving DecidableEq, Repr

/-- The issue under way (R117 to R119, R138). -/
structure Cur where
  g      : Nat
  pc     : Pc
  lanes  : LaneMask
  word   : IWord
  next   : IWord
  /-- Why `next` could not be fetched: a page that is not resident, or a trap with its address and AUX (R264, R272). -/
  away   : Option (Option (Nat × DWord × DWord)) := none
  /-- Stream B of a slot. -/
  second : Option Second := none
deriving DecidableEq, Repr

/-- The machine. -/
structure State where
  fab      : Nat := 0
  droneE   : Nat := 0
  /-- `droneE` before the present fabric cycle. -/
  prevE    : Nat := 0
  slew     : Int := 0
  firstLock : Bool := false
  lastSync : Nat := 0
  /-- A context has been resident (R41). -/
  ctxSeen  : Bool := false
  agenda   : List Turn := []
  cur      : Option Cur := none
  free     : Nat := 0
  nextUid  : Nat := 1
  sys      : SMap DWord := []
  mem      : List Host.Cell := []
  lines    : SMap LineS := []
  flasks   : SMap Flask := []
  pclus    : SMap PClus := []
  cores    : SMap Core := []
  hbm   : SMap Stack := []
  ports    : SMap Port := []
  ctxs     : SMap CtxS := []
  groups   : SMap Group := []
  parked   : List Parked := []
  teams    : List Team := []
  grids    : List Grid := []
  tasks    : List TaskE := []
  ops      : SMap Op := []
  results  : List Res := []
  preqs    : List Preq := []
  blocks   : List Block := []
  subs     : List Sub := []
  consorts : List Consort := []
  entries  : List Entry := []
  nmWait   : List NmOp := []
  decs     : List DecS := []
  msgs     : List Msg := []
  invs     : List InvS := []
  fills    : List FillS := []
  notices  : List NoticeS := []
  cupolaIrq : SMap Nat := []
  gangs    : List GangS := []
  /-- Complete gangs too big even for an idle module, GANG_FIT sent (R129). -/
  gangStuck : List Nat := []
  /-- The order in which gangs have become complete (R129). -/
  gangAt   : SMap Nat := []
  /-- Poisoned decrements that have reached the records of tasks to come: context, handle, first source (R97, R102). -/
  early    : List (Nat × DWord × DWord) := []
  waiters  : List Waiter := []
  /-- Flags of a group that ended its task by PHASE count down this task instead (R100). -/
  redirects : SMap (Nat × DWord) := []
  svc      : Option DWord := none
  /-- The work of the service command is done, and SVC_DONE is due (R85). -/
  svcFin   : Bool := false
  retired  : List DWord := []
  /-- Code granules that slots and images name: context, identifier, flask, granule (R231, R241); and the regions that a write
  has made invalid. -/
  granules : List (Nat × Nat × Nat × Nat) := []
  fitInval : List (Nat × Nat) := []
  /-- Pages of the staging window by unit of 2 MiB: key of the first byte, key identifier (R66). -/
  staging  : SMap (Nat × Nat) := []
  /-- What the management controller has last answered (R75, R80). -/
  mgmtOut  : List Byte := []
  /-- What the host's last read has returned (R66, R67, R70). -/
  hostOut  : List Byte := []
  /-- Corrected errors by storage kind and unit: kind x 2^32 + unit (R74, R187). -/
  corrected : SMap Nat := []
  boot     : Boot := {}
deriving DecidableEq, Repr

/-- The module right after reset: every field at the value the spec gives, or at the value that log entry 3 names.
System registers that no write has changed read their reset values (`Sys2Proof.Machine.sysReset`); five measurement
slots hold 64 zero bytes (R80) where `boot.slots` lists nothing. -/
def State.reset : State := {}

end Sys2Proof.Machine
end

