-- ==== Sys2Proof/Machine/Mem.lean ====
section
/-! DEFINITION. Bytes of memory in canonical form: addresses strictly rising, no listed byte 0, which is what an unlisted
address reads as (log entry 6). -/

namespace Sys2Proof.Machine

/-- What an unlisted address reads as (log entry 6). -/
def blankByte : Byte := 0

/-- The byte at an address. Log entry 6. -/
def memByte : List Host.Cell → Nat → Byte
  | [], _ => blankByte
  | (a, b) :: r, k => if a = k then b else if k < a then blankByte else memByte r k

/-- Put a byte; the form stays canonical. -/
def memPut : List Host.Cell → Nat → Byte → List Host.Cell
  | [], k, x => if x = blankByte then [] else [(k, x)]
  | (a, y) :: r, k, x =>
    if a = k then (if x = blankByte then r else (k, x) :: r)
    else if k < a then (if x = blankByte then (a, y) :: r else (k, x) :: (a, y) :: r)
    else (a, y) :: memPut r k x

/-- Put bytes at rising addresses, lowest first. -/
def memWrite (m : List Host.Cell) : Nat → List Byte → List Host.Cell
  | _, [] => m
  | a, b :: r => memPut (memWrite m (a + 1) r) a b

/-- `n` bytes from an address. -/
def memRead (m : List Host.Cell) (a : Nat) : Nat → List Byte
  | 0 => []
  | n + 1 => memByte m a :: memRead m (a + 1) n

/-- Every address is above `lo`, addresses rise, and no listed byte is blank. -/
def memWfFrom : Nat → List Host.Cell → Bool
  | _, [] => true
  | lo, (a, b) :: r => decide (lo ≤ a) && b != blankByte && memWfFrom (a + 1) r

/-- The canonical form of memory. -/
def Memory.wf (m : List Host.Cell) : Bool := memWfFrom 0 m

/-- Key of a byte: tier × 2^50 + physical address (R17). -/
def pkey (tier pa : Nat) : Nat := tier * 2 ^ 50 + pa % 2 ^ 50

/-- Tier of a key (R17, R166): 0 HBM, 1 SRAM tier, 2 host, 3 peer. -/
def keyTier (k : Nat) : Nat := k / 2 ^ 50

/-- Physical address of a key. -/
def keyPa (k : Nat) : Nat := k % 2 ^ 50

/-- Line of a key: 128 bytes. -/
def keyLine (k : Nat) : Nat := k / 128

end Sys2Proof.Machine
end

