-- ==== Sys2Proof/Machine/Sys.lean ====
section
/-! DEFINITION. System registers by selector, number × 4,096 + instance (R399), with their reset values, and the drone. -/

namespace Sys2Proof.Machine

/-- Selector of a register (R399). -/
def sel (num inst : Nat) : Nat := num * 4096 + inst

/-- DEVIDENT (R4): VENDOR, PART, MAJOR, MINOR, ASSY, FLASKS. -/
def devident : DWord :=
  BitVec.ofNat 64 (0x4B4D * 2 ^ 48 + 0x3251 * 2 ^ 32 + 1 * 2 ^ 28 + (Config.assyFuse % 255 + 1) * 2 ^ 16 + 32 * 2 ^ 8)

/-- The reset value of a register: the value each register's table gives. -/
def sysReset (x : Nat) : DWord :=
  match x / 4096 with
  | 0 => devident
  | 1 => 0x4004
  | 2 => 0x888444222111
  | 3 => 0x40000020
  | 4 => 0xF00
  | 5 => 0xFF000000000000
  | 6 => 52500
  | 7 => 0x0800
  | 8 => 0x0100
  | 9 => BitVec.ofNat 64 (52500 * 2 ^ 32 + 48)
  | 12 => BitVec.ofNat 64 (105 * 2 ^ 24 + 95 * 2 ^ 16 + 15 * 2 ^ 8 + 15 * 2 ^ 4)
  | 13 => 15
  | 14 => 65536
  | 15 => BitVec.ofNat 64 (2 ^ 32 + 2048)
  | 16 => 1048576
  | 17 => 32
  | 18 => if x % 4096 = 0 then 1 else 0
  | 21 => BitVec.ofNat 64 (4 * 2 ^ 44 + 2 ^ 16)
  | 22 => BitVec.ofNat 64 (4 * 2 ^ 6)
  | _ => 0

/-- The stored value of a register. -/
def sysVal (s : State) (x : Nat) : DWord := mget s.sys x (sysReset x)

/-- Store a register. -/
def setSys (s : State) (x : Nat) (v : DWord) : State := { s with sys := mput s.sys x v }

/-- Change a field of a register. -/
def setSysFld (s : State) (x lo n v : Nat) : State := setSys s x (setFld (sysVal s x) lo n v)

/-- A field of a register. -/
def sysFld (s : State) (x lo n : Nat) : Nat := fld (sysVal s x) lo n

/-- The module reference in whole nanoseconds (R39). -/
def drone (s : State) : Nat := s.droneE / 8

/-- A flask's count (R39): within 2 ns of the reference, never decreasing. Log entry 30. -/
def flaskDrone (s : State) (fl : Nat) : Nat := (s.droneE + Config.droneSkew fl % 33 - 16) / 8

/-- Flask of a core (R6). -/
def coreFlask (c : Nat) : Nat := c / 16

/-- Power cluster and TLB domain of a core (R43, R167). -/
def coreDomain (c : Nat) : Nat := c / 4

/-- Slot key of a group. -/
def slotKey (core quarter slot : Nat) : Nat := 64 * core + 16 * quarter + slot

def slotCore (g : Nat) : Nat := g / 64
def slotQuarter (g : Nat) : Nat := g / 16 % 4
def slotSlot (g : Nat) : Nat := g % 16

/-- Operating point in force (R58). -/
def curPt (s : State) (fl : Nat) : Nat := sysFld s (sel 13 fl) 0 4

/-- Compute clock in MHz at a point (R19). -/
def ptMHz (n : Nat) : Nat := 600 + 100 * n

/-- Supply in mV at a point (R19). -/
def ptMv (n : Nat) : Nat := 620 + 20 * n

/-- Current SRAM-tier size of a flask in bytes (R10, R15): while BUSY, the smaller of the old and new sizes. -/
def tierSize (s : State) (fl : Nat) : Nat :=
  let cur := 12 - sysFld s (sel 1 fl) 12 4
  let f := mget s.flasks fl {}
  let units := match f.repart with
    | some n => min cur (12 - n)
    | none => cur
  units * 2 ^ 26

end Sys2Proof.Machine
end

