-- ==== Sys2Proof/Machine/Regs.lean ====
section
/-! DEFINITION. Registers of a group, as a stream reads and writes them (R147 to R152, R265 to R267). -/

namespace Sys2Proof.Machine

/-- The group in a slot. -/
def groupAt (s : State) (g : Nat) : Option Group := mget? s.groups g

def setGroup (s : State) (g : Nat) (x : Group) : State := { s with groups := mput s.groups g x }

/-- Change the group in a slot, if there is one. -/
def modGroup (s : State) (g : Nat) (f : Group → Group) : State :=
  match mget? s.groups g with
  | some x => setGroup s g (f x)
  | none => s

/-- The slot where a group of this identity is resident. -/
def slotOf (s : State) (uid : Nat) : Option Nat := (s.groups.find? fun p => p.2.uid == uid).map (·.1)

/-- A resident group by identity. -/
def groupOf (s : State) (uid : Nat) : Option Group := (s.groups.find? fun p => p.2.uid == uid).map (·.2)

/-- Change a resident group by identity. -/
def modUid (s : State) (uid : Nat) (f : Group → Group) : State :=
  match slotOf s uid with
  | some g => modGroup s g f
  | none => s

def coreAt (s : State) (c : Nat) : Core := mget s.cores c {}
def setCore (s : State) (c : Nat) (x : Core) : State := { s with cores := mput s.cores c x }
def modCore (s : State) (c : Nat) (f : Core → Core) : State := setCore s c (f (coreAt s c))

def flaskAt (s : State) (fl : Nat) : Flask := mget s.flasks fl {}
def setFlask (s : State) (fl : Nat) (x : Flask) : State := { s with flasks := mput s.flasks fl x }
def modFlask (s : State) (fl : Nat) (f : Flask → Flask) : State := setFlask s fl (f (flaskAt s fl))

def clusAt (s : State) (c : Nat) : PClus := mget s.pclus c {}
def setClus (s : State) (c : Nat) (x : PClus) : State := { s with pclus := mput s.pclus c x }
def modClus (s : State) (c : Nat) (f : PClus → PClus) : State := setClus s c (f (clusAt s c))

def teamOf (s : State) (uid : Nat) : Option Team := s.teams.find? fun t => t.uid == uid
def modTeam (s : State) (uid : Nat) (f : Team → Team) : State :=
  { s with teams := updFirst (fun t => t.uid == uid) f s.teams }

def gridOf (s : State) (uid : Nat) : Option Grid := s.grids.find? fun t => t.uid == uid
def modGrid (s : State) (uid : Nat) (f : Grid → Grid) : State :=
  { s with grids := updFirst (fun t => t.uid == uid) f s.grids }

def taskOf (s : State) (ctx : Nat) (h : DWord) : Option TaskE := s.tasks.find? fun t => t.ctx == ctx && t.handle == h
def modTask (s : State) (ctx : Nat) (h : DWord) (f : TaskE → TaskE) : State :=
  { s with tasks := updFirst (fun t => t.ctx == ctx && t.handle == h) f s.tasks }

/-- A fresh identity. -/
def freshUid (s : State) : Nat × State := (s.nextUid, { s with nextUid := s.nextUid + 1 })

/-- A fresh draw of free values (log entry 4). -/
def draw (s : State) : Nat × State := (s.free, { s with free := s.free + 1 })

/-- A, the register count of a group: REGS rounded up to 8 (R147, R116). -/
def regCount (g : Group) : Nat := (g.regs + 7) / 8 * 8

/-- The lanes that have not exited (R135, R141). -/
def aliveLanes (g : Group) : LaneMask := g.paths.foldl (fun acc p => acc ||| p.lanes) 0

/-- The stored value of a v register in a lane (R147); storage nothing has written reads zero or a free value (R84).
Log entry 4. -/
def vRaw (g : Group) (r l : Nat) : Word :=
  match mget? g.v (r * 128 + l) with
  | some x => x
  | none => match g.vseed with
    | some n => if g.clean.contains (r / 8) then 0 else Config.freeWord n (r * 128 + l)
    | none => 0

/-- The stored value of an s register. Log entry 4. -/
def sRaw (g : Group) (k : Nat) : DWord :=
  match mget? g.s k with
  | some x => x
  | none => match g.seed with
    | some n => Config.freeDWord n k
    | none => 0

/-- The stored lanes of a predicate; p7 reads true (R147). Log entry 4. -/
def pRaw (g : Group) (k : Nat) : LaneMask :=
  if k = 7 then BitVec.allOnes 128
  else match mget? g.p k with
    | some x => x
    | none => match g.seed with
      | some n => Config.freeMask n k
      | none => 0

/-- A read of a fixed-latency result before it is due gives the old or the new value (R151): the first entry that a free
bit picks, or the stored value. Log entry 4. -/
def early (draw cyc kind r l : Nat) (now : DWord) : List Recent → DWord
  | [] => now
  | x :: xs =>
    if x.kind = kind && x.reg = r && x.lane = l && cyc < x.due && Config.freeBit draw (kind * 2 ^ 20 + r * 256 + l) then x.old
    else early draw cyc kind r l now xs

/-- What one issuing stream sees: the registers as they stood at issue (R140). -/
structure Env where
  g     : Nat
  grp   : Group
  core  : Nat
  cyc   : Nat
  pc    : Pc
  /-- Lanes of the stream. -/
  lanes : LaneMask
  /-- Lanes of the stream whose guard is true. -/
  act   : LaneMask
  /-- s registers as at issue (R149). -/
  sr    : SMap DWord
  /-- v registers, and the results not yet due, as at issue (R140). -/
  vr    : SMap Word
  rc    : List Recent
  /-- s registers that stream A of the slot has written: its values remain (R149). -/
  lockS : List Nat := []
  free  : Nat
deriving DecidableEq, Repr

/-- A v register in a lane. -/
def Env.v (e : Env) (r l : Nat) : Word :=
  let now := vRaw { e.grp with v := e.vr } r l
  match e.rc with
  | [] => now
  | rs => (early e.free e.cyc 0 r l (now.setWidth 64) rs).setWidth 32

/-- The stream may write an s register (R149). -/
def Env.mayS (e : Env) (k : Nat) : Bool := !e.lockS.contains k

/-- A v pair in a lane: low word in the even register (R147). -/
def Env.v64 (e : Env) (r l : Nat) : DWord := e.v (r + 1) l ++ e.v r l

/-- An s register. -/
def Env.s (e : Env) (k : Nat) : DWord :=
  let now := sRaw { e.grp with s := e.sr } k
  match e.rc with
  | [] => now
  | rs => early e.free e.cyc 1 k 0 now rs

/-- A predicate in a lane. -/
def Env.p (e : Env) (k l : Nat) : Bool :=
  let now := inLanes (pRaw e.grp k) l
  match e.rc with
  | [] => now
  | rs => (early e.free e.cyc 2 k l (if now then 1 else 0) rs) != 0

/-- The register that a queue source names: v[RBASE + head] (R126). -/
def ringReg (r : Ring) : Nat := r.rbase + (if r.depth = 0 then 0 else r.head % r.depth)

def ringOf (g : Group) (k : Nat) : Ring := mget g.q k {}

/-- The v register that a source reads, if it reads one. -/
def srcReg (g : Group) : Src → Option Nat
  | .v n => some n.toNat
  | .q n => some (ringReg (ringOf g n.toNat))
  | _ => none

/-- A 10-bit immediate, sign-extended (R267). -/
def immInt (n : BitVec 10) : Int := n.toInt

/-- A source as 32 bits (R267): the low half of an s register. -/
def Env.src32 (e : Env) (x : Src) (l : Nat) : Word :=
  match x with
  | .v n => e.v n.toNat l
  | .s n => (e.s n.toNat).setWidth 32
  | .q n => e.v (ringReg (ringOf e.grp n.toNat)) l
  | .imm n => n.signExtend 32

/-- A source as 64 bits (R267). -/
def Env.src64 (e : Env) (x : Src) (l : Nat) : DWord :=
  match x with
  | .v n => e.v64 n.toNat l
  | .s n => e.s n.toNat
  | .q n => e.v64 (ringReg (ringOf e.grp n.toNat)) l
  | .imm n => n.signExtend 64

/-- An s register or an immediate as 64 bits. -/
def Env.simm (e : Env) : SImm → DWord
  | .s n => e.s n.toNat
  | .imm n => n.signExtend 64

/-- The guard of a lane (R265): bit 3 negates. -/
def guardLane (g : BitVec 4) (p : Bool) : Bool := if g.getLsbD 3 then !p else p

/-- The lanes of a stream whose guard is true. -/
def guardMask (e : Env) (h : Hdr) : LaneMask :=
  if h.guard = 7 then e.lanes
  else maskOf ((lanesOf e.lanes).filter fun l => guardLane h.guard (e.p (h.guard.toNat % 8) l))

/-- The fields of FSTAT and of MSTAT; the other bits read zero (R2, R209, R222). -/
def fstatBits : DWord := 0x11F
def mstatBits : DWord := 0xF

/-! Writes. Each keeps the old value for R151 where the result is fixed-latency. -/

/-- Write a v register in a lane. -/
def putV (g : Group) (r l : Nat) (w : Word) : Group := { g with v := mput g.v (r * 128 + l) w }

/-- Write an s register. -/
def putS (g : Group) (k : Nat) (x : DWord) : Group := { g with s := mput g.s k x }

/-- Write a predicate in a lane; a write to p7 is dropped (R147). -/
def putP (g : Group) (k l : Nat) (b : Bool) : Group :=
  if k = 7 then g else { g with p := mput g.p k (setLane (pRaw g k) l b) }

/-- A fixed-latency write of a v register (R151). -/
def fixV (due r l : Nat) (w : Word) (g : Group) : Group :=
  { putV g r l w with recents := { kind := 0, reg := r, lane := l, old := (vRaw g r l).setWidth 64, due := due } :: g.recents }

/-- A fixed-latency write of an s register. -/
def fixS (due k : Nat) (x : DWord) (g : Group) : Group :=
  { putS g k x with recents := { kind := 1, reg := k, lane := 0, old := sRaw g k, due := due } :: g.recents }

/-- A fixed-latency write of a predicate. -/
def fixP (due k l : Nat) (b : Bool) (g : Group) : Group :=
  if k = 7 then g
  else { putP g k l b with
    recents := { kind := 2, reg := k, lane := l, old := if inLanes (pRaw g k) l then 1 else 0, due := due } :: g.recents }

/-- A variable-latency value arrives at a destination of kind `kind` (that of `Recent`): where a fixed-latency result for it is not
yet due, that result comes later and stays, and until it is due an early read gives the value that arrived (R151, R152). -/
def arrive (cyc kind r l : Nat) (x : DWord) (put : Group → Group) (g : Group) : Group :=
  let late := fun (q : Recent) => q.kind == kind && q.reg == r && q.lane == l && decide (cyc < q.due)
  if g.recents.any late then
    { g with recents := (updFirst late (fun q => { q with old := x }) g.recents.reverse).reverse }
  else put g

def arriveV (cyc r l : Nat) (w : Word) (g : Group) : Group := arrive cyc 0 r l (w.setWidth 64) (fun g => putV g r l w) g
def arriveS (cyc k : Nat) (x : DWord) (g : Group) : Group := arrive cyc 1 k 0 x (fun g => putS g k x) g
def arriveP (cyc k l : Nat) (b : Bool) (g : Group) : Group := arrive cyc 2 k l (if b then 1 else 0) (fun g => putP g k l b) g

/-- Results that are due are old no more, nor is what an earlier instruction has still to write where a later one's result is
due, the latest first (R151). -/
def retireDue (cyc : Nat) : List Recent → List Recent
  | [] => []
  | x :: xs =>
    if cyc < x.due then x :: retireDue cyc xs
    else (retireDue cyc xs).filter fun y => !(y.kind == x.kind && y.reg == x.reg && y.lane == x.lane)

/-- The group once what is due has been written. -/
def retire (cyc : Nat) (g : Group) : Group := { g with recents := retireDue cyc g.recents }

/-- Write a 64-bit pair in a lane. -/
def fixV64 (due r l : Nat) (x : DWord) (g : Group) : Group :=
  fixV due (r + 1) l (x.extractLsb' 32 32) (fixV due r l (x.setWidth 32) g)

/-- Write many lanes. -/
def fixLanes (due r : Nat) (f : Nat → Word) (ls : List Nat) (g : Group) : Group :=
  ls.foldl (fun acc l => fixV due r l (f l) acc) g

def fixLanes64 (due r : Nat) (f : Nat → DWord) (ls : List Nat) (g : Group) : Group :=
  ls.foldl (fun acc l => fixV64 due r l (f l) acc) g

/-- A v register is empty (R152). -/
def isEmpty (g : Group) (r : Nat) : Bool := g.empt.contains r

/-- Mark registers empty. -/
def markEmpty (rs : List Nat) (g : Group) : Group :=
  { g with empt := rs.foldl (fun acc r => if acc.contains r then acc else r :: acc) g.empt }

/-- Mark registers full. -/
def markFull (rs : List Nat) (g : Group) : Group := { g with empt := g.empt.filter fun r => !rs.contains r }

/-- A register lies in a configured ring (R126). -/
def inRing (g : Group) (r : Nat) : Option Nat :=
  (g.q.find? fun p => p.2.conf && p.2.rbase ≤ r && r < p.2.rbase + p.2.depth).map (·.1)

/-- Flag `k` (R152). -/
def flagOf (g : Group) (k : Nat) : Nat := mget g.f k 0

def setFlag (g : Group) (k n : Nat) : Group := { g with f := mput g.f k n }

end Sys2Proof.Machine
end

