-- ==== Sys2Proof/Machine/Home.lean ====
section
/-! DEFINITION. Home slices, the lines below L1, keys, the replication directory and replicas (R10, R14, R15, R17, R26 to
R35, R81 to R84, R88, R187, R423). -/

namespace Sys2Proof.Machine

/-- Home flask of a byte (R26). -/
def homeFlask (k : Nat) : Nat :=
  let pa := keyPa k
  let g := pa / 4096 % 4
  match keyTier k with
  | 0 => 4 * (pa / 2 ^ 36 % 16 / 2) + g
  | 1 => pa / 2 ^ 30 % 32
  | 2 => g
  | _ => if pa / 2 ^ 43 % 16 < 6 then g else 28 + g

/-- Parity of a number below 2^12. -/
def parity12 (x : Nat) : Bool := ((List.range 12).foldl (fun acc i => acc + x / 2 ^ i % 2) 0) % 2 == 1

/-- The slice of a flask that a byte falls to, under the flask's masks (R27). -/
def sliceIn (s : State) (fl k : Nat) : Nat :=
  let x := BitVec.ofNat 12 (keyPa k / 128)
  let m := (flaskAt s fl).masks
  (List.range 4).foldl (fun acc i =>
    acc + (if parity12 (x &&& m.extractLsb' (12 * i) 12).toNat then 2 ^ i else 0)) 0

/-- Logical slice of a byte within its home flask (R27). -/
def homeSlice (s : State) (k : Nat) : Nat := sliceIn s (homeFlask k) k

/-- The address lies within its tier (R15, R17, R30, R88): for tier 11, the fields of R30 only. -/
def frameOk (s : State) (k : Nat) : Bool :=
  let pa := keyPa k
  match keyTier k with
  | 0 => pa < 2 ^ 40 && !((mget s.hbm (pa / 2 ^ 36) {}).retired.contains (pa / 2 ^ 31 % 32))
  | 1 => pa < 2 ^ 35 && pa % 2 ^ 30 < tierSize s (pa / 2 ^ 30)
  | 2 => true
  | _ =>
    let port := pa / 2 ^ 43 % 16
    pa < 2 ^ 47 && port < 12 && sysFld s (sel 4 port) 16 1 == 1 && sysFld s (sel 4 port) 4 4 == 1
      && (if pa / 2 ^ 42 % 2 = 0 then pa % 2 ^ 42 < 2 ^ 40 else pa % 2 ^ 42 < 2 ^ 35)

/-- A line at a peer. -/
def atPeer (line : Nat) : Bool := keyTier (128 * line) == 3

/-- A line at a peer whose port retrains with its link up: the flits that name it are held (R36). Log entry 48. -/
def portHeld (s : State) (line : Nat) : Bool :=
  let port := keyPa (128 * line) / 2 ^ 43 % 16
  atPeer line && (mget s.ports port {}).retrain && sysFld s (sel 4 port) 16 1 == 1

/-- A key identifier is live (R82, R83). -/
def keyLive (s : State) (kid : Nat) : Bool := sysFld s (sel 18 kid) 0 2 == 1

/-- GEN of an identifier (R82). -/
def keyGen (s : State) (kid : Nat) : Nat := sysFld s (sel 18 kid) 16 8

/-- A line of the SRAM tier lies in a unit that a repartition has zeroed (R10, R13): unit `u` holds offsets
(11 - u) x 64 MiB to (12 - u) x 64 MiB - 1. -/
def unitClear (s : State) (line : Nat) : Bool :=
  let pa := keyPa (128 * line)
  keyTier (128 * line) == 1 && (flaskAt s (pa / 2 ^ 30)).clearUnits.contains (11 - pa % 2 ^ 30 / 2 ^ 26)

/-- What is known of a line: of one that nothing has reached, only that its unit has been zeroed (R14). -/
def lineAt? (s : State) (line : Nat) : Option LineS :=
  match mget? s.lines line with
  | some i => some i
  | none => if unitClear s line then some { clear := true } else none

/-- The line's content reads under this identifier (R81, R84): another key's bytes are unpredictable. Tiers 10 and 11
are not enciphered. Log entries 6 and 46. -/
def readsUnder (s : State) (k kid : Nat) : Bool :=
  if 2 ≤ keyTier k then true
  else match lineAt? s (keyLine k) with
    | none => true
    | some i => i.clear || (i.key == kid && i.gen == keyGen s kid)

/-- The byte at home, read under a key identifier (R14, R84). -/
def homeByte (s : State) (kid k : Nat) : Byte :=
  match lineAt? s (keyLine k) with
  | none => memByte s.mem k
  | some i => if i.clear then 0 else if readsUnder s k kid then memByte s.mem k else Config.freeByte s.free k

/-- Bytes at home. -/
def homeBytes (s : State) (kid k : Nat) : Nat → List Byte
  | 0 => []
  | n + 1 => homeByte s kid k :: homeBytes s kid (k + 1) n

/-- The whole line at home. -/
def homeLine (s : State) (kid line : Nat) : BitVec 1024 := lineOfBytes (homeBytes s kid (128 * line) 128)

def linePoison (s : State) (line : Nat) : Bool := (mget s.lines line {}).poison

/-- What is known of a line, with the key of the first access where nothing is known. Log entry 6. -/
def lineFor (s : State) (kid line : Nat) : LineS :=
  (lineAt? s line).getD { key := kid, gen := keyGen s kid }

def setLine (s : State) (line : Nat) (x : LineS) : State := { s with lines := mput s.lines line x }

/-! ### The L2 of a flask (R10, R13, R132, R424) -/

/-- The home's L2 holds the line. -/
def LineS.inL2 (i : LineS) : Bool := i.way.isSome

/-- CURL2 of a flask. -/
def curL2 (s : State) (fl : Nat) : Nat := sysFld s (sel 1 fl) 12 4

/-- Ways of a set that the L2 may use: 4 of each unit, of the smaller count while a repartition is under way (R10, R13).
Log entry 20. -/
def l2Limit (s : State) (fl : Nat) : Nat := 4 * min (curL2 s fl) ((flaskAt s fl).repart.getD (curL2 s fl))

/-- Set of a line within its slice (R424). -/
def l2Set (line : Nat) : Nat :=
  let pa := keyPa (128 * line)
  (pa / 2 ^ 20 % 2 ^ 13) ^^^ (pa / 2 ^ 7 % 2 ^ 13)

/-- The quiet contexts that have ways of their own, with their counts, in increasing context (R131, R132). -/
def quietParts (s : State) : List (Nat × Nat) :=
  (s.sys.filter fun p => p.1 / 4096 == 22 && bit p.2 0 && fld p.2 10 6 != 0).map fun p => (p.1 % 4096, fld p.2 10 6)

/-- The ways that the fills of a context may use (R132): its own, or those that no quiet context keeps; never one that the L2 has
given up (R13). Log entry 20. -/
def l2Ways (s : State) (fl ctx : Nat) : List Nat :=
  let parts := quietParts s
  let base := (parts.takeWhile fun p => p.1 != ctx).foldl (fun n p => n + p.2) 0
  let n := match parts.find? fun p => p.1 == ctx with
    | some p => p.2
    | none => l2Limit s fl - base
  ((List.range n).map (· + base)).filter fun w => decide (w < l2Limit s fl)

/-- What stands in the set of a line in a flask's slice: way, whether it is a replica, line. -/
def l2Held (s : State) (fl line : Nat) : List (Nat × Bool × Nat) :=
  let same := fun (x : Nat) => l2Set x == l2Set line && sliceIn s fl (128 * x) == sliceIn s fl (128 * line)
  let mine := s.lines.filter fun p => p.2.inL2 && homeFlask (128 * p.1) == fl && same p.1
  let reps := (flaskAt s fl).replicas.filter fun p => same p.1
  (mine.map fun p => (p.2.way.getD 0, false, p.1)) ++ reps.map fun p => (p.2.way, true, p.1)

/-- A line leaves the home's L2; what it held dirty goes to the level below, whose bytes `State.mem` holds. -/
def leaveL2 (s : State) (line : Nat) : State :=
  match mget? s.lines line with
  | some i => setLine s line { i with way := none, dirty := false }
  | none => s

/-- What a way of a set holds leaves it: a line, or a replica, which is dropped (R13). -/
def clearWay (s : State) (fl : Nat) (held : List (Nat × Bool × Nat)) (way : Nat) : State :=
  held.foldl (fun s x =>
    if x.1 != way then s
    else if x.2.1 then modFlask s fl fun f => { f with replicas := mdel f.replicas x.2.2 }
    else leaveL2 s x.2.2) s

/-- A way for a line that a context fills: a free one, else one of them is taken, which the spec leaves open (R132, R424); none
while a repartition leaves the context no way (R13). Log entry 20. -/
def l2Place (s : State) (fl ctx line : Nat) : Option Nat × State :=
  let held := l2Held s fl line
  let ways := l2Ways s fl ctx
  match ways.find? fun w => !held.any fun x => x.1 == w with
  | some w => (some w, s)
  | none =>
    let (d, s) := draw s
    match ways[Config.freeNat d line % max 1 ways.length]? with
    | some w => (some w, clearWay s fl held w)
    | none => (none, s)

/-- Every way that might hold a line in place of this one is taken. Log entry 20. -/
def l2Full (s : State) (fl line way : Nat) : Bool :=
  let held := l2Held s fl line
  let ctx := ((quietParts s).find? fun p => (l2Ways s fl p.1).contains way).map (·.1)
  (l2Ways s fl (ctx.getD 256)).all fun w => held.any fun x => x.1 == w

/-- A read at home fills the home's L2 for a context, 256 for none (R161), its tag the key identifier, of a line whose clear bit is
set too (R14, R81); lines of tiers 10 and 11 are never held there (R29). Log entry 46. -/
def touchL2 (s : State) (ctx kid line : Nat) : State :=
  if 2 ≤ keyTier (128 * line) then s
  else if (lineFor s kid line).inL2 then s
  else
    let (w, s) := l2Place s (homeFlask (128 * line)) ctx line
    let i := lineFor s kid line
    setLine s line { i with way := w, key := if i.clear then kid else i.key }

/-- The bytes that another key's content reads as become the line's content before bytes are merged into it (R84). -/
def settleLine (s : State) (kid line : Nat) : State :=
  if readsUnder s (128 * line) kid then
    (if (lineFor s kid line).clear then { s with mem := memWrite s.mem (128 * line) (List.replicate 128 0) } else s)
  else { s with mem := memWrite s.mem (128 * line) (homeBytes s kid (128 * line) 128) }

/-- Granule of a byte (R31). -/
def granuleOf (k : Nat) : Nat := k / 4096

/-- Lines of a granule. -/
def granuleLines (gr : Nat) : List Nat := (List.range 32).map fun i => gr * 32 + i

/-- Flasks of a sharer vector. -/
def sharerList (x : BitVec 32) : List Nat := (List.range 32).filter fun i => x.getLsbD i

/-- Return a granule to MS by the write procedure of R34: invalidations go to every sharer other than the writer's
flask, whose bit alone stays, and to the flasks that a fill is on its way to. `by'` is the core whose write it was (512 for
none). Log entry 31. -/
def toMs (s : State) (gr : Nat) (e : DirE) (fl? : Option Nat) (by' : Nat) (w : Bool) : State :=
  let home := homeFlask (gr * 4096)
  let sent := (s.fills.filter fun f => granuleOf (128 * f.line) == gr).map fun f => f.fl
  let out := (dedup (sharerList e.sharers ++ sent)).filter fun i => some i != fl?
  let keep : BitVec 32 := match fl? with
    | some i => if e.sharers.getLsbD i then BitVec.ofNat 32 (2 ^ i) else 0
    | none => 0
  let s := modFlask s home fun f => { f with dir := mput f.dir gr { e with rep := false, w := w, sharers := keep } }
  { s with invs := s.invs ++ out.map fun i => { fl := i, granule := gr, cores := [by'] } }

/-- The releases of a core wait for these invalidations too (R191, R193). Log entry 52. -/
def joinInvs (s : State) (core : Nat) (p : InvS → Bool) : State :=
  if s.invs.isEmpty then s
  else { s with invs := s.invs.map fun i => if p i && !i.cores.contains core then { i with cores := core :: i.cores } else i }

/-- A write seen by the directory (R32, R34): of a granule that is being invalidated, the writer waits for that too.
Log entry 31. -/
def dirWrite (s : State) (k : Nat) (fl : Nat) (by' : Nat) : State :=
  if 2 ≤ keyTier k then s
  else
    let gr := granuleOf k
    let home := homeFlask k
    let s := joinInvs s by' fun i => i.granule == gr
    match mget? (flaskAt s home).dir gr with
    | none => s
    | some e =>
      if e.rep || e.sharers != 0 || s.fills.any fun f => granuleOf (128 * f.line) == gr && f.fl != fl then toMs s gr e (some fl) by' true
      else modFlask s home fun f => { f with dir := mput f.dir gr { e with w := true } }

/-- The replica that the writer's flask holds, or that is on its way to it, is updated as the write passes (R34). -/
def updReplica (s : State) (fl line : Nat) (writes : List (Nat × Byte)) : State :=
  let put := fun (d : BitVec 1024) =>
    writes.foldl (fun acc w => if w.1 / 128 = line then setLineByte acc (w.1 % 128) w.2 else acc) d
  let s := if s.fills.isEmpty then s
    else { s with fills := s.fills.map fun f => if f.fl == fl && f.line == line then { f with data := put f.data } else f }
  match mget? (flaskAt s fl).replicas line with
  | none => s
  | some d => modFlask s fl fun f => { f with replicas := mput f.replicas line { d with data := put d.data } }

/-- The largest entry count of a directory (R31). -/
def dirSize : Nat := 16384

/-- Make an entry; when the directory is full the least recently used entry goes, MS entries first (R31). DESIGN CHOICE (log entry 31):
the replicas that the sharer bits of an MS entry stand for are invalidated as those of a REP entry are. -/
def dirMake (s : State) (home gr : Nat) : State :=
  let f := flaskAt s home
  match mget? f.dir gr with
  | some _ => s
  | none =>
    let s := if f.dir.length < dirSize then s
      else
        let oldest := fun (xs : SMap DirE) => xs.foldl (fun (acc : Option (Nat × DirE)) p =>
          match acc with
          | none => some p
          | some q => if p.2.used < q.2.used then some p else acc) none
        match (oldest (f.dir.filter fun p => !p.2.rep)).or (oldest f.dir) with
        | some p => modFlask (toMs s p.1 p.2 none 512 p.2.w) home fun f => { f with dir := mdel f.dir p.1 }
        | none => s
    modFlask s home fun f => { f with dir := mput f.dir gr { used := s.droneE } }

/-- A remote read counts, and may make the granule REP (R31, R32, R35). DESIGN CHOICE (log entry 31): only a remote read is a use for
R31's order, and of entries used alike the lowest granule goes first. -/
def remoteCount (s : State) (fl k : Nat) : State :=
  let home := homeFlask k
  if 2 ≤ keyTier k || home == fl then s
  else
    let gr := granuleOf k
    let s := dirMake s home gr
    let e := mget (flaskAt s home).dir gr {}
    let cnt := min 255 (e.count + 1)
    let th := sysFld s (sel 3 home) 0 8
    let rep := e.rep || (th != 0 && th < cnt && !e.w)
    modFlask s home fun f => { f with dir := mput f.dir gr { e with count := cnt, rep := rep, used := s.droneE } }

/-- The replica that a flask's slice may serve (R33, R34): it is served until an invalidation that is on its way arrives. -/
def replicaFor (s : State) (fl line : Nat) : Option (BitVec 1024) :=
  let gr := granuleOf (128 * line)
  let e := mget (flaskAt s (homeFlask (128 * line))).dir gr {}
  if e.rep || e.sharers.getLsbD fl || s.invs.any (fun i => i.fl == fl && i.granule == gr) then
    (mget? (flaskAt s fl).replicas line).map (·.data)
  else none

/-- A weak read of a line by a core of flask `fl` for a context (R33): from the local replica, or from home, with a replicable
fill on its way while the granule is REP. Log entry 31. -/
def serveWeak (s : State) (fl ctx kid line : Nat) : BitVec 1024 × State :=
  let k := 128 * line
  let home := homeFlask k
  if home == fl || 2 ≤ keyTier k then (homeLine s kid line, touchL2 s ctx kid line)
  else
    match replicaFor s fl line with
    | some d => (d, s)
    | none =>
      let s := remoteCount s fl k
      let rep := (mget (flaskAt s home).dir (granuleOf k) {}).rep
      let d := homeLine s kid line
      let s := touchL2 s ctx kid line
      if rep then (d, { s with fills := s.fills ++ [{ fl := fl, line := line, data := d, ctx := ctx }] }) else (d, s)

/-- The pages of regions that a write at home invalidates (R241). -/
def hitRegions (s : State) (k : Nat) : State :=
  let hit := s.granules.filter fun x => x.2.2.2 == granuleOf k
  if hit.isEmpty then s else { s with fitInval := s.fitInval ++ hit.map fun x => (x.1, x.2.1) }

/-- Bytes written at home, all in one line (R34, R81, R187): by a party of flask `fl` (core `by'`, 512 for none), under a
key identifier. With `l2` the home's L2 takes the line for that context (256 for none). -/
def homeWrite (s : State) (fl by' kid line : Nat) (l2 : Option Nat) (writes : List (Nat × Byte)) : State :=
  match writes with
  | [] => s
  | _ =>
    let s := updReplica s fl line writes
    let s := settleLine s kid line
    let s := match l2 with
      | some ctx => touchL2 s ctx kid line
      | none => s
    let i := lineFor s kid line
    let whole := (dedup (writes.map fun w => w.1 % 128)).length == 128
    let i := { i with
      key := kid, gen := keyGen s kid, clear := false, poison := i.poison && !whole, dirty := i.inL2 }
    let s := { s with mem := writes.foldl (fun m w => memPut m w.1 w.2) s.mem }
    let s := setLine s line i
    let s := dirWrite s (128 * line) fl by'
    hitRegions s (128 * line)

/-- Bytes written at rising addresses, line by line, for a context (256 for none). -/
def homeWriteRun (s : State) (fl by' ctx kid k : Nat) (bs : List Byte) : State :=
  let pairs := (List.range bs.length).zip bs |>.map fun p => (k + p.1, p.2)
  (dedup (pairs.map fun p => p.1 / 128)).foldl (fun s line =>
    homeWrite s fl by' kid line (some ctx) (pairs.filter fun p => p.1 / 128 == line)) s

/-- Poison a line (R187). -/
def poisonLine (s : State) (kid line : Nat) : State := setLine s line { lineFor s kid line with poison := true }

/-- Physical memory that hardware walkers and queues read and write under the kernel's identifier 0: an access outside the tier
is not performed, and reads 0 (R15, R17). Log entry 8. -/
def physRead (s : State) (k n : Nat) : List Byte := if frameOk s k then homeBytes s 0 k n else List.replicate n 0

/-- Log entry 8. -/
def physWrite (s : State) (k : Nat) (bs : List Byte) : State :=
  if frameOk s k then homeWriteRun s 32 512 256 0 k bs else s

end Sys2Proof.Machine
end

