-- ==== Sys2Proof/Machine/Transl.lean ====
section
/-! DEFINITION. Contexts, page tables and translation (R162 to R170). Tables and descriptors are read in tier 00 under
identifier 0 (log entry 8). -/

namespace Sys2Proof.Machine

/-- Byte key of context `n`'s descriptor; none while the table is not in use (R163). Log entry 8. -/
def descKey (s : State) (n : Nat) : Option Nat :=
  let t := sysVal s (sel 29 0)
  if bit t 0 then some (pkey 0 (fld t 15 35 * 2 ^ 15 + 128 * n)) else none

/-- `n` bytes of a context's descriptor as a number, 0 where there is no table. -/
def descField (s : State) (ctx off n : Nat) : Nat :=
  match descKey s ctx with
  | some k => bytesNat (physRead s (k + off) n)
  | none => 0

/-- A context is resident while its entry's VALID is 1 (R163). -/
def ctxResident (s : State) (ctx : Nat) : Bool := descField s ctx 0 8 % 2 == 1

/-- Address-space identifier (R163). -/
def asidOf (s : State) (ctx : Nat) : Nat := descField s ctx 8 2

/-- A privileged context (R163). -/
def ctxPriv (s : State) (ctx : Nat) : Bool := ctxResident s ctx && descField s ctx 0x0A 1 % 2 == 1

/-- The context whose L2 ways a line of this address space fills: a quiet context of the identifier, or none (R132). -/
def ctxOfAsid (s : State) (asid : Nat) : Nat :=
  (((quietParts s).find? fun p => asidOf s p.1 == asid).map (·.1)).getD 256

/-- Bits [63:56] equal bit 55 (R162). -/
def canonical (va : DWord) : Bool := fld va 56 8 == (if bit va 55 then 255 else 0)

/-- Bits of a page of a size code; none for codes 12 to 15 (R165). -/
def pageBits (code : Nat) : Option Nat :=
  match code with
  | 0 => some 12 | 1 => some 14 | 2 => some 16 | 3 => some 18 | 4 => some 20 | 5 => some 21
  | 6 => some 22 | 7 => some 24 | 8 => some 26 | 9 => some 28 | 10 => some 30 | 11 => some 34
  | _ => none

/-- The level where a leaf of a size code stands (R165). -/
def pageLevel (code : Nat) : Nat := if code ≤ 6 then 3 else if code ≤ 10 then 2 else 1

def leafKeyid (l : DWord) : Nat := fld l 52 12
def leafTier (l : DWord) : Nat := fld l 10 2
def leafBits (l : DWord) : Nat := (pageBits (fld l 4 4)).getD 12

/-- A leaf that is malformed at this level (R165, R166). -/
def leafBad (l : DWord) (level : Nat) : Bool :=
  level == 0
  || (match pageBits (fld l 4 4) with
      | none => true
      | some b => pageLevel (fld l 4 4) != level || (fld l 12 38 * 4096) % 2 ^ b != 0)
  || (leafTier l != 0 && fld l 8 2 != 0)

/-- What a translation gives. -/
inductive Xl where
  /-- A resident page: its leaf and the key of the byte. -/
  | ok (leaf : DWord) (key : Nat)
  | nonres
  /-- A malformed entry (R165). -/
  | bad (leaf : DWord)
deriving DecidableEq, Repr

/-- Key of a byte under a leaf. -/
def leafKey (l : DWord) (va : Nat) : Nat := pkey (leafTier l) (fld l 12 38 * 4096 + va % 2 ^ leafBits l)

/-- The walk from a level on (R164, R165, R170); a table outside the tier is an ADDRESS_RANGE (R17). `fuel` counts the levels left. Log entry 8. -/
def walkFrom (s : State) (va : Nat) : Nat → Nat → Xl
  | 0, _ => .nonres
  | fuel + 1, table =>
    let level := 3 - fuel
    let k := pkey 0 (table + 8 * (va / 2 ^ (45 - 11 * level) % 2048))
    let e := BitVec.ofNat 64 (bytesNat (physRead s k 8))
    if !frameOk s k then .bad 0
    else if !bit e 0 then .nonres
    else if bit e 50 then (if leafBad e level then .bad e else .ok e (leafKey e va))
    else if level = 3 then .bad e
    else walkFrom s va fuel (fld e 14 36 * 2 ^ 14)

/-- The walk of a context's page table; a context that is not resident maps nothing. -/
def walk (s : State) (ctx va : Nat) : Xl :=
  if ctxResident s ctx then walkFrom s va 4 (fld (BitVec.ofNat 64 (descField s ctx 0 8)) 14 36 * 2 ^ 14) else .nonres

/-- The page of an address that is not resident, by the number of its first 4 KiB, from a table on: its leaf gives its size (R165,
R170), and one that a non-leaf entry cuts off counts as 4 KiB. Log entry 21. -/
def pageFrom (s : State) (va : Nat) : Nat → Nat → Nat
  | 0, _ => va / 4096
  | fuel + 1, table =>
    let e := BitVec.ofNat 64 (bytesNat (physRead s (pkey 0 (table + 8 * (va / 2 ^ (45 - 11 * (3 - fuel)) % 2048))) 8))
    if bit e 50 then va / 2 ^ leafBits e * 2 ^ leafBits e / 4096
    else if bit e 0 then pageFrom s va fuel (fld e 14 36 * 2 ^ 14)
    else va / 4096

/-- The page that a non-resident address of a context lies on. Log entry 21. -/
def pageOf (s : State) (ctx va : Nat) : Nat :=
  pageFrom s (va % 2 ^ 56) 4 (fld (BitVec.ofNat 64 (descField s ctx 0 8)) 14 36 * 2 ^ 14)

/-- A TLB entry that covers an address: context, page number, leaf, page bits. Log entry 20. -/
def tlbHit (t : List (Nat × Nat × DWord × Nat)) (ctx va : Nat) : Option DWord :=
  (t.find? fun e => e.1 == ctx && va / 2 ^ e.2.2.2 == e.2.1).map (·.2.2.1)

/-- Translation in the domain of a core (R167): its TLB, the second level of the flask, the walk. A resident page is
installed in both. Log entry 20. -/
def translate (s : State) (core ctx : Nat) (va : DWord) : Xl × State :=
  let a := va.toNat % 2 ^ 56
  let d := coreDomain core
  match tlbHit (clusAt s d).tlb ctx a with
  | some l => (.ok l (leafKey l a), s)
  | none =>
    let install := fun (s : State) (l : DWord) =>
      modClus s d fun c => { c with tlb := ((ctx, a / 2 ^ leafBits l, l, leafBits l) :: c.tlb).take 4096 }
    match tlbHit (flaskAt s (coreFlask core)).tlb2 ctx a with
    | some l => (.ok l (leafKey l a), install s l)
    | none =>
      match walk s ctx a with
      | .ok l k =>
        let s := modFlask s (coreFlask core) fun f =>
          { f with tlb2 := ((ctx, a / 2 ^ leafBits l, l, leafBits l) :: f.tlb2).take 32768 }
        (.ok l k, install s l)
      | r => (r, s)

/-- What an access needs of a page (R169). -/
inductive Acc where
  | read | write | atomic | fetch
deriving DecidableEq, Repr

/-- Permissions of a leaf (R169). -/
def permOk (l : DWord) (a : Acc) (priv : Bool) : Bool :=
  (bit l 51 || priv)
  && (match a with
      | .read => bit l 1
      | .write => bit l 2
      | .atomic => bit l 1 && bit l 2
      | .fetch => bit l 3)

/-- The frame lies in its tier and its key is live (R15, R83, R350). -/
def leafUsable (s : State) (l : DWord) (k : Nat) : Bool :=
  frameOk s k && (2 ≤ keyTier k || keyLive s (leafKeyid l))

/-- Outcome of the checks of an address by hardware that acts for a group (R350, R369). -/
inductive Look where
  | ok (leaf : DWord) (key : Nat)
  | nonres
  /-- ADDRESS_RANGE. -/
  | range
  /-- PERMISSION, with the leaf used. -/
  | perm (leaf : DWord)
deriving DecidableEq, Repr

/-- The checks on one byte (R350, checks 1 and 3). -/
def look (s : State) (core ctx : Nat) (priv : Bool) (a : Acc) (va : DWord) : Look × State :=
  if !canonical va then (.range, s)
  else
    let (x, s) := translate s core ctx va
    match x with
    | .nonres => (.nonres, s)
    | .bad _ => (.range, s)
    | .ok l k => (if !leafUsable s l k then .range else if !permOk l a priv then .perm l else .ok l k, s)

/-- A group is of a system team of a privileged context (R163). -/
def grpPriv (s : State) (g : Group) : Bool := g.sysT && ctxPriv s g.ctx

/-- Split a run of bytes at line boundaries: offset from the start and length of each piece. -/
def pieces (a : Nat) : Nat → Nat → List (Nat × Nat)
  | 0, _ => []
  | _, 0 => []
  | fuel + 1, n =>
    let m := min n (128 - a % 128)
    (0, m) :: (pieces (a + m) fuel (n - m)).map fun p => (p.1 + m, p.2)

/-- The pieces of `n` bytes from `a`. -/
def linePieces (a n : Nat) : List (Nat × Nat) := pieces a n n

/-- Read bytes of a context at the homes (dev scope) by hardware outside the cores; none where a byte cannot be read.
Log entries 8 and 9. -/
def ctxRead (s : State) (ctx : Nat) (va : DWord) (n : Nat) : Option (List Byte) :=
  (linePieces va.toNat n).foldl (fun acc p =>
    match acc with
    | none => none
    | some bs =>
      match walk s ctx ((va.toNat + p.1) % 2 ^ 56) with
      | .ok l k => if leafUsable s l k then some (bs ++ homeBytes s (leafKeyid l) k p.2) else none
      | _ => none) (some [])

/-- A number of a context's memory, read at home; 0 where it cannot be read. Log entry 9. -/
def ctxNat (s : State) (ctx : Nat) (va : DWord) (n : Nat) : Nat :=
  match ctxRead s ctx va n with
  | some bs => bytesNat bs
  | none => 0

/-- Write bytes of a context at the homes by hardware outside the cores; bytes on a page that cannot be written are
dropped (log entry 9). Log entry 8. -/
def ctxWrite (s : State) (ctx : Nat) (va : DWord) (bs : List Byte) : State :=
  (linePieces va.toNat bs.length).foldl (fun s p =>
    match walk s ctx ((va.toNat + p.1) % 2 ^ 56) with
    | .ok l k =>
      if leafUsable s l k then homeWriteRun s 32 512 ctx (leafKeyid l) k ((bs.drop p.1).take p.2) else s
    | _ => s) s

end Sys2Proof.Machine
end

