-- ==== Sys2Proof/Machine/Signals.lean ====
section
/-! DEFINITION. Completions that count flags down, and notices to the kernel (R72 to R74, R100, R152, R153, R171, R253). -/

namespace Sys2Proof.Machine

/-- Bytes of one group image (R255). -/
def groupImageSize : Nat := 528384
/-- Bytes of one team image (R255). -/
def teamImageSize : Nat := 1351680

/-- Base of a context's save area (R254). -/
def areaBase (s : State) (ctx : Nat) (b : Bool) : Nat := fld (sysVal s (sel (if b then 25 else 24) ctx)) 12 44 * 4096

/-- Virtual address within the image of a group. -/
def imageVa (s : State) (ctx : Nat) (b : Bool) (idx off : Nat) : DWord :=
  BitVec.ofNat 64 (areaBase s ctx b + idx * groupImageSize + off)

/-- A decrement on its way to a task from a core, 0xFFFF for none (R24, R94). -/
def sendDec (s : State) (ctx : Nat) (h by' : DWord) (poison : Bool) (src : Nat := 0xFFFF) : State :=
  { s with decs := s.decs ++ [{ ctx := ctx, handle := h, bySrc := by', poison := poison, src := src }] }

/-- A completion counts its flag down: in the resident group, in the saved image (R153), or, once the group has ended its
task by PHASE, as a decrement of its next task (R100). -/
def fall (s : State) (sg : Sig) : State :=
  match sg with
  | .none => s
  | .grp uid k =>
    match slotOf s uid with
    | some g => modGroup s g fun x => setFlag x k (flagOf x k - 1)
    | none =>
      match s.parked.find? fun p => p.g.uid == uid with
      | some p =>
        let va := imageVa s p.g.ctx p.areaB p.g.image (0x440 + k)
        let n := ctxNat s p.g.ctx va 1
        let s := ctxWrite s p.g.ctx va [BitVec.ofNat 8 (n - 1)]
        let f := fun (q : Parked) => { q with g := setFlag q.g k (flagOf q.g k - 1) }
        { s with parked := updFirst (fun q => q.g.uid == uid) f s.parked }
      | none =>
        match mget? s.redirects uid with
        | some (ctx, h) => sendDec s ctx h 0 false
        | none => s

/-- The flag that SET names counts up at issue (R152). -/
def countSet (g : Group) (set : BitVec 4) (n : Nat := 1) : Group :=
  if set.toNat < 12 then setFlag g set.toNat (flagOf g set.toNat + n) else g

/-- The flag of a group's SET as a completion names it. -/
def sigOf (uid : Nat) (set : BitVec 4) : Sig := if set.toNat < 12 then .grp uid set.toNat else .none

/-- One part of an operation is done; its flag falls with the last (0 names no operation). -/
def opPart (s : State) (id : Nat) : State :=
  if id = 0 then s
  else match mget? s.ops id with
    | none => s
    | some o =>
      if o.left ≤ 1 then fall { s with ops := mdel s.ops id } o.sig
      else { s with ops := mput s.ops id { o with left := o.left - 1 } }

/-- A new operation of `n` parts. With no part its flag falls at once. -/
def newOp (s : State) (uid : Nat) (sg : Sig) (n : Nat) : Nat × State :=
  if n = 0 then (0, fall s sg)
  else
    let (id, s) := freshUid s
    (id, { s with ops := mput s.ops id { sig := sg, left := n, uid := uid } })

/-- A .ui completion queues its tag for the group, up to sixteen (R253); it is delivered by UI_DELIVER. Log entry 25. -/
def uiTag (s : State) (uid : Nat) (tag : DWord) : State :=
  let f := fun (g : Group) => if g.uiTags.length < 16 then { g with uiTags := g.uiTags ++ [tag] } else { g with uiOvf := true }
  match slotOf s uid with
  | some g => modGroup s g f
  | none =>
    let s' := { s with parked := updFirst (fun q => q.g.uid == uid) (fun q => { q with g := f q.g }) s.parked }
    match s.parked.find? fun p => p.g.uid == uid with
    | none => s'
    | some p =>
      let va := imageVa s p.g.ctx p.areaB p.g.image
      if p.g.uiTags.length < 16 then ctxWrite s' p.g.ctx (va (0x488 + 8 * p.g.uiTags.length)) (natBytes 8 tag.toNat)
      else
        let m := ctxNat s p.g.ctx (va 0x481) 1
        ctxWrite s' p.g.ctx (va 0x481) (natBytes 1 (if m / 2 % 2 = 1 then m else m + 2))

/-- A completion: the flag falls, and a .ui completion leaves its tag. -/
def complete (s : State) (uid : Nat) (sg : Sig) (ui : Bool) (tag : DWord) : State :=
  let s := fall s sg
  if ui then uiTag s uid tag else s

/-- A producer holds a notice until its queue has room (R72): NOTICE_WRITE writes it. -/
def notify (s : State) (queue : Nat) (bytes : List Byte) : State :=
  { s with notices := s.notices ++ [{ queue := queue, bytes := bytes }] }

/-- An entry of the task, power or service queue (R74). -/
def noticeBytes (s : State) (kind ctx core fl : Nat) (a0 a1 : DWord) : List Byte :=
  natBytes 1 kind ++ natBytes 1 ctx ++ natBytes 2 core ++ natBytes 1 fl ++ natBytes 3 0 ++ natBytes 8 a0.toNat
    ++ natBytes 8 a1.toNat ++ natBytes 8 (drone s) ++ natBytes 32 0

def taskNotice (s : State) (kind ctx core fl : Nat) (a0 a1 : DWord) : State := notify s 1 (noticeBytes s kind ctx core fl a0 a1)
def powerNotice (s : State) (kind ctx core fl : Nat) (a0 a1 : DWord) : State := notify s 2 (noticeBytes s kind ctx core fl a0 a1)
def serviceNotice (s : State) (kind ctx core fl : Nat) (a0 a1 : DWord) : State := notify s 3 (noticeBytes s kind ctx core fl a0 a1)

/-- A residency notice (R171). -/
def residNotice (s : State) (kind level ctx acc core slot : Nat) (va : DWord) : State :=
  notify s 0 (natBytes 1 kind ++ natBytes 1 level ++ natBytes 1 ctx ++ natBytes 1 acc ++ natBytes 2 core ++ natBytes 1 slot
    ++ natBytes 1 0 ++ natBytes 8 va.toNat ++ natBytes 48 0)

/-- The description of a queue: a NOTEQ register, or the TRAPQ of context `queue - 4` (R73, R163). -/
def queueDesc (s : State) (queue : Nat) : DWord :=
  if queue < 4 then sysVal s (sel 30 queue) else BitVec.ofNat 64 (descField s (queue - 4) 0x18 8)

/-- Write an entry if the queue is in use and has room (R73); the Cupola is interrupted when the queue goes non-empty.
Log entries 8 and 44. -/
def queuePut (s : State) (queue : Nat) (bytes : List Byte) : Option State :=
  let q := queueDesc s queue
  if !bit q 0 then none
  else
    let k := pkey 0 (fld q 12 38 * 4096)
    let n := 2 ^ (min 9 (fld q 4 4) + 6)
    let prod := bytesNat (physRead s k 4)
    let cons := bytesNat (physRead s (k + 4) 4)
    if (prod + 2 ^ 32 - cons) % 2 ^ 32 = n then none
    else
      let s := physWrite s (k + 64 + 64 * (prod % n)) bytes
      let s := physWrite s k (natBytes 4 (prod + 1))
      some (if prod = cons then { s with cupolaIrq := mmod s.cupolaIrq queue 0 (· + 1) } else s)

end Sys2Proof.Machine
end

