-- ==== Sys2Proof/Machine/L1.lean ====
section
/-! DEFINITION. The L1 of a core, store queues, scratchpad, releases and acquires (R159 to R161, R167, R189 to R197, R359). -/

namespace Sys2Proof.Machine

/-- The line of an address space in an L1. -/
def l1Find (c : Core) (asid vline : Nat) : Option L1Line := c.l1.find? fun x => x.asid == asid && x.vline == vline

/-- Replace the line of the same tag, or add it. -/
def l1Put (c : Core) (x : L1Line) : Core :=
  { c with l1 := x :: c.l1.filter fun y => !(y.asid == x.asid && y.vline == x.vline) }

def l1Drop (c : Core) (asid vline : Nat) : Core :=
  { c with l1 := c.l1.filter fun y => !(y.asid == asid && y.vline == vline) }

/-- Bytes set in a mask, increasing. -/
def maskBytes (m : BitVec 128) : List Nat := (List.range 128).filter fun i => m.getLsbD i

/-- The dirty bytes of a line go to its home as a byte-masked write; a home that refuses drops them and a service notice
names the line (R159, R359). The line stays, clean. -/
def writeBack (s : State) (core : Nat) (x : L1Line) : State :=
  if x.dirty = 0 then s
  else
    let k := 128 * x.line
    let s := modCore s core fun c => l1Put c { x with dirty := 0 }
    if leafUsable s x.leaf k then
      homeWrite s (coreFlask core) core (leafKeyid x.leaf) x.line (some (ctxOfAsid s x.asid))
        ((maskBytes x.dirty).map fun i => (k + i, lineByte x.data i))
    else
      let cause := if !frameOk s k then (if keyTier k = 0 then 3 else 1) else 2
      serviceNotice s 3 0xFF core (coreFlask core) (BitVec.ofNat 64 (keyPa k)) (BitVec.ofNat 64 cause)

/-- Write back and drop a line of the core (R160). -/
def flushLine (s : State) (core asid vline : Nat) : State :=
  match l1Find (coreAt s core) asid vline with
  | none => s
  | some x =>
    let s := writeBack s core x
    modCore s core fun c => l1Drop c asid vline

/-- Write back and drop whatever copy the core holds of a physical line (R167). -/
def flushPhys (s : State) (core line : Nat) : State :=
  ((coreAt s core).l1.filter fun x => x.line == line).foldl (fun s x => flushLine s core x.asid x.vline) s

/-- A sub-block has its anchor line to itself where it runs (R175). Log entry 26. -/
def Sub.locks (b : Sub) : Bool := b.level < 8 && !b.done && b.keeps

/-- No access reaches the line at its home now: a sub-block that runs at the home or below keeps it to itself (R175, R202), or its
port retrains (R36). Log entry 26. -/
def locked (s : State) (line : Nat) : Bool :=
  (s.subs.any fun b => b.line == line && 2 ≤ b.level && b.locks) || portHeld s line

/-- A line of a run of bytes is kept from accesses. Log entry 26. -/
def lockedRun (s : State) (k n : Nat) : Bool := (linePieces k n).any fun p => locked s (keyLine (k + p.1))

/-- Some sub-block at its home or below has its anchor line to itself (R175). Hardware that asks for no single line waits for it.
Log entry 26. -/
def keptHome (s : State) : Bool := s.subs.any fun b => 2 ≤ b.level && b.locks

/-- The lines of the entries that a walk reads from a table on (R164). -/
def entryLines (s : State) (va : Nat) : Nat → Nat → List Nat
  | 0, _ => []
  | fuel + 1, table =>
    let k := pkey 0 (table + 8 * (va / 2 ^ (45 - 11 * (3 - fuel)) % 2048))
    let e := BitVec.ofNat 64 (bytesNat (physRead s k 8))
    keyLine k :: if bit e 0 && !bit e 50 then entryLines s va fuel (fld e 14 36 * 2 ^ 14) else []

/-- The walk of an address would read a line that a sub-block has to itself, but for the sub-block `id` (R175). Log entry 26. -/
def walkKept (s : State) (ctx va id : Nat) : Bool :=
  keptHome s && ctxResident s ctx
    && (entryLines s va 4 (fld (BitVec.ofNat 64 (descField s ctx 0 8)) 14 36 * 2 ^ 14)).any fun line =>
      s.subs.any fun b => b.line == line && 2 ≤ b.level && b.locks && b.id != id

/-- An access of a core must walk (R167), and the walk waits (R175). -/
def walkHeld (s : State) (core ctx : Nat) (va : DWord) : Bool :=
  let a := va.toNat % 2 ^ 56
  keptHome s && canonical va && (tlbHit (clusAt s (coreDomain core)).tlb ctx a).isNone
    && (tlbHit (flaskAt s (coreFlask core)).tlb2 ctx a).isNone && walkKept s ctx a 0

/-- A line of a context's bytes, or of the table entries that lead to them, is kept from accesses. -/
def ctxLocked (s : State) (ctx : Nat) (va : DWord) (n : Nat) : Bool :=
  (linePieces va.toNat n).any fun p =>
    let a := (va.toNat + p.1) % 2 ^ 56
    walkKept s ctx a 0 || match walk s ctx a with
      | .ok _ k => locked s (keyLine k)
      | _ => false

/-- What stands in the set of a line (R159). -/
def l1Set (s : State) (core vline : Nat) : List L1Line := (coreAt s core).l1.filter fun x => x.vline % 256 == vline % 256

/-- A line may leave L1: its home can take what is dirty in it. -/
def mayLeave (s : State) (x : L1Line) : Bool := x.dirty == 0 || !locked s x.line

/-- The line is in L1, or its set has a way for it (R159); otherwise the access waits. Log entry 20. -/
def hasRoom (s : State) (core asid vline : Nat) : Bool :=
  (l1Find (coreAt s core) asid vline).isSome || decide ((l1Set s core vline).length < 16) || (l1Set s core vline).any (mayLeave s)

/-- Room for a line in its set of 16 ways (R159): one of the set's lines leaves, which the spec leaves open, of those whose home
can take what is dirty in them. Log entry 20. -/
def makeRoom (s : State) (core vline : Nat) : State :=
  let set := l1Set s core vline
  if set.length < 16 then s
  else
    let go := set.filter (mayLeave s)
    match go[Config.l1Victim s.free % max 1 go.length]? with
    | some x => flushLine s core x.asid x.vline
    | none => s

/-- Tag a line in the L1 with nothing valid, if it is not tagged (R159, R167). -/
def allocLine (s : State) (core asid vline : Nat) (leaf : DWord) : State :=
  match l1Find (coreAt s core) asid vline with
  | some _ => s
  | none =>
    let line := keyLine (leafKey leaf (128 * vline))
    let s := flushPhys s core line
    let s := makeRoom s core vline
    modCore s core fun c => l1Put c
      { asid := asid, vline := vline, line := line, leaf := leaf, valid := 0, dirty := 0, data := 0 }

/-- Bytes of `a` where the mask has ones, of `b` elsewhere; `m` is spread to bits. -/
def mergeLine (m : BitVec 128) (a b : BitVec 1024) : BitVec 1024 :=
  (maskBytes m).foldl (fun acc i => setLineByte acc i (lineByte a i)) b

/-- Fill a line from its home, keeping dirty bytes (R159). A poisoned line marks the copy poisoned. -/
def fillLine (s : State) (core asid vline : Nat) (leaf : DWord) : State :=
  let s := allocLine s core asid vline leaf
  match l1Find (coreAt s core) asid vline with
  | none => s
  | some x =>
    let (d, s) := serveWeak s (coreFlask core) (ctxOfAsid s asid) (leafKeyid leaf) x.line
    modCore s core fun c => l1Put c
      { x with valid := BitVec.allOnes 128, data := mergeLine x.dirty x.data d, poison := linePoison s x.line }

/-- Write bytes of one line into L1: valid and dirty, never fetching the line (R159). -/
def l1Store (s : State) (core asid va : Nat) (leaf : DWord) (bs : List Byte) : State :=
  let vline := va / 128
  let s := allocLine s core asid vline leaf
  modCore s core fun c =>
    match l1Find c asid vline with
    | none => c
    | some x =>
      let idx := (List.range bs.length).zip bs
      let m := idx.foldl (fun (acc : BitVec 128) p => acc ||| BitVec.ofNat 128 (2 ^ ((va + p.1) % 128))) 0
      l1Put c { x with
        valid := x.valid ||| m, dirty := x.dirty ||| m,
        data := idx.foldl (fun d p => setLineByte d ((va + p.1) % 128) p.2) x.data }

/-- A sub-block for the physical line is out of the core (R176), or one that runs in L1 keeps the line to itself (R175).
Log entry 26. -/
def shadowed (s : State) (core line : Nat) : Bool :=
  s.subs.any fun b => b.core == core && b.line == line && (b.level != 0 || b.locks)

/-- The core can reach the line now: it is under no shadow, and no sub-block has it to itself at its home. -/
def lineFree (s : State) (core line : Nat) : Bool := !shadowed s core line && !locked s line

/-- Scratchpad bytes of a team (R161); storage of the same context that nothing has written holds a free value (R84). -/
def spadByte (t : Team) (a : Nat) : Byte :=
  match t.seed with
  | none => memByte t.spad a
  | some n => match t.spad.find? fun c => c.1 == a with
    | some c => c.2
    | none => if t.clean.contains (a / 128) then 0 else Config.freeByte n a

/-- Put a scratchpad byte. A team with a seed lists every byte it has written. -/
def spadPut (t : Team) (a : Nat) (b : Byte) : Team :=
  match t.seed with
  | none => { t with spad := memPut t.spad a b }
  | some _ => { t with spad := (a, b) :: t.spad.filter fun c => c.1 != a }

def spadWrite (t : Team) (a : Nat) (bs : List Byte) : Team :=
  ((List.range bs.length).zip bs).foldl (fun t p => spadPut t (a + p.1) p.2) t

/-- A strong store of one lane at its home: the core first writes back and drops its copy (R160). -/
def homeStore (s : State) (core asid va : Nat) (leaf : DWord) (bs : List Byte) : State :=
  (linePieces va bs.length).foldl (fun s p =>
    let k := leafKey leaf (va + p.1)
    let s := flushPhys s core (keyLine k)
    let part := (bs.drop p.1).take p.2
    homeWrite s (coreFlask core) core (leafKeyid leaf) (keyLine k) (some (ctxOfAsid s asid))
      (((List.range p.2).zip part).map fun q => (k + q.1, q.2))) s

/-- Perform one queued store (R190). Log entry 21. -/
def performStore (s : State) (core team : Nat) (e : StoreQ) : State :=
  let s := match e.dst with
    | .l1 asid va leaf =>
      (linePieces va e.bytes.length).foldl (fun s p =>
        l1Store s core asid (va + p.1) leaf ((e.bytes.drop p.1).take p.2)) s
    | .scratch off => modTeam s team fun t => spadWrite t off e.bytes
    | .home asid va leaf => homeStore s core asid va leaf e.bytes
  opPart s e.op

/-- The physical lines that a queued store touches. -/
def storeLines (e : StoreQ) : List Nat :=
  match e.dst with
  | .scratch _ => []
  | .l1 _ va leaf | .home _ va leaf => (linePieces va e.bytes.length).map fun p => keyLine (leafKey leaf (va + p.1))

/-- A store into L1 finds a way for each of its lines (R159). -/
def storeRoom (s : State) (core : Nat) (e : StoreQ) : Bool :=
  match e.dst with
  | .l1 asid va _ => (linePieces va e.bytes.length).all fun p => hasRoom s core asid ((va + p.1) / 128)
  | _ => true

/-- The oldest store may leave its queue: no sub-block holds its line in shadow, or has it to itself (R175, R176). -/
def canDrain (s : State) (core : Nat) (e : StoreQ) : Bool :=
  (storeLines e).all (lineFree s core) && storeRoom s core e

/-- The home can take the store: of one to a home, the tier, the port and the key still stand (R15, R83, R423). -/
def storeUsable (s : State) (e : StoreQ) : Bool :=
  match e.dst with
  | .home _ va leaf => (linePieces va e.bytes.length).all fun p => leafUsable s leaf (leafKey leaf (va + p.1))
  | _ => true

/-- A store that its home refuses is not performed, and stops its group with a deferred ADDRESS_RANGE (R15, R423). -/
def refuseStore (s : State) (g : Nat) (e : StoreQ) : State :=
  let addr := match e.dst with
    | .home _ va _ => BitVec.ofNat 64 va
    | _ => 0
  let c : Cause := { code := 0x18, lanes := laneBit e.lane, addr := addr, origin := e.word }
  opPart (modGroup s g fun x => { x with causes := x.causes ++ [c] }) e.op

/-- The oldest store of a group drains. -/
def drainOne (s : State) (g : Nat) : State :=
  match groupAt s g with
  | none => s
  | some x =>
    match x.storeq with
    | [] => s
    | e :: r =>
      if !canDrain s (slotCore g) e then s
      else
        let t := setGroup s g { x with storeq := r }
        if storeUsable s e then performStore t (slotCore g) x.team e else refuseStore t g e

/-- Drain the whole queue, as far as shadows let it (R190, R195). Log entry 52. -/
def drainAll (s : State) (g : Nat) : State :=
  match groupAt s g with
  | none => s
  | some x => x.storeq.foldl (fun s _ => drainOne s g) s

/-- The group's queue is empty. -/
def drained (s : State) (g : Nat) : Bool :=
  match groupAt s g with
  | none => true
  | some x => x.storeq.isEmpty

/-- Every dirty byte of a core goes home, the lines stay clean (R191, clu). -/
def cleanCore (s : State) (core : Nat) : State :=
  (coreAt s core).l1.foldl (fun s x => if x.dirty = 0 then s else writeBack s core x) s

/-- What a release writes back (R191, clu): every dirty byte whose line no sub-block has to itself. -/
def cleanFree (s : State) (core : Nat) : State :=
  (coreAt s core).l1.foldl (fun s x => if x.dirty = 0 || locked s x.line then s else writeBack s core x) s

/-- No byte of the core's L1 is dirty. -/
def coreClean (s : State) (core : Nat) : Bool := (coreAt s core).l1.all fun x => x.dirty == 0

/-- No invalidation that the core's releases wait for is outstanding (R34, R191, R193). -/
def noInvs (s : State) (core : Nat) : Bool := !s.invs.any fun i => i.cores.contains core

/-- A strong access or an atomic of the group has not completed (R191). Log entry 52. -/
def strongOut (s : State) (g : Nat) : Bool :=
  match groupAt s g with
  | some x => s.results.any fun r => r.uid == x.uid && r.strong
  | none => false

/-- Dirty bytes of the core are on their way with a sub-block that has not landed (R174, R176): they are not at home yet. -/
def carriedOut (s : State) (core : Nat) : Bool := s.subs.any fun b => b.core == core && b.level == 8 && !b.carried.isEmpty

/-- A release by a group at a scope (R191): what it waits for is done now as far as it can be, and the answer says whether
its conditions hold. Writes of tiers 10 and 11 are performed at the host and the peer when they leave the core.
Log entry 52. -/
def release (s : State) (g : Nat) (sc : Scope) : Bool × State :=
  let s := drainAll s g
  if !drained s g || strongOut s g then (false, s)
  else match sc with
    | .core => (true, s)
    | .clu =>
      let s := cleanFree s (slotCore g)
      (coreClean s (slotCore g) && !carriedOut s (slotCore g), s)
    | .dev | .sys =>
      let s := cleanFree s (slotCore g)
      (coreClean s (slotCore g) && !carriedOut s (slotCore g) && noInvs s (slotCore g), s)

/-- An acquire by a core (R192): at clu or wider every valid clean byte of the L1 is dropped. What the core acquires may rest on
writes whose invalidations are outstanding, so its later releases wait for those too (R193, R195). Log entry 52. -/
def acquire (s : State) (core : Nat) (sc : Scope) : State :=
  match sc with
  | .core => s
  | _ => modCore (joinInvs s core fun _ => true) core fun c =>
    { c with l1 := (c.l1.filter fun x => x.dirty != 0).map fun x => { x with valid := x.dirty, poison := false } }

/-- Bytes of a tagged line from `off` are valid. -/
def L1Line.has (x : L1Line) (off n : Nat) : Bool := (List.range n).all fun i => x.valid.getLsbD (off + i)

/-- The check of `n` bytes of one line (R350, check 3): a tagged line carries the permissions of its allocation, and its home is
asked only for an access that goes there (`home`) or that needs a byte which is not valid (R15, R83). -/
def lookLine (s : State) (core ctx : Nat) (priv : Bool) (a : Acc) (home : Bool) (va : DWord) (n : Nat) : Look × State :=
  if !canonical va then (.range, s)
  else
    let m := va.toNat % 2 ^ 56
    match l1Find (coreAt s core) (asidOf s ctx) (m / 128) with
    | some x =>
      let k := 128 * x.line + m % 128
      (if (home || (a != .write && !x.has (m % 128) n)) && !leafUsable s x.leaf k then .range
       else if permOk x.leaf a priv then .ok x.leaf k else .perm x.leaf, s)
    | none => look s core ctx priv a va

/-- The group's own youngest queued store to a byte, by its physical place (R190): two virtual addresses of one byte name the
same store. -/
def forward (q : List StoreQ) (key : Nat) : Option Byte :=
  q.foldl (fun acc e =>
    match e.dst with
    | .l1 _ v leaf | .home _ v leaf =>
      let k := leafKey leaf v
      if k ≤ key && key < k + e.bytes.length then some (e.bytes.getD (key - k) 0) else acc
    | .scratch _ => acc) none

def forwardSpad (q : List StoreQ) (off : Nat) : Option Byte :=
  q.foldl (fun acc e =>
    match e.dst with
    | .scratch o => if o ≤ off && off < o + e.bytes.length then some (e.bytes.getD (off - o) 0) else acc
    | _ => acc) none

/-- Weak bytes of one line that are there without a fill: forwarded, or valid in L1 (R159, R189, R190). -/
def nearBytes (core asid : Nat) (q : List StoreQ) (leaf : DWord) (va n : Nat) (s : State) : Option (List Byte) :=
  let key := leafKey leaf va
  let x := l1Find (coreAt s core) asid (va / 128)
  (List.range n).foldr (fun i acc =>
    let b := match forward q (key + i), x with
      | some b, _ => some b
      | none, some x => if x.valid.getLsbD ((va + i) % 128) then some (lineByte x.data ((va + i) % 128)) else none
      | none, none => none
    match b, acc with
    | some b, some bs => some (b :: bs)
    | _, _ => none) (some [])

/-- Weak bytes of one line, which is filled first if one of them is not there (R159). -/
def weakBytes (core asid : Nat) (q : List StoreQ) (leaf : DWord) (va n : Nat) (s : State) : List Byte × State :=
  match nearBytes core asid q leaf va n s with
  | some bs => (bs, s)
  | none =>
    let s := fillLine s core asid (va / 128) leaf
    ((nearBytes core asid q leaf va n s).getD (List.replicate n 0), s)

end Sys2Proof.Machine
end

