-- ==== Sys2Proof/Machine/Paths.lean ====
section
/-! DEFINITION. LIVE words, paths and rejoin registers (R136, R137, R141 to R144, R243 to R246). -/

namespace Sys2Proof.Machine

/-! ### LIVE words (R243) -/

/-- v registers that a LIVE word names. -/
def liveV (w : IWord) : List Nat :=
  let f := fun (lo : Nat) => (w.extractLsb' lo 10).toNat
  let range := fun (b n : Nat) => (List.range n).map (· + b)
  range (f 78) (f 68) ++ range (f 58) (f 48) ++ range (f 38) (f 28)

/-- A LIVE word keeps R244: ranges inside the group's registers, bit 27 zero. -/
def liveOk (w : IWord) (a : Nat) : Bool :=
  let f := fun (lo : Nat) => (w.extractLsb' lo 10).toNat
  let ok := fun (b n : Nat) => n == 0 || b + n ≤ a
  let fit := fun (b n : Nat) => b + n ≤ 1024
  ok (f 78) (f 68) && ok (f 58) (f 48) && ok (f 38) (f 28) && fit (f 78) (f 68) && fit (f 58) (f 48) && fit (f 38) (f 28)
    && !w.getLsbD 27

/-! ### Paths (R136, R137) -/

/-- Two entries merge: equal PC and wait state, neither frozen, held alike (a held path is parked, R246). Log entry 23. -/
def samePath (a b : Path) : Bool :=
  a.pc == b.pc && a.wait == b.wait && !a.frozen && !b.frozen && a.held == b.held

/-- The later of two issue times; none counts as met. -/
def laterOf (a b : Option Nat) : Option Nat :=
  match a, b with
  | some x, some y => some (max x y)
  | some x, none => some x
  | none, y => y

/-- Merge a path into a list (R137, R151): DIST counts from the most recent issue. A breakpoint match that only some of the lanes
have taken is due again. Log entry 51. -/
def mergeInto (p : Path) : List Path → List Path
  | [] => [p]
  | q :: r =>
    if samePath p q then
      { q with
        lanes := q.lanes ||| p.lanes, last := laterOf q.last p.last, ready := max q.ready p.ready, age := max q.age p.age,
        live := if q.live.isEmpty || p.live.isEmpty then [] else q.live ++ p.live, whole := q.whole || p.whole,
        skipBp := q.skipBp && p.skipBp } :: r
    else q :: mergeInto p r

/-- Entries of equal PC and wait state merge; entries left with no lane go (R137). -/
def regang (ps : List Path) : List Path := (ps.filter fun p => p.lanes != 0).foldl (fun acc p => mergeInto p acc) []

/-- A path stands at a safe point (R245). -/
def atSafe (p : Path) : Bool :=
  !p.live.isEmpty ||
    match p.wait with
    | .bar _ | .time _ | .join _ | .resid _ | .phase _ => true
    | _ => false

/-- The group is asked to park: paths at safe points are held (R246); the debugger holds every path (R258). -/
def holdPaths (g : Group) : Group :=
  match g.park with
  | none => g
  | some r => { g with paths := g.paths.map fun p => if r.why == .debug then { p with held := true, whole := true }
                                                     else if atSafe p then { p with held := true } else p }

/-- Take lanes out of every path. -/
def removeLanes (ps : List Path) (m : LaneMask) : List Path :=
  (ps.map fun p => { p with lanes := p.lanes &&& ~~~ m }).filter fun p => p.lanes != 0

/-- Lanes of a group move to a word, as a path that continues the one they left (R137, R151). -/
def moveLanes (g : Group) (m : LaneMask) (f : Path → Path) : Group :=
  let moved := (g.paths.filter fun p => p.lanes &&& m != 0).map fun p => f { p with lanes := p.lanes &&& m }
  { g with paths := regang (removeLanes g.paths m ++ moved) }

/-! ### Joins (R141 to R143) -/

/-- The pending set of a rejoin register (R141). -/
def pending (g : Group) (j : Join) : LaneMask := j.mask &&& ~~~ j.arrived &&& aliveLanes g

/-- Some lane waits on jk. -/
def waitsOn (g : Group) (k : Nat) : Bool := g.paths.any fun p => match p.wait with | .join i => i.toNat == k | _ => false

/-- A join completes when its pending set is empty while a lane waits (R142): the lanes run on, the register clears. -/
def joinStep (cyc : Nat) (g : Group) (k : Nat) : Group :=
  let j := mget g.j k {}
  if waitsOn g k && pending g j == 0 then
    let free := fun (p : Path) => match p.wait with
      | .join i => if i.toNat = k then { p with wait := .run, last := some cyc } else p
      | _ => p
    { g with paths := regang (g.paths.map free), j := mput g.j k {}, stall := 0 }
  else g

/-- Every join that can complete does. -/
def joinAll (cyc : Nat) (g : Group) : Group := (List.range 8).foldl (joinStep cyc) g

end Sys2Proof.Machine
end

