-- ==== Sys2Proof/Machine/Grants.lean ====
section
/-! DEFINITION. Energy quotas, reservations of current, the arbiter, the ramp and the handover (R43 to R57, R130, R246). -/

namespace Sys2Proof.Machine

/-! ### Park requests (R246) -/

/-- A park request of a group that runs on; a request already made stands (R246). -/
def askPark (why : ParkWhy) (x : Group) : Group :=
  if x.done || x.stop.isSome || x.park.isSome then x else holdPaths { x with park := some { why := why } }

/-- A QUOTA stop ranks above the other parks (R251). -/
def askQuota (x : Group) : Group :=
  match x.park with
  | none => askPark .quota x
  | some r => if r.why == .debug then x else { x with park := some { r with why := .quota } }

/-- A park request withdrawn: held paths run on. -/
def dropPark (x : Group) : Group :=
  { x with park := none, paths := regang (x.paths.map fun p => { p with held := false }) }

/-- Change every resident group that satisfies a test. -/
def modGroups (s : State) (p : Group → Bool) (f : Group → Group) : State :=
  { s with groups := s.groups.map fun q => if p q.2 then (q.1, f q.2) else q }

/-! ### Quotas (R55 to R57) -/

/-- COUNT of a context. -/
def quotaOf (s : State) (ctx : Nat) : Int := (sysVal s (sel 10 ctx)).toInt

/-- OVER of a context (R57). DESIGN CHOICE (log entry 28): its stops hold while it is 1, whatever QEN is. -/
def isOver (s : State) (ctx : Nat) : Bool := bit (sysVal s (sel 11 ctx)) 1

/-- A quiet context (R131, R132). -/
def isQuiet (s : State) (ctx : Nat) : Bool := bit (sysVal s (sel 22 ctx)) 0

/-- The largest estimate among the grants outstanding of a context (R74). -/
def largestEst (s : State) (ctx : Nat) : Nat :=
  s.pclus.foldl (fun m c =>
    let m := c.2.grants.foldl (fun m r => if r.granted && r.ctx == ctx then max m r.est else m) m
    c.2.standing.foldl (fun m r => if r.1 == ctx then max m r.2 else m) m) 0

/-- COUNT changes to `n`, saturating; with QEN and a value below zero, OVER becomes 1 and the QUOTA stops take force (R57). -/
def setCount (s : State) (ctx : Nat) (n : Int) : State :=
  let n := max (-(2 ^ 63)) (min n (2 ^ 63 - 1))
  let s := setSys s (sel 10 ctx) (ofInt64 n)
  if bit (sysVal s (sel 11 ctx)) 0 && n < 0 && !isOver s ctx then
    let s := setSysFld s (sel 11 ctx) 1 1 1
    let s := powerNotice s 1 ctx 0xFFFF 0xFF (ofInt64 n) (BitVec.ofNat 64 (largestEst s ctx))
    modGroups s (fun x => x.ctx == ctx) askQuota
  else s

/-- A charge (R56). -/
def charge (s : State) (ctx e : Nat) : State := setCount s ctx (quotaOf s ctx - e)

/-! ### Events (R46, R56) -/

/-- The activity-weighted energy of events counted by kind, in nJ. Log entry 28. -/
def energyOf (m : SMap Nat) : Nat := m.foldl (fun n p => n + p.2 * Config.eventPj p.1) 0 / 1000

/-- The counts of one context, or of all, by kind. -/
def kindsOf (m : SMap Nat) (p : Nat → Bool) : SMap Nat :=
  (m.filter fun x => p (x.1 % 257)).map fun x => (x.1 / 257, x.2)

/-- Count `n` more under a key. -/
def bump (m : SMap Nat) (k n : Nat) : SMap Nat := mput m k (mget m k 0 + n)

/-- Energy that an overdrawn context uses in a cluster in a microsecond that no standing grant of it covers goes to QOVR, which
saturates (R55, R57). Log entry 28. -/
def overdraw (s : State) (clus kind ctx n : Nat) : State :=
  let used := fun (s : State) => energyOf (kindsOf (clusAt s clus).bare fun x => x == ctx)
  let t := modClus s clus fun c => { c with bare := bump c.bare (257 * kind + ctx) n }
  setSysFld t (sel 11 ctx) 32 32 (min (2 ^ 32 - 1) (sysFld t (sel 11 ctx) 32 32 + (used t - used s)))

/-- Events of a kind that a context's groups cause in a cluster outside every grant (R56, R57). Log entry 28. -/
def tally (s : State) (clus kind ctx n : Nat) : State :=
  let k := 257 * kind + ctx
  let s := modClus s clus fun c => { c with events := bump c.events k n, unres := bump c.unres k n }
  if isOver s ctx && !(clusAt s clus).standing.any (fun p => p.1 == ctx) then overdraw s clus kind ctx n else s

/-- Events of an operation that runs under a grant. Log entry 28. -/
def tallyGrant (s : State) (clus id kind n : Nat) : State :=
  modClus s clus fun c => { c with
    events := bump c.events (257 * kind + 256) n,
    grants := updFirst (fun r => r.id == id) (fun r => { r with acts := bump r.acts kind n }) c.grants }

/-- A true-up: E - min(A, E) comes back (R56). -/
def giveBack (s : State) (ctx est used : Nat) : State := setCount s ctx (quotaOf s ctx + ((est - min used est : Nat) : Int))

/-! ### Reservations (R48) -/

/-- The current of a macro-operation at the point in force (R48). -/
def ampsAt (s : State) (fl i15 : Nat) : Nat := ceilDiv (i15 * ptMv (curPt s fl) * ptMHz (curPt s fl)) (920 * 2100)

/-- Vmv of a flask: the voltage before a change until the change completes (R47, R60). -/
def vmv (s : State) (fl : Nat) : Nat := ptMv (flaskAt s fl).vpt

/-- E (R56). -/
def estimate (s : State) (clus amps dur : Nat) : Nat := ceilDiv (amps * vmv s (clus / 4) * dur) 4000

/-- D of a copy (R48): bytes / 409.6 rounded up, and 20. -/
def copyTime (bytes : Nat) : Nat := ceilDiv (bytes * 10) 4096 + 20

/-- D of an operation that takes `n / per` compute cycles (R48). -/
def cycleTime (s : State) (fl n per : Nat) : Nat := ceilDiv (n * 1000) (per * ptMHz (curPt s fl)) + 20

/-- Current granted and not released, and CEIL (R46). -/
def grantedOf (s : State) (clus : Nat) : Nat := (clusAt s clus).granted
def ceilOf (s : State) (clus : Nat) : Nat := sysFld s (sel 9 clus) 0 10
def setGranted (s : State) (clus n : Nat) : State := modClus s clus fun c => { c with granted := n }

/-- What an operation asks for: `i15` is its current at point 15, or the IRES of a gang as it stands (R48, R129). -/
structure Need where
  kind : ReqKind
  ctx  : Nat
  team : Nat
  prio : Nat
  i15  : Nat
  dur  : Nat
  gang : Bool := false
deriving DecidableEq, Repr

/-- The whole current of a grant is live (R53). -/
def grantLive (r : Grant) : Bool := r.granted && r.amps ≤ r.live

/-- The grant of an identity in a cluster. -/
def grantOf (s : State) (clus id : Nat) : Option Grant := (clusAt s clus).grants.find? fun r => r.id == id

/-- A grant in a cluster is live. -/
def liveAt (s : State) (clus id : Nat) : Bool := ((grantOf s clus id).map grantLive).getD false

def modGrant (s : State) (clus id : Nat) (f : Grant → Grant) : State :=
  modClus s clus fun c => { c with grants := updFirst (fun r => r.id == id) f c.grants }

/-- What is left of the gang reservation that the team holds, live, in the cluster (R130). -/
def gangLeft (s : State) (clus team : Nat) : Nat :=
  let gs := (clusAt s clus).grants
  match gs.find? fun r => r.kind == .gang team && grantLive r with
  | none => 0
  | some h => h.amps - gs.foldl (fun n r => if r.team == team then n + r.drawn else n) 0

/-- A grant is made (R51, R56): GRANTED rises, E is charged, and the grant is the last made. The held current of a gang
charges nothing by itself (R130). Log entry 28. -/
def grantNow (s : State) (clus id : Nat) : State :=
  match grantOf s clus id with
  | none => s
  | some r =>
    let e := match r.kind with
      | .gang _ => 0
      | _ => estimate s clus (r.amps + r.drawn) r.dur
    let r := { r with granted := true, est := e, live := r.base, since := s.droneE }
    let s := modClus s clus fun c => { c with grants := (c.grants.filter fun q => q.id != id) ++ [r] }
    let s := setGranted s clus (grantedOf s clus + (r.amps - r.base))
    if e = 0 then s else charge s r.ctx e

/-- A request is presented (R50): what the team's gang reservation covers is drawn without arbitration (R130). -/
def request (s : State) (clus : Nat) (n : Need) : Nat × State :=
  let (id, s) := freshUid s
  let want := match n.kind with
    | .gang _ => n.i15
    | _ => ampsAt s (clus / 4) n.i15
  let drawn := min want (match n.kind with
    | .gang _ => 0
    | _ => gangLeft s clus n.team)
  let r : Grant := { id := id, kind := n.kind, ctx := n.ctx, team := n.team, cls := if n.gang then 1 else 0, prio := n.prio, since := s.droneE,
                     amps := want - drawn, dur := n.dur, drawn := drawn }
  let s := modClus s clus fun c => { c with grants := c.grants ++ [r] }
  (id, if r.amps = 0 && !isOver s n.ctx then grantNow s clus id else s)

/-- A grant ends: its current goes, and a grant that was charged is trued up against the energy of its events (R52, R54, R56): one
that has not started is refunded whole. A request that was not granted is withdrawn with nothing charged. -/
def endGrant (s : State) (clus id : Nat) : State :=
  match grantOf s clus id with
  | none => s
  | some r =>
    let s := modClus s clus fun c => { c with grants := c.grants.filter fun q => q.id != id }
    let s := setGranted s clus (grantedOf s clus - (if r.granted then r.amps else r.base))
    if r.granted && r.est != 0 then giveBack s r.ctx r.est (energyOf r.acts) else s

/-- Current freed by a reservation that shrinks in this fabric cycle (R52). -/
def addSurplus (s : State) (clus n : Nat) : State :=
  modClus s clus fun c => { c with surplus := (if c.surAt == s.fab + 1 then c.surplus else 0) + n, surAt := s.fab + 1 }

/-- The reservation `old` of an operation that completes passes to the request `id` of its engine's next operation (R52):
without arbitration where that needs no more current, the surplus released at once; otherwise the rest is requested. An
overdrawn context takes nothing over (R57), and a reservation that is not wholly live has no operation to pass on from (R54).
Log entry 28. -/
def passTo (s : State) (clus old id : Nat) : State :=
  match grantOf s clus old, grantOf s clus id with
  | some o, some r =>
    let s := endGrant s clus old
    if r.granted || isOver s r.ctx || !grantLive o then s
    else
      let want := r.amps + r.drawn
      let drawn := min want (gangLeft s clus r.team)
      let base := min o.amps (want - drawn)
      let s := modGrant s clus id fun r => { r with drawn := drawn, amps := want - drawn, base := base }
      let s := addSurplus (setGranted s clus (grantedOf s clus + base)) clus (o.amps - base)
      if want - drawn ≤ o.amps then grantNow s clus id else s
  | some _, none => endGrant s clus old
  | none, _ => s

/-- Handover to an operation that has presented nothing yet (R52). Log entry 28. -/
def handover (s : State) (clus old : Nat) (n : Need) : Nat × State :=
  let (id, s) := request s clus n
  (id, passTo s clus old id)

/-! ### Arbiter and ramp (R50, R51, R53) -/

/-- The engine that presents a request: kind of engine and its number in the module (R50). Log entry 28. -/
def engineOf (s : State) (r : Grant) : Nat × Nat :=
  match r.kind with
  | .copy core _ => (0, core)
  | .mma core => (1, core)
  | .stream uid _ => (2, ((slotOf s uid).map slotCore).getD 0)
  | .burst uid => (3, (slotOf s uid).getD 0 / 16)
  | .gang team => (4, team)

/-- An operation completes: its reservation passes to the oldest request that waits at its engine, or goes (R52). -/
def passOn (s : State) (clus old : Nat) : State :=
  match grantOf s clus old with
  | none => s
  | some o => match (clusAt s clus).grants.find? fun r => !r.granted && engineOf s r == engineOf s o with
    | some r => passTo s clus old r.id
    | none => endGrant s clus old

/-- The class of a request as it stands (R50). -/
def classOf (s : State) (r : Grant) : Nat := if isQuiet s r.ctx then 2 else r.cls

/-- `a` ranks before `b` (R50); what presents at one moment ranks in the order of presentation. Log entry 28. -/
def ranksBefore (s : State) (a b : Grant) : Bool :=
  if classOf s a != classOf s b then classOf s b < classOf s a
  else if a.prio != b.prio then b.prio < a.prio
  else if a.since != b.since then a.since < b.since
  else a.id < b.id

def rankIn (s : State) (r : Grant) : List Grant → List Grant
  | [] => [r]
  | q :: rest => if ranksBefore s r q then r :: q :: rest else q :: rankIn s r rest

/-- The oldest request of each engine of a cluster (R50). -/
def oldest (s : State) (clus : Nat) : List Grant :=
  ((clusAt s clus).grants.filter fun r => !r.granted).foldl (fun acc r =>
    if (acc.any fun q => engineOf s q == engineOf s r) then acc else acc ++ [r]) []

/-- The engines present their oldest requests, whose age runs from then on (R50). -/
def present (s : State) (clus : Nat) : State :=
  let ids := (oldest s clus).map (·.id)
  let show1 := fun (r : Grant) => if r.shown || !ids.contains r.id then r else { r with shown := true, since := s.droneE }
  modClus s clus fun c => { c with grants := c.grants.map show1 }

/-- The requests presented, in rank order, those of overdrawn contexts passed over (R50). Log entry 28. -/
def presented (s : State) (clus : Nat) : List Grant :=
  ((oldest s clus).filter fun r => !isOver s r.ctx).foldl (fun acc r => rankIn s r acc) []

/-- Current that the arbiter does not have yet (R52). -/
def heldBack (s : State) (clus : Nat) : Nat := 
  let c := clusAt s clus
  if c.surAt == s.fab + 1 then c.surplus else 0

/-- Grant in rank order until one does not fit (R51). A context that a grant has overdrawn gets no more (R57). -/
def grantRun (clus : Nat) : List Grant → State → State
  | [], s => s
  | r :: rest, s =>
    if isOver s r.ctx then grantRun clus rest s
    else if grantedOf s clus + heldBack s clus + (r.amps - r.base) + 16 ≤ ceilOf s clus then grantRun clus rest (grantNow s clus r.id)
    else s

/-- The arbiter, once in a fabric cycle (R51). -/
def arbitrate (s : State) (clus : Nat) : State :=
  if (clusAt s clus).arbAt == s.fab + 1 then s
  else
    let s := present (modClus s clus fun c => { c with arbAt := s.fab + 1 }) clus
    grantRun clus (presented s clus) s

/-- Raise live current by at most `left` units, grant by grant in the order made (R53). -/
def rampRun : Nat → List Grant → List Grant × Nat
  | left, [] => ([], left)
  | left, r :: rest =>
    let up := if r.granted then min left (r.amps - r.live) else 0
    let (out, n) := rampRun (left - up) rest
    ({ r with live := r.live + up } :: out, n)

/-- The current that becomes live in the present slot of 100 ns (R53). -/
def ramp (s : State) (clus : Nat) : State :=
  modClus s clus fun c =>
    let slot := flaskDrone s (clus / 4) / 100
    let used := if c.slotNo = slot then c.slotLive else 0
    let (out, left) := rampRun (8 - used) c.grants
    { c with grants := out, slotNo := slot, slotLive := 8 - left }

end Sys2Proof.Machine
end

