-- ==== Sys2Proof/Machine/Saves.lean ====
section
/-! DEFINITION. Group images, and what ends when a group is saved or ends: streams, bursts, grants, replies, results (R52,
R56, R100, R153, R245, R246, R255, R256, R394, R404). -/

namespace Sys2Proof.Machine

/-! ### Images (R245, R255) -/

/-- The paths of the group: a frozen entry belongs to none (R136). -/
def thawed (g : Group) : List Path := g.paths.filter fun p => !p.frozen

/-- The group stands at a safe point (R245). -/
def grpSafe (g : Group) : Bool := (thawed g).all atSafe

/-- The v registers that a save writes (R245): the union of the live sets, or the whole allocation. -/
def savedV (g : Group) (liveOnly : Bool) : List Nat :=
  let all := List.range (regCount g)
  if liveOnly && (thawed g).all (fun p => !p.live.isEmpty && !p.whole) then
    let named := ((thawed g).map fun p => (p.live.map liveV).flatten).flatten
    all.filter fun r => named.contains r
  else all

/-- Whether bit `lo + k` is live in some path (p, j, q and s sets); everything is where a path has no LIVE word. -/
def liveBit (g : Group) (liveOnly : Bool) (lo k : Nat) : Bool :=
  !liveOnly || (thawed g).any fun p => p.live.isEmpty || p.whole || p.live.any fun w => w.getLsbD (lo + k)

/-- Rings that QLIVE names keep their registers too (R243). -/
def ringRegs (g : Group) (liveOnly : Bool) : List Nat :=
  (g.q.map fun p => if p.2.conf && liveBit g liveOnly 8 p.1 then (List.range p.2.depth).map (· + p.2.rbase) else []).flatten

/-- UIMASK as a register (R253). -/
def uimask (g : Group) : DWord :=
  BitVec.ofNat 64 ((if g.uiEn then 1 else 0) + (if g.uiOvf then 2 else 0) + (if g.uiAct then 4 else 0) + g.uiTags.length * 256)

/-- The wait field of a sequencer entry (R255): [40:38] j, [41] waiting. -/
def seqBits (p : Path) (mask : Nat) : Nat :=
  p.pc.toNat + mask * 2 ^ 32 + (if p.frozen then 2 ^ 36 else 0) + (if p.held then 2 ^ 37 else 0)
    + (match p.wait with
       | .join k => k.toNat * 2 ^ 38 + 2 ^ 41
       | .run => 0
       | _ => 2 ^ 41)

/-- The four entries of a quad (R136). -/
def quadEntries (g : Group) (q : Nat) : List Byte :=
  let mine := (g.paths.map fun p => (p, p.lanes.toNat / 2 ^ (4 * q) % 16)).filter fun x => x.2 != 0
  (((mine.take 4).map fun x => natBytes 8 (seqBits x.1 x.2)) ++ List.replicate (4 - min 4 mine.length) (natBytes 8 0)).flatten

/-- The image from offset 0x040 on, but for v registers (R255). -/
def imageHead (g : Group) (liveOnly : Bool) (vs : List Nat) : List Byte :=
  let s := fun k => if liveBit g liveOnly 0 (k / 8) then (sRaw g k).toNat else 0
  let p := fun k => if liveBit g liveOnly 20 k then (pRaw g k).toNat else 0
  let j := fun k => if liveBit g liveOnly 12 k then mget g.j k {} else {}
  let q := fun k => if liveBit g liveOnly 8 k then ringOf g k else {}
  natBytes 128 (vs.foldl (fun acc r => acc + 2 ^ r) 0)
    ++ ((List.range 64).map fun k => natBytes 8 (s k)).flatten
    ++ ((List.range 7).map fun k => natBytes 16 (p k)).flatten ++ natBytes 16 0
    ++ ((List.range 8).map fun k => natBytes 16 (j k).mask.toNat ++ natBytes 16 (j k).arrived.toNat).flatten
    ++ ((List.range 12).map fun k => natBytes 1 (flagOf g k)).flatten ++ natBytes 4 0
    ++ ((List.range 4).map fun k =>
        let r := q k
        natBytes 8 (r.rbase + r.depth * 2 ^ 10 + r.head * 2 ^ 20 + r.tail * 2 ^ 30 + (if r.conf then 2 ^ 40 else 0))).flatten
    ++ natBytes 8 g.fstat.toNat ++ natBytes 8 g.mstat.toNat
    ++ natBytes 8 (g.prio.toNat + fld (uimask g) 0 8 * 2 ^ 8 + g.uiPc.toNat * 2 ^ 16 + g.uiVec.toNat * 2 ^ 48)
    ++ ((List.range 16).map fun k => natBytes 8 (g.uiTags.getD k 0).toNat).flatten
    ++ ((List.range 32).map fun q => quadEntries g q).flatten ++ natBytes 248 0

/-- A v register of every lane. -/
def imageV (g : Group) (r : Nat) : List Byte := ((List.range 128).map fun l => natBytes 4 (vRaw g r l).toNat).flatten

/-- The 64-byte record (R248). -/
def recordBytes (s : State) (g : Nat) (x : Group) (st : Stop) : List Byte :=
  let team := (teamOf s x.team).map (·.index)
  natBytes 1 st.code ++ natBytes 1 x.ctx ++ natBytes 2 (slotCore g) ++ natBytes 1 (g % 64) ++ natBytes 1 x.gid
    ++ natBytes 1 st.flags ++ natBytes 1 st.word ++ natBytes 4 st.pc.toNat ++ natBytes 4 (team.getD 0)
    ++ natBytes 16 st.lanes.toNat ++ natBytes 8 st.addr.toNat ++ natBytes 8 st.aux.toNat ++ natBytes 8 st.drone.toNat
    ++ natBytes 4 x.image ++ natBytes 4 st.origin.toNat

/-- A line of the area met an uncorrectable error while it was written; which is the world's choice, so the step that says
so (UNCORRECTABLE_ERROR) sets AFAIL and BFAIL, and a save reads them (R256). -/
def saveArea (s : State) (ctx : Nat) : Option Bool :=
  let c := sysVal s (sel 23 ctx)
  if !bit c 7 then some false else if !bit c 8 then some true else none

/-- Write a group's image (R255, R256); the answer is the area, none where both have failed. -/
def writeImage (s : State) (g : Nat) (x : Group) (st : Stop) (liveOnly : Bool) : Option Bool × State :=
  match saveArea s x.ctx with
  | none => (none, s)
  | some b =>
    let vs := (List.range (regCount x)).filter fun r => (savedV x liveOnly).contains r || (ringRegs x liveOnly).contains r
    let st := { st with flags := st.flags + (if b then 1 else 0) }
    let s := ctxWrite s x.ctx (imageVa s x.ctx b x.image 0) (recordBytes s g x st ++ imageHead x liveOnly vs)
    let s := ((List.range vs.length).zip vs).foldl (fun s p =>
      ctxWrite s x.ctx (imageVa s x.ctx b x.image (0xA00 + 512 * p.1)) (imageV x p.2)) s
    (some b, s)

/-- Streams of a group stop (R127, R376): full entries stay, their flags fall, their reservations go. -/
def stopStreams (s : State) (g : Nat) : State :=
  match groupAt s g with
  | none => s
  | some x =>
    x.q.foldl (fun s p =>
      match p.2.stream with
      | none => s
      | some st =>
        let s := modGroup s g fun y => { y with q := mput y.q p.1 { p.2 with stream := none } }
        fall (endGrant s (coreDomain (slotCore g)) st.req) st.sig) s

/-- Streams of a killed group that have not started are dropped; those that have started run on (R53, R54, R155). -/
def dropStreams (s : State) (g : Nat) : State :=
  match groupAt s g with
  | none => s
  | some x =>
    (x.q.filter fun p => p.2.stream.any fun st => !liveAt s (coreDomain (slotCore g)) st.req).foldl (fun s p =>
      let s := modGroup s g fun y => { y with q := mput y.q p.1 { p.2 with stream := none } }
      endGrant s (coreDomain (slotCore g)) ((p.2.stream.map fun st => st.req).getD 0)) s

/-- A burst ends as CRREL ends it (R404, R405). -/
def endBurst (s : State) (g : Nat) : State :=
  match groupAt s g with
  | none => s
  | some x =>
    match x.burst with
    | none => s
    | some b =>
      let s := modGroup s g fun y => { y with burst := none }
      let s := endGrant s (coreDomain (slotCore g)) b.req
      if b.live.isNone then fall s b.sig else s

/-- Replies outstanding for a group that stops are discarded (R394): its lanes go on after the APXB with the region
closed and the outputs full. DESIGN CHOICE (log entry 36): a request that has not reached the engine by then never does. -/
def dropReplies (s : State) (g : Nat) : State :=
  match groupAt s g with
  | none => s
  | some x =>
    let (n, s) := draw s
    let fl := coreFlask (slotCore g)
    let mine := (flaskAt s fl).reqs.filter fun r => r.uid == x.uid
    mine.foldl (fun s r =>
      let s := modFlask s fl fun f => { f with reqs := f.reqs.filter fun q => q.id != r.id }
      let outs := (List.range r.nout).map (· + r.vout)
      let s := modGroup s g fun y =>
        let y := markFull outs y
        let y := r.lanes.foldl (fun y l => outs.foldl (fun y o => putV y o l.1 (Config.freeWord n (o * 128 + l.1))) { y with apx := mdel y.apx l.1 }) y
        let go := fun (p : Path) => if p.wait == .apx r.id then { p with wait := .run, pc := r.pc + 1 } else p
        let y := { y with paths := regang (y.paths.map go) }
        if y.uiWait == .apx r.id then { y with uiWait := .run, uiPc := r.pc + 1 } else y
      fall s r.sig) s

/-! ### Team images (R255, R383) -/

/-- Virtual address within the image of a team. -/
def teamImageVa (s : State) (ctx : Nat) (b : Bool) (idx off : Nat) : DWord :=
  BitVec.ofNat 64 (areaBase s ctx b + sysFld s (sel 23 ctx) 48 16 * groupImageSize + idx * teamImageSize + off)

/-- The 32 bytes of a circular buffer (R255). -/
def bufBytes (b : Buf) : List Byte :=
  ([b.base, b.size, b.count, b.free, b.filled, b.claim, b.acq, b.ret].map fun n => natBytes 4 n).flatten

/-- Reservation records, buffers, baton and enrolments, at 0x14_8800 (log entry 13 for the last two). -/
def teamTail (s : State) (t : Team) (c : Core) : List Byte :=
  let held := c.mx.holder == some t.uid
  ((List.range 16).map fun k => natBytes 8 (if held then (mget c.mx.recs k 0).toNat else 0)).flatten
    ++ ((List.range 16).map fun k => match mget? c.bufs k with
        | some b => if b.team == t.uid then bufBytes b else List.replicate 32 0
        | none => List.replicate 32 0).flatten
    ++ natBytes 1 (t.baton.getD 0xFF)
    ++ (List.range 16).map fun k => match s.consorts.find? fun x => x.c == k && x.members.any fun m => m.2 == t.uid with
        | some x => BitVec.ofNat 8 (((x.members.find? fun m => m.2 == t.uid).map (·.1)).getD 0xFF)
        | none => 0xFF

/-- The parts of a team's storage with their offsets: scratchpad, and the matrix state where the team holds the unit.
Log entry 13. -/
def teamParts (s : State) (t : Team) (c : Core) : List (Nat × List Byte) :=
  let mx := if c.mx.holder == some t.uid then
      [(0x80000, memRead c.mx.ob 0 0x80000),
       (0x100000, ((List.range 0x10000).map fun i => natBytes 4 (mget c.mx.acc i 0).toNat).flatten),
       (0x140000, (List.range 0x8000).map fun i => mget c.mx.scale i 0),
       (0x148000, (List.range 0x800).map fun i => mget c.mx.table i 0)]
    else []
  (0, (List.range t.scratch).map (spadByte t)) :: mx ++ [(0x148800, teamTail s t c)]

/-- Write a team's image when its last resident group is saved (R255). -/
def saveTeam (s : State) (uid : Nat) (b : Bool) : State :=
  match s.teams.find? fun t => t.uid == uid with
  | none => s
  | some t =>
    if s.groups.any fun p => p.2.team == uid && !p.2.done then s
    else match t.image, t.core with
      | some i, some c =>
        let s := (teamParts s t (coreAt s c)).foldl (fun s p => ctxWrite s t.ctx (teamImageVa s t.ctx b i p.1) p.2) s
        modTeam s uid fun t => { t with saved := true, savedB := b }
      | _, _ => s

/-- Bytes written to a team's scratchpad, and to its image while it is saved. -/
def spadStore (s : State) (uid off : Nat) (bs : List Byte) : State :=
  match s.teams.find? fun t => t.uid == uid with
  | none => s
  | some t =>
    let s := modTeam s uid fun t => spadWrite t off bs
    match t.saved, t.image with
    | true, some i => ctxWrite s t.ctx (teamImageVa s t.ctx t.savedB i off) bs
    | _, _ => s

/-- Rewrite the tail of the image of a saved team after an operation has changed its buffers. -/
def resave (s : State) (uid : Nat) : State :=
  match s.teams.find? fun t => t.uid == uid with
  | none => s
  | some t => match t.saved, t.image, t.core with
    | true, some i, some c => ctxWrite s t.ctx (teamImageVa s t.ctx t.savedB i 0x148800) (teamTail s t (coreAt s c))
    | _, _, _ => s

/-- A saved team comes back to its core: its storage is read from the image (R252, R255). Log entry 13. -/
def restoreTeam (s : State) (uid : Nat) : State :=
  match s.teams.find? fun t => t.uid == uid with
  | none => s
  | some t => match t.saved, t.image, t.core with
    | true, some i, some c =>
      let rd := fun off n => (ctxRead s t.ctx (teamImageVa s t.ctx t.savedB i off) n).getD (List.replicate n 0)
      let s := modTeam s uid fun t => { spadWrite t 0 (rd 0 t.scratch) with saved := false }
      modCore s c fun c =>
        let tail := rd 0x148800 640
        let w := fun k j => bytesAt tail (128 + 32 * k + 4 * j) 4
        let bufs := c.bufs.map fun p => if p.2.team == uid then
            (p.1, { p.2 with base := w p.1 0, size := w p.1 1, count := w p.1 2, free := w p.1 3, filled := w p.1 4,
                             claim := w p.1 5, acq := w p.1 6, ret := w p.1 7 }) else p
        let c := { c with bufs := bufs }
        if c.mx.holder == some uid then
          { c with mx := { c.mx with
              ob := memWrite [] 0 (rd 0x80000 0x80000),
              acc := (List.range 0x10000).map fun i => (i, BitVec.ofNat 32 (bytesNat (rd (0x100000 + 4 * i) 4))),
              scale := (List.range 0x8000).map fun i => (i, (rd (0x140000 + i) 1).headD 0),
              table := (List.range 0x800).map fun i => (i, (rd (0x148000 + i) 1).headD 0),
              recs := c.mx.recs.map fun p => (p.1, BitVec.ofNat 64 (bytesAt tail (8 * p.1) 8)) } }
        else c
    | _, _, _ => s

/-- Requests on an entry that have not been delivered. -/
def entryReqs (e : Entry) : List CldReq :=
  (if e.comp then [] else e.asked) ++ (e.reads.map (·.1)).flatten ++ e.fills.map fun f => f.req

/-- A CLD of a team has not completed, be its group resident or not (R182). -/
def teamClds (s : State) (uid : Nat) : Bool :=
  s.entries.any fun e => (entryReqs e).any fun q => q.team == uid

/-- A group may be saved (R153, R178, R220, R246, R383): no sink block out, no register lent, no CLD out, no result of a
register that the save writes outstanding, no accepted matrix operation and no CLD of the team where the team image is due, and no
line at home that a sub-block has to itself (R175). Log entries 17 and 26. -/
def saveReady (s : State) (x : Group) (liveOnly : Bool) : Bool :=
  !keptHome s && x.lent.isEmpty && x.cldOut == 0 && !(s.blocks.any fun b => b.uid == x.uid)
    && !(s.results.any fun r => r.uid == x.uid && r.vregs.any fun v => (savedV x liveOnly).contains v)
    && !(s.cores.any fun c => c.2.bufs.any fun b => b.2.wait.any fun w => w.uid == x.uid && (match w.dst with
          | .v n => (savedV x liveOnly).contains n.toNat
          | .s _ => false))
    && ((s.groups.any fun p => p.2.team == x.team && p.2.uid != x.uid && !p.2.done)
        || !((s.cores.any fun c => c.2.mx.ops.any fun o => o.team == x.team) || teamClds s x.team))

/-- Flags of a result reach FSTAT of the group, or of its image while it is saved (R209, R153). Log entry 42. -/
def orFstat (s : State) (uid : Nat) (fl : DWord) : State :=
  if fl = 0 then s
  else match slotOf s uid with
    | some g => modGroup s g fun x => { x with fstat := x.fstat ||| fl }
    | none => match s.parked.find? fun p => p.g.uid == uid with
      | none => s
      | some p =>
        let va := imageVa s p.g.ctx p.areaB p.g.image 0x470
        ctxWrite s p.g.ctx va (natBytes 8 (BitVec.ofNat 64 (ctxNat s p.g.ctx va 8) ||| fl).toNat)

/-- A result arrives (R152, R209): its lanes are written, its v registers become full, its flags are set and its flag
falls. What is not a v register reaches the image of a saved group. -/
def finishRes (s : State) (r : Res) : State :=
  let s := { s with results := s.results.filter fun q => q.id != r.id }
  let cyc := ((slotOf s r.uid).map fun g => (coreAt s (slotCore g)).cycle).getD 0
  let write := fun (x : Group) =>
    let x := r.vals.foldl (fun x p => arriveV cyc (p.1 / 128) (p.1 % 128) p.2 x) x
    let x := r.pvals.foldl (fun x p => arriveP cyc p.1 p.2.1 p.2.2 x) x
    let x := match r.sreg with
      | some q => arriveS cyc q.1 q.2 x
      | none => x
    markFull r.vregs x
  let s := match s.parked.find? fun p => p.g.uid == r.uid with
    | none => modUid s r.uid write
    | some p =>
      let at' := imageVa s p.g.ctx p.areaB p.g.image
      let s := match r.sreg with
        | some q => ctxWrite s p.g.ctx (at' (0xC0 + 8 * q.1)) (natBytes 8 q.2.toNat)
        | none => s
      r.pvals.foldl (fun s q =>
        let m := BitVec.ofNat 128 (ctxNat s p.g.ctx (at' (0x2C0 + 16 * q.1)) 16)
        ctxWrite s p.g.ctx (at' (0x2C0 + 16 * q.1)) (natBytes 16 (setLane m q.2.1 q.2.2).toNat)) s
  fall (orFstat s r.uid r.fl) r.sig

/-- Every fixed-latency result of a group is written (R153): a save waits for them. Log entry 18. -/
def settleFixed (s : State) (uid : Nat) : State :=
  (s.results.filter fun r => r.uid == uid && r.due.isSome).foldl finishRes s

/-- Group and slot as saved. Log entry 18. -/
def parkAs (s : State) (g : Nat) (x : Group) (b : Bool) (st : Stop) (why : Option ParkWhy) (liveOnly : Bool) : State :=
  let keep := { x with
    stop := none, park := none, burst := none, recents := [], storeq := [], apx := [], srec := [],
    v := x.v.filter fun p => (savedV x liveOnly).contains (p.1 / 128) }
  saveTeam { s with
    groups := mdel s.groups g,
    parked := s.parked ++ [{ g := keep, core := slotCore g, quarter := slotQuarter g, slot := slotSlot g, areaB := b,
                             code := st.code, aux := st.aux, pc := st.pc, lanes := st.lanes, why := why }] } x.team b

end Sys2Proof.Machine
end

