-- ==== Sys2Proof/Machine/Consort.lean ====
section
/-! DEFINITION. Consort tables and lead slices: enrolment, collection, completion (R179 to R182, R203), and deferred causes
(R249). -/

namespace Sys2Proof.Machine

/-- A deferred cause reaches its group, resident or saved (R249, R251). Log entry 44. -/
def deferCause (s : State) (uid : Nat) (c : Cause) : State :=
  match slotOf s uid with
  | some g => modGroup s g fun x => if x.done then x else { x with causes := x.causes ++ [c] }
  | none => { s with parked := updFirst (fun q => q.g.uid == uid)
                       (fun q => { q with g := { q.g with causes := q.g.causes ++ [c] } }) s.parked }

/-- Cluster index of a team of a grid (R104, R301). -/
def clusterIdx (l : Launch) (team : Nat) : Nat := team / max 1 (l.clw * l.clh)

/-- The cluster of a team: grid and cluster index; a team of no grid is a cluster of its own (R425). -/
def teamCluster (s : State) (t : Team) : Nat × Nat :=
  match (if t.grid = 0 then none else gridOf s t.grid) with
  | some g => (t.grid, clusterIdx g.launch t.index)
  | none => (0, t.uid)

/-- The consort of a cluster, if it has members. -/
def findConsort (s : State) (k : Nat × Nat) (c : Nat) : Option Consort :=
  s.consorts.find? fun x => x.grid == k.1 && x.cluster == k.2 && x.c == c

/-- Teams enrolled in a consort. -/
def enrolled (s : State) (k : Nat × Nat) (c : Nat) : List Nat := ((findConsort s k c).map fun x => x.members.map (·.2)).getD []

/-- What a read at the homes found: zero where nothing can be read. -/
structure Fetched where
  bytes  : List Byte := []
  /-- The first byte on a non-resident page. -/
  miss   : Option DWord := none
  /-- The first byte with no usable translation. -/
  range  : Option DWord := none
  /-- The first poisoned line, and which bytes come from poisoned lines: offset, number, line. -/
  poison : Option Nat := none
  marks  : List (Nat × Nat × Nat) := []
  /-- Lines read, with their key identifiers. -/
  lines  : List (Nat × Nat) := []
deriving DecidableEq, Repr

/-- Read a context's bytes at the home slices or below (R181, R195). -/
def readHomes (s : State) (ctx : Nat) (va : DWord) (n : Nat) : Fetched :=
  (linePieces va.toNat n).foldl (fun r p =>
    let a := va + BitVec.ofNat 64 p.1
    let none' := List.replicate p.2 (0 : Byte)
    match walk s ctx (a.toNat % 2 ^ 56) with
    | .ok l k =>
      if leafUsable s l k then
        { r with
          bytes := r.bytes ++ homeBytes s (leafKeyid l) k p.2, lines := (leafKeyid l, keyLine k) :: r.lines,
          poison := if linePoison s (keyLine k) then r.poison.or (some (keyLine k)) else r.poison,
          marks := if linePoison s (keyLine k) then r.marks ++ [(p.1, p.2, keyLine k)] else r.marks }
      else { r with bytes := r.bytes ++ none', range := r.range.or (some a) }
    | .nonres => { r with bytes := r.bytes ++ none', miss := r.miss.or (some a) }
    | .bad _ => { r with bytes := r.bytes ++ none', range := r.range.or (some a) }) {}

/-- The homes hold the lines read in their L2 (R161). -/
def touchLines (s : State) (ctx : Nat) (ls : List (Nat × Nat)) : State := ls.foldl (fun s p => touchL2 s ctx p.1 p.2) s

def modEntry (s : State) (id : Nat) (f : Entry → Entry) : State :=
  { s with entries := updFirst (fun e => e.id == id) f s.entries }

/-- Completed, and every member awaited has asked or left: the tag starts a new collection (R181). -/
def entryFreed (e : Entry) : Bool := e.comp && e.await.isEmpty

/-- The live entry of a consort and tag (R180). -/
def findEntry (s : State) (k : Nat × Nat) (c tag : Nat) : Option Entry :=
  s.entries.find? fun e => e.grid == k.1 && e.cluster == k.2 && e.c == c && e.tag == tag && !entryFreed e

/-- The lead slice reads the source for these requesters (R181, R182): the fills, after a notice for bytes not resident.
Log entry 27. -/
def serveEntry (s : State) (e : Entry) (reqs : List CldReq) (flags : Nat) : State :=
  let r := readHomes s e.ctx e.addr e.size
  let s := touchLines s e.ctx r.lines
  let s := match r.miss, reqs.head? with
    | some va, some q => residNotice s 4 0 e.ctx 0 q.core ((slotOf s q.uid).getD 0 % 64) va
    | _, _ => s
  let st := flags + (if r.miss.isNone then 4 else 0) + reqs.length * 256
  modEntry s e.id fun e => { e with
    fills := e.fills ++ reqs.map fun q =>
      { req := q, status := st, bytes := r.bytes, poison := r.poison, marks := r.marks, range := r.range } }

/-- The lead slice can read the source: no sub-block has a line of it to itself (R175). -/
def entryFree (s : State) (e : Entry) : Bool :=
  s.subs.isEmpty || !(readHomes s e.ctx e.addr e.size).lines.any fun p => locked s p.2

/-- The reads due are made, once the lead slice can make them. Log entry 27. -/
def serveReads (s : State) (id : Nat) : State :=
  match s.entries.find? fun e => e.id == id with
  | none => s
  | some e =>
    if e.reads.isEmpty || !entryFree s e then s
    else e.reads.foldl (fun s r => serveEntry s e r.1 r.2) (modEntry s id fun e => { e with reads := [] })

/-- The source is to be read for these requesters: at once, if no sub-block keeps a line of it. Log entry 27. -/
def askRead (s : State) (id : Nat) (reqs : List CldReq) (flags : Nat) : State :=
  serveReads (modEntry s id fun e => { e with reads := e.reads ++ [(reqs, flags)] }) id

/-- Complete an entry (R181): who has asked is served, and who has not is awaited from now on, whenever the source can be read.
Log entry 27. -/
def completeEntry (s : State) (e : Entry) (timeout : Bool) : State :=
  let askedTeams := e.asked.map (·.team)
  let wait := (enrolled s (e.grid, e.cluster) e.c).filter fun t => !askedTeams.contains t
  askRead (modEntry s e.id fun e => { e with comp := true, await := wait }) e.id e.asked (if timeout then 8 else 0)

/-- Entries of a slice in use, of 32 (R180). -/
def slotsUsed (s : State) (lead : Nat) : Nat :=
  (s.entries.filter fun e => e.lead == lead && e.held && !entryFreed e).length

/-- The drone has reached the moment at which the first request took the entry, plus the timer (R181). Log entry 27. -/
def entryDue (s : State) (e : Entry) : Bool :=
  e.held && match findConsort s (e.grid, e.cluster) e.c with
    | some x => x.timer != 0 && decide (e.took + x.timer ≤ flaskDrone s (e.lead / 16))
    | none => false

/-- A waiting request takes a free entry; an entry that every enrolled member has asked completes, and so does one whose timer
has run out (R180, R181). Log entry 27. -/
def settleEntry (s : State) (id : Nat) : State :=
  match s.entries.find? fun e => e.id == id with
  | none => s
  | some e =>
    let now := flaskDrone s (e.lead / 16)
    let take := !e.held && decide (slotsUsed s e.lead < 32)
    let s := if take then modEntry s id fun e => { e with held := true, took := now } else s
    let e := if take then { e with held := true, took := now } else e
    let asked := e.asked.map (·.team)
    if e.comp then serveReads s id
    else if !e.held then s
    else if (enrolled s (e.grid, e.cluster) e.c).all fun t => asked.contains t then completeEntry s e false
    else if entryDue s e then completeEntry s e true
    else s

/-- Every entry that can go on does; what is freed and delivered goes. -/
def settleEntries (s : State) : State :=
  let pass := fun (s : State) => s.entries.foldl (fun s e => settleEntry s e.id) s
  let s := s.entries.foldl (fun s _ => pass s) s
  { s with entries := s.entries.filter fun e => !(entryFreed e && e.reads.isEmpty && e.fills.isEmpty) }

/-- CLEAVE, retirement and kill remove a team from a consort (R179, R181). -/
def leaveConsort (s : State) (k : Nat × Nat) (c team : Nat) : State :=
  let mine := fun (x : Nat) (y : Nat) (z : Nat) => x == k.1 && y == k.2 && z == c
  let drop := fun (x : Consort) => if mine x.grid x.cluster x.c then { x with members := x.members.filter fun m => m.2 != team } else x
  let s := { s with
    consorts := (s.consorts.map drop).filter fun x => !x.members.isEmpty,
    entries := s.entries.map fun e =>
      if mine e.grid e.cluster e.c then { e with await := e.await.filter (· != team) } else e }
  settleEntries s

/-- A team leaves every consort it has joined (R154, R155). -/
def leaveAll (s : State) (t : Team) : State :=
  let k := teamCluster s t
  (List.range 16).foldl (fun s c => if (enrolled s k c).contains t.uid then leaveConsort s k c t.uid else s) s

end Sys2Proof.Machine
end

