-- ==== Sys2Proof/Machine/Retire.lean ====
section
/-! DEFINITION. The end of lanes, groups, tasks, teams and grids: successors, phase decrements, batons, barriers, kills
(R94 to R97, R101, R104, R105, R130, R143, R154, R155, R179, R224, R304). -/

namespace Sys2Proof.Machine

/-! ### Task records (R90) -/

/-- A field of a task record. -/
def recField (s : State) (ctx : Nat) (h : DWord) (off n : Nat) : Nat := ctxNat s ctx (h + BitVec.ofNat 64 off) n

/-- Write bytes of a task record, at home (R94, R102). Log entry 9. -/
def putRec (s : State) (ctx : Nat) (h : DWord) (off n v : Nat) : State := ctxWrite s ctx (h + BitVec.ofNat 64 off) (natBytes n v)

/-- Handle of successor `i` (R95). -/
def successor (s : State) (ctx : Nat) (h : DWord) (i : Nat) : DWord :=
  BitVec.ofNat 64 (ctxNat s ctx (BitVec.ofNat 64 (recField s ctx h 0x28 8 + 8 * i)) 8)

/-- NSUCC of a record; a SUCC of 0 means none (R90). -/
def nsucc (s : State) (ctx : Nat) (h : DWord) : Nat := if recField s ctx h 0x28 8 = 0 then 0 else recField s ctx h 0x30 1 % 32

/-- The task of a group; a handler group has none (R113). -/
def Group.task (x : Group) : Option DWord := if x.noTask then none else some x.handle

/-- Successor `i` has been delivered. -/
def sentBit (s : State) (ctx : Nat) (h : DWord) (i : Nat) : Bool := recField s ctx h 0x0C 2 / 2 ^ i % 2 == 1

/-- Deliver successor `i` if it has not been delivered (R95, R96): SENT first, then the decrement. -/
def deliver (s : State) (ctx : Nat) (h : DWord) (poison : Bool) (i : Nat) (sg : Sig := .none) (batch : Nat := 0) : State :=
  if sentBit s ctx h i then s
  else
    let dsts := successor s ctx h i
    let s := putRec s ctx h 0x0C 2 (recField s ctx h 0x0C 2 + 2 ^ i)
    { s with decs := s.decs ++ [{ ctx := ctx, handle := dsts, bySrc := h, poison := poison, sig := sg, batch := batch,
                                  src := ((taskOf s ctx h).map fun t => t.core).getD 0xFFFF }] }

/-- Deliver what has not been delivered, in increasing order (R95, R96, R97): the decrements are performed in that order.
Log entry 19. -/
def deliverRest (s : State) (ctx : Nat) (h : DWord) (poison : Bool) : State :=
  let (n, s) := freshUid s
  (List.range (min 16 (nsucc s ctx h))).foldl (fun s i => deliver s ctx h poison i .none n) s

/-! ### Phase records (R99, R104) -/

/-- Bytes of a record slot: S. -/
def slotSize (l : Launch) : Nat := ceilDiv (320 + 512 * fld l.carry 10 6) 64 * 64

/-- Record slot `k` of group `g` of team `t` (R104). -/
def slotVa (l : Launch) (t g k : Nat) : DWord :=
  l.phaseBase + BitVec.ofNat 64 (((t * l.groups + g) * 3 + k) * slotSize l)

/-- The group of this GROUPID has ended. -/
def Team.ended (t : Team) (gid : Nat) : Bool := t.gone.any fun x => x.1 == gid

/-- The last phase whose record group `m` of a team has pre-initialised (R102): the one after the phase it is in, or in which
it ended. -/
def lastRecord (s : State) (t : Team) (m : Nat) : Nat :=
  match t.gone.find? fun x => x.1 == m with
  | some x => x.2 + 1
  | none => ((s.tasks.find? fun x => x.grid == t.grid && x.team == t.uid && x.gid == m).map fun x => x.phase + 1).getD 1

/-- The decrements of a group that ends in its phase `n` to its teammates' records (R101), a teammate's that has ended
included. Log entry 19. -/
def mateDecs (s : State) (uid gid n : Nat) : State :=
  match teamOf s uid with
  | none => s
  | some t =>
    match (if t.grid = 0 then none else gridOf s t.grid) with
    | none => s
    | some gr =>
      let l := gr.launch
      let src := ((s.tasks.find? fun x => x.team == uid && x.gid == gid).map fun x => x.core).getD 0xFFFF
      ((List.range l.groups).filter fun m => m != gid).foldl (fun s m =>
        let last := lastRecord s t m
        let s := if n + 1 ≤ last then sendDec s t.ctx (slotVa l t.index m ((n + 1) % 3)) 0 false src else s
        if n + 2 ≤ last then sendDec s t.ctx (slotVa l t.index m ((n + 2) % 3)) 0 false src else s) s

/-! ### Gangs (R128 to R130) -/

def gangVal (s : State) (g : Nat) : DWord := sysVal s (sel 21 g)
def gangMembers (s : State) (g : Nat) : Nat := fld (gangVal s g) 16 12
def gangReady (s : State) (g : Nat) : Nat := fld (gangVal s g) 0 12

/-- Members that count as ready and are not yet placed, in the order in which they became so. -/
def gangWaiting (s : State) (g : Nat) : List TaskE :=
  let xs := s.tasks.filter fun t => t.gang == g && t.counted && t.placed.isNone && t.ready.isSome
  xs.foldl (fun (acc : List TaskE) t =>
    (acc.filter fun y => y.ready.getD 0 ≤ t.ready.getD 0) ++ [t] ++ acc.filter fun y => t.ready.getD 0 < y.ready.getD 0) []

/-- A gang's entry does not admit a task of this context: it is not VALID, or names another (R128). Log entry 41. -/
def gangShut (s : State) (g ctx : Nat) : Bool := !bit (gangVal s g) 63 || fld (gangVal s g) 48 8 != ctx

/-- BAD_GANG for a task whose entry does not admit it, once (R128). -/
def badGang (s : State) (t : TaskE) : State :=
  if t.badSent then s
  else
    let s := modTask s t.ctx t.handle fun t => { t with badSent := true }
    taskNotice s 5 t.ctx t.core (coreFlask t.core) t.handle (BitVec.ofNat 64 t.gang)

/-- Counted tasks that the entry no longer admits: they stay READY, no longer count, and a notice goes (R128).
Log entry 41. -/
def dropForeign (s : State) (g : Nat) : State :=
  ((gangWaiting s g).filter fun t => gangShut s g t.ctx).foldl (fun s t =>
    let s := setSysFld s (sel 21 g) 0 12 (gangReady s g - 1)
    badGang (modTask s t.ctx t.handle fun t => { t with counted := false }) t) s

/-- A member is ready, or ends without having run: it counts in READY, or BAD_GANG is noticed once (R128, R129). -/
def gangCount (s : State) (t : TaskE) : State :=
  if t.gang = 0 || t.counted then s
  else
    if gangShut s t.gang t.ctx then badGang s t
    else
      let s := setSysFld s (sel 21 t.gang) 0 12 (min 4095 (gangReady s t.gang + 1))
      modTask s t.ctx t.handle fun t => { t with counted := true }

/-- Domain of a grant. -/
def grantDomain (s : State) (id : Nat) : Option Nat :=
  (s.pclus.find? fun p => p.2.grants.any fun r => r.id == id).map (·.1)

/-- A member of a release has ended; the reservation goes with the last (R130). -/
def gangLeave (s : State) (ctx : Nat) (h : DWord) : State :=
  let drop := fun (g : GangS) => { g with members := g.members.filter fun m => !(m.1 == ctx && m.2 == h) }
  let past := (s.gangs.map drop).filter fun g => g.members.isEmpty
  let s := { s with gangs := (s.gangs.map drop).filter fun g => !g.members.isEmpty }
  past.foldl (fun s g => g.teams.foldl (fun s p =>
    match grantDomain s p.2 with
    | some d => endGrant s d p.2
    | none => s) s) s

/-! ### Batons and barriers (R224, R304) -/

/-- A wave has a group that has not retired. -/
def waveAlive (t : Team) (w : Nat) : Bool :=
  (List.range 4).any fun q => 4 * w + q < t.ngroups && !t.ended (4 * w + q)

/-- The next wave in the rotation after `w`, skipping waves whose groups have all retired (R224). -/
def nextWave (t : Team) (w : Nat) : Option Nat :=
  let n := ceilDiv t.ngroups 4
  ((List.range n).map fun i => (w + 1 + i) % n).find? fun v => waveAlive t v

/-- A holder whose last group has retired passes the baton on (R154, R224). -/
def batonStep (s : State) (uid : Nat) : State :=
  modTeam s uid fun t =>
    match t.baton with
    | some w => if waveAlive t w then t else { t with baton := nextWave t w }
    | none => t

/-- Every lane of the group stands at a BAR (R304). -/
def atBar (x : Group) : Bool :=
  !x.paths.isEmpty && x.stop.isNone && x.paths.all fun p => match p.wait with | .bar _ => true | _ => false

/-- Lanes leave a barrier. -/
def leaveBar (x : Group) : Group :=
  { x with paths := regang (x.paths.map fun p => match p.wait with | .bar _ => { p with wait := .run } | _ => p) }

/-- The barrier of a team completes when every group that has not retired has arrived (R304): its lanes go on after an
acquire at each BAR's scope. Log entry 19. -/
def barStep (s : State) (uid : Nat) : State :=
  match teamOf s uid with
  | none => s
  | some t =>
    let mine := s.groups.filter fun p => p.2.team == uid && !p.2.done
    if mine.isEmpty || mine.length != t.left || !mine.all (fun p => atBar p.2) then s
    else mine.foldl (fun s p =>
      let s := p.2.paths.foldl (fun s q => match q.wait with
        | .bar sc => acquire s (slotCore p.1) sc
        | _ => s) s
      modGroup s p.1 leaveBar) s

/-! ### Handlers of user interrupts (R288, R295) -/

/-- Lanes that have parked at a UIRET. Log entry 25. -/
def uiParked (ps : List Path) : LaneMask := ps.foldl (fun acc p => if p.wait == .uiret then acc ||| p.lanes else acc) 0

/-- When every lane of the handler set has parked at a UIRET or exited, the parked lanes resume at the saved PC, where they wait as
before for a reply that is still out, the other paths unfreeze and ACTIVE clears (R295). Log entry 25. -/
def uiCheck (x : Group) : Group :=
  if !x.uiAct then x
  else
    let here := x.uiSet &&& aliveLanes x
    if here &&& ~~~ uiParked x.paths != 0 then x
    else
      let back := fun (p : Path) => match p.wait with
        | .uiret => { p with wait := x.uiWait, pc := x.uiPc, live := [], whole := false }
        | _ => { p with frozen := false }
      { x with paths := regang (x.paths.map back), uiAct := false, uiSet := 0 }

/-! ### Grids (R105) -/

/-- Every invalidation outstanding is performed and acknowledged, with the fills before it (R34). -/
def flushInvs (s : State) : State :=
  let s := s.invs.foldl (fun s i => modFlask s i.fl fun f =>
    { f with replicas := f.replicas.filter fun p => granuleOf (128 * p.1) != i.granule }) s
  let hit := fun (f : FillS) => s.invs.any fun i => i.fl == f.fl && i.granule == granuleOf (128 * f.line)
  { s with invs := [], fills := s.fills.filter fun f => !hit f }

/-- A message on its way (R111). Log entry 38. -/
def messageBytes (handler ctx kind lanes src dest : Nat) (w1 : Nat) (payload : List Byte) : List Byte :=
  natBytes 1 handler ++ natBytes 1 ctx ++ natBytes 1 kind ++ natBytes 1 lanes ++ natBytes 2 src ++ natBytes 2 dest
    ++ natBytes 8 w1 ++ payload

/-- Grid end (R105). DESIGN CHOICE (log entry 38): word 1 and words 4 to 11 of the DONEMSG payload are 0. Log entry 19. -/
def gridEnd (s : State) (uid : Nat) : State :=
  match gridOf s uid with
  | none => s
  | some g =>
    let s := (s.cores.map (·.1)).foldl cleanCore s
    let s := flushInvs s
    let v := if g.bad then 2 else 1
    let l := g.launch
    let s := if l.done = 0 then s else ctxWrite s l.ctx l.done (natBytes 8 v)
    let s := if l.donemsg / 256 % 2 = 1 then
        let (kind, src, dest, at') := match g.org with
          | .core c => (0, c, c, c)
          | .walker fl _ _ => (3, 0xFFFF, 0xFFFF, 0x20000 + fl)
        let bytes := messageBytes (l.donemsg % 256) l.ctx kind 0 src dest 0
          (natBytes 4 v ++ natBytes 4 0 ++ natBytes 8 l.addr.toNat ++ natBytes 32 0)
        { s with msgs := s.msgs ++ [{ bytes := bytes, dest := dest, src := at' }] }
      else s
    let s := { s with grids := s.grids.filter fun x => x.uid != uid }
    match g.org with
    | .core _ => s
    | .walker fl inst th => modFlask s fl fun f => { f with
        insts := f.insts.map fun i => if i.num == inst
          then { i with threads := i.threads.map fun t => if t.id == th then { t with ended := some v } else t } else i }

/-- An accepted operation of the matrix unit of a group of the grid is not complete. -/
def gridOps (s : State) (uid : Nat) : Bool := s.cores.any fun p => p.2.mx.ops.any fun o => o.grid == uid && !o.dead

/-- Grid end is reached with the last group, once what the grid's matrix units have accepted is complete: their bytes are at home before
DONE is (R105, R417). Log entry 19. -/
def gridSettle (s : State) (uid : Nat) : State :=
  match gridOf s uid with
  | none => s
  | some g => if g.left = 0 && !gridOps s uid && !keptHome s then gridEnd s uid else s

/-- One group of a grid has ended. -/
def gridLeave (s : State) (uid : Nat) (bad : Bool) : State :=
  if uid = 0 then s
  else gridSettle (modGrid s uid fun g => { g with left := g.left - 1, bad := g.bad || bad }) uid

/-! ### Teams -/

/-- The team's last group has retired (R154): scratchpad, buffers, consorts and the matrix unit are free. -/
def teamEnd (s : State) (t : Team) : State :=
  let s := leaveAll s t
  let free := fun (c : Core) => { c with
    bufs := c.bufs.filter fun p => p.2.team != t.uid,
    mx := if c.mx.holder == some t.uid then { c.mx with holder := none, recs := [] } else c.mx }
  { s with
    cores := s.cores.map fun p => (p.1, free p.2),
    teams := s.teams.filter fun x => x.uid != t.uid }

/-- A group's task has ended (R95 to R97, R101, R154): successors, teammates, gang, team and grid. `bad` when it was
FAULTED or SKIPPED. -/
def endTask (s : State) (ctx : Nat) (task : Option DWord) (team gid phase : Nat) (bad : Bool) : State :=
  let s := match task with
    | some h => deliverRest s ctx h bad
    | none => s
  let s := mateDecs s team gid phase
  let s := match task with
    | none => s
    | some h =>
      let s := match (if bad then taskOf s ctx h else none) with
        | some t => gangCount s t
        | none => s
      let s := gangLeave s ctx h
      { s with tasks := s.tasks.filter fun t => !(t.ctx == ctx && t.handle == h) }
  let s := modTeam s team fun t => { t with left := t.left - 1, gone := (gid, phase) :: t.gone }
  let s := barStep (batonStep s team) team
  match teamOf s team with
  | none => s
  | some t =>
    let s := if t.left = 0 then teamEnd s t else s
    gridLeave s t.grid bad

/-- The lanes of a group are gone: the slot is held until its operations have ended (R154). Log entries 3 and 19. -/
def emptyGroup (x : Group) : Group :=
  { x with paths := [], done := true, stop := none, park := none, causes := [], apx := [], fence := none,
           uiAct := false, uiSet := 0 }

/-- The group in a slot retires with its last lane (R154). Log entry 19. -/
def retireGroup (s : State) (g : Nat) : State :=
  match groupAt s g with
  | none => s
  | some x =>
    let s := endBurst (drainAll s g) g
    let s := modGroup s g emptyGroup
    endTask s x.ctx x.task x.team x.gid x.phase false

/-- Lanes exit (R143, R288): they leave paths, every rejoin register and barrier counts, and their open regions send no sample.
Log entry 19. -/
def exitLanes (s : State) (g : Nat) (m : LaneMask) : State :=
  let cyc := (coreAt s (slotCore g)).cycle
  let s := modGroup s g fun x => uiCheck (joinAll cyc
    { x with paths := regang (removeLanes x.paths m), apx := x.apx.filter fun p => !inLanes m p.1,
             j := x.j.map fun p => (p.1, { mask := p.2.mask &&& ~~~ m, arrived := p.2.arrived &&& ~~~ m }) })
  match groupAt s g with
  | none => s
  | some x => if x.paths.isEmpty then retireGroup s g else barStep s x.team

/-! ### Kills (R96, R155, R252, R256) -/

/-- What a killed group has under way in the core, with no release (R155): what has started runs to its end (R54). -/
def silence (s : State) (g : Nat) : State :=
  let s := dropReplies (endBurst (dropStreams (drainAll s g) g) g) g
  modGroup s g emptyGroup

/-- A resident group is killed: its lanes exit, its task is FAULTED (R93, R96, R252). -/
def killGroup (s : State) (g : Nat) : State :=
  match groupAt s g with
  | none => s
  | some x =>
    if x.done then s
    else endTask (silence s g) x.ctx x.task x.team x.gid x.phase true

/-- A saved group is killed. -/
def killParked (s : State) (uid : Nat) : State :=
  match s.parked.find? fun p => p.g.uid == uid with
  | none => s
  | some p =>
    let s := { s with parked := s.parked.filter fun q => q.g.uid != uid }
    endTask s p.g.ctx p.g.task p.g.team p.g.gid p.g.phase true

/-- The groups of a team that have a handle, with phase. -/
def teamGroups (s : State) (uid : Nat) : List (Option DWord × Nat × Nat) :=
  ((s.groups.filter fun p => p.2.team == uid && !p.2.done).map fun p => (p.2.task, p.2.gid, p.2.phase))
    ++ (s.parked.filter fun p => p.g.team == uid).map fun p => (p.g.task, p.g.gid, p.g.phase)

/-- A matrix operation that takes current and has not started. -/
def mxIdle (o : MxOp) : Bool := !o.going && match o.kind with
  | .mma .. | .accld .. | .accst .. => true
  | _ => false

/-- Queued copies, and matrix operations that take current, of a killed team are dropped and refunded where they have not started;
copies that have started run to their end, with no storage of the team to reach, and so do the other matrix operations, whose
results are discarded (R54, R155, R228, R379, R383). Log entries 28 and 34. -/
def dropOps (s : State) (uid : Nat) : State :=
  s.cores.foldl (fun s p =>
    let reqs := ((p.2.copies.filter fun c => c.team == uid && !c.going).map fun c => c.req)
      ++ (p.2.mx.ops.filter fun o => o.team == uid && mxIdle o).map fun o => o.req
    let s := reqs.foldl (fun s r => endGrant s (coreDomain p.1) r) s
    modCore s p.1 fun k => { k with
      copies := (k.copies.filter fun c => c.team != uid || c.going).map fun c => if c.team == uid then { c with team := 0 } else c,
      mx := { k.mx with ops := (k.mx.ops.filter fun o => o.team != uid || !mxIdle o).map fun o =>
        if o.team == uid then { o with dead := true } else o } }) s

/-- Every group of the team leaves its slot or its image, with nothing released (R155). -/
def silenceTeam (s : State) (uid : Nat) : State :=
  let s := (s.groups.filter fun p => p.2.team == uid && !p.2.done).foldl (fun s p => silence s p.1) s
  let s := dropOps s uid
  { s with parked := s.parked.filter fun p => p.g.team != uid }

/-- A team is killed and not relaunched (R96, R155): its running tasks and those still to come are FAULTED.
Log entry 43. -/
def killTeam (s : State) (uid : Nat) : State :=
  match teamOf s uid with
  | none => s
  | some t =>
    let live := teamGroups s uid
    let s := silenceTeam (modTeam s uid fun t => { t with killed := true }) uid
    let later := (s.tasks.filter fun x => x.team == uid && !x.running).map fun x => (some x.handle, x.gid, x.phase)
    (live ++ later).foldl (fun s x => endTask s t.ctx x.1 uid x.2.1 x.2.2 true) s

/-- A team is killed and relaunched under IDEM (R64, R86, R96, R187): its running tasks are READY again, with their SENT
bits and nothing of the team's storage, to be admitted on core `core`. Log entry 29. -/
def relaunchTeam (s : State) (uid core : Nat) : State :=
  match teamOf s uid with
  | none => s
  | some t =>
    let s := silenceTeam s uid
    let again := s.tasks.filter fun x => x.team == uid && x.running
    let s := again.foldl (fun s x =>
      let s := putRec s x.ctx x.handle 0x0A 1 (recField s x.ctx x.handle 0x0A 1 / 4 * 4 + recField s x.ctx x.handle 0x0A 1 % 2)
      let s := gangLeave s x.ctx x.handle
      let s := modTask s x.ctx x.handle fun x =>
        { x with running := false, ready := some s.nextUid, core := core, placed := none, counted := false }
      gangCount s { x with counted := false }) s
    let s := leaveAll { s with nextUid := s.nextUid + 1 } t
    let free := fun (c : Core) => { c with
      bufs := c.bufs.filter fun p => p.2.team != uid,
      mx := if c.mx.holder == some uid then { c.mx with holder := none, recs := [] } else c.mx }
    let lose := fun (q : CldReq) => if q.team == uid then { q with team := 0 } else q
    let entry := fun (e : Entry) => { e with
      asked := e.asked.map lose, reads := e.reads.map fun r => (r.1.map lose, r.2), fills := e.fills.map fun f => { f with req := lose f.req } }
    let s := { s with cores := s.cores.map fun p => (p.1, free p.2), entries := s.entries.map entry }
    modTeam s uid fun t =>
      { t with core := none, spad := [], pads := [], baton := none, cstat := [], cldLast := [], migTo := none, moving := false }

/-- Both save areas of a context have failed (R256): its groups are killed without further saves, and with them what its teams have
queued (R228). -/
def loseContext (s : State) (ctx : Nat) : State :=
  let s := setSysFld s (sel 23 ctx) 6 1 1
  let s := (s.teams.filter fun t => t.ctx == ctx).foldl (fun s t => dropOps s t.uid) s
  let s := (s.groups.filter fun p => p.2.ctx == ctx).foldl (fun s p => killGroup s p.1) s
  let s := (s.parked.filter fun p => p.g.ctx == ctx).foldl (fun s p => killParked s p.g.uid) s
  serviceNotice s 4 ctx 0xFFFF 0xFF (sysVal s (sel 23 ctx)) 0

end Sys2Proof.Machine
end

