-- ==== Sys2Proof/Machine/Ops.lean ====
section
/-! DEFINITION. Taking a trap, resuming from one, and the gate that every instruction passes at issue (R117, R152, R247 to
R252, R265 to R275). -/

namespace Sys2Proof.Machine

open Host

/-! ### Traps -/

/-- Everything a stop waits for: the release, the save conditions and room in the trap queue (R197, R246, R247, R72). When
it is all there the group is saved, its slot is freed and the record goes to the context's trap queue. Log entry 18. -/
def finishStop (s : State) (g : Nat) : State :=
  match groupAt s g with
  | none => s
  | some x =>
    match x.stop with
    | none => s
    | some st =>
      let liveOnly := st.flags / 2 % 2 == 1
      let s := settleFixed (stopStreams (dropReplies (endBurst s g) g) g) x.uid
      let (ok, s) := release s g .dev
      match groupAt s g with
      | none => s
      | some x =>
        if !ok || !saveReady s x liveOnly then s
        else
          let x := { x with recents := [] }
          match writeImage s g x st liveOnly with
          | (none, s) => loseContext s x.ctx
          | (some b, s') =>
            match queuePut s' (4 + x.ctx) (recordBytes s g x { st with flags := st.flags + (if b then 1 else 0) }) with
            | none => s
            | some s => parkAs s g x b st none liveOnly

/-- A team is no longer among the migrations asked for (R64). -/
def dropMig (s : State) (uid : Nat) : State :=
  let drop := fun (p : Nat × Flask) => (p.1, { p.2 with migs := p.2.migs.filter fun u => u != uid })
  { s with flasks := s.flasks.map drop }

/-- A migration of the team is asked for, or waits for a flask (R64). -/
def migPending (s : State) (t : Team) : Bool := t.migTo.isSome || s.flasks.any fun p => p.2.migs.contains t.uid

/-- A trap withdraws the team's request of migration, retirement or HALT (R65, R86): the groups that have parked stay parked, and the
kernel decides for the team. Log entry 42. -/
def withdrawMig (s : State) (x : Group) (code : Nat) : State :=
  match teamOf s x.team with
  | none => s
  | some t =>
    let mig := migPending s t
    if !mig && !t.moving then s
    else
      let s := modTeam (dropMig s x.team) x.team fun t => { t with migTo := none, moving := false }
      let whole := fun (w : Option ParkWhy) => match w with | some .migrate | some .retire | some .halt => true | _ => false
      let here := fun (y : Group) => y.paths.all fun p => p.held || p.frozen
      let stay := fun (y : Group) => { y with park := y.park.map fun r => { r with why := .left } }
      let ask := fun (y : Group) =>
        if !(y.team == x.team && whole (y.park.map (·.why))) then y else if here y then stay y else dropPark y
      let left := fun (p : Parked) => if p.g.team == x.team && whole p.why then { p with why := some .left } else p
      let s := { s with groups := s.groups.map fun p => (p.1, ask p.2), parked := s.parked.map left }
      if !mig then s else powerNotice s 3 x.ctx (t.core.getD 0xFFFF) ((t.core.map coreFlask).getD 0xFF) (BitVec.ofNat 64 t.index) (BitVec.ofNat 64 code)

/-- TAKE A TRAP (R247): the whole group in slot `g` stops for the cause `c`, its record naming word `pc`. A stop taken at a
safe point saves the live set (FLAGS[1]). Log entry 17. -/
def takeTrap (s : State) (g : Nat) (c : Cause) (pc : Pc) : State :=
  match groupAt s g with
  | none => s
  | some x =>
    let s := withdrawMig s x c.code
    let st : Stop := { code := c.code, pc := pc, lanes := c.lanes, addr := c.addr, aux := c.aux, word := c.word,
                       origin := c.origin, drone := BitVec.ofNat 64 (flaskDrone s (coreFlask (slotCore g))),
                       flags := if grpSafe x then 2 else 0 }
    let s := modGroup s g fun y => { y with stop := some st, park := none, stepPc := none, stepAll := false }
    let s := if (c.code == 0x0A || c.code == 0x0B) && sysFld s (sel 27 (slotCore g)) 3 1 == 1 then
        let ask := fun (y : Group) => if y.team == x.team && y.uid != x.uid && y.stop.isNone
          then holdPaths { y with park := some { why := .debug } } else y
        { s with groups := s.groups.map fun p => (p.1, ask p.2) }
      else s
    finishStop { s with cur := none } g

/-- Restore a group from its image (R245, R252, R255): the answer is the group that goes on. What the image does not hold
comes from the skeleton; what was not saved holds an unpredictable value. -/
def restoreGroup (s : State) (p : Parked) : Group × State :=
  let (n, s) := draw s
  let x := p.g
  let rd := fun off len => ctxNat s x.ctx (imageVa s x.ctx p.areaB x.image off) len
  let vmap := rd 0x40 128
  let vs := (List.range 1024).filter fun r => vmap / 2 ^ r % 2 == 1
  let liveOnly := (thawed x).all fun q => !q.live.isEmpty && !q.whole
  let vals := (((List.range vs.length).zip vs).map fun q =>
    let bs := (ctxRead s x.ctx (imageVa s x.ctx p.areaB x.image (0xA00 + 512 * q.1)) 512).getD []
    (List.range 128).map fun l => (q.2 * 128 + l, (BitVec.ofNat 32 (bytesAt bs (4 * l) 4)))).flatten
  let sregs := ((List.range 64).filter fun k => liveBit x liveOnly 0 (k / 8)).map fun k => (k, BitVec.ofNat 64 (rd (0xC0 + 8 * k) 8))
  let pregs := ((List.range 7).filter fun k => liveBit x liveOnly 20 k).map fun k => (k, BitVec.ofNat 128 (rd (0x2C0 + 16 * k) 16))
  let joins := (List.range 8).map fun k => (k, if liveBit x liveOnly 12 k then
      ({ mask := BitVec.ofNat 128 (rd (0x340 + 32 * k) 16), arrived := BitVec.ofNat 128 (rd (0x350 + 32 * k) 16) } : Join)
    else { mask := Config.freeMask n (16 + k), arrived := Config.freeMask n (32 + k) })
  let rings := (List.range 4).map fun k =>
    let w := if liveBit x liveOnly 8 k then rd (0x450 + 8 * k) 8 else Config.freeNat n (8192 + k)
    (k, ({ rbase := w % 1024, depth := w / 2 ^ 10 % 1024, head := w / 2 ^ 20 % 1024, tail := w / 2 ^ 30 % 1024,
           conf := w / 2 ^ 40 % 2 == 1 } : Ring))
  let misc := rd 0x480 8
  let tags := (List.range (min 16 x.uiTags.length)).map fun k => BitVec.ofNat 64 (rd (0x488 + 8 * k) 8)
  let oldPath := fun l => (x.paths.find? fun q => inLanes q.lanes l)
  let lanePath := fun (l : Nat) (e : Nat) =>
    let o : Path := (oldPath l).getD { pc := 0, lanes := 0 }
    let w : Wait := if e / 2 ^ 41 % 2 == 0 then .run
      else match o.wait with
        | .run | .join _ => .join (BitVec.ofNat 3 (e / 2 ^ 38))
        | w => w
    let moved := o.pc != BitVec.ofNat 32 e
    { o with pc := BitVec.ofNat 32 e, lanes := laneBit l, wait := w, frozen := e / 2 ^ 36 % 2 == 1, held := false,
             last := none, ready := 0, live := if moved then [] else o.live, whole := !moved && o.whole && p.why != some .debug }
  let entries := ((List.range 128).map fun i => rd (0x508 + 8 * i) 8)
  let paths := ((List.range 128).map fun i =>
    let e := entries.getD i 0
    ((List.range 4).filter fun b => e / 2 ^ (32 + b) % 2 == 1).map fun b => lanePath (4 * (i / 4) + b) e).flatten
  let frozenMerge := fun (acc : List Path) (q : Path) =>
    match acc.find? fun r => r.pc == q.pc && r.wait == q.wait && r.frozen && q.frozen with
    | some r => acc.map fun t => if t == r then { t with lanes := t.lanes ||| q.lanes } else t
    | none => mergeInto q acc
  ({ x with
     v := vals, seed := some n, vseed := some n, clean := [], s := sregs, p := pregs, j := joins, q := rings,
     f := (List.range 12).map fun k => (k, rd (0x440 + k) 1),
     empt := (rings.map fun r => if liveBit x liveOnly 8 r.1 && r.2.conf then ((List.range r.2.depth).filter fun i =>
        !((List.range (r.2.tail - r.2.head)).any fun d => (r.2.head + d) % r.2.depth == i)).map (· + r.2.rbase) else []).flatten,
     lent := [], fstat := BitVec.ofNat 64 (rd 0x470 8) &&& fstatBits, mstat := BitVec.ofNat 64 (rd 0x478 8) &&& mstatBits,
     prio := BitVec.ofNat 4 misc, uiEn := misc / 2 ^ 8 % 2 == 1, uiOvf := misc / 2 ^ 9 % 2 == 1,
     uiAct := misc / 2 ^ 10 % 2 == 1, uiPc := BitVec.ofNat 32 (misc / 2 ^ 16), uiVec := BitVec.ofNat 16 (misc / 2 ^ 48),
     uiTags := tags, paths := paths.foldl frozenMerge [], stall := 0 }, s)

/-- RETURN FROM A TRAP (R252): the group comes back in a slot after the acquire of R197; `edit` is what the kernel's answer
changes in it (nothing for a resume in place). -/
def resumeIn (s : State) (i : Nat) (g : Nat) (edit : Parked → Group → Group) : State :=
  match s.parked[i]? with
  | none => s
  | some p =>
    let (x, s) := restoreGroup s p
    let s := restoreTeam { s with parked := s.parked.eraseIdx i } p.g.team
    let s := acquire s (slotCore g) .dev
    let s := modCore s (slotCore g) fun c => { c with lastBy := mput c.lastBy (g % 64) x.ctx }
    let cyc := (coreAt s (slotCore g)).cycle
    setGroup s g (joinAll cyc { edit p x with last := cyc, elig := cyc })

/-! ### The gate -/

/-- What an instruction names, for the checks at issue. -/
structure Info where
  h    : Hdr
  /-- Acts once per stream (R265). -/
  once : Bool := false
  /-- Sources A, B (v and q) with their width, and v sources governed by FE[21]. -/
  a    : Option (Src × Bool) := none
  b    : Option (Src × Bool) := none
  c    : List Nat := []
  /-- v sources under FE[23], such as the captured inputs of APXB. -/
  cA   : List Nat := []
  /-- v sources under FE[22], such as the payload of AMSG. -/
  cB   : List Nat := []
  /-- v destinations. -/
  vw   : List Nat := []
  /-- Waits behind a fence of the group (R360). -/
  mem  : Bool := false
  /-- Only for system teams of privileged contexts (R275). -/
  priv : Bool := false
  /-- Traps name the elected lane, the lowest whose guard is true (R380). -/
  elect : Bool := false
  /-- How much SET counts. -/
  sets : Nat := 1
  /-- A case that its description names RESERVED_FIELD and that rests on no register's content applies (R275). -/
  bad  : Bool := false
deriving DecidableEq, Repr

/-- The v registers that a source names. -/
def srcRegs (g : Group) (x : Option (Src × Bool)) : List Nat :=
  match x with
  | none => []
  | some (y, wide) => match srcReg g y with
    | some r => if wide then [r, r + 1] else [r]
    | none => []

/-- The queue that a source names. -/
def srcQueue (x : Option (Src × Bool)) : List Nat :=
  match x with
  | some (.q n, _) => [n.toNat]
  | _ => []

/-- The elected lane: the lowest whose guard is true (R380). -/
def Env.elect (e : Env) : LaneMask := laneBit ((lowLane e.act).getD 0)

/-- An at trap of the stream under way (R249): nothing of the instruction has run. -/
def trapAt (s : State) (code : Nat) (lanes : LaneMask) (addr aux : DWord) : State :=
  match s.cur with
  | none => s
  | some c => takeTrap s c.g { code := code, lanes := lanes, addr := addr, aux := aux } c.pc

/-- The group under way. -/
def curGroup (s : State) : Option Group := s.cur.bind fun c => groupAt s c.g

/-- RESERVED_FIELD with the instruction word in AUX (R250). -/
def trapReserved (s : State) (lanes : LaneMask) : State :=
  match s.cur with
  | none => s
  | some c => trapAt s 0x02 lanes 0 (c.word.extractLsb' 32 64)

/-- The first at trap that the checks of R148, R220, R244, R265, R270 and R275 give, or whether the stream must wait. -/
inductive Verdict where
  | go
  | wait
  | trap (code : Nat) (aux : DWord)
  /-- The LIVE word of SP cannot be fetched (R169, R275). -/
  | fetch (code : Nat) (addr aux : DWord)
deriving DecidableEq, Repr

/-- Pop the queues that an instruction names (R126): each head advances once, the entry is empty. -/
def popQueues (qs : List Nat) (g : Group) : Group :=
  (dedup qs).foldl (fun g k =>
    let r := ringOf g k
    let reg := ringReg r
    let h := r.head + 1
    let r' := if h ≥ r.depth then { r with head := h - r.depth, tail := r.tail - r.depth } else { r with head := h }
    markEmpty [reg] { g with q := mput g.q k r' }) g

/-- The word after this one, over a LIVE word where SP is set (R285). -/
def nextPc (pc : Pc) (sp : Bool) : Pc := if sp then pc + 2 else pc + 1

/-- The v registers that an instruction reads. -/
def Info.reads (i : Info) (x : Group) : List Nat := srcRegs x i.a ++ srcRegs x i.b ++ i.c ++ i.cA ++ i.cB

/-- The queues that an instruction reads. -/
def Info.queues (i : Info) : List Nat := srcQueue i.a ++ srcQueue i.b

/-- The v registers that an instruction reads, each with its bit of FE (R270). -/
def Info.feReads (i : Info) (x : Group) : List (Nat × Bool) :=
  let fe := fun (k : Nat) => i.h.fe.getLsbD k
  (srcRegs x i.a).map (·, fe 2) ++ i.cA.map (·, fe 2) ++ (srcRegs x i.b).map (·, fe 1) ++ i.cB.map (·, fe 1) ++ i.c.map (·, fe 0)

/-- The registers that are empty as the stream sees them: stream B of a slot sees them as they stood at issue (R140). -/
def Cur.empties (c : Cur) (x : Group) : List Nat :=
  match c.second with
  | some q => q.empt
  | none => x.empt

/-- The v registers that an instruction reads as the entries of queues. -/
def Info.heads (i : Info) (x : Group) : List Nat :=
  let of := fun (a : Option (Src × Bool)) => match a with
    | some (.q _, _) => srcRegs x a
    | _ => []
  of i.a ++ of i.b

/-- A source reads as empty: its register was empty at issue, or it is a queue entry that stream A of the slot has popped (R126,
R140). -/
def Cur.finds (c : Cur) (x : Group) (heads : List Nat) (r : Nat) : Bool :=
  (c.empties x).contains r || (heads.contains r && x.empt.contains r)

/-- A 64-bit queue source whose ring entry is an odd register (R148). -/
def oddPair (x : Group) : Option (Src × Bool) → Bool
  | some (.q n, true) => (ringOf x n.toNat).conf && ringReg (ringOf x n.toNat) % 2 == 1
  | _ => false

/-- The path under way, if it runs; that of stream B as it stood at issue (R138). -/
def pathOf (c : Cur) (x : Group) : Option Path :=
  match c.second with
  | some q => some q.path
  | none => x.paths.find? fun p => p.pc == c.pc && p.wait == .run && !p.frozen && !p.held

/-- The flags as the stream sees them: stream B as they stood at issue (R138). -/
def Cur.flags (c : Cur) (x : Group) : Group :=
  match c.second with
  | some q => { x with f := q.f }
  | none => x

/-- The path under way has let DIST pass, and no YIELD holds it (R151, R290). -/
def distMet (s : State) (c : Cur) (x : Group) (dist : Nat) : Bool :=
  let cyc := (coreAt s (slotCore c.g)).cycle
  match pathOf c x with
  | none => true
  | some p => (match p.last with | none => true | some t => decide (t + dist ≤ cyc)) && decide (p.ready ≤ cyc)

/-- Every flag that WAIT names is 0 (R152). -/
def waitMet (x : Group) (wait : BitVec 12) : Bool := (List.range 12).all fun k => !wait.getLsbD k || flagOf x k == 0

/-- The checks in order. Log entry 16. -/
def verdict (s : State) (c : Cur) (x : Group) (i : Info) : Verdict :=
  let a := regCount x
  let rv := BitVec.setWidth 64 (c.word.extractLsb' 32 64)
  let empt := (i.feReads x).filter fun p => c.finds x (i.heads x) p.1
  if !(distMet s c x i.h.dist.toNat && waitMet (c.flags x) i.h.wait) then .wait
  else if i.priv && !grpPriv s x then .trap 0x04 0
  else if (i.reads x ++ i.vw).any fun r => a ≤ r then .trap 0x02 rv
  else if i.bad || oddPair x i.a || oddPair x i.b then .trap 0x02 rv
  else if i.h.sp && c.away.isSome then
    match c.away with
    | some (some t) => .fetch t.1 t.2.1 t.2.2
    | _ => .wait
  else if i.h.sp && !isLive c.next then .trap 0x17 (c.next.extractLsb' 32 64)
  else if i.h.sp && !liveOk c.next a then .trap 0x02 rv
  else if i.queues.any (fun k => !(ringOf x k).conf) then
    .trap 0x15 (BitVec.ofNat 64 ((i.queues.find? fun k => !(ringOf x k).conf).getD 0))
  else match i.vw.find? fun r => (inRing x r).isSome with
  | some r => .trap 0x15 (BitVec.ofNat 64 r)
  | none =>
    match empt.find? fun p => p.2 with
    | some p => .trap 0x07 (BitVec.ofNat 64 p.1)
    | none =>
      let lent := i.vw.filter fun r => x.lent.contains r
      if !lent.isEmpty && i.h.fe.getLsbD 2 then .trap 0x07 (BitVec.ofNat 64 (lent.headD 0 + 4096))
      else if !empt.isEmpty || !lent.isEmpty then .wait
      else if i.mem && x.fence.isSome then .wait
      else if i.h.set.toNat < 12 && 255 < flagOf x i.h.set.toNat + i.sets then .wait
      else .go

/-- Lanes that an issued stream sends to one word, in one wait state. -/
abbrev Dest := Pc × Wait × LaneMask

/-- Some lane of the stream is pending for a register that a lane waits on (R145). -/
def pendingIssued (x : Group) (m : LaneMask) : Bool :=
  x.paths.any fun p => match p.wait with
    | .join k => pending x (mget x.j k.toNat {}) &&& m != 0
    | _ => false

/-- The age count of an issued path: one that has come to 4,096 and has become stream A starts anew (R139). -/
def ageOf (c : Cur) (n : Nat) : Nat := if c.second.isNone && 4096 ≤ n then 0 else n

/-- A path that the stream sends on, DIST counted from now (R137, R139, R151, R243). -/
def sendTo (c : Cur) (cyc : Nat) (i : Info) (x : Group) (d : Dest) : Path :=
  let p := (match c.second with
    | some q => some q.path
    | none => x.paths.find? fun p => p.lanes &&& c.lanes != 0).getD { pc := c.pc, lanes := c.lanes }
  { p with
    pc := d.1, wait := d.2.1, lanes := d.2.2, via := c.pc, last := some cyc, age := ageOf c p.age, skipBp := false, ready := 0,
    live := if i.h.sp then [c.next] else [], whole := false }

/-- The group after the stream has issued: its lanes at their next words, queues popped, the flag of SET counted where the
instruction acts (R137, R145, R152, R246, R265). -/
def issued (c : Cur) (cyc : Nat) (i : Info) (count : Bool) (qs : List Nat) (dsts : List Dest) (x : Group) : Group :=
  let y := popQueues qs { x with paths := regang (removeLanes x.paths c.lanes ++ dsts.map (sendTo c cyc i x)) }
  let z := if count then countSet y i.h.set i.sets else y
  { z with
    last := cyc, age := 0, stall := if pendingIssued x c.lanes then 0 else x.stall,
    park := x.park.map fun r => { r with issued := r.issued + 1 } }

/-- What the issuing stream sees (R140, R149, R151, R265). -/
def issueEnv (s : State) (c : Cur) (x : Group) (h : Hdr) : Env :=
  let cyc := (coreAt s (slotCore c.g)).cycle
  let x := retire cyc x
  let e : Env := { g := c.g, grp := x, core := slotCore c.g, cyc := cyc, pc := c.pc, lanes := c.lanes, act := c.lanes,
                   sr := match c.second with | some q => q.sr | none => x.s,
                   vr := match c.second with | some q => q.v | none => x.v,
                   rc := match c.second with | some q => q.recents | none => x.recents,
                   lockS := match c.second with | some q => q.locked | none => [], free := s.free }
  { e with act := guardMask e h }

/-- The instruction acts: per lane always, once per stream where its guard is true in some lane (R265). -/
def actsIn (e : Env) (i : Info) : Bool := !i.once || e.act != 0

/-- The machine with the stream issued, before the instruction's effect. -/
def afterIssue (s : State) (c : Cur) (x : Group) (i : Info) (e : Env) (dsts : List Dest) : State :=
  let post := { s with free := s.free + 1 }
  { setGroup post c.g (issued c e.cyc i (actsIn e i) i.queues dsts (retire e.cyc x)) with cur := none }

/-- THE GATE of every instruction (R117, R152, R265, R270, R275). With no issue under way, or with something to wait for,
the state stays. A check that fails takes its trap. Otherwise `to` says where the lanes go and `act` gives the effect, from
what the stream sees, the state before and the state after issue. Log entry 1. -/
def gateTo (i : Info) (s : State) (dsts : Env → List Dest) (act : Env → State → State → State) :
    Outcome State Fault Refusal :=
  match s.cur with
  | none => .next s
  | some c =>
    match groupAt s c.g with
    | none => .next s
    | some x =>
      let e := issueEnv s c x i.h
      match verdict s c e.grp i with
      | .wait => .next s
      | .trap code aux => .next (trapAt s code (if i.elect then e.act &&& (0 - e.act) else e.act) 0 aux)
      | .fetch code addr aux => .next (trapAt s code c.lanes addr aux)
      | .go =>
        let post := afterIssue s c x i e (dsts e)
        .next (if actsIn e i then act e { s with free := s.free + 1 } post else post)

/-- The gate of an instruction whose lanes all go on at the next word. -/
def gate (i : Info) (s : State) (act : Env → State → State → State) : Outcome State Fault Refusal :=
  gateTo i s (fun e => [(nextPc e.pc i.h.sp, .run, e.lanes)]) act

/-- The lanes whose guard is true go to one word in one wait state, the others to the next word. -/
def splitTo (i : Info) (pc : Env → Pc) (w : Env → Wait) (e : Env) : List Dest :=
  [(pc e, w e, e.act), (nextPc e.pc i.h.sp, .run, e.lanes &&& ~~~ e.act)]

/-- What an instruction does once its group's release at a scope is complete (R191) and there is room for what follows. Until then
it does not issue: what the release has done so far stands. Log entry 52. -/
def afterReleaseWhen (e : Env) (pre post : State) (sc : Scope) (room : State → Bool) (k : State → State) : State :=
  let (ok, s) := release pre e.g sc
  match groupAt pre e.g, groupAt post e.g, groupAt s e.g with
  | some p, some x, some y =>
    if !(ok && room s) then s
    else
      let fl := (List.range 12).map fun n => (n, flagOf x n - (flagOf p n - flagOf y n))
      k { setGroup s e.g { x with storeq := y.storeq, f := fl } with cur := none }
  | _, _, _ => s

/-- The same where nothing else is to wait for. Log entry 52. -/
def afterRelease (e : Env) (pre post : State) (sc : Scope) (k : State → State) : State :=
  afterReleaseWhen e pre post sc (fun _ => true) k

end Sys2Proof.Machine
end

