-- ==== Sys2Proof/Machine/Flags.lean ====
section
/-! DEFINITION. Flags and results of an instruction: FSTAT, the flag that SET names, and variable-latency results (R150 to
R152, R208, R209, R271). -/

namespace Sys2Proof.Machine

/-- FTZ as the group has it (R208). -/
def Env.ftz (e : Env) : Bool := bit e.grp.fstat 8

/-- Flags of several results. -/
def orFl (fs : List Fl) : Fl := fs.foldl (fun a b => a ||| b) 0

/-- After a fixed-latency result: its FSTAT flags and the flag of SET come when it is written (R209, R271). -/
def fixTail (s : State) (e : Env) (h : Hdr) (lat : Nat) (fl : Fl) : State :=
  if fl = 0 && 12 ≤ h.set.toNat then s
  else
    let (id, s) := freshUid s
    { s with results := s.results ++ [{ id := id, uid := e.grp.uid, sig := sigOf e.grp.uid h.set, fl := fl.setWidth 64,
                                        due := some (e.cyc + lat) }] }

/-- Issue a variable-latency result: its v registers become empty for the whole group (R152). -/
def varResult (s : State) (e : Env) (h : Hdr) (vregs : List Nat) (vals : List (Nat × Word)) (sreg : Option (Nat × DWord))
    (fl : Fl) (load : Bool) (strong : Bool := false) : State :=
  let (id, s) := freshUid s
  let s := modGroup s e.g (markEmpty vregs)
  { s with results := s.results ++ [{ id := id, uid := e.grp.uid, vregs := vregs, vals := vals, sreg := sreg,
                                      sig := sigOf e.grp.uid h.set, load := load, strong := strong, fl := fl.setWidth 64 }] }

/-- The flag of SET falls in a group. -/
def dropFlag (set : BitVec 4) (x : Group) : Group :=
  if set.toNat < 12 then setFlag x set.toNat (flagOf x set.toNat - 1) else x

/-- An instruction with no result is complete at issue: the flag of SET falls (R152, R271). -/
def atOnce (s : State) (e : Env) (h : Hdr) : State := modGroup s e.g (dropFlag h.set)

end Sys2Proof.Machine
end

