-- ==== Sys2Proof/Machine/Operands.lean ====
section
/-! DEFINITION. Operand forms of the computing instructions (R265 to R268, R312, R313, R336). -/

namespace Sys2Proof.Machine

open Host

/-- The v registers that a destination of some width names. -/
def dstRegs (wide : Bool) : Reg → List Nat
  | .v n => if wide then [n.toNat, n.toNat + 1] else [n.toNat]
  | .s _ => []

/-- The v registers of a pair or of one register. -/
def pairRegs (wide : Bool) (n : BitVec 10) : List Nat := if wide then [n.toNat, n.toNat + 1] else [n.toNat]

/-- A source as a number of `w` bits in a lane: the low bits of the register, an immediate sign-extended (R267). -/
def Env.num (e : Env) (wide : Bool) (x : Src) (l : Nat) : Nat :=
  if wide then (e.src64 x l).toNat else (e.src32 x l).toNat

/-- A C register as a number. -/
def Env.cnum (e : Env) (wide : Bool) (n : BitVec 10) (l : Nat) : Nat :=
  if wide then (e.v64 n.toNat l).toNat else (e.v n.toNat l).toNat

/-- An immediate of a float type is the integer converted (R267). Log entry 10. -/
def immFloat (t : Ty) (n : BitVec 10) : Nat :=
  if n.toInt = 0 then 0 else (packFin t .rn false false (n.toInt < 0) n.toInt.natAbs 0).1

/-- A source of a float type in a lane (R267). -/
def Env.fnum (e : Env) (t : Ty) (x : Src) (l : Nat) : Nat :=
  match x with
  | .imm n => immFloat t n
  | y => (e.src32 y l).toNat

/-- A source of a packed half type: an immediate stands in both elements (R313, R335). -/
def Env.hnum (e : Env) (t : Ty) (x : Src) (l : Nat) : Nat :=
  match x with
  | .imm n => immFloat t n * 65537
  | y => (e.src32 y l).toNat

/-- The lane that a scalar destination computes in: sources are s registers and immediates, the same in every lane. -/
def oneLane : Nat := 0

/-- Write a fixed-latency result to D: every lane whose guard is true, or once (R265, R267). Log entry 11. -/
def writeD (s : State) (e : Env) (d : Reg) (wide : Bool) (lat : Nat) (f : Nat → Nat) : State :=
  let due := e.cyc + lat
  match d with
  | .v n =>
    if wide then modGroup s e.g (fixLanes64 due n.toNat (fun l => BitVec.ofNat 64 (f l)) (lanesOf e.act))
    else modGroup s e.g (fixLanes due n.toNat (fun l => BitVec.ofNat 32 (f l)) (lanesOf e.act))
  | .s n => if e.mayS n.toNat then modGroup s e.g (fixS due n.toNat (BitVec.ofNat 64 (f oneLane))) else s

/-- Write a predicate in the lanes whose guard is true. -/
def writeP (s : State) (e : Env) (pd : Nat) (lat : Nat) (f : Nat → Bool) : State :=
  modGroup s e.g fun x => (lanesOf e.act).foldl (fun x l => fixP (e.cyc + lat) pd l (f l) x) x

/-- The lanes that an instruction computes in. -/
def Env.calc (e : Env) (d : Reg) : List Nat :=
  match d with
  | .v _ => lanesOf e.act
  | .s _ => [oneLane]

/-- What an instruction of the computing classes names. -/
def infoOf (h : Hdr) (d : Reg) (dw : Bool) (a : Option (Src × Bool)) (b : Option (Src × Bool)) (c : List Nat) : Info :=
  { h := h, once := Reg.isS d, a := a, b := b, c := c, vw := dstRegs dw d }

/-- A fixed-latency instruction with one destination: a number for each lane, with the flags of FSTAT. Log entry 2. -/
def fixedOp (i : Info) (d : Reg) (dw : Bool) (lat : Nat) (f : Env → Nat → Nat × Fl) (s : State) :
    Outcome State Fault Refusal :=
  gate i s fun e _ post =>
    let s := writeD post e d dw lat fun l => (f e l).1
    fixTail s e i.h lat (orFl ((e.calc d).map fun l => (f e l).2))

/-- An integer result: no flag (R210). -/
def intOp (i : Info) (d : Reg) (dw : Bool) (lat : Nat) (f : Env → Nat → Nat) (s : State) : Outcome State Fault Refusal :=
  fixedOp i d dw lat (fun e l => (f e l, 0)) s

/-- Lane values of a v register or pair. -/
def runVals (wide : Bool) (n : Nat) (xs : List (Nat × Nat)) : List (Nat × Word) :=
  (xs.map fun p =>
    let x := BitVec.ofNat 64 p.2
    if wide then [(n * 128 + p.1, x.setWidth 32), ((n + 1) * 128 + p.1, x.extractLsb' 32 32)]
    else [(n * 128 + p.1, x.setWidth 32)]).flatten

/-- A variable-latency instruction with one destination (R152). Log entry 2. -/
def varOp (i : Info) (d : Reg) (dw : Bool) (f : Env → Nat → Nat × Fl) (s : State) : Outcome State Fault Refusal :=
  gate i s fun e _ post =>
    let fl := orFl ((e.calc d).map fun l => (f e l).2)
    match d with
    | .v n =>
      varResult post e i.h (dstRegs dw d) (runVals dw n.toNat ((lanesOf e.act).map fun l => (l, (f e l).1))) none fl false
    | .s n =>
      let x := (n.toNat, BitVec.ofNat 64 (f e oneLane).1)
      varResult post e i.h [] [] (if e.mayS n.toNat then some x else none) fl false

end Sys2Proof.Machine
end

