-- ==== Sys2Proof/Machine/Access.lean ====
section
/-! DEFINITION. Lane addresses and their checks, reads and writes of one lane, atomic operations (R160, R187, R189, R350,
R351, R354). -/

namespace Sys2Proof.Machine

open Host

/-- One lane's bytes in one line. -/
structure Piece where
  va   : Nat
  n    : Nat
  leaf : DWord
  key  : Nat
deriving DecidableEq, Repr

/-- One lane's access: its pieces, none where a byte lies on a non-resident page (R170). -/
structure LaneAcc where
  lane   : Nat
  ea     : DWord
  pieces : Option (List Piece)
deriving DecidableEq, Repr

/-- What the checks of R350 give: a trap with lanes, address and AUX, or the accesses. -/
inductive Checked where
  | bad (code : Nat) (lanes : LaneMask) (addr aux : DWord)
  | ok (accs : List LaneAcc)
  /-- A walk waits for a line that a sub-block has to itself (R175). -/
  | held
deriving DecidableEq, Repr

/-- Address of a lane (R350). -/
def laneEa (e : Env) (base : BitVec 6) (off disp : BitVec 10) (size : Nat) (l : Nat) : DWord :=
  e.s base.toNat + (e.v off.toNat l).signExtend 64 * BitVec.ofNat 64 size + disp.signExtend 64 * BitVec.ofNat 64 size

/-- The checks of one lane's bytes, piece by piece: ADDRESS_RANGE before PERMISSION before non-residency. -/
def lanePieces (s : State) (e : Env) (a : Acc) (home : Bool) (ea : DWord) (size : Nat) : Look × List Piece × State :=
  (linePieces ea.toNat size).foldl (fun r p =>
    let (acc, ps, s) := r
    let va := ea + BitVec.ofNat 64 p.1
    let (x, s) := lookLine s e.core e.grp.ctx (grpPriv s e.grp) a home va p.2
    match acc, x with
    | .range, _ => (.range, ps, s)
    | _, .range => (.range, ps, s)
    | .perm l, _ => (.perm l, ps, s)
    | _, .perm l => (.perm l, ps, s)
    | .nonres, _ => (.nonres, ps, s)
    | _, .nonres => (.nonres, ps, s)
    | .ok _ _, .ok l k => (.ok l k, ps ++ [{ va := va.toNat % 2 ^ 56, n := p.2, leaf := l, key := k }], s))
    (.ok 0 0, [], s)

/-- Lanes of a list that satisfy a test. -/
def lanesWhere (xs : List (Nat × DWord)) (p : DWord → Bool) : List (Nat × DWord) := xs.filter fun x => p x.2

/-- A byte of an access stands on no line of L1, and its walk waits (R167, R175). -/
def pieceWalks (s : State) (e : Env) (ea : DWord) (size : Nat) : Bool :=
  keptHome s && (linePieces ea.toNat size).any fun p =>
    let va := ea + BitVec.ofNat 64 p.1
    (l1Find (coreAt s e.core) (asidOf s e.grp.ctx) (va.toNat % 2 ^ 56 / 128)).isNone && walkHeld s e.core e.grp.ctx va

/-- Checks 1 to 3 of R350 for a global access, strong or not, that goes `home` or runs in L1. Log entry 21. -/
def checkGlobal (s : State) (e : Env) (a : Acc) (strong home : Bool) (size : Nat) (ls : List Nat) (ea : Nat → DWord) :
    Checked × State :=
  let xs := ls.map fun l => (l, ea l)
  let mk := fun (code : Nat) (ys : List (Nat × DWord)) (aux : DWord) =>
    Checked.bad code (maskOf (ys.map (·.1))) ((ys.head?.map (·.2)).getD 0) aux
  let r1 := lanesWhere xs fun x => !canonical x
  let r2 := lanesWhere xs fun x => strong && x.toNat % size != 0
  if !r1.isEmpty then (mk 0x18 r1 0, s)
  else if !r2.isEmpty then (mk 0x05 r2 0, s)
  else if xs.any fun x => pieceWalks s e x.2 size then (.held, s)
  else
    let (looks, s) := xs.foldl (fun (acc : List (Nat × DWord × Look × List Piece) × State) x =>
      let (k, ps, s) := lanePieces acc.2 e a home x.2 size
      (acc.1 ++ [(x.1, x.2, k, ps)], s)) ([], s)
    let range := looks.filter fun x => match x.2.2.1 with | .range => true | _ => false
    let perm := looks.filter fun x => match x.2.2.1 with | .perm _ => true | _ => false
    let pair := fun (x : Nat × DWord × Look × List Piece) => (x.1, x.2.1)
    if !range.isEmpty then (mk 0x18 (range.map pair) 0, s)
    else match perm.head? with
      | some x => (mk 0x06 (perm.map pair) (match x.2.2.1 with | .perm l => l | _ => 0), s)
      | none => (.ok (looks.map fun x =>
          { lane := x.1, ea := x.2.1, pieces := match x.2.2.1 with | .nonres => none | _ => some x.2.2.2 }), s)

/-- Checks of a scratchpad access (R110, R161, R189, R350). An offset is no virtual address: ADDR of a trap is 0 (R248).
Log entry 21. -/
def checkSpad (s : State) (e : Env) (strong : Bool) (size : Nat) (ls : List Nat) (ea : Nat → DWord) : Checked :=
  let xs := ls.map fun l => (l, ea l)
  let mk := fun (code : Nat) (ys : List (Nat × DWord)) =>
    Checked.bad code (maskOf (ys.map (·.1))) 0 0
  let t := teamOf s e.grp.team
  let away := match t with | some t => t.core != some e.core | none => false
  let scratch := (t.map (·.scratch)).getD 0
  let r1 := lanesWhere xs fun x => scratch < x.toNat + size
  let r2 := lanesWhere xs fun x => strong && x.toNat % size != 0
  if away && !xs.isEmpty then mk 0x06 xs
  else if !r1.isEmpty then mk 0x18 r1
  else if !r2.isEmpty then mk 0x05 r2
  else .ok (xs.map fun x => { lane := x.1, ea := x.2, pieces := some [] })

/-- Every piece of the accesses. Log entry 21. -/
def allPieces (accs : List LaneAcc) : List Piece := (accs.map fun a => a.pieces.getD []).flatten

/-- Every byte of a piece is valid in L1. -/
def pieceValid (s : State) (core asid : Nat) (p : Piece) : Bool :=
  match l1Find (coreAt s core) asid (p.va / 128) with
  | some x => x.has (p.va % 128) p.n
  | none => false

/-- An access must wait: a line of it lies under a sink shadow (R176), a line that it reaches at its home, itself or by a fill, is
kept from accesses there (R36, R175), or its set in L1 has no way for it (R159). -/
def anyShadow (s : State) (core asid : Nat) (home : Bool) (accs : List LaneAcc) : Bool :=
  (allPieces accs).any fun p =>
    shadowed s core (keyLine p.key)
    || ((home || !pieceValid s core asid p) && locked s (keyLine p.key))
    || (!home && !hasRoom s core asid (p.va / 128))

/-- A read of a piece in L1 meets poison: in the copy, or in the line that a fill brings (R187). -/
def piecePoison (s : State) (core asid : Nat) (p : Piece) : Bool :=
  (match l1Find (coreAt s core) asid (p.va / 128) with
   | some x => x.poison
   | none => false)
  || (!pieceValid s core asid p && linePoison s (keyLine p.key))

/-- Lanes whose bytes come from a poisoned line (R187), with the line. -/
def poisonedLanes (s : State) (core asid : Nat) (home : Bool) (accs : List LaneAcc) : List (LaneAcc × Nat) :=
  (accs.map fun a => ((a.pieces.getD []).filter fun p =>
      if home then linePoison s (keyLine p.key) else piecePoison s core asid p).map fun p =>
    (a, keyLine p.key)).flatten

/-- Physical address of a line. -/
def linePa (line : Nat) : DWord := BitVec.ofNat 64 (keyPa (128 * line))

/-- DATA_POISON at a load (R187, R250). -/
def trapPoison (s : State) (bad : List (LaneAcc × Nat)) : State :=
  match bad.head? with
  | none => s
  | some b => trapAt s 0x0E (maskOf (bad.map fun x => x.1.lane)) b.1.ea (linePa b.2)

/-- Read pieces in L1, the group's own queued stores forwarded (R159, R190). What is there is taken before a fill of another piece
can make room in L1, so only bytes that the checks have asked the home for are filled (R15). -/
def readL1 (s : State) (core asid : Nat) (q : List StoreQ) (ps : List Piece) : List Byte × State :=
  (ps.map fun p => (p, nearBytes core asid q p.leaf p.va p.n s)).foldl (fun acc x =>
    match x.2 with
    | some b => (acc.1 ++ b, acc.2)
    | none =>
      let (b, s) := weakBytes core asid q x.1.leaf x.1.va x.1.n acc.2
      (acc.1 ++ b, s)) ([], s)

/-- The core writes back and drops its copy of the physical line, and the access is a read at home (R32, R160, R161). -/
def visitHome (s : State) (core asid : Nat) (p : Piece) : State :=
  let s := flushPhys s core (keyLine p.key)
  touchL2 (remoteCount s (coreFlask core) p.key) (ctxOfAsid s asid) (leafKeyid p.leaf) (keyLine p.key)

/-- Read pieces at the home slices (R160). -/
def readHome (s : State) (core asid : Nat) (ps : List Piece) : List Byte × State :=
  ps.foldl (fun acc p =>
    let s := visitHome acc.2 core asid p
    (acc.1 ++ homeBytes s (leafKeyid p.leaf) p.key p.n, s)) ([], s)

/-- Write a piece at its home slice (R160). -/
def writeHome (s : State) (core asid : Nat) (p : Piece) (bs : List Byte) : State :=
  homeWrite s (coreFlask core) core (leafKeyid p.leaf) (keyLine p.key) (some (ctxOfAsid s asid))
    (((List.range p.n).zip bs).map fun q => (p.key + q.1, q.2))

/-- A loaded value as it stands in its register or pair (R351). -/
def loadPat (t : Ty) (bs : List Byte) : Nat :=
  let n := bytesNat bs
  if t == .s8 || t == .s16 then (BitVec.ofInt 32 (sextNat t.bits n)).toNat else n

/-- The value of LDSC, in 64 bits (R351). -/
def loadPat64 (t : Ty) (bs : List Byte) : DWord :=
  let n := bytesNat bs
  if t == .s8 || t == .s16 || t == .s32 then ofInt64 (sextNat t.bits n) else BitVec.ofNat 64 n

/-- The lane values of a result in `d`. -/
def laneVals (wide : Bool) (d : Nat) (xs : List (Nat × Nat)) : List (Nat × Word) :=
  (xs.map fun x =>
    if wide then [(d * 128 + x.1, BitVec.ofNat 32 x.2), ((d + 1) * 128 + x.1, BitVec.ofNat 32 (x.2 / 2 ^ 32))]
    else [(d * 128 + x.1, BitVec.ofNat 32 x.2)]).flatten

/-- Clear the residency predicate in lanes, when the instruction is accepted (R170). -/
def clearRes (s : State) (g pk : Nat) (ls : List Nat) : State :=
  if ls.isEmpty then s else modGroup s g fun x => ls.foldl (fun x l => putP x pk l false) x

/-- Lanes on non-resident pages. -/
def missing (accs : List LaneAcc) : List Nat := (accs.filter fun a => a.pieces.isNone).map (·.lane)

/-- The data of a store in a lane (R351). -/
def storeBytes (e : Env) (t : Ty) (x : BitVec 10) (l : Nat) : List Byte :=
  natBytes t.size (if t.wide then (e.v64 x.toNat l).toNat else (e.v x.toNat l).toNat)

/-- The value that an atomic operation stores (R354), from the old value, the operand and the new value of .cas. -/
def atomicOp (op : AtomOp) (t : Ty) (old x new : Nat) : Nat :=
  let m := 2 ^ t.bits
  match op with
  | .add => if t == .f32 then (fAdd .f32 .rn false old x).1 else (old + x) % m
  | .min => if t == .f32 then (fMinMax .f32 true false old x).1
            else if intOf t x < intOf t old then x else old
  | .max => if t == .f32 then (fMinMax .f32 false false old x).1
            else if intOf t old < intOf t x then x else old
  | .and => old &&& x
  | .or => old ||| x
  | .xor => old ^^^ x
  | .exch => x
  | .cas => if old = x then new else old
  | .inc => if x ≤ old then 0 else (old + 1) % m
  | .dec => if old = 0 || x < old then x else old - 1

/-- The registers that an atomic reads (R274, R354). -/
def atomRegs (op : AtomOp) (t : Ty) (x : BitVec 10) : List Nat :=
  let n := x.toNat
  match op, t.wide with
  | .cas, true => [n, n + 1, n + 2, n + 3]
  | .cas, false => [n, n + 1]
  | _, true => [n, n + 1]
  | _, false => [n]

/-- Operand and new value of an atomic in a lane. -/
def atomArgs (e : Env) (t : Ty) (x : BitVec 10) (l : Nat) : Nat × Nat :=
  if t.wide then ((e.v64 x.toNat l).toNat, (e.v64 (x.toNat + 2) l).toNat) else ((e.v x.toNat l).toNat, (e.v (x.toNat + 1) l).toNat)

/-- One lane's atomic at its place (R355): old value and state. The access is aligned, so it has one piece. -/
def atomLane (s : State) (core asid : Nat) (home : Bool) (op : AtomOp) (t : Ty) (p : Piece) (x new : Nat) : Nat × State :=
  if home then
    let (bs, s) := readHome s core asid [p]
    let old := bytesNat bs
    (old, writeHome s core asid p (natBytes t.size (atomicOp op t old x new)))
  else
    let (bs, s) := readL1 s core asid [] [p]
    let old := bytesNat bs
    (old, l1Store s core asid p.va p.leaf (natBytes t.size (atomicOp op t old x new)))

end Sys2Proof.Machine
end

