-- ==== Sys2Proof/Machine/Memory.lean ====
section
/-! DEFINITION. Loads, stores, atomics, page requests, prefetch and cache control, class 0x7 (R349 to R358). -/

namespace Sys2Proof.Machine

open Host

/-- What a memory-format instruction names: base and displacement stand in A, the offset register in B. -/
def memInfo (h : Hdr) (off : BitVec 10) (c vw : List Nat) (once : Bool := false) : Info :=
  { h := h, once := once, b := if once then none else some (.v off, false), c := c, vw := vw, mem := true }

/-- Go on with the checked accesses of the lanes whose guard is true, or trap, or wait for a sub-block (R175, R176, R350). -/
def withGlobal (e : Env) (pre post : State) (a : Acc) (strong home : Bool) (size : Nat) (ea : Nat → DWord)
    (k : List LaneAcc → State → State) : State :=
  match checkGlobal post e a strong home size (lanesOf e.act) ea with
  | (.bad code lanes addr aux, _) => trapAt pre code lanes addr aux
  | (.held, _) => pre
  | (.ok accs, s) => if anyShadow s e.core (asidOf s e.grp.ctx) home accs then pre else k accs s

/-- An access that does not run in L1 follows the group's own queued stores; it waits while they cannot drain. -/
def afterDrain (e : Env) (pre post : State) (k : State → State) : State :=
  let s := drainAll post e.g
  if drained s e.g then k s else pre

/-- The group's store queue. -/
def queueOf (s : State) (g : Nat) : List StoreQ := ((groupAt s g).map (·.storeq)).getD []

/-- Bytes of each resident lane, read in L1 or at home. -/
def readLanes (s : State) (e : Env) (home : Bool) (accs : List LaneAcc) : List (Nat × List Byte) × State :=
  let asid := asidOf s e.grp.ctx
  let (bs, s) := if home then readHome s e.core asid (allPieces accs) else readL1 s e.core asid (queueOf s e.g) (allPieces accs)
  ((accs.foldl (fun (acc : List (Nat × List Byte) × List Byte) a =>
    match a.pieces with
    | none => acc
    | some ps =>
      let n := (ps.map (·.n)).foldl (· + ·) 0
      (acc.1 ++ [(a.lane, acc.2.take n)], acc.2.drop n)) ([], bs)).1, s)

/-- An acquire where the ordering asks for one (R192). -/
def acqIf (s : State) (core : Nat) (b : Bool) (sc : Scope) : State := if b then acquire s core sc else s

/-- The lanes' accesses that went to a peer module, of those not served by L1, are noted with their result, which a refusal of
the peer may yet change (R423). -/
def markPeer (e : Env) (home : Bool) (accs : List LaneAcc) (before s : State) : State :=
  let asid := asidOf s e.grp.ctx
  let out := accs.filter fun a => (a.pieces.getD []).any fun p =>
    keyTier p.key == 3 && (home || !pieceValid before e.core asid p)
  if out.isEmpty then s
  else
    let bytes := (out.map fun a => ((a.pieces.getD []).map fun p => (List.range p.n).map fun i => (a.lane, p.key + i)).flatten).flatten
    let undo := (bytes.map fun k => (k.1, k.2, memByte before.mem k.2, memByte s.mem k.2)).filter fun u => u.2.2.1 != u.2.2.2
    match s.results.reverse with
    | r :: rest =>
      { s with results := ({ r with word := e.pc, peer := out.map fun a => (a.lane, a.ea), undo := undo } :: rest).reverse }
    | [] => s

/-- A load of lanes (R352), given what to do with the bytes; `pick` says which of the checked lanes are read. -/
def loadLanes (e : Env) (pre post : State) (t : Ty) (strong acq : Bool) (sc : Scope) (ea : Nat → DWord)
    (k : List LaneAcc → List (Nat × List Byte) → State → State) (pick : List LaneAcc → List LaneAcc := id) : State :=
  let st := strong || acq
  let home := st && sc != .core
  withGlobal e pre post .read st home t.size ea fun accs s =>
    let go := fun (s : State) =>
      let bad := poisonedLanes s e.core (asidOf s e.grp.ctx) home accs
      if !bad.isEmpty then trapPoison pre bad
      else
        let s0 := s
        let (vals, s) := readLanes s e home (pick accs)
        acqIf (markPeer e home (pick accs) s0 (k accs vals s)) e.core acq sc
    if home then afterDrain e pre s go else go s

/-- LD (R351, R352). -/
def execLd (h : Hdr) (t : Ty) (strong acq : Bool) (sc : Scope) (d : BitVec 10) (m : MemRef) (s : State) :
    Outcome State Fault Refusal :=
  let ds := pairRegs t.wide d
  gate (memInfo h m.off [] ds) s fun e pre post =>
    loadLanes e pre post t strong acq sc (laneEa e m.base m.off m.disp t.size) fun accs vals s =>
      let zero := (missing accs).map fun l => (l, 0)
      let s := clearRes s e.g m.pk.toNat (missing accs)
      varResult s e h ds (laneVals t.wide d.toNat (zero ++ vals.map fun v => (v.1, loadPat t v.2))) none 0 true (strong || acq)

/-- LDSC (R353). Log entry 17. -/
def execLdsc (h : Hdr) (t : Ty) (strong acq : Bool) (sc : Scope) (d base : BitVec 6) (disp : BitVec 10) (pk : BitVec 3)
    (s : State) : Outcome State Fault Refusal :=
  gate (memInfo h 0 [] [] true) s fun e pre post =>
    let ea := e.s base.toNat + disp.signExtend 64 * BitVec.ofNat 64 t.size
    loadLanes e pre post t strong acq sc (fun _ => ea) (fun accs vals s =>
      let s := if (missing accs).isEmpty then s else clearRes s e.g pk.toNat (lanesOf e.act)
      let v := match vals.head? with
        | some v => loadPat64 t v.2
        | none => 0
      varResult s e h [] [] (some (d.toNat, v)) 0 true (strong || acq)) (fun accs => accs.take 1)

/-- Queue the stores of lanes, in lane order (R190, R198); the flag of SET falls with the last part. -/
def queueStores (s : State) (e : Env) (h : Hdr) (es : List (Nat × StoreTo × List Byte)) : State :=
  let (id, s) := if h.set.toNat < 12 then newOp s e.grp.uid (sigOf e.grp.uid h.set) es.length else (0, s)
  modGroup s e.g fun x => { x with
    storeq := x.storeq ++ es.map fun q => { dst := q.2.1, bytes := q.2.2, lane := q.1, op := id, word := e.pc } }

/-- The parts of a store, piece by piece. -/
def storeParts (s : State) (e : Env) (home : Bool) (accs : List LaneAcc) (f : Nat → List Byte) :
    List (Nat × StoreTo × List Byte) :=
  let asid := asidOf s e.grp.ctx
  (accs.map fun a =>
    let bs := f a.lane
    ((a.pieces.getD []).foldl (fun (acc : Nat × List (Nat × StoreTo × List Byte)) p =>
      let dsts := if home then StoreTo.home asid p.va p.leaf else StoreTo.l1 asid p.va p.leaf
      (acc.1 + p.n, acc.2 ++ [(a.lane, dsts, (bs.drop acc.1).take p.n)])) (0, [])).2).flatten

/-- ST (R352). -/
def execSt (h : Hdr) (t : Ty) (strong rel : Bool) (sc : Scope) (x : BitVec 10) (m : MemRef) (s : State) :
    Outcome State Fault Refusal :=
  gate (memInfo h m.off (pairRegs t.wide x) []) s fun e pre post =>
    let st := strong || rel
    match checkGlobal post e .write st (st && sc != .core) t.size (lanesOf e.act) (laneEa e m.base m.off m.disp t.size) with
    | (.bad code lanes addr aux, _) => trapAt pre code lanes addr aux
    | (.held, _) => pre
    | (.ok accs, s) =>
      let put := fun (s : State) =>
        queueStores (clearRes s e.g m.pk.toNat (missing accs)) e h
          (storeParts s e (st && sc != .core) accs (storeBytes e t x))
      if rel then afterRelease e pre s sc put else put s

/-- Go on with the checked scratchpad accesses, or trap. -/
def withSpad (e : Env) (pre post : State) (strong : Bool) (size : Nat) (ea : Nat → DWord)
    (k : List LaneAcc → State → State) : State :=
  match checkSpad post e strong size (lanesOf e.act) ea with
  | .bad code lanes addr aux => trapAt pre code lanes addr aux
  | .held => pre
  | .ok accs => k accs post

/-- Scratchpad bytes as the group sees them (R161, R190). -/
def spadBytes (s : State) (e : Env) (off n : Nat) : List Byte :=
  let q := queueOf s e.g
  let t := teamOf s e.grp.team
  (List.range n).map fun i => match forwardSpad q (off + i) with
    | some b => b
    | none => match t with
      | some t => spadByte t (off + i)
      | none => 0

/-- LDS (R161, R352). -/
def execLds (h : Hdr) (t : Ty) (strong acq : Bool) (d : BitVec 10) (base : BitVec 6) (off disp : BitVec 10) (s : State) :
    Outcome State Fault Refusal :=
  let ds := pairRegs t.wide d
  gate (memInfo h off [] ds) s fun e pre post =>
    withSpad e pre post (strong || acq) t.size (laneEa e base off disp t.size) fun accs s =>
      varResult s e h ds
        (laneVals t.wide d.toNat (accs.map fun a => (a.lane, loadPat t (spadBytes s e a.ea.toNat t.size)))) none 0 true (strong || acq)

/-- STS (R161, R352). -/
def execSts (h : Hdr) (t : Ty) (strong rel : Bool) (x : BitVec 10) (base : BitVec 6) (off disp : BitVec 10) (s : State) :
    Outcome State Fault Refusal :=
  gate (memInfo h off (pairRegs t.wide x) []) s fun e pre post =>
    withSpad e pre post (strong || rel) t.size (laneEa e base off disp t.size) fun accs s =>
      let put := fun (s : State) =>
        queueStores s e h (accs.map fun a => (a.lane, .scratch a.ea.toNat, storeBytes e t x a.lane))
      if rel then afterRelease e pre s .core put else put s

/-- The ordering releases, or acquires. -/
def Ord.rel : Ord → Bool
  | .rel | .acqrel => true
  | .plain | .acq => false

def Ord.acq : Ord → Bool
  | .acq | .acqrel => true
  | .plain | .rel => false

/-- The deferred DATA_POISON of an access that is no load (R250). Log entry 21. -/
def deferPoison (s : State) (e : Env) (bad : List (LaneAcc × Nat)) : State :=
  match bad.head? with
  | none => s
  | some b => deferCause s e.grp.uid { code := 0x0E, lanes := maskOf (bad.map fun x => x.1.lane), aux := linePa b.2, origin := e.pc }

/-- The atomic of one lane (R355). A line that an earlier lane's fill has put out of L1 and that its home no longer takes is not filled
again (R15): the lane reads 0 and its group stops. -/
def atomOne (e : Env) (home : Bool) (op : AtomOp) (t : Ty) (a : LaneAcc) (p : Piece) (x new : Nat) (s : State) : Nat × State :=
  let asid := asidOf s e.grp.ctx
  if !home && !pieceValid s e.core asid p && !leafUsable s p.leaf p.key then
    (0, deferCause s e.grp.uid { code := 0x18, lanes := laneBit a.lane, addr := a.ea, origin := e.pc })
  else atomLane s e.core asid home op t p x new

/-- An atomic of lanes (R355): the old value of each resident lane. A poisoned line stops it at once where it loads a value, and by a
deferred trap where it does not (R187, R250). Log entry 21. -/
def atomLanes (e : Env) (pre post : State) (op : AtomOp) (t : Ty) (rel acq loads : Bool) (sc : Scope) (ea : Nat → DWord)
    (x : BitVec 10) (k : List LaneAcc → List (Nat × Nat) → State → State) : State :=
  let home := sc != .core
  withGlobal e pre post .atomic true home t.size ea fun accs s =>
    let run := fun (s : State) =>
      let asid := asidOf s e.grp.ctx
      let bad := poisonedLanes s e.core asid home accs
      if loads && !bad.isEmpty then trapPoison pre bad
      else
        let s0 := s
        let (vals, s) := accs.foldl (fun (acc : List (Nat × Nat) × State) a =>
          match a.pieces with
          | some (p :: _) =>
            let args := atomArgs e t x a.lane
            let (old, s) := atomOne e home op t a p args.1 args.2 acc.2
            (acc.1 ++ [(a.lane, old)], s)
          | _ => acc) ([], s)
        deferPoison (acqIf (markPeer e home accs s0 (k accs vals s)) e.core acq sc) e bad
    if rel then afterRelease e pre s sc fun s => afterDrain e pre s run else afterDrain e pre s run

/-- ATOM (R354, R355). -/
def execAtom (h : Hdr) (op : AtomOp) (t : Ty) (o : Ord) (sc : Scope) (d : BitVec 10) (base : BitVec 6) (off x : BitVec 10)
    (pk : BitVec 3) (s : State) : Outcome State Fault Refusal :=
  let ds := pairRegs t.wide d
  gate (memInfo h off (atomRegs op t x) ds) s fun e pre post =>
    atomLanes e pre post op t (Ord.rel o) (Ord.acq o) true sc (laneEa e base off 0 t.size) x fun accs vals s =>
      let zero := (missing accs).map fun l => (l, 0)
      varResult (clearRes s e.g pk.toNat (missing accs)) e h ds (laneVals t.wide d.toNat (zero ++ vals)) none 0 true true

/-- RED (R355): no register; the flag of SET falls when every lane has been performed. -/
def execRed (h : Hdr) (op : AtomOp) (t : Ty) (rel : Bool) (sc : Scope) (x : BitVec 10) (m : MemRef) (s : State) :
    Outcome State Fault Refusal :=
  gate (memInfo h m.off (atomRegs op t x) []) s fun e pre post =>
    atomLanes e pre post op t rel false false sc (laneEa e m.base m.off m.disp t.size) x fun accs _ s =>
      varResult (clearRes s e.g m.pk.toNat (missing accs)) e h [] [] none 0 true true

/-- ATOMS (R355). -/
def execAtoms (h : Hdr) (op : AtomOp) (t : Ty) (o : Ord) (d : BitVec 10) (base : BitVec 6) (off x : BitVec 10) (s : State) :
    Outcome State Fault Refusal :=
  let ds := pairRegs t.wide d
  gate (memInfo h off (atomRegs op t x) ds) s fun e pre post =>
    withSpad e pre post true t.size (laneEa e base off 0 t.size) fun accs s =>
      let run := fun (s : State) =>
        let (vals, s) := accs.foldl (fun (acc : List (Nat × Nat) × State) a =>
          let old := bytesNat (spadBytes acc.2 e a.ea.toNat t.size)
          let args := atomArgs e t x a.lane
          (acc.1 ++ [(a.lane, old)],
            modTeam acc.2 e.grp.team fun tm => spadWrite tm a.ea.toNat (natBytes t.size (atomicOp op t old args.1 args.2))))
          ([], s)
        varResult s e h ds (laneVals t.wide d.toNat vals) none 0 true true
      if Ord.rel o then afterRelease e pre s .core fun s => afterDrain e pre s run else afterDrain e pre s run

/-- The pages that hold the bytes of the lanes and are not resident, with the first address asked for. Log entry 21. -/
def missingPages (s : State) (e : Env) (size : Nat) (ea : Nat → DWord) : List (Nat × DWord) × State :=
  (lanesOf e.act).foldl (fun acc l =>
    (linePieces (ea l).toNat size).foldl (fun acc p =>
      let va := ea l + BitVec.ofNat 64 p.1
      let (x, s) := translate acc.2 e.core e.grp.ctx va
      let page := pageOf s e.grp.ctx va.toNat
      match x with
      | .nonres => if acc.1.any (fun q => q.1 == page) then (acc.1, s) else (acc.1 ++ [(page, va)], s)
      | _ => (acc.1, s)) acc) ([], s)

/-- PREQ (R170, R356). -/
def execPreq (h : Hdr) (t : Ty) (base : BitVec 6) (off disp : BitVec 10) (s : State) : Outcome State Fault Refusal :=
  gate (memInfo h off [] []) s fun e pre post =>
    let ea := laneEa e base off disp t.size
    let bad := (lanesOf e.act).filter fun l => !canonical (ea l)
    match bad with
    | l :: _ => trapAt pre 0x18 (maskOf bad) (ea l) 0
    | [] =>
      let (pages, s) := missingPages post e t.size ea
      if pages.isEmpty then atOnce s e h
      else
        let s := pages.foldl (fun s p => residNotice s 1 0 e.grp.ctx 0 e.core (e.g % 64) p.2) s
        let (id, s) := freshUid s
        { s with preqs := s.preqs ++ [{ id := id, uid := e.grp.uid, ctx := e.grp.ctx, pages := pages.map (·.1),
                                        sig := sigOf e.grp.uid h.set }] }

/-- Fill the line of a byte as a weak load does, where it may be read (R357). -/
def prefetchByte (e : Env) (va : DWord) (n : Nat) (s : State) : State :=
  let (x, s) := lookLine s e.core e.grp.ctx (grpPriv s e.grp) .read false va n
  match x with
  | .ok leaf k =>
    if !lineFree s e.core (keyLine k) || !hasRoom s e.core (asidOf s e.grp.ctx) (va.toNat % 2 ^ 56 / 128) then s
    else (weakBytes e.core (asidOf s e.grp.ctx) [] leaf (va.toNat % 2 ^ 56) n s).2
  | _ => s

/-- PREF (R357). -/
def execPref (h : Hdr) (t : Ty) (base : BitVec 6) (off disp : BitVec 10) (s : State) : Outcome State Fault Refusal :=
  gate (memInfo h off [] []) s fun e _ post =>
    let ea := laneEa e base off disp t.size
    let s := (lanesOf e.act).foldl (fun s l =>
      (linePieces (ea l).toNat t.size).foldl (fun s p => prefetchByte e (ea l + BitVec.ofNat 64 p.1) p.2 s) s) post
    varResult s e h [] [] none 0 false

/-- CCTL on one tagged line (R358): what is left of it after .inv is bytes that the core has written itself, which no poisoned line
gave (R187). Log entry 50. -/
def cctlLine (op : CctlOp) (core asid vline : Nat) (s : State) : State :=
  match l1Find (coreAt s core) asid vline with
  | none => s
  | some x =>
    match op with
    | .wb => writeBack s core x
    | .wbinv => flushLine s core asid vline
    | .inv => modCore s core fun c =>
        if x.dirty = 0 then l1Drop c asid vline else l1Put c { x with valid := x.dirty, poison := false }

/-- CCTL (R358). -/
def execCctl (h : Hdr) (op : CctlOp) (t : Ty) (base : BitVec 6) (off disp : BitVec 10) (s : State) :
    Outcome State Fault Refusal :=
  gate (memInfo h off [] []) s fun e pre post =>
    let ea := laneEa e base off disp t.size
    let bad := (lanesOf e.act).filter fun l => !canonical (ea l)
    match bad with
    | l :: _ => trapAt pre 0x18 (maskOf bad) (ea l) 0
    | [] => afterDrain e pre post fun s =>
      let asid := asidOf s e.grp.ctx
      let lines := dedup (((lanesOf e.act).map fun l =>
        (linePieces (ea l).toNat t.size).map fun p => (ea l + BitVec.ofNat 64 p.1).toNat % 2 ^ 56 / 128).flatten)
      let held := fun (v : Nat) => match l1Find (coreAt s e.core) asid v with
        | some x => !lineFree s e.core x.line
        | none => s.subs.any fun b => b.core == e.core && b.asid == asid && b.vline == v
      if lines.any held then pre
      else varResult (lines.foldl (fun s v => cctlLine op e.core asid v s) s) e h [] [] none 0 false

end Sys2Proof.Machine
end

