-- ==== Sys2Proof/Machine/Engine.lean ====
section
/-! DEFINITION. How engines read and write memory, and how an instruction reads its record (R195, R196, R367 to R369). -/

namespace Sys2Proof.Machine

open Host

/-- On whose behalf an engine acts: its core, its context, whether it is a system team's, its group slot, the lines that a peer
refuses it (R423). -/
structure Party where
  core : Nat
  ctx  : Nat
  sysT : Bool
  slot : Nat := 0
  no   : List Nat := []
deriving DecidableEq, Repr

/-- One byte on its way: not moved when its page failed, marked with its line when that is poisoned. -/
structure EngB where
  b     : Byte
  moved : Bool := true
  bad   : Option Nat := none
deriving DecidableEq, Repr

/-- What the accesses of an operation have met: pages not resident, as page, address and access; the first address that failed;
the first poisoned line; a line that a sub-block has to itself or holds in shadow
(R175, R176, R202), or whose port retrains (R36), for which the operation waits. -/
structure Met where
  miss   : List (Nat × DWord × Nat) := []
  fault  : Option DWord := none
  poison : Option Nat := none
  lock   : Bool := false
deriving DecidableEq, Repr

/-- The checks of an address for an engine (R369); a line that a peer refuses counts as a range failure of the operation (R423). -/
def Party.reach (p : Party) (s : State) (acc : Acc) (a : DWord) : Look × State :=
  match look s p.core p.ctx (p.sysT && ctxPriv s p.ctx) acc a with
  | (.ok l k, s) => (if p.no.contains (keyLine k) then .range else .ok l k, s)
  | r => r

/-- A page that is not resident is met (R369). -/
def Met.at' (m : Met) (s : State) (ctx : Nat) (va : DWord) (acc : Nat) : Met :=
  let page := pageOf s ctx va.toNat
  if m.miss.any fun x => x.1 == page then m else { m with miss := m.miss ++ [(page, va, acc)] }

/-- One notice of KIND 5 for each page (R369). -/
def engNotices (s : State) (p : Party) (m : Met) : State :=
  m.miss.foldl (fun s x => residNotice s 5 0 p.ctx x.2.2 p.core p.slot x.2.1) s

/-- Bytes of one line: those valid in L1 are read there, the others at home or below without filling L1 (R368). -/
def engLine (s : State) (p : Party) (leaf : DWord) (k n : Nat) : List EngB × Option Nat × Bool × State :=
  let near := (coreAt s p.core).l1.find? fun x => x.line == keyLine k
  let mark := fun (p : Bool) => if p then some (keyLine k) else none
  let far := mark (linePoison s (keyLine k))
  let one := fun (i : Nat) =>
    match near with
    | some x =>
      if x.valid.getLsbD ((k + i) % 128) then ({ b := lineByte x.data ((k + i) % 128), bad := mark x.poison } : EngB)
      else { b := homeByte s (leafKeyid leaf) (k + i), bad := far }
    | none => { b := homeByte s (leafKeyid leaf) (k + i), bad := far }
  let bs := (List.range n).map one
  let out := match near with
    | some x => !x.has (k % 128) n
    | none => true
  let lock := shadowed s p.core (keyLine k) || (out && locked s (keyLine k))
  let s := if out then touchL2 (remoteCount s (coreFlask p.core) k) p.ctx (leafKeyid leaf) (keyLine k) else s
  (bs, bs.findSome? (·.bad), lock, s)

/-- Read `n` bytes of global memory (R195, R369). -/
def engRead (p : Party) (va : DWord) (n : Nat) (m : Met) (s : State) : List EngB × Met × State :=
  (linePieces va.toNat n).foldl (fun acc q =>
    let (bs, m, s) := acc
    let a := va + BitVec.ofNat 64 q.1
    let (x, s) := p.reach s .read a
    let zero := fun (mv : Bool) => List.replicate q.2 ({ b := 0, moved := mv } : EngB)
    match x with
    | .ok l k =>
      let (b, bad, lock, s) := engLine s p l k q.2
      (bs ++ b, { m with poison := m.poison.or bad, lock := m.lock || lock }, s)
    | .nonres => (bs ++ zero true, m.at' s p.ctx a 0, s)
    | _ => (bs ++ zero false, { m with fault := m.fault.or (some a) }, s)) ([], m, s)

/-- Write bytes of global memory at home, after the core has written back and dropped its copy of each line (R196, R368). A
line that receives a byte of a poisoned line is poisoned (R187). -/
def engWrite (p : Party) (va : DWord) (bs : List EngB) (m : Met) (s : State) : Met × State :=
  (linePieces va.toNat bs.length).foldl (fun acc q =>
    let (m, s) := acc
    let a := va + BitVec.ofNat 64 q.1
    let part := (bs.drop q.1).take q.2
    if !part.any (·.moved) then (m, s)
    else
      let (x, s) := p.reach s .write a
      match x with
      | .ok l k =>
        let lock := !lineFree s p.core (keyLine k)
        let s := flushPhys s p.core (keyLine k)
        let ws := (((List.range q.2).zip part).filter fun y => y.2.moved).map fun y => (k + y.1, y.2.b)
        let s := homeWrite s (coreFlask p.core) p.core (leafKeyid l) (keyLine k) (some p.ctx) ws
        ({ m with lock := m.lock || lock }, if part.any (·.bad.isSome) then poisonLine s (leafKeyid l) (keyLine k) else s)
      | .nonres => (m.at' s p.ctx a 1, s)
      | _ => ({ m with fault := m.fault.or (some a) }, s)) (m, s)

/-- Lowest offset, and the first offset past the bytes, over all rows. -/
def rowSpan (off : DWord) (stride : DWord) (bytes rows : Nat) : Int × Int :=
  let far := stride.toInt * ((rows : Int) - 1)
  ((off.toNat : Int) + min 0 far, (off.toNat : Int) + max 0 far + bytes)

/-- Rows of bytes, of which there is at least one, inside `0 .. len - 1`. -/
def spanIn (off stride : DWord) (bytes rows len : Nat) : Bool :=
  let (lo, hi) := rowSpan off stride bytes rows
  decide (0 ≤ lo) && decide (hi ≤ len)

/-! ### Records read at issue (R367) -/

/-- What the reading of a record gives. -/
inductive RecRead where
  | bad (code : Nat) (addr aux : DWord)
  | nonres
  /-- It waits for a sub-block (R175, R176). -/
  | held
  | ok (bs : List Byte)
deriving DecidableEq, Repr

/-- Read a record as a weak load of the issuing path. -/
def readRec (s : State) (e : Env) (va : DWord) (align n : Nat) : RecRead × State :=
  if va.toNat % align != 0 then (.bad 0x05 va 0, s)
  else
    let (x, ps, s) := lanePieces s e .read false va n
    let asid := asidOf s e.grp.ctx
    match x with
    | .range => (.bad 0x18 va 0, s)
    | .perm l => (.bad 0x06 va l, s)
    | .nonres => (.nonres, s)
    | .ok _ _ =>
      if anyShadow s e.core asid false [{ lane := 0, ea := va, pieces := some ps }] then (.held, s)
      else match ps.find? fun p => piecePoison s e.core asid p with
      | some p => (.bad 0x0E va (linePa (keyLine p.key)), s)
      | none =>
        let (bs, s) := readL1 s e.core asid (queueOf s e.g) ps
        (.ok bs, s)

/-- A number of a record. -/
def recNat (bs : List Byte) (off n : Nat) : Nat := bytesAt bs off n

def recD (bs : List Byte) (off : Nat) : DWord := BitVec.ofNat 64 (bytesAt bs off 8)

/-- The party of the issuing group. -/
def Env.party (e : Env) : Party := { core := e.core, ctx := e.grp.ctx, sysT := e.grp.sysT, slot := e.g % 64 }

/-- The drone of a unit has reached a time (R40). -/
def reached (s : State) (fl : Nat) (t : DWord) : Bool := t.toNat ≤ flaskDrone s fl

end Sys2Proof.Machine
end

