-- ==== Sys2Proof/Machine/Order.lean ====
section
/-! DEFINITION. The fence and the consort instructions, class 0x8, with the consort events (R179 to R182, R191, R192, R360,
R363 to R365). -/

namespace Sys2Proof.Machine

open Host

/-! ### FENCE -/

/-- A fence under way goes on: its release, then, once every earlier load has returned, its acquire (R360).
Log entry 52. -/
def fenceStep (s : State) (g : Nat) : State :=
  match groupAt s g with
  | none => s
  | some x =>
    match x.fence with
    | none => s
    | some f =>
      let (ok, s) := match f.rel with
        | some sc => release s g sc
        | none => (true, s)
      if !ok then s
      else
        let out := f.acq.isSome && (f.waits.any fun id => s.results.any (·.id == id) || s.blocks.any (·.id == id))
        if out then modGroup s g fun x => { x with fence := some { f with rel := none } }
        else
          let s := match f.acq with
            | some sc => acquire s (slotCore g) sc
            | none => s
          fall (modGroup s g fun x => { x with fence := none }) f.sig

/-- FENCE (R360): it issues at once, and later memory instructions wait at the gate. Log entry 52. -/
def execFence (h : Hdr) (o : Ord) (sc : Scope) (s : State) : Outcome State Fault Refusal :=
  gate { h := h, once := true, mem := true } s fun e _ post =>
    let waits := ((post.results.filter fun r => r.uid == e.grp.uid && r.load).map (·.id))
      ++ (post.blocks.filter fun b => b.uid == e.grp.uid).map (·.id)
    let f : FenceS := { rel := if Ord.rel o then some sc else none, acq := if Ord.acq o then some sc else none,
                        waits := waits, sig := sigOf e.grp.uid h.set }
    fenceStep (modGroup post e.g fun x => { x with fence := some f }) e.g

/-! ### Consorts -/

/-- The consort of the issuing team. -/
def myTeam (s : State) (e : Env) : Team := (teamOf s e.grp.team).getD { uid := e.grp.team, ctx := e.grp.ctx }

/-- CONSORT_STATE (R179, R250). -/
def trapConsort (pre : State) (e : Env) (c : BitVec 4) : State := trapAt pre 0x14 e.act 0 (c.setWidth 64)

/-- Status of the team's latest CLD on a consort (R365). -/
def putCstat (s : State) (team c : Nat) (v : DWord) : State := modTeam s team fun t => { t with cstat := mput t.cstat c v }

/-- The team's most recent CLD on a consort is this one, or none since it joined or left (R365). Log entry 27. -/
def setCld (s : State) (team c : Nat) (id : Option Nat) : State :=
  modTeam s team fun t => { t with cldLast := match id with | some n => mput t.cldLast c n | none => mdel t.cldLast c }

/-- A fill is of its team's most recent CLD. Log entry 27. -/
def latestCld (s : State) (q : CldReq) (c : Nat) : Bool :=
  match teamOf s q.team with
  | some t => mget? t.cldLast c == some q.id
  | none => false

/-- CJOIN (R179, R363). -/
def execCjoin (h : Hdr) (c : BitVec 4) (idx timer : SImm) (s : State) : Outcome State Fault Refusal :=
  gate { h := h, once := true } s fun e pre post =>
    let t := myTeam post e
    let k := teamCluster post t
    let i := (e.simm idx).toNat
    let tm := (e.simm timer).toNat % 2 ^ 32
    if 11 < i then trapReserved pre e.act
    else
      match findConsort post k c.toNat with
      | none =>
        let x : Consort := { fl := coreFlask e.core, grid := k.1, cluster := k.2, c := c.toNat, members := [(i, t.uid)], timer := tm }
        atOnce (setCld (putCstat { post with consorts := post.consorts ++ [x] } t.uid c.toNat 0) t.uid c.toNat none) e h
      | some x =>
        if x.timer != tm || x.members.any fun m => m.1 == i || m.2 == t.uid then trapConsort pre e c
        else
          let join := fun (y : Consort) => if y == x then { y with members := y.members ++ [(i, t.uid)] } else y
          atOnce (setCld (putCstat { post with consorts := post.consorts.map join } t.uid c.toNat 0) t.uid c.toNat none) e h

/-- CLEAVE (R179, R181, R363). -/
def execCleave (h : Hdr) (c : BitVec 4) (s : State) : Outcome State Fault Refusal :=
  gate { h := h, once := true } s fun e pre post =>
    let t := myTeam post e
    let k := teamCluster post t
    if !(enrolled post k c.toNat).contains t.uid then trapConsort pre e c
    else atOnce (leaveConsort (setCld (putCstat post t.uid c.toNat 0) t.uid c.toNat none) k c.toNat t.uid) e h

/-- Translation of a run of bytes at issue (R350, R364): a malformed or unusable entry, or a permission that fails;
non-resident pages pass. -/
def lookRun (s : State) (e : Env) (a : Acc) (va : DWord) (n : Nat) : Option (Nat × DWord × DWord) × State :=
  (linePieces va.toNat n).foldl (fun acc p =>
    let x := va + BitVec.ofNat 64 p.1
    let (r, s) := look acc.2 e.core e.grp.ctx (grpPriv acc.2 e.grp) a x
    let bad : Option (Nat × DWord × DWord) := match acc.1, r with
      | some (0x18, y), _ => some (0x18, y)
      | _, .range => some (0x18, x, 0)
      | some y, _ => some y
      | none, .perm l => some (0x06, x, l)
      | none, _ => none
    (bad, s)) (none, s)

/-- The lead slice: home of the first line (R180); slice 0 of the requester's flask while its page is not resident (log
entry 14). Log entry 14. -/
def leadSlice (s : State) (e : Env) (va : DWord) : Nat :=
  match walk s e.grp.ctx (va.toNat % 2 ^ 56) with
  | .ok _ k => 16 * homeFlask k + homeSlice s k
  | _ => 16 * coreFlask e.core

/-- The request joins its entry, is served alone, or starts a collection (R180, R181): an entry whose timer has run out completes
before it. Log entry 27. -/
def cldRequest (s : State) (k : Nat × Nat) (c tag ctx : Nat) (va : DWord) (n lead : Nat) (q : CldReq) : State :=
  let s := settleEntries s
  match findEntry s k c tag with
  | some x =>
    if x.comp then
      let s := modEntry s x.id fun x => { x with asked := x.asked ++ [q], await := x.await.filter (· != q.team) }
      settleEntries (askRead s x.id [q] 2)
    else settleEntries (modEntry s x.id fun x => { x with asked := x.asked ++ [q] })
  | none =>
    let (id, s) := freshUid s
    settleEntries { s with entries := s.entries ++
      [{ id := id, grid := k.1, cluster := k.2, c := c, tag := tag, ctx := ctx, addr := va, size := n, lead := lead, asked := [q] }] }

/-- CLD (R180, R364). Log entry 27. -/
def execCld (h : Hdr) (ui : Bool) (c : BitVec 4) (sa sb : BitVec 6) (s : State) : Outcome State Fault Refusal :=
  gate { h := h, once := true, mem := true } s fun e pre post =>
    let va := e.s sa.toNat
    let w := e.s sb.toNat
    let off := fld w 0 20
    let n := fld w 20 17
    let ob := bit w 37
    let hnd := fld w 38 4
    let tag := fld w 48 16
    let t := myTeam post e
    let mx := (coreAt post e.core).mx
    let len := match mget? mx.recs hnd with
      | some r => fld r 12 13 * 128
      | none => 0
    if fld w 42 6 != 0 || n = 0 || 65536 < n then trapReserved pre e.act
    else if !ob && t.scratch < off + n then trapAt pre 0x18 e.act 0 0
    else if ob && (mx.holder != some t.uid || len < off + n) then trapAt pre 0x12 e.act 0 (BitVec.ofNat 64 hnd)
    else
      match lookRun post e .read va n with
      | (some (code, a, aux), _) => trapAt pre code e.act a aux
      | (none, s) =>
        let k := teamCluster s t
        let clash := match findEntry s k c.toNat tag with
          | some x => x.addr != va || x.size != n || x.asked.any fun q => q.team == t.uid
          | none => false
        if !(enrolled s k c.toNat).contains t.uid || clash then trapConsort pre e c
        else afterDrain e pre s fun s =>
          let (id, s) := freshUid s
          let q : CldReq := { id := id, team := t.uid, uid := e.grp.uid, core := e.core, ob := ob, off := off, hnd := hnd,
                              sig := sigOf e.grp.uid h.set, ui := ui, tag := tag, word := e.pc, lanes := e.act }
          let s := setCld (putCstat s t.uid c.toNat 0) t.uid c.toNat (some id)
          let s := modGroup s e.g fun x => { x with cldOut := x.cldOut + 1 }
          cldRequest s k c.toNat tag e.grp.ctx va n (leadSlice s e va) q

/-- CSTAT (R182, R365): in the 6-cycle class. -/
def execCstat (h : Hdr) (d : BitVec 6) (c : BitVec 4) (s : State) : Outcome State Fault Refusal :=
  gate { h := h, once := true } s fun e pre post =>
    fixTail (writeD post e (.s d) false 6 fun _ => (mget (myTeam pre e).cstat c.toNat 0).toNat) e h 6 0

/-- CONSORT_TIMER (R181): the drone has reached the moment the first request took the entry plus the timer. -/
def execConsortTimer (id : Nat) (s : State) : Outcome State Fault Refusal :=
  match s.entries.find? fun e => e.id == id with
  | none => .next s
  | some e =>
    .next (if !e.comp && entryDue s e then settleEntries (completeEntry s e true) else s)

/-- Bytes into the operand buffer of a core, with the poisoned line that they come from (R187, R218): a unit that is written
whole keeps no earlier mark. -/
def obStore (s : State) (core off : Nat) (bs : List Byte) (poison : Option Nat) : State :=
  modCore s core fun c =>
    let units := (List.range (bs.length / 128 + 2)).map (· + off / 128) |>.filter fun u => 128 * u < off + bs.length
    let kept := c.mx.poison.filter fun p => !(units.contains p.1 && off ≤ 128 * p.1 && 128 * p.1 + 128 ≤ off + bs.length)
    { c with mx := { c.mx with
        ob := memWrite c.mx.ob off bs,
        poison := match poison with
          | some line => units.foldl (fun m u => mput m u line) kept
          | none => kept } }

/-- CONSORT_FILL_DONE (R182, R364): a fill reaches its requester: bytes, status, flag; a poisoned or unusable source stops
the requester's group. Log entry 27. -/
def execConsortFillDone (id team : Nat) (s : State) : Outcome State Fault Refusal :=
  match s.entries.find? fun e => e.id == id && e.fills.any fun f => f.req.team == team with
  | none => .next s
  | some e =>
    match e.fills.find? fun f => f.req.team == team with
    | none => .next s
    | some f =>
      let q := f.req
      let mx := (coreAt s q.core).mx
      let s := if q.ob then
          match (if mx.holder == some q.team then mget? mx.recs q.hnd else none) with
          | some r =>
            let at' := fld r 0 12 * 128 + q.off
            f.marks.foldl (fun s m => obStore s q.core (at' + m.1) ((f.bytes.drop m.1).take m.2.1) (some m.2.2))
              (obStore s q.core at' f.bytes none)
          | none => s
        else spadStore s q.team q.off f.bytes
      let s := if latestCld s q e.c then putCstat s q.team e.c (BitVec.ofNat 64 (f.status + 1)) else s
      let less := fun (x : Group) => { x with cldOut := x.cldOut - 1 }
      let s := modUid s q.uid less
      let s := complete s q.uid q.sig q.ui (BitVec.ofNat 64 q.tag)
      let s := match f.poison with
        | some line => deferCause s q.uid { code := 0x0E, lanes := q.lanes, aux := linePa line, origin := q.word }
        | none => s
      let s := match f.range with
        | some a => deferCause s q.uid { code := 0x18, lanes := q.lanes, addr := a, origin := q.word }
        | none => s
      .next (settleEntries (modEntry s id fun e => { e with fills := e.fills.filter fun x => x.req.team != team }))

end Sys2Proof.Machine
end

