-- ==== Sys2Proof/Machine/Matrix.lean ====
section
/-! DEFINITION. The matrix unit: reservations of the operand buffer, scale and table loads, MMA, accumulator moves and the
baton, class 0xA, with their events (R215 to R228, R380 to R393). -/

namespace Sys2Proof.Machine

open Host

/-! ### The elected lane (R380) -/

/-- What a once-per-stream instruction of classes 0xA, 0xC and 0xD names. -/
def engInfo (h : Hdr) (mem : Bool := false) : Info := { h := h, once := true, elect := true, mem := mem }

/-- OB_RANGE with a reservation slot (R250). Log entry 4. -/
def trapOb (pre : State) (e : Env) (slot : Nat) : State := trapAt pre 0x12 e.elect 0 (BitVec.ofNat 64 slot)

def mxAt (s : State) (core : Nat) : Matrix := (coreAt s core).mx

def modMx (s : State) (core : Nat) (f : Matrix → Matrix) : State := modCore s core fun c => { c with mx := f c.mx }

/-- Wave of a group (R216). -/
def waveOf (x : Group) : Nat := x.gid / 4

/-! ### Operand-buffer reservations (R217, R384, R385) -/

def recBase (r : DWord) : Nat := fld r 0 12
def recLen (r : DWord) : Nat := fld r 12 13
def recFmt (r : DWord) : Nat := fld r 28 4
def recRowb (r : DWord) : Nat := fld r 48 11

/-- A record keeps R217 beside the live ones, for a team of `waves` waves. -/
def recOk (live : SMap DWord) (k : Nat) (r : DWord) (waves : Nat) : Bool :=
  recLen r != 0 && recRowb r != 0 && recBase r + recLen r ≤ 4096
    && !(live.any fun p => decide (recBase r < recBase p.2 + recLen p.2) && decide (recBase p.2 < recBase r + recLen r))
    && (mget? live k).isNone
    && [5, 6, 7, 8, 9, 10, 13, 14].contains (recFmt r) && (!bit r 32 || recFmt r = 14)
    && fld r 59 5 = 0 && fld r 25 3 = 0 && decide (fld r 46 2 < waves)

/-- OBRES (R215, R217, R384): a team of another context finds the unit zeroed (R84), and no team takes it while an operation of another
is not complete (R417). Log entry 34. -/
def execObres (h : Hdr) (k : BitVec 4) (sa : BitVec 6) (s : State) : Outcome State Fault Refusal :=
  gate (engInfo h) s fun e pre post =>
    let t := myTeam post e
    let mx := mxAt post e.core
    let r := e.s sa.toNat
    if (mx.holder.isSome && mx.holder != some t.uid) || mx.ops.any (fun o => o.team != t.uid) then pre
    else if !recOk mx.recs k.toNat r (ceilDiv t.ngroups 4) then trapOb pre e k.toNat
    else
      let fresh := mx.last != some e.grp.ctx
      let take := fun (m : Matrix) =>
        let m := if fresh then { m with ob := [], acc := [], scale := [], table := [], poison := [] } else m
        { m with holder := some t.uid, last := some e.grp.ctx, recs := mput m.recs k.toNat r }
      atOnce (modMx post e.core take) e h

/-- Something that OBREL waits for names the slot (R385). -/
def slotBusy (s : State) (core team k : Nat) : Bool :=
  ((mxAt s core).ops.any fun o => match o.kind with
    | .mma _ _ ah _ _ _ _ _ _ _ _ _ => ah == k
    | _ => false)
  || ((coreAt s core).copies.any fun c => c.team == team &&
        ((c.space / 4 % 4 == 3 && c.space / 4096 % 16 == k) || (!c.fill && c.space % 4 == 2 && c.space / 256 % 16 == k)))
  || s.entries.any fun e =>
        (entryReqs e).any fun q => q.team == team && q.ob && q.hnd == k

/-- OBREL (R217, R385): it waits for what uses the slot; the last slot gives up the unit. Log entry 34. -/
def execObrel (h : Hdr) (k : BitVec 4) (s : State) : Outcome State Fault Refusal :=
  gate (engInfo h) s fun e pre post =>
    let mx := mxAt post e.core
    if mx.holder != some e.grp.team || (mget? mx.recs k.toNat).isNone then trapOb pre e k.toNat
    else if slotBusy post e.core e.grp.team k.toNat then pre
    else
      let drop := fun (m : Matrix) =>
        let rs := mdel m.recs k.toNat
        { m with recs := rs, holder := if rs.isEmpty then none else m.holder }
      atOnce (modMx post e.core drop) e h

/-! ### The queue of the unit (R382) -/

/-- What an operation asks of the arbiter: I15 and D (R48, R392). -/
def mxNeed (s : State) (core : Nat) (o : MxOp) : Option Need :=
  let need := fun (i15 dur : Nat) => some
    { kind := .mma core, ctx := o.ctx, team := o.team, prio := o.prio, i15 := i15, dur := dur,
      gang := ((teamOf s o.team).map fun t => t.gang != 0).getD false : Need }
  match o.kind with
  | .mma m k _ _ bty _ _ _ _ _ _ _ =>
    if bty.bits = 16 then need 20 (cycleTime s (coreFlask core) (m * k) 256)
    else need 24 (cycleTime s (coreFlask core) (m * k) (if bty.bits = 4 then 1024 else 512))
  | .accld _ _ _ n _ => need 4 (copyTime (n * 128))
  | .accst t _ _ _ _ _ n _ => need 4 (copyTime (n * 32 * t.size))
  | _ => none

def modOp (s : State) (core : Nat) (f : MxOp → MxOp) : State :=
  modMx s core fun m => { m with ops := match m.ops with | o :: r => f o :: r | [] => [] }

/-- The operation at the head presents its request (R50). -/
def mxPresent (s : State) (core : Nat) : State :=
  match (mxAt s core).ops with
  | [] => s
  | o :: _ =>
    match (if o.req = 0 then mxNeed s core o else none) with
    | none => s
    | some n =>
      let (id, s) := request s (coreDomain core) n
      modOp s core fun o => { o with req := id }

/-- The operation at the head starts in the first moment in which its whole current is live (R53). Log entry 28. -/
def mxLive (s : State) (core : Nat) : State :=
  match (mxAt s core).ops with
  | o :: _ => if liveAt s (coreDomain core) o.req then modOp s core fun o => { o with going := true } else s
  | [] => s

/-- It presents its request and starts once its current is live (R50, R53). -/
def mxStart (s : State) (core : Nat) : State := mxLive (mxPresent s core) core

/-- GROUPIDs of the members of a group's wave that have not retired (R216, R418). Log entry 34. -/
def membersNow (s : State) (x : Group) : List Nat :=
  ((List.range 4).map fun q => 4 * waveOf x + q).filter fun gid =>
    match teamOf s x.team with
    | some t => decide (gid < t.ngroups) && !t.ended gid
    | none => false

/-- The unit accepts an operation of the issuing group (R382). -/
def mxAccept (s : State) (e : Env) (h : Hdr) (ui : Bool) (utag : Nat) (k : MxKind) : State :=
  let o : MxOp := { kind := k, uid := e.grp.uid, team := e.grp.team, grid := e.grp.grid, ctx := e.grp.ctx, sysT := e.grp.sysT,
                    sig := sigOf e.grp.uid h.set, ui := ui, utag := utag, word := e.pc, prio := e.grp.prio.toNat, lanes := e.elect,
                    there := membersNow s e.grp }
  mxStart (modMx s e.core fun m => { m with ops := m.ops ++ [o] }) e.core

/-- The wave of the group holds the baton of its team (R224). -/
def hasBaton (s : State) (e : Env) : Bool := (myTeam s e).baton == some (waveOf e.grp)

/-- An operation at issue: it waits for a place in the queue and, where it needs the baton, for that; a team that does not
hold the unit traps (R382). Only MMA reads memory at its issue, and waits for a fence under way (R360). Log entry 52. -/
def mxIssue (h : Hdr) (baton : Bool) (s : State) (k : Env → State → State → State) (mem : Bool := false) :
    Outcome State Fault Refusal :=
  gate (engInfo h mem) s fun e pre post =>
    let mx := mxAt post e.core
    if baton && !hasBaton post e then pre
    else if mx.holder != some e.grp.team then trapOb pre e 0
    else if 8 ≤ mx.ops.length then pre
    else afterDrain e pre post (k e pre)

/-- RESERVED_FIELD of the elected lane. -/
def trapField (pre : State) (e : Env) : State := trapReserved pre e.elect

/-- SCPY (R386). -/
def execScpy (h : Hdr) (ui : Bool) (sa sb : BitVec 6) (s : State) : Outcome State Fault Refusal :=
  mxIssue h false s fun e pre s =>
    let w := e.s sb.toNat
    let ncols := fld w 22 10
    let nrows := fld w 15 7
    let col := fld w 6 9
    let row := fld w 0 6
    if nrows < 1 || 64 < nrows || ncols < 1 || 512 < ncols then trapField pre e
    else if 64 < row + nrows || 512 < col + ncols then trapOb pre e 0
    else mxAccept s e h ui 0 (.scpy (e.s sa.toNat) (ofInt64 (sextNat 32 (fld w 32 32))) ncols nrows col row)

/-- PTLD (R387). -/
def execPtld (h : Hdr) (ui : Bool) (t : BitVec 3) (sa : BitVec 6) (s : State) : Outcome State Fault Refusal :=
  mxIssue h false s fun e _ s => mxAccept s e h ui 0 (.ptld t.toNat (e.s sa.toNat))

/-- ACCZ (R391). -/
def execAccz (h : Hdr) (a b : SImm) (s : State) : Outcome State Fault Refusal :=
  mxIssue h true s fun e pre s =>
    let row := (e.simm a).toNat
    let n := (e.simm b).toNat
    if n = 0 then trapField pre e
    else if 2048 < row + n then trapOb pre e 0
    else mxAccept s e h false 0 (.accz row n)

/-- The checks of ACCLD and ACCST (R392). -/
def accMove (h : Hdr) (ui : Bool) (es : Nat) (sa sb : BitVec 6) (s : State)
    (k : Env → DWord → DWord → Bool → Nat → Nat → MxKind) : Outcome State Fault Refusal :=
  mxIssue h true s fun e pre s =>
    let w := e.s sb.toNat
    let addr := e.s sa.toNat
    let stride := ofInt64 (sextNat 32 (fld w 32 32))
    let scr := bit w 23
    let n := fld w 11 12
    let row := fld w 0 11
    if fld w 24 8 != 0 || n < 1 || 2048 < n then trapField pre e
    else if 2048 < row + n then trapOb pre e 0
    else if scr && !spanIn addr stride (32 * es) n (myTeam s e).scratch then trapAt pre 0x18 e.elect 0 0
    else mxAccept s e h ui 0 (k e addr stride scr n row)

/-- ACCLD (R392). -/
def execAccld (h : Hdr) (t : Ty) (ui : Bool) (sa sb : BitVec 6) (s : State) : Outcome State Fault Refusal :=
  accMove h ui t.size sa sb s fun _ addr stride scr n row => .accld addr stride scr n row

/-- ACCST (R392). -/
def execAccst (h : Hdr) (t : Ty) (r : Rnd) (ui : Bool) (sa sb : BitVec 6) (s : State) : Outcome State Fault Refusal :=
  accMove h ui t.size sa sb s fun e addr stride scr n row => .accst t r e.ftz addr stride scr n row

/-! ### MMA (R388 to R390) -/

/-- The two types of an MMA stand in one row of R223; integer mode is asked for by `.sat`. -/
def mmaTypes (a b : Ty) (sat : Bool) : Bool :=
  let float := (a.half && b.half) || ((a == .e4m3 || a == .e5m2) && (b == .e4m3 || b == .e5m2)) || (a == .b4 && b == .b4)
  let int := ((a == .s8 || a == .z8) && (b == .s8 || b == .z8)) || (a == .i4 && b == .i4)
  int || (float && !sat)

/-- Integer mode (R223). -/
def mmaInt (b : Ty) : Bool := b == .s8 || b == .z8 || b == .i4

/-- NB: the B registers of each member (R219). -/
def mmaNb (bty : Ty) (k : Nat) : Nat := ceilDiv k (16 * (32 / bty.bits))

/-- The position that t reads (R222). -/
def mmaPos (mx : Matrix) (r : DWord) (t : Nat) : Nat :=
  if bit r 36 then 256 * (t / 256) + (mget mx.table (fld r 33 3 * 256 + t % 256) 0).toNat else t

/-- Codes of a block (R221). -/
def mmaBl (r : DWord) : Nat := if bit r 32 then 32 else 16

/-- Every A byte that the MMA reads lies in the reservation (R218). -/
def mmaBytesOk (mx : Matrix) (r : DWord) (aty : Ty) (m k : Nat) : Bool :=
  (List.range k).all fun t =>
    decide ((m - 1) * recRowb r + mmaPos mx r t * aty.bits / 8 + (aty.bits + 7) / 8 ≤ recLen r * 128)

/-- A PTLD of the record's table is on its way (R382, R387): positions are known once it has completed. Log entry 34. -/
def tablePending (mx : Matrix) (r : DWord) : Bool :=
  bit r 36 && mx.ops.any fun o => match o.kind with
    | .ptld t _ => t == fld r 33 3
    | _ => false

/-- Registers of the wave's members become lent (R220); a member that has retired is none (R418). -/
def lendWave (s : State) (team wave : Nat) (rs : List Nat) : State :=
  { s with groups := s.groups.map fun p =>
      if p.2.team == team && waveOf p.2 == wave && !p.2.done then (p.1, { p.2 with lent := p.2.lent ++ rs }) else p }

def takeOut (rs : List Nat) (xs : List Nat) : List Nat := rs.foldl (fun acc r => acc.erase r) xs

/-- The registers lent to an operation are returned, those of groups that have retired since too (R154, R220); the groups of a
killed team have all ended, and a relaunch has lent it nothing. -/
def returnWave (s : State) (o : MxOp) (wave : Nat) (rs : List Nat) : State :=
  { s with groups := s.groups.map fun p =>
      if p.2.team == o.team && waveOf p.2 == wave && (!o.dead || p.2.done) then (p.1, { p.2 with lent := takeOut rs p.2.lent })
      else p }

/-- A group that comes to its core lends what queued operations of its wave have taken (R220). -/
def lendBack (s : State) (g : Nat) : State :=
  match groupAt s g with
  | none => s
  | some x =>
    let taken := fun (o : MxOp) => match o.kind with
      | .mma _ k _ _ bty vb _ _ _ _ _ wave =>
        if o.team == x.team && wave == waveOf x && !o.dead then (List.range (mmaNb bty k)).map (· + vb) else []
      | _ => []
    let rs := ((coreAt s (slotCore g)).mx.ops.map taken).flatten
    modGroup s g fun x => { x with lent := rs }

/-- MMA (R388, R389). Log entry 34. -/
def execMma (h : Hdr) (sat ui : Bool) (sa : BitVec 6) (pk : BitVec 3) (s : State) : Outcome State Fault Refusal :=
  mxIssue h true s fun e pre s =>
    match readRec s e (e.s sa.toNat) 64 64 with
    | (.bad code addr aux, _) => trapAt pre code e.elect addr aux
    | (.held, _) => pre
    | (.nonres, s) =>
      let s := modGroup s e.g fun x => if h.set.toNat < 12 then setFlag x h.set.toNat (flagOf x h.set.toNat - 1) else x
      clearRes s e.g pk.toNat (lanesOf e.act)
    | (.ok bs, s) =>
      let mx := mxAt s e.core
      let f := recNat bs
      let m := f 0 1
      let k := f 2 2
      let ah := f 4 1
      let acc := f 8 2
      let bscol := f 0xA 2
      let wave := waveOf e.grp
      if f 0xC 1 / 2 != 0 || f 0xD 3 != 0 || f 0x1A 38 != 0 || !(m == 16 || m == 32) || f 1 1 != 32
          || k < 32 || 512 < k || k % 32 != 0 || 511 < bscol then trapField pre e
      else match mget? mx.recs ah with
      | none => trapOb pre e ah
      | some r =>
        if fld r 46 2 != wave then trapOb pre e ah
        else if tablePending mx r then pre
        else match Ty.ofCode (BitVec.ofNat 4 (recFmt r)), (if f 5 1 < 16 then Ty.ofCode (BitVec.ofNat 4 (f 5 1)) else none) with
        | some aty, some bty =>
          let blocks := ceilDiv k (mmaBl r)
          let vb := f 6 2
          let nb := mmaNb bty k
          if !mmaTypes aty bty sat then trapField pre e
          else if !mmaBytesOk mx r aty m k
              || (aty == .b4 && (511 < fld r 37 9 + blocks - 1 || 511 < bscol + blocks - 1)) || 2048 < acc + m then trapOb pre e ah
          else if regCount e.grp < vb + nb then trapField pre e
          else
            let s := lendWave s e.grp.team wave ((List.range nb).map (· + vb))
            mxAccept s e h ui (f 0x18 2)
              (.mma m k ah r bty vb acc bscol (f 0xC 1 % 2 == 1) sat (recD bs 0x10) wave)
        | _, _ => trapField pre e
    (mem := true)

/-- MMA_START (R53, R390): the operation at the head starts once its grant is live; in every fabric cycle it does so by itself
(`Sys2Proof.Machine.fabDue`). Log entry 34. -/
def execMmaStart (core : Nat) (s : State) : Outcome State Fault Refusal :=
  if 512 ≤ core then .fault .noUnit else .next (mxStart s core)

/-! ### The product (R218, R219, R221, R222, R225, R226) -/

/-- An element of `bits` bits from a byte reader: bit offset `pos * bits`. -/
def elemAt (byte : Nat → Nat) (bits pos : Nat) : Nat :=
  match bits with
  | 16 => byte (2 * pos) + 256 * byte (2 * pos + 1)
  | 4 => byte (pos / 2) / 16 ^ (pos % 2) % 16
  | _ => byte pos

/-- Pattern of A at row m, position k (R218). -/
def mmaA (mx : Matrix) (r : DWord) (aty : Ty) (m k : Nat) : Nat :=
  elemAt (fun i => (memByte mx.ob (recBase r * 128 + m * recRowb r + i)).toNat) aty.bits k

/-- Pattern of B at position k, column n, from the wave's members; a missing member gives zero (R216, R219, R222). -/
def mmaB (members : List (Option Group)) (bty : Ty) (vb kk k n : Nat) : Nat :=
  if kk ≤ k then 0
  else match (members.getD (n / 8) none) with
    | none => 0
    | some x =>
      let e := 32 / bty.bits
      let w := k / e * 8 + n % 8
      (vRaw x (vb + w / 128) (w % 128)).toNat / 2 ^ (bty.bits * (k % e)) % 2 ^ bty.bits

/-- Value of a pattern, with its scale byte where the type is b4 (R206, R221). -/
def mmaVal (t : Ty) (x sb : Nat) : FV := if t == .b4 then decodeB4 x sb else unpack t x

/-- Products of a chunk: pairs of A and B at positions 32 h to 32 h + 31. -/
def mmaPairs (mx : Matrix) (members : List (Option Group)) (r : DWord) (aty bty : Ty) (vb kk bscol h m n : Nat) :
    List ((Nat × Nat) × (Nat × Nat)) :=
  (List.range 32).map fun i =>
    let t := 32 * h + i
    let k := mmaPos mx r t
    let j := t / mmaBl r
    let sa := (mget mx.scale (m * 512 + fld r 37 9 + j) 0).toNat
    let sb := (mget mx.scale ((32 + n) * 512 + bscol + j) 0).toNat
    ((mmaA mx r aty m k, sa), (mmaB members bty vb kk k n, sb))

/-- Flags of MSTAT: SAT, OF, NV, PE (R227). -/
abbrev MFl := BitVec 4

/-- A float-mode chunk: the exact sum, added with one rounding (R225). -/
def chunkFloat (aty bty : Ty) (ps : List ((Nat × Nat) × (Nat × Nat))) (c : Nat) : Nat × MFl :=
  let sum := ps.foldl (fun acc p => (addFV .rn acc (mulFV (mmaVal aty p.1.1 p.1.2) (mmaVal bty p.2.1 p.2.2)).1).1) (.fin false 0 0)
  let old := unpack .f32 c
  let (n, fl) := pack .f32 .rn false false (addFV .rn old sum).1
  let pe : MFl := if fl &&& flPE != 0 then 8 else 0
  let of' : MFl := if fl &&& flOF != 0 then 2 else 0
  let nv : MFl := if (unpack .f32 n).isNan && !old.isNan then 4 else 0
  (n, pe ||| of' ||| nv)

/-- An integer-mode chunk: wrapped, or clamped once and for all (R226). -/
def chunkInt (aty bty : Ty) (sat : Bool) (ps : List ((Nat × Nat) × (Nat × Nat))) (c : Nat × Bool) : (Nat × Bool) × MFl :=
  if c.2 then (c, 0)
  else
    let sum := ps.foldl (fun (acc : Int) p => acc + intOf aty p.1.1 * intOf bty p.2.1) 0
    let x := sextNat 32 c.1 + sum
    if !sat then (((BitVec.ofInt 32 x).toNat, false), 0)
    else if clampTo .s32 x = x then (((BitVec.ofInt 32 x).toNat, false), 0)
    else (((BitVec.ofInt 32 (clampTo .s32 x)).toNat, true), 1)

/-- One accumulator element of an MMA (R225, R226). -/
def mmaElem (pairs : Nat → List ((Nat × Nat) × (Nat × Nat))) (aty bty : Ty) (sat : Bool) (chunks c : Nat) : Nat × MFl :=
  if mmaInt bty then
    let (x, fl) := (List.range chunks).foldl (fun (acc : (Nat × Bool) × MFl) h =>
      let (x, g) := chunkInt aty bty sat (pairs h) acc.1
      (x, acc.2 ||| g)) ((c, false), 0)
    (x.1, fl)
  else (List.range chunks).foldl (fun (acc : Nat × MFl) h =>
      let (x, g) := chunkFloat aty bty (pairs h) acc.1
      (x, acc.2 ||| g)) (c, 0)

/-- The member of a wave whose registers an MMA reads: a resident group, or one that has retired since and holds its slot until
they return (R154, R220). Log entry 34. -/
def lender (s : State) (team gid : Nat) : Option Group :=
  (s.groups.find? fun p => p.2.team == team && p.2.gid == gid && (!p.2.done || !p.2.lent.isEmpty)).map (·.2)

/-- Members 0 to 3 of a wave for an operation: `none` for one that the team does not have or that had retired when it issued; no
list while one is saved or its allocation is not in its file (R216, R220, R418). Log entry 34. -/
def waveMembers (s : State) (o : MxOp) (wave : Nat) : Option (List (Option Group)) :=
  (List.range 4).foldr (fun q acc =>
    match acc with
    | none => none
    | some r =>
      let gid := 4 * wave + q
      if !o.there.contains gid then some (none :: r)
      else match lender s o.team gid with
        | some x => if x.tier == .resident then some (some x :: r) else none
        | none => if ((teamOf s o.team).map fun t => t.ended gid).getD true then some (none :: r) else none) (some [])

/-- The first poisoned unit among the A bytes (R228). Log entry 34. -/
def mmaPoison (mx : Matrix) (r : DWord) (aty : Ty) (m k : Nat) : Option Nat :=
  if mx.poison.isEmpty then none
  else
    let at' := fun (row bit : Nat) => (recBase r * 128 + row * recRowb r + bit / 8) / 128
    ((List.range m).map fun row => ((List.range k).map fun t =>
      let b := mmaPos mx r t * aty.bits
      [at' row b, at' row (b + aty.bits - 1)]).flatten).flatten.findSome? fun u => mget? mx.poison u

/-- MSTAT of a group, resident or saved (R227). -/
def orMstat (s : State) (uid : Nat) (fl : MFl) : State :=
  if fl = 0 then s
  else match slotOf s uid with
    | some g => modGroup s g fun x => { x with mstat := x.mstat ||| fl.setWidth 64 }
    | none => match s.parked.find? fun p => p.g.uid == uid with
      | none => s
      | some p =>
        let va := imageVa s p.g.ctx p.areaB p.g.image 0x478
        ctxWrite s p.g.ctx va (natBytes 8 (BitVec.ofNat 64 (ctxNat s p.g.ctx va 8) ||| fl.setWidth 64).toNat)

/-- The events of an operation count once: under its grant, or where it needs none as energy outside every grant (R56).
Log entry 28. -/
def mxTally (s : State) (core : Nat) (o : MxOp) : State :=
  let (kind, n) := match o.kind with
    | .mma m k .. => (18, m * k)
    | _ => (19, 1)
  if o.req = 0 then tally s (coreDomain core) kind o.ctx n else tallyGrant s (coreDomain core) o.req kind n

/-- The operation at the head is complete: the FSTAT bits of its conversions (R392), flag, tag, and the handover to the next (R52,
R382), which starts where its current is live. Log entry 34. -/
def mxDone (s : State) (core : Nat) (o : MxOp) : State :=
  let d := coreDomain core
  let s := match (mxAt s core).ops with
    | n :: _ => orFstat s o.uid n.fl
    | [] => s
  let s := modMx s core fun m => { m with ops := m.ops.drop 1 }
  let s := complete s o.uid o.sig o.ui (BitVec.ofNat 64 o.utag)
  let s := mxPresent s core
  let s := match (mxAt s core).ops with
    | n :: _ => if n.req = 0 then endGrant s d o.req else passTo s d o.req n.req
    | [] => endGrant s d o.req
  mxLive s core

/-- The accumulator tile after an MMA, with MSTAT's flags. -/
def mmaTile (mx : Matrix) (members : List (Option Group)) (aty bty : Ty) (r : DWord) (m k vb acc bscol : Nat) (zero sat : Bool) :
    SMap Word × MFl :=
  ((List.range m).map fun row => (List.range 32).map fun n => (row, n)).flatten.foldl (fun (st : SMap Word × MFl) p =>
    let at' := (acc + p.1) * 32 + p.2
    let c := if zero then 0 else (mget mx.acc at' 0).toNat
    let (x, fl) := mmaElem (fun h => mmaPairs mx members r aty bty vb k bscol h p.1 p.2) aty bty sat (k / 32) c
    (mput st.1 at' (BitVec.ofNat 32 x), st.2 ||| fl)) (mx.acc, 0)

/-- MMA_COMPLETE (R220, R227, R228, R390): once every lent register is full the product is made; the registers return, then
MSTAT, DONETASK, the flag and the tag follow. DESIGN CHOICE (log entry 34): an MMA that has met a poisoned line sets no bit of MSTAT. -/
def execMmaComplete (core : Nat) (s : State) : Outcome State Fault Refusal :=
  if 512 ≤ core then .fault .noUnit
  else match (mxAt s core).ops with
    | [] => .next s
    | o :: _ =>
      match o.kind with
      | .mma m k _ r bty vb acc bscol zero sat done wave =>
        let rs := (List.range (mmaNb bty k)).map (· + vb)
        if o.dead then .next (mxDone (returnWave (mxTally s core o) o wave rs) core o)
        else if !o.going then .next s
        else match waveMembers s o wave with
          | none => .next s
          | some ms =>
            if ms.any fun x => match x with | some x => rs.any (isEmpty x) | none => false then .next s
            else
              let mx := mxAt s core
              let aty := (Ty.ofCode (BitVec.ofNat 4 (recFmt r))).getD .z8
              let s := returnWave (mxTally s core o) o wave rs
              let s := match mmaPoison mx r aty m k with
                | some line =>
                  let (d, s) := draw s
                  let s := modMx s core fun x => { x with
                    acc := (List.range (32 * m)).foldl (fun a i => mput a (acc * 32 + i) (Config.freeWord d (acc * 32 + i))) x.acc }
                  deferCause s o.uid { code := 0x0E, lanes := o.lanes, aux := linePa line, origin := o.word }
                | none =>
                  let (tile, fl) := mmaTile mx ms aty bty r m k vb acc bscol zero sat
                  orMstat (modMx s core fun x => { x with acc := tile }) o.uid fl
              let s := if done = 0 then s else sendDec s o.ctx done 0 false core
              .next (mxDone s core o)
      | _ => .next s

/-! ### The other operations (R386, R387, R391, R392) -/

/-- What the accesses of an operation have met stops its group (R249, R386). -/
def mxCauses (s : State) (o : MxOp) (m : Met) : State :=
  let s := match m.poison with
    | some line => deferCause s o.uid { code := 0x0E, lanes := o.lanes, aux := linePa line, origin := o.word }
    | none => s
  match m.fault with
  | some a => deferCause s o.uid { code := 0x18, lanes := o.lanes, addr := a, origin := o.word }
  | none => s

def mxParty (s : State) (core : Nat) (o : MxOp) : Party :=
  { core := core, ctx := o.ctx, sysT := o.sysT, slot := (slotOf s o.uid).getD 0 % 64, no := o.no }

/-- Rows of bytes of global memory into a byte array, up to the first byte that fails; poisoned bytes are free values. -/
def loadBytes (s : State) (core : Nat) (o : MxOp) (src stride : DWord) (ncols nrows : Nat) (put : Nat → Nat → Byte → Matrix → Matrix) :
    Met × State :=
  let p := mxParty s core o
  let (d, s) := draw s
  let (m, s) := (List.range nrows).foldl (fun (acc : Met × State) r =>
    if acc.1.fault.isSome then acc
    else
      let (bs, m, s) := engRead p (src + stride * BitVec.ofNat 64 r) ncols acc.1 acc.2
      let ok := ((List.range bs.length).zip bs).takeWhile fun x => x.2.moved
      let fill := fun (mx : Matrix) => ok.foldl (fun mx x =>
        put r x.1 (if x.2.bad.isSome then Config.freeByte d (r * 512 + x.1) else x.2.b) mx) mx
      (m, modMx s core fill)) ({}, s)
  (m, mxCauses (engNotices s p m) o m)

/-- A word of the accumulator. -/
def accWord (mx : Matrix) (row n : Nat) : Word := mget mx.acc (row * 32 + n) 0

/-- ACCLD, row by row, up to the first row with a byte that fails. -/
def runAccld (s : State) (core : Nat) (o : MxOp) (addr stride : DWord) (scr : Bool) (nrows row : Nat) : Met × State :=
  let p := mxParty s core o
  let (d, s) := draw s
  let (m, s) := (List.range nrows).foldl (fun (acc : Met × State) r =>
    if acc.1.fault.isSome then acc
    else
      let a := addr + stride * BitVec.ofNat 64 r
      let (bs, m, s) :=
        if scr then ((List.range 128).map fun i => ({ b := ((teamOf acc.2 o.team).map fun t => spadByte t (a.toNat + i)).getD 0 } : EngB),
          acc.1, acc.2)
        else engRead p a 128 acc.1 acc.2
      if m.fault.isSome then (m, s)
      else
        let word := fun (n : Nat) =>
          let part := (bs.drop (4 * n)).take 4
          if part.any (·.bad.isSome) then Config.freeWord d (r * 32 + n) else BitVec.ofNat 32 (bytesNat (part.map (·.b)))
        (m, modMx s core fun x => { x with acc := (List.range 32).foldl (fun a n => mput a ((row + r) * 32 + n) (word n)) x.acc }))
    ({}, s)
  (m, mxCauses (engNotices s p m) o m)

/-- Some byte of a row may not be written. -/
def rowFails (p : Party) (a : DWord) (n : Nat) (s : State) : Option DWord :=
  (linePieces a.toNat n).findSome? fun q =>
    match (p.reach s .write (a + BitVec.ofNat 64 q.1)).1 with
    | .range | .perm _ => some (a + BitVec.ofNat 64 q.1)
    | _ => none

/-- ACCST, row by row, up to the first row with a byte that fails; the conversions' FSTAT bits wait for the completion (R209,
R392). -/
def runAccst (s : State) (core : Nat) (o : MxOp) (t : Ty) (r : Rnd) (ftz : Bool) (addr stride : DWord) (scr : Bool)
    (nrows row : Nat) : Met × State :=
  let p := mxParty s core o
  let (m, fl, s) := (List.range nrows).foldl (fun (acc : Met × Fl × State) i =>
    let (m, fl, s) := acc
    if m.fault.isSome then acc
    else
      let a := addr + stride * BitVec.ofNat 64 i
      let vals := (List.range 32).map fun n =>
        let w := (accWord (mxAt s core) (row + i) n).toNat
        if t.size = 4 then (w, (0 : Fl)) else convert t .f32 r false ftz w
      let fl := vals.foldl (fun f v => f ||| v.2) fl
      let bs := (vals.map fun v => natBytes t.size v.1).flatten
      if scr then (m, fl, spadStore s o.team a.toNat bs)
      else match rowFails p a bs.length s with
        | some va => ({ m with fault := some va }, acc.2.1, s)
        | none =>
          let (m, s) := engWrite p a (bs.map fun b => { b := b }) m s
          (m, fl, s)) ({}, 0, s)
  (m, modOp (mxCauses (engNotices s p m) o m) core fun o => { o with fl := fl.setWidth 64 })

/-- What an operation other than an MMA does, with what its accesses have met. Log entry 34. -/
def mxRun (s : State) (core : Nat) (o : MxOp) : Met × State :=
  match o.kind with
  | .scpy src stride ncols nrows col row =>
    loadBytes s core o src stride ncols nrows fun r c b mx =>
      { mx with scale := mput mx.scale ((row + r) * 512 + col + c) b }
  | .ptld t src => loadBytes s core o src 0 256 1 fun _ c b mx => { mx with table := mput mx.table (t * 256 + c) b }
  | .accz row n => ({}, modMx s core fun mx => { mx with
      acc := (List.range (32 * n)).foldl (fun a i => mput a (row * 32 + i) 0) mx.acc })
  | .accld addr stride scr n row => runAccld s core o addr stride scr n row
  | .accst t r ftz addr stride scr n row => runAccst s core o t r ftz addr stride scr n row
  | .mma .. => ({}, s)

/-- The machine after it. Log entry 34. -/
def runMx (s : State) (core : Nat) (o : MxOp) : State := (mxRun s core o).2

/-- A line that it reads or writes is kept by a sub-block (R175): it waits. Log entry 34. -/
def mxHeld (s : State) (core : Nat) (o : MxOp) : Bool := !s.subs.isEmpty && (mxRun s core o).1.lock

/-- MATRIX_OP_COMPLETE (R382, R386, R387, R391, R392): the operation at the head runs once its current is live, and completes
once its bytes are at home. -/
def execMatrixOpComplete (core : Nat) (s : State) : Outcome State Fault Refusal :=
  if 512 ≤ core then .fault .noUnit
  else
    let s := mxStart s core
    match (mxAt s core).ops with
    | [] => .next s
    | o :: _ =>
      match o.kind with
      | .mma .. => .next s
      | _ =>
        if o.dead then .next (mxDone (mxTally s core o) core o)
        else if (o.req != 0 && !o.going) || (!o.moved && mxHeld s core o) then .next s
        else
          let s := if o.moved then s else modOp (mxTally (runMx s core o) core o) core fun o => { o with moved := true }
          if !noInvs s core then .next s
          else .next (mxDone s core o)

/-! ### The baton (R224, R393) -/

/-- BATON.take (R224): it waits while another wave holds the baton. -/
def execBatonTake (h : Hdr) (s : State) : Outcome State Fault Refusal :=
  gate (engInfo h) s fun e pre post =>
    match (myTeam post e).baton with
    | none => atOnce (modTeam post e.grp.team fun t => { t with baton := some (waveOf e.grp) }) e h
    | some w => if w = waveOf e.grp then atOnce post e h else pre

/-- BATON.pass (R224). -/
def execBatonPass (h : Hdr) (s : State) : Outcome State Fault Refusal :=
  gate (engInfo h) s fun e pre post =>
    let t := myTeam post e
    if t.baton != some (waveOf e.grp) then trapAt pre 0x11 e.elect 0 (BitVec.ofNat 64 (t.baton.getD 0xFF))
    else atOnce (modTeam post e.grp.team fun t => { t with baton := nextWave t (waveOf e.grp) }) e h

/-- BATON.query (R224): in the 6-cycle class. -/
def execBatonQuery (h : Hdr) (d : BitVec 6) (s : State) : Outcome State Fault Refusal :=
  gate (engInfo h) s fun e pre post =>
    fixTail (writeD post e (.s d) false 6 fun _ => (myTeam pre e).baton.getD 0xFF) e h 6 0

end Sys2Proof.Machine
end

