-- ==== Sys2Proof/Machine/Copy.lean ====
section
/-! DEFINITION. The copy engine and the circular buffers of a core: CPY, CPYFILL, CBINIT, CBACQ, CBREL and their events
(R183, R201, R366 to R372). -/

namespace Sys2Proof.Machine

open Host

/-! ### Records (R366, R367) -/

def Copy.ssp (c : Copy) : Nat := c.space % 4
def Copy.dsp (c : Copy) : Nat := c.space / 4 % 4
def Copy.buf (c : Copy) : Nat := c.space / 16 % 16
def Copy.sslot (c : Copy) : Nat := c.space / 256 % 16
def Copy.dslot (c : Copy) : Nat := c.space / 4096 % 16

/-- A zero-byte copy (R366). -/
def Copy.none' (c : Copy) : Bool := c.bytes = 0 || c.rows = 0

/-- The rows stay inside `0 .. len - 1`; a zero-byte copy has no byte to leave it. -/
def rowsIn (c : Copy) (off stride : DWord) (len : Nat) : Bool :=
  c.none' || spanIn off stride c.bytes c.rows len

/-- The copy that a record names. -/
def copyOf (e : Env) (fill ui : Bool) (sg : Sig) (va : DWord) (lanes : LaneMask) (bs : List Byte) : Copy :=
  let n := recNat bs
  { id := 0, uid := e.grp.uid, team := e.grp.team, ctx := e.grp.ctx, sysT := e.grp.sysT, fill := fill,
    src := recD bs 0, dst := recD bs 8, bytes := n 0x10 4, rows := n 0x14 2, space := n 0x16 2,
    sstride := recD bs 0x18, dstride := recD bs 0x20, start := recD bs 0x28, pat := BitVec.ofNat 32 (n 0x30 4),
    utag := n 0x34 2, recVa := va, ui := ui, sig := sg, word := e.pc, prio := e.grp.prio.toNat, lanes := lanes }

/-- Bytes of a live reservation slot that the team holds: start and length; none otherwise (R217). -/
def obSlot (s : State) (core team slot : Nat) : Option (Nat × Nat) :=
  let mx := (coreAt s core).mx
  if mx.holder != some team then none
  else (mget? mx.recs slot).map fun r => (fld r 0 12 * 128, fld r 12 13 * 128)

/-- Checks 3 to 6 of R367 on one record, by number. Log entries 15 and 32. -/
def copyCheck (s : State) (core : Nat) (bs : List Byte) (c : Copy) (check : Nat) : Option (Nat × DWord) :=
  let scratch := ((teamOf s c.team).map (·.scratch)).getD 0
  let ob := fun (slot : Nat) (off stride : DWord) => match obSlot s core c.team slot with
    | none => some (0x12, BitVec.ofNat 64 slot)
    | some r => if rowsIn c off stride r.2 then none else some (0x12, BitVec.ofNat 64 slot)
  match check with
  | 3 => if recNat bs 0x36 2 != 0 || c.ssp = 3 then some (0x02, 0) else none
  | 4 => if (!c.fill && c.ssp = 1 && !rowsIn c c.src c.sstride scratch) || (c.dsp = 1 && !rowsIn c c.dst c.dstride scratch)
      then some (0x18, 0) else none
  | 5 => (if !c.fill && c.ssp = 2 then ob c.sslot c.src c.sstride else none).or
      (if c.dsp = 3 then ob c.dslot c.dst c.dstride else none)
  | _ => if c.dsp != 2 then none
      else match mget? (coreAt s core).bufs c.buf with
        | none => some (0x16, BitVec.ofNat 64 c.buf)
        | some b => if b.team == c.team && rowsIn c c.dst c.dstride b.size then none else some (0x16, BitVec.ofNat 64 c.buf)

/-- Distinct record addresses in increasing leader order, with the lanes that name each (R367). -/
def recNames (e : Env) (a : Reg) : List (DWord × LaneMask) :=
  match a with
  | .s n => [(e.s n.toNat, e.act)]
  | .v n => (lanesOf e.act).foldl (fun acc l =>
      let va := e.v64 n.toNat l
      if acc.any (fun p => p.1 == va) then acc.map fun p => if p.1 == va then (va, p.2 ||| laneBit l) else p
      else acc ++ [(va, laneBit l)]) []

/-- The first check of R367 that some record fails: code, lanes, address, AUX. -/
def copyBad (s : State) (core : Nat) (xs : List (DWord × LaneMask × RecRead × Copy)) :
    Option (Nat × LaneMask × DWord × DWord) :=
  let fails := fun (f : DWord × LaneMask × RecRead × Copy → Option (Nat × DWord × DWord)) =>
    let hit : List (DWord × LaneMask × RecRead × Copy) := xs.filter fun x => (f x).isSome
    match hit with
    | [] => none
    | x :: _ => (f x).map fun (r : Nat × DWord × DWord) => (r.1, hit.foldl (fun m (y : DWord × LaneMask × RecRead × Copy) => m ||| y.2.1) (0 : LaneMask), r.2.1, r.2.2)
  let reads := fun (code : Nat) => fails fun x => match x.2.2.1 with
    | .bad c addr aux => if c = code then some (c, addr, aux) else none
    | _ => none
  let fields := fun (k : Nat) => fails fun x => match x.2.2.1 with
    | .ok bs => (copyCheck s core bs x.2.2.2 k).map fun r => (r.1, 0, r.2)
    | _ => none
  (reads 0x05).or <| (reads 0x18).or <| (reads 0x06).or <| (reads 0x0E).or <|
    (fields 3).or <| (fields 4).or <| (fields 5).or (fields 6)

/-- Join a copy to its core's queue. -/
def queueCopy (s : State) (core : Nat) (c : Copy) : State :=
  let (id, s) := freshUid s
  modCore s core fun k => { k with copies := k.copies ++ [{ c with id := id }] }

/-- The records that an issue reads, in order, with the lanes that name each and the copy that each names. -/
def copyRecs (e : Env) (fill ui : Bool) (sg : Sig) (names : List (DWord × LaneMask)) (s : State) :
    List (DWord × LaneMask × RecRead × Copy) × State :=
  names.foldl (fun (acc : List (DWord × LaneMask × RecRead × Copy) × State) p =>
    let (r, s) := readRec acc.2 e p.1 64 64
    let bs := match r with | .ok bs => bs | _ => []
    (acc.1 ++ [(p.1, p.2, r, copyOf e fill ui sg p.1 p.2 bs)], s)) ([], s)

/-- The copies whose records are there. -/
def copyGood (xs : List (DWord × LaneMask × RecRead × Copy)) : List Copy :=
  (xs.filter fun x => match x.2.2.1 with | .ok _ => true | _ => false).map (·.2.2.2)

/-- The lanes whose records lie on non-resident pages. -/
def copyLost (xs : List (DWord × LaneMask × RecRead × Copy)) : List Nat :=
  ((xs.filter fun x => match x.2.2.1 with | .nonres => true | _ => false).map fun x => lanesOf x.2.1).flatten

/-- CPY and CPYFILL (R366, R367). Log entry 32. -/
def copyIssue (h : Hdr) (ui fill : Bool) (pk : BitVec 3) (a : Reg) (s : State) : Outcome State Fault Refusal :=
  let i : Info := match a with
    | .v n => { h := { h with set := 15 }, a := some (.v n, true), mem := true }
    | .s _ => { h := { h with set := 15 }, once := true, mem := true }
  gate i s fun e pre post => afterDrain e pre post fun s =>
    let (xs, s) := copyRecs e fill ui (sigOf e.grp.uid h.set) (recNames e a) s
    match copyBad s e.core xs with
    | some (code, lanes, addr, aux) =>
      if code = 0x02 then trapReserved pre lanes else trapAt pre code lanes addr aux
    | none =>
      if xs.any fun x => x.2.2.1 == .held then pre else
      let good := copyGood xs
      if h.set.toNat < 12 && 255 < flagOf e.grp h.set.toNat + good.length then pre
      else
        let s := clearRes s e.g pk.toNat (copyLost xs)
        let s := modGroup s e.g fun x => countSet x h.set good.length
        good.foldl (fun s c => queueCopy s e.core c) s

def execCpy (h : Hdr) (ui : Bool) (pk : BitVec 3) (a : Reg) (s : State) : Outcome State Fault Refusal :=
  copyIssue h ui false pk a s

def execCpyfill (h : Hdr) (ui : Bool) (pk : BitVec 3) (a : Reg) (s : State) : Outcome State Fault Refusal :=
  copyIssue h ui true pk a s

/-! ### Running a copy (R368) -/

def modHead (s : State) (core : Nat) (f : Copy → Copy) : State :=
  modCore s core fun k => { k with copies := match k.copies with | c :: r => f c :: r | [] => [] }

def modBuf (s : State) (core b : Nat) (f : Buf → Buf) : State :=
  modCore s core fun k => match mget? k.bufs b with
    | some x => { k with bufs := mput k.bufs b (f x) }
    | none => k

/-- What a copy asks of the arbiter (R48). -/
def copyNeed (s : State) (core : Nat) (c : Copy) : Need :=
  { kind := .copy core c.id, ctx := c.ctx, team := c.team, prio := c.prio, i15 := 4, dur := copyTime (c.bytes * c.rows),
    gang := ((teamOf s c.team).map fun t => t.gang != 0).getD false }

/-- Steps 1 and 2 of the first copy: its time is near, and its slot is claimed. The answer says whether both are done. -/
def copyNear (s : State) (core : Nat) : Bool × State :=
  match (coreAt s core).copies with
  | [] => (false, s)
  | c :: _ =>
    if flaskDrone s (coreFlask core) + 1000 < c.start.toNat then (false, s)
    else if c.dsp != 2 || c.claim.isSome then (true, s)
    else match mget? (coreAt s core).bufs c.buf with
      | none => (true, s)
      | some b =>
        if b.free = 0 then (false, s)
        else
          let s := modBuf s core c.buf fun b =>
            { b with free := b.free - 1, claim := (b.claim + 1) % max 1 b.count, copying := b.copying + 1 }
          (true, resave (modHead s core fun c => { c with claim := some b.claim }) c.team)

/-- Step 4: the first copy starts once its current is live and the drone has reached START (R40, R53). -/
def copyGo (s : State) (core : Nat) : State :=
  match (coreAt s core).copies with
  | [] => s
  | c :: _ =>
    if !c.going && (c.none' || (c.req != 0 && liveAt s (coreDomain core) c.req)) && reached s (coreFlask core) c.start then
      modHead s core fun c => { c with going := true }
    else s

/-- The copy at the head of a core's engine starts if what it waits for is there (R368): its start time, a slot claimed, its
current live. -/
def cpyStart (s : State) (core : Nat) : State :=
  match (coreAt s core).copies with
  | [] => s
  | c :: _ =>
    if c.going then s
    else
      let (near, s) := copyNear s core
      if !near then s
      else
        let s := if c.none' || c.req != 0 then s
          else
            let (id, s) := request s (coreDomain core) (copyNeed s core c)
            modHead s core fun c => { c with req := id }
        copyGo s core

/-- CPY_START (R48, R368, R369). -/
def execCpyStart (core : Nat) (s : State) : Outcome State Fault Refusal :=
  if 512 ≤ core then .fault .noUnit else .next (cpyStart s core)

/-- `x` lies in one of the rows. -/
def inRows (off stride : DWord) (bytes rows : Nat) (x : Int) : Bool :=
  (List.range rows).any fun r =>
    let a := (off.toNat : Int) + stride.toInt * r
    decide (a ≤ x) && decide (x < a + bytes)

/-- Where a side of a copy starts: its space, and what is added to its offsets. -/
def copySide (s : State) (core : Nat) (c : Copy) (src : Bool) : Nat × Nat :=
  if src then match c.ssp with
    | 2 => (2, ((obSlot s core c.team c.sslot).map (·.1)).getD 0)
    | k => (k, 0)
  else match c.dsp with
    | 2 => (1, ((mget? (coreAt s core).bufs c.buf).map fun b => b.base + c.claim.getD 0 * b.size).getD 0)
    | 3 => (2, ((obSlot s core c.team c.dslot).map (·.1)).getD 0)
    | k => (k, 0)

/-- Byte `i` of row `r` ends unpredictable: it overlaps the source, or comes from a byte that a row overwrites (R368).
Log entry 32. -/
def copyRace (s : State) (core : Nat) (c : Copy) (r i : Nat) : Bool :=
  let (sp, sb) := copySide s core c true
  let (dp, db) := copySide s core c false
  if c.fill || sp != dp then false
  else
    let from' := (c.src.toNat : Int) + c.sstride.toInt * r + i
    let dsts := (c.dst.toNat : Int) + c.dstride.toInt * r + i
    inRows c.src c.sstride c.bytes c.rows (dsts + db - sb) || inRows c.dst c.dstride c.bytes c.rows (from' + sb - db)

/-- The bytes of row `r` as the engine reads them. -/
def copyRead (p : Party) (c : Copy) (r : Nat) (m : Met) (s : State) : List EngB × Met × State :=
  let off := c.src + c.sstride * BitVec.ofNat 64 r
  if c.fill then ((List.range c.bytes).map fun i => { b := c.pat.extractLsb' (8 * (i % 4)) 8 }, m, s)
  else match c.ssp with
    | 0 => engRead p off c.bytes m s
    | 1 => ((List.range c.bytes).map fun i =>
        { b := ((teamOf s c.team).map fun t => spadByte t (off.toNat + i)).getD 0 }, m, s)
    | _ =>
      let base := (copySide s p.core c true).2 + off.toNat
      let mx := (coreAt s p.core).mx
      let bs := (List.range c.bytes).map fun i =>
        ({ b := memByte mx.ob (base + i), bad := mget? mx.poison ((base + i) / 128) } : EngB)
      (bs, m, s)

/-- The runs of bytes that move, with the offset of each. -/
def movedRuns (bs : List EngB) : List (Nat × List EngB) :=
  ((List.range bs.length).zip bs).foldr (fun x acc =>
    if !x.2.moved then acc
    else match acc with
      | (i, r) :: rest => if i = x.1 + 1 then (x.1, x.2 :: r) :: rest else (x.1, [x.2]) :: acc
      | [] => [(x.1, [x.2])]) []

/-- A run of bytes into the operand buffer: one write, which clears the marks of the units it covers; the bytes of poisoned lines mark
theirs (R187). -/
def obRun (s : State) (core off : Nat) (bs : List EngB) : State :=
  ((List.range bs.length).zip bs).foldl (fun s x =>
    if x.2.bad.isSome then obStore s core (off + x.1) [x.2.b] x.2.bad else s) (obStore s core off (bs.map (·.b)) none)

/-- Write row `r`. -/
def copyWrite (p : Party) (c : Copy) (r : Nat) (bs : List EngB) (m : Met) (s : State) : Met × State :=
  let off := c.dst + c.dstride * BitVec.ofNat 64 r
  match c.dsp with
  | 0 => engWrite p off bs m s
  | 3 =>
    let base := (copySide s p.core c false).2
    (m, if (obSlot s p.core c.team c.dslot).isNone then s
        else (movedRuns bs).foldl (fun s x => obRun s p.core (base + off.toNat + x.1) x.2) s)
  | _ =>
    let base := (copySide s p.core c false).2
    (m, (movedRuns bs).foldl (fun s x => spadStore s c.team (base + off.toNat + x.1) (x.2.map (·.b))) s)

/-- Step 5: every row moves; with what the accesses have met. -/
def copyRun (s : State) (core : Nat) (c : Copy) : Met × State :=
  let p : Party := { core := core, ctx := c.ctx, sysT := c.sysT, slot := (slotOf s c.uid).getD 0 % 64, no := c.no }
  let (d, s) := draw s
  let (m, s) := (List.range (if c.none' then 0 else c.rows)).foldl (fun (acc : Met × State) r =>
    let (bs, m, s) := copyRead p c r acc.1 acc.2
    let bs := (List.range bs.length).zip bs |>.map fun x =>
      if copyRace s core c r x.1 then { x.2 with b := Config.freeByte d (r * 2 ^ 32 + x.1) } else x.2
    copyWrite p c r bs m s) ({}, s)
  (m, engNotices s p m)

/-- The first copy has moved, with its status and what stops the group. -/
def copyMove (s : State) (core : Nat) (c : Copy) : State :=
  let (m, s) := copyRun s core c
  let s := tallyGrant s (coreDomain core) c.req 16 (c.bytes * c.rows)
  let st := 1 + (if m.miss.isEmpty then 0 else 2) + (if m.poison.isSome then 4 else 0) + (if m.fault.isSome then 8 else 0)
  modHead s core fun c => { c with moved := true, status := st, fault := m.fault }

/-- A line that the copy reads or writes is kept from accesses (R36, R175, R176): it waits. -/
def copyHeld (s : State) (core : Nat) (c : Copy) : Bool := !c.moved && (copyRun s core c).1.lock

/-- Where the STATUS word of a copy's record stands. -/
def Copy.statusVa (c : Copy) : DWord := c.recVa + 0x38

/-- The line of STATUS is kept from accesses (R36, R175, R176). Log entry 32. -/
def statusHeld (s : State) (core : Nat) (c : Copy) : Bool :=
  match (look s core c.ctx true .read c.statusVa).1 with
  | .ok _ k => !lineFree s core (keyLine k)
  | _ => false

/-- STATUS goes home as a strong store at dev scope (R368, step 6); a page that has gone drops it (log entry 9).
Log entry 32. -/
def copyStatus (s : State) (core : Nat) (c : Copy) : State :=
  match (look s core c.ctx true .read c.statusVa).1 with
  | .ok l _ => homeStore s core (asidOf s c.ctx) (c.statusVa.toNat % 2 ^ 56) l (natBytes 8 c.status)
  | _ => s

/-- The first address that the copy has failed at; a STATUS word that has come to lie out of range counts as one (R15, R369).
Log entry 32. -/
def copyFault (s : State) (core : Nat) (c : Copy) : Option DWord :=
  c.fault.or (match (look s core c.ctx true .read c.statusVa).1 with
    | .range => some c.statusVa
    | _ => none)

/-- The next copy takes over the reservation if it is ready for one (R52). -/
def copyNext (s : State) (core old : Nat) : State :=
  let d := coreDomain core
  let (near, s) := copyNear s core
  match (coreAt s core).copies with
  | c :: _ =>
    if near && !c.none' && !c.going && c.req = 0 then
      let (id, s) := handover s d old (copyNeed s core c)
      copyGo (modHead s core fun c => { c with req := id }) core
    else endGrant s d old
  | [] => endGrant s d old

/-- CPY_COMPLETE (R52, R196, R368, R369): the bytes move; once they are at home and the invalidations are acknowledged,
STATUS, FILLED, the flag and the tag follow, and a page that failed stops the group. -/
def execCpyComplete (core : Nat) (s : State) : Outcome State Fault Refusal :=
  if 512 ≤ core then .fault .noUnit
  else match (coreAt s core).copies with
    | [] => .next s
    | c :: _ =>
      if !c.going || copyHeld s core c then .next s
      else
        let s := if c.moved then s else copyMove s core c
        if c.dsp = 0 && !noInvs s core then .next s
        else match (coreAt s core).copies with
          | [] => .next s
          | c :: _ =>
            if statusHeld s core c then .next s else
            let fault := copyFault s core c
            let s := copyStatus s core c
            let s := if c.claim.isSome then
                resave (modBuf s core c.buf fun b => { b with filled := b.filled + 1, copying := b.copying - 1 }) c.team
              else s
            let s := modCore s core fun k => { k with copies := k.copies.drop 1 }
            let s := complete s c.uid c.sig c.ui (BitVec.ofNat 64 c.utag)
            let s := match fault with
              | some a => deferCause s c.uid { code := 0x18, lanes := c.lanes, addr := a, origin := c.word }
              | none => s
            .next (copyNext s core c.req)

/-! ### Circular buffers (R183, R370 to R372) -/

/-- CB_STATE with the buffer number (R250). -/
def trapCb (pre : State) (e : Env) (b : BitVec 4) : State := trapAt pre 0x16 e.act 0 (b.setWidth 64)

/-- Copies of a buffer that are not complete. -/
def copiesOf (k : Core) (b : Nat) : Bool := k.copies.any fun c => c.dsp = 2 && c.buf = b

/-- CBINIT (R183, R370): CBACQs of the team that wait go on waiting. Log entry 32. -/
def execCbinit (h : Hdr) (b : BitVec 4) (sa sb sc : BitVec 6) (s : State) : Outcome State Fault Refusal :=
  gate { h := h, once := true, mem := true } s fun e pre post =>
    let w := fun (k : BitVec 6) => (e.s k.toNat).toNat % 2 ^ 32
    let base := w sa
    let size := w sb
    let n := w sc
    let t := myTeam post e
    let k := coreAt post e.core
    let busy := match mget? k.bufs b.toNat with
      | some x => x.team != t.uid || x.held != 0 || copiesOf k b.toNat
      | none => false
    if busy || base % 128 != 0 || size % 128 != 0 || size < 128 || 65536 < size || n < 1 || 256 < n
        || t.scratch < base + size * n then trapCb pre e b
    else
      let x : Buf := { team := t.uid, base := base, size := size, count := n, free := n, filled := 0,
                       wait := ((mget? k.bufs b.toNat).map (·.wait)).getD [] }
      atOnce (modCore post e.core fun k => { k with bufs := mput k.bufs b.toNat x }) e h

/-- CBACQ (R183, R371): it waits its turn; CBACQ_SERVE writes the address. -/
def execCbacq (h : Hdr) (d : Reg) (b : BitVec 4) (s : State) : Outcome State Fault Refusal :=
  let vs := dstRegs false d
  gate { h := h, once := true, vw := vs, mem := true } s fun e pre post =>
    match mget? (coreAt post e.core).bufs b.toNat with
    | none => trapCb pre e b
    | some x =>
      if x.team != e.grp.team then trapCb pre e b
      else
        let s := modGroup post e.g (markEmpty vs)
        modBuf s e.core b.toNat fun x => { x with
          wait := x.wait ++ [{ uid := e.grp.uid, lanes := e.act, dst := d, sig := sigOf e.grp.uid h.set }] }

/-- CBREL (R183, R201, R372): it releases at core scope, then raises FREE. -/
def execCbrel (h : Hdr) (b : BitVec 4) (sa : BitVec 6) (s : State) : Outcome State Fault Refusal :=
  gate { h := h, once := true, mem := true } s fun e pre post =>
    match mget? (coreAt post e.core).bufs b.toNat with
    | none => trapCb pre e b
    | some x =>
      if x.team != e.grp.team || x.held = 0 || (e.s sa.toNat).toNat % 2 ^ 32 != x.base + x.ret * x.size then trapCb pre e b
      else afterRelease e pre post .core fun s =>
        atOnce (modBuf s e.core b.toNat fun x =>
          { x with free := x.free + 1, ret := (x.ret + 1) % max 1 x.count, held := x.held - 1 }) e h

/-- CBACQ_SERVE (R183, R371): the oldest waiting CBACQ takes a filled slot: every lane of its stream, or the s register.
Log entry 32. -/
def execCbacqServe (core : Nat) (b : BitVec 4) (s : State) : Outcome State Fault Refusal :=
  if 512 ≤ core then .fault .noUnit
  else match mget? (coreAt s core).bufs b.toNat with
    | none => .next s
    | some x =>
      match x.wait with
      | [] => .next s
      | w :: rest =>
        if x.filled = 0 then .next s
        else
          let addr := x.base + x.acq * x.size
          let s := modBuf s core b.toNat fun x => { x with
            filled := x.filled - 1, acq := (x.acq + 1) % max 1 x.count, held := x.held + 1, wait := rest }
          let s := resave s x.team
          let r : Res := match w.dst with
            | .v n => { id := 0, uid := w.uid, vregs := [n.toNat], sig := w.sig,
                        vals := (lanesOf w.lanes).map fun l => (n.toNat * 128 + l, BitVec.ofNat 32 addr) }
            | .s n => { id := 0, uid := w.uid, sreg := some (n.toNat, BitVec.ofNat 64 addr), sig := w.sig }
          .next (finishRes s r)

end Sys2Proof.Machine
end

