-- ==== Sys2Proof/Machine/Launch.lean ====
section
/-! DEFINITION. Launch records, the start of a grid, and tasks that become READY or are SKIPPED (R90 to R94, R97, R98, R102
to R104, R128, R307). -/

namespace Sys2Proof.Machine

/-! ### Launch records (R98, R103) -/

/-- A launch record from its 256 bytes. -/
def launchOf (bs : List Byte) (addr : DWord) : Launch :=
  let n := fun off len => bytesAt bs off len
  let d := fun off => BitVec.ofNat 64 (bytesAt bs off 8)
  { addr := addr, entry := BitVec.ofNat 32 (n 0 4), regs := n 4 2, groups := n 6 1, lastLanes := n 7 1, carry := d 8,
    scratch := ceilDiv (n 0x10 4) 128 * 128, clw := n 0x14 1, clh := n 0x15 1, gx := n 0x18 4, gy := n 0x1C 4, gz := n 0x20 4,
    flags := n 0x24 4, param := d 0x28, prio := n 0x30 1, gang := n 0x31 1, ctx := n 0x32 1, quota := d 0x38, done := d 0x40,
    donemsg := n 0x48 2, phaseBase := d 0x50 }

/-- A carry descriptor keeps R98 for a group of `regs` registers. -/
def carryOk (c : DWord) (regs : Nat) : Bool :=
  let vlen := fld c 10 6
  let slen := fld c 22 4
  decide (vlen ≤ 32) && decide (fld c 0 10 + vlen ≤ regs) && decide (slen ≤ 8) && decide (fld c 16 6 + slen ≤ 64)
    && fld c 39 25 = 0 && fld c 26 6 = 0

/-- The launch is accepted (R103, R105): limits, reserved fields, context, system teams, quota. Every allocation of at most
1,024 registers fits a register file, so the check of the register space never refuses. -/
def launchOk (s : State) (bs : List Byte) (l : Launch) (ctx : Nat) (sysT : Bool) : Bool :=
  let z := fun off len => bytesAt bs off len = 0
  decide (1 ≤ l.regs) && decide (l.regs ≤ 1024) && decide (1 ≤ l.groups) && decide (l.groups ≤ 16)
    && decide (1 ≤ l.lastLanes) && decide (l.lastLanes ≤ 128) && carryOk l.carry l.regs && decide (bytesAt bs 0x10 4 ≤ 524288)
    && decide (1 ≤ l.clw) && decide (l.clw ≤ 4) && decide (1 ≤ l.clh) && decide (l.clh ≤ 4) && decide (l.clw * l.clh ≤ 12)
    && decide (1 ≤ l.gx) && decide (1 ≤ l.gy) && decide (1 ≤ l.gz) && decide (l.flags < 32)
    && (l.flags / 16 % 2 = 0 || (sysT && ctxPriv s ctx)) && decide (l.prio < 16) && l.ctx = ctx
    && (l.quota = 0 || !bit (sysVal s (sel 11 ctx)) 0 || decide ((l.quota.toNat : Int) ≤ quotaOf s ctx))
    && l.done.toNat % 8 = 0 && decide (l.donemsg < 512) && l.phaseBase.toNat % 64 = 0
    && z 0x16 2 && z 0x33 5 && z 0x4A 6 && z 0x58 168

/-- Teams of a grid. -/
def launchTeams (l : Launch) : Nat := l.gx * l.gy * l.gz * l.clw * l.clh

/-- A launch flag. -/
def Launch.flag (l : Launch) (k : Nat) : Bool := l.flags / 2 ^ k % 2 == 1

/-- PIN: as the flags say, and wherever there is scratchpad (R104). -/
def Launch.pin (l : Launch) : Bool := l.flag 2 || l.scratch != 0

/-- The header word of the tasks of a grid (R91). -/
def launchHdr (l : Launch) : Nat :=
  (if l.flag 0 then 2 ^ 63 else 0) + (if l.flag 1 then 2 ^ 62 else 0) + (if l.pin then 2 ^ 61 else 0)
    + (if l.flag 3 then 2 ^ 60 else 0) + l.prio * 2 ^ 56 + l.gang * 2 ^ 48 + l.ctx * 2 ^ 40 + (if l.flag 4 then 2 ^ 39 else 0)

/-- Lanes of group `g` (R103). -/
def launchLanes (l : Launch) (g : Nat) : Nat := if g + 1 = l.groups then l.lastLanes else 128

/-- The first-phase record of a group (R307). -/
def firstRecord (l : Launch) (g : Nat) : List Byte :=
  natBytes 8 (launchHdr l) ++ natBytes 8 0 ++ natBytes 4 l.entry.toNat ++ natBytes 4 0 ++ natBytes 8 0 ++ natBytes 8 0
    ++ natBytes 8 0 ++ natBytes 8 ((launchLanes l g - 1) * 2 ^ 8 + l.regs * 2 ^ 16) ++ natBytes 8 0

/-- The 4 KiB page of a record slot that is not resident: the first one, of slots 0 and 1 of every group. -/
def slotMissing (s : State) (l : Launch) : Option DWord :=
  ((List.range (launchTeams l)).map fun t => (List.range l.groups).map fun g => [(t, g, 0), (t, g, 1)]).flatten.flatten.findSome?
    fun x =>
      let va := slotVa l x.1 x.2.1 x.2.2
      match walk s l.ctx (va.toNat % 2 ^ 56) with
      | .nonres => some va
      | _ => none

/-- Core of a team: where in the module each cluster's rectangle stands is the allocator's choice, which the spec leaves
open (R104). Log entry 40. -/
def placeTeam (l : Launch) (draw team : Nat) : Nat :=
  let per := max 1 (l.clw * l.clh)
  let k := team / per
  let fl := Config.freeNat draw (4 * k) % 32
  let col := Config.freeNat draw (4 * k + 1) % (5 - min 4 l.clw) + team % per % max 1 l.clw
  let row := Config.freeNat draw (4 * k + 2) % (5 - min 4 l.clh) + team % per / max 1 l.clw
  16 * fl + 4 * row + col

/-! ### READY and SKIPPED (R93, R97) -/

/-- Header word of a task's record. -/
def taskHdr (s : State) (ctx : Nat) (h : DWord) : DWord := BitVec.ofNat 64 (recField s ctx h 0 8)

/-- STARTED becomes 1 (R90). -/
def setStarted (s : State) (ctx : Nat) (h : DWord) : State :=
  let x := recField s ctx h 0x0A 1
  putRec s ctx h 0x0A 1 (x / 4 * 4 + 2 + x % 2)

/-- A poisoned task with POISONPROP is skipped (R97). -/
def skipTask (s : State) (t : TaskE) : State :=
  endTask (setStarted s t.ctx t.handle) t.ctx (some t.handle) t.team t.gid t.phase true

/-- A task whose DEPS is 0 is SKIPPED, waits for RELEASE, or is READY (R93, R97, R128). -/
def tryReady (s : State) (ctx : Nat) (h : DWord) : State :=
  match taskOf s ctx h with
  | none => s
  | some t =>
    if t.running || t.ready.isSome || recField s ctx h 8 2 != 0 then s
    else if recField s ctx h 0x0A 1 % 2 = 1 && bit (taskHdr s ctx h) 60 then skipTask s t
    else if flaskDrone s (coreFlask t.core) < recField s ctx h 0x20 8 then s
    else
      let (n, s) := freshUid s
      let s := modTask s ctx h fun t => { t with ready := some n }
      gangCount s t

/-- Publish a task (R93); a poisoned decrement may have reached its record before (R97). -/
def publish (s : State) (t : TaskE) : State :=
  let (n, s) := freshUid s
  let mine := fun (e : Nat × DWord × DWord) => e.1 == t.ctx && e.2.1 == t.handle
  let first := (s.early.find? mine).map fun e => e.2.2
  tryReady { s with early := s.early.filter fun e => !mine e, tasks := s.tasks ++ [{ t with seq := n, poison := t.poison.or first }] }
    t.ctx t.handle

/-- One decrement performed at the record's home (R94, R96): the count falls and poison is set, or the decrement is dropped
with EXTRA_SIGNAL. DESIGN CHOICE (log entry 37): that notice names no core and no flask (0xFFFF, 0xFF). -/
def performDec (s : State) (d : DecS) : State :=
  let deps := recField s d.ctx d.handle 8 2
  let fl := recField s d.ctx d.handle 0x0A 1
  let s := fall s d.sig
  if deps = 0 || fl / 2 % 2 = 1 then taskNotice s 1 d.ctx 0xFFFF 0xFF d.handle d.bySrc
  else
    let s := putRec s d.ctx d.handle 8 2 (deps - 1)
    let s := if d.poison then
        let s := putRec s d.ctx d.handle 0x0A 1 (fl / 2 * 2 + 1)
        match taskOf s d.ctx d.handle with
        | some _ => modTask s d.ctx d.handle fun t => { t with poison := t.poison.or (some d.bySrc) }
        | none => { s with early := s.early ++ [(d.ctx, d.handle, d.bySrc)] }
      else s
    tryReady s d.ctx d.handle

/-! ### Start of a grid (R104, R105, R307) -/

/-- A grid starts: first-phase records and slots 1 are written, then every first-phase task is published. -/
def launchGrid (s : State) (l : Launch) (sysT : Bool) (org : Origin) : Nat × State :=
  let (gu, s) := freshUid s
  let (d, s) := draw s
  let teams := launchTeams l
  let places := ((List.range teams).map fun t => (List.range l.groups).map fun g => (t, g)).flatten
  let s := places.foldl (fun s p =>
    let s := ctxWrite s l.ctx (slotVa l p.1 p.2 0) (firstRecord l p.2)
    ctxWrite s l.ctx (slotVa l p.1 p.2 1 + 8) (natBytes 8 l.groups)) s
  let s := { s with grids := s.grids ++
    [{ uid := gu, launch := l, sysT := sysT && l.flag 4, org := org, left := teams * l.groups }] }
  let s := (List.range teams).foldl (fun s t =>
    let (tu, s) := freshUid s
    let core := placeTeam l d t
    let s := { s with teams := s.teams ++
      [{ uid := tu, ctx := l.ctx, sysT := l.flag 4, grid := gu, index := t, ngroups := l.groups, left := l.groups,
         scratch := l.scratch, pin := l.pin, mig := l.flag 0, idem := l.flag 1, gang := l.gang }] }
    (List.range l.groups).foldl (fun s g =>
      publish s { ctx := l.ctx, handle := slotVa l t g 0, sysT := l.flag 4, grid := gu, team := tu, gid := g, core := core,
                  seq := 0, gang := l.gang }) s) s
  (gu, s)

end Sys2Proof.Machine
end

