-- ==== Sys2Proof/Machine/Tasks.lean ====
section
/-! DEFINITION. Barriers, phases, signals, spawns, active messages and drone time, class 0xB (R98 to R102, R108, R111 to
R114, R304 to R311). -/

namespace Sys2Proof.Machine

open Host

/-- Some wait states of a group's paths become others. -/
def mapWait (x : Group) (f : Path → Path) : Group := { x with paths := regang (x.paths.map f) }

/-! ### BAR -/

/-- BAR (R304): its release is complete before it issues; a path parks at the word after it. -/
def execBar (h : Hdr) (sc : Scope) (s : State) : Outcome State Fault Refusal :=
  let i : Info := { h := h, once := true }
  gateTo i s (splitTo i (fun e => nextPc e.pc h.sp) (fun _ => .bar sc)) fun e pre post =>
    afterRelease e pre post sc fun s => barStep (atOnce s e h) e.grp.team

/-! ### PHASE (R98 to R102, R305) -/

/-- What a carry descriptor names (R98). -/
def carriedV (c : DWord) : List Nat := (List.range (fld c 10 6)).map (· + fld c 0 10)
def carriedS (c : DWord) : List Nat := (List.range (fld c 22 4)).map (· + fld c 16 6)
def carriedP (c : DWord) : List Nat := (List.range 7).filter fun k => bit c (32 + k)

/-- The launch record of a group's grid, and the linear index of its team. -/
def launchFor (s : State) (x : Group) : Option (Launch × Nat) :=
  match (if x.grid = 0 then none else gridOf s x.grid), teamOf s x.team with
  | some gr, some t => some (gr.launch, t.index)
  | _, _ => none

/-- Sum of f0 to f11. -/
def flagSum (x : Group) : Nat := (List.range 12).foldl (fun n k => n + flagOf x k) 0

/-- The PHASE words where lanes of the group stand; none unless every lane stands at one (R305). Log entry 37. -/
def phaseWords (x : Group) : List Nat :=
  if x.done || x.stop.isSome || x.paths.isEmpty then []
  else
    let at' := x.paths.map fun p => match p.wait with
      | .phase _ => some p.pc.toNat
      | _ => none
    if at'.all (·.isSome) then dedup (at'.filterMap id) else []

/-- The extra count of the PHASE. Log entry 37. -/
def phaseExtra (x : Group) : Nat :=
  (x.paths.findSome? fun p => match p.wait with | .phase n => some n | _ => none).getD 0

/-- The record slots that end phase `n` writes: those of phases `n + 1` and `n + 2`. -/
def nextSlot (l : Launch) (t : Nat) (x : Group) (d : Nat) : DWord := slotVa l t x.gid ((x.phase + d) % 3)

/-- A PHASE that every lane has reached traps (R305): two words, or a count above 65,535. -/
def phaseBad (s : State) (x : Group) : Bool :=
  match phaseWords x, launchFor s x with
  | [], _ => false
  | [_], some (l, t) => decide (65535 < recField s x.ctx (nextSlot l t x 1) 8 2 + flagSum x + phaseExtra x)
  | [_], none => false
  | _, _ => true

/-- The first byte of the record slots to be written that is on a non-resident page (R100). -/
def phaseMissing (s : State) (l : Launch) (t : Nat) (x : Group) : Option DWord :=
  let runs := [(nextSlot l t x 1, 320 + 512 * fld l.carry 10 6), (nextSlot l t x 2 + 8, 8)]
  runs.findSome? fun r => (linePieces r.1.toNat r.2).findSome? fun p =>
    let va := r.1 + BitVec.ofNat 64 p.1
    match walk s x.ctx (va.toNat % 2 ^ 56) with
    | .nonres => some va
    | _ => none

/-- A run of writes at offsets from an address. -/
def putAll (s : State) (ctx : Nat) (va : DWord) (xs : List (Nat × List Byte)) : State :=
  xs.foldl (fun s p => ctxWrite s ctx (va + BitVec.ofNat 64 p.1) p.2) s

/-- The carried state (R99): only what the descriptor names is written. -/
def carriedState (x : Group) (l : Launch) : List (Nat × List Byte) :=
  let c := l.carry
  [(0x40, natBytes 8 c.toNat), (0x48, natBytes 16 (aliveLanes x).toNat), (0x58, natBytes 4 (x.phase + 1))]
    ++ ((List.range (carriedS c).length).zip (carriedS c)).map (fun p => (0x80 + 8 * p.1, natBytes 8 (sRaw x p.2).toNat))
    ++ (carriedP c).map (fun k => (0xC0 + 16 * k, natBytes 16 (pRaw x k).toNat))
    ++ ((List.range (carriedV c).length).zip (carriedV c)).map (fun p => (0x140 + 512 * p.1, imageV x p.2))

/-- Steps 3 to 7 of R100. DESIGN CHOICE (log entry 37): the next phase becomes READY on the core where the group ran. -/
def endPhase (s : State) (g : Nat) (x : Group) (l : Launch) (t : Nat) (pc : Pc) : State :=
  let ctx := x.ctx
  let next := nextSlot l t x 1
  let rd := fun off n => recField s ctx x.handle off n
  let s := putAll s ctx next
    [(0, natBytes 8 (rd 0 8)), (0x0C, natBytes 2 (rd 0x0C 2)), (0x10, natBytes 4 (pc + 1).toNat), (0x14, natBytes 4 (rd 0x14 4)),
     (0x18, natBytes 8 next.toNat), (0x20, natBytes 8 0), (0x28, natBytes 8 (rd 0x28 8)), (0x30, natBytes 8 (rd 0x30 8))]
  let s := putRec s ctx next 8 2 (recField s ctx next 8 2 + flagSum x + phaseExtra x)
  let s := putAll s ctx next (carriedState x l)
  let live := ((teamOf s x.team).map (·.left)).getD 0
  let s := ctxWrite s ctx (nextSlot l t x 2 + 8) (natBytes 8 live)
  let is := fun (va : DWord) (e : Nat × DWord × DWord) => e.1 == ctx && e.2.1 == va
  let first := (s.early.find? (is next)).map fun e => e.2.2
  let s := { s with early := s.early.filter fun e => !is next e && !is (nextSlot l t x 2) e }
  let mates := match teamOf s x.team with
    | some u => (List.range l.groups).filter fun m => x.phase + 1 ≤ lastRecord s u m
    | none => []
  let s := mates.foldl (fun s m => sendDec s ctx (slotVa l t m ((x.phase + 1) % 3)) 0 false (slotCore g)) s
  let (n, s) := freshUid s
  let task := fun (y : TaskE) => if y.ctx == ctx && y.handle == x.handle then
      { ctx := ctx, handle := next, sysT := y.sysT, grid := y.grid, team := y.team, gid := y.gid, phase := x.phase + 1,
        core := slotCore g, seq := n, gang := y.gang, poison := first }
    else y
  let s := { s with
    groups := mdel s.groups g, tasks := s.tasks.map task, redirects := mput s.redirects x.uid (ctx, next) }
  gangLeave s ctx x.handle

/-- PHASE goes on as far as it can (R100): it waits for carried registers and lent ones, for the record's page, for the
release of R95, and for a fence under way. Log entries 19 and 37. -/
def phaseStep (s : State) (g : Nat) : State :=
  match groupAt s g with
  | none => s
  | some x =>
    match phaseWords x, launchFor s x with
    | pc :: _, some (l, t) =>
      let pc := BitVec.ofNat 32 pc
      if phaseBad s x then takeTrap s g { code := 0x02, lanes := x.phaseLanes, aux := x.phaseWord } x.phasePc
      else if !x.lent.isEmpty || x.fence.isSome || (carriedV l.carry).any (isEmpty x) then s
      else match phaseMissing s l t x with
        | some va =>
          let s := residNotice s 3 0 x.ctx 1 (slotCore g) (g % 64) va
          let stay := fun (p : Path) => { p with wait := .resid (va.toNat % 2 ^ 56 / 4096), live := [], whole := true }
          modGroup s g fun x => holdPaths (mapWait x stay)
        | none =>
          let s := stopStreams (endBurst s g) g
          let (ok, s) := release s g .dev
          match groupAt s g with
          | none => s
          | some x => if ok then endPhase s g x l t pc else s
    | _, _ => s

/-- The lanes at the PHASE at `pc` share the extra count of the latest that stood there; its lanes are the trap's (R305).
Log entry 37. -/
def joinPhase (pc : Pc) (n : Nat) (lanes : LaneMask) (word : DWord) (x : Group) : Group :=
  let join := fun (p : Path) => match p.wait with
    | .phase _ => if p.pc == pc then { p with wait := .phase n } else p
    | _ => p
  { mapWait x join with phasePc := pc, phaseLanes := lanes, phaseWord := word }

/-- PHASE (R305). Log entry 37. -/
def execPhase (h : Hdr) (n : SImm) (s : State) : Outcome State Fault Refusal :=
  let i : Info := { h := h, once := true }
  let extra := fun (e : Env) => match n with
    | .imm k => k.toNat
    | .s k => (e.s k.toNat).toNat % 65536
  gateTo i s (splitTo i (fun e => e.pc) (fun e => .phase (extra e))) fun e pre post =>
    if (launchFor post e.grp).isNone then trapReserved pre e.act
    else
      let word := (pre.cur.map fun c => c.word.extractLsb' 32 64).getD 0
      let post := modGroup (atOnce post e h) e.g (joinPhase e.pc (extra e) e.act word)
      if (groupAt post e.g).any (phaseBad post) then trapReserved pre e.act else phaseStep post e.g

/-! ### SIGNAL -/

/-- The instruction counts nothing on its flag. -/
def uncount (s : State) (e : Env) (h : Hdr) : State :=
  if h.set.toNat < 12 then modGroup s e.g fun x => setFlag x h.set.toNat (flagOf x h.set.toNat - 1) else s

/-- Successors of the group's current task; a handler group has none. -/
def taskSucc (s : State) (x : Group) : Nat := if x.noTask then 0 else nsucc s x.ctx x.handle

/-- SIGNAL (R95, R306). -/
def execSignal (h : Hdr) (i : SImm) (s : State) : Outcome State Fault Refusal :=
  gate { h := h, once := true, mem := true } s fun e pre post =>
    let k := match i with
      | .imm k => k.toNat
      | .s k => (e.s k.toNat).toNat % 16
    let x := e.grp
    if taskSucc post x ≤ k then trapReserved pre e.act
    else if sentBit post x.ctx x.handle k then uncount post e h
    else afterRelease e pre post .dev fun s => deliver s x.ctx x.handle false k (sigOf x.uid h.set)

/-! ### SPAWN (R92, R103, R307, R425) -/

/-- A SPAWN that finds its record: `k` checks it and goes on. A record on a non-resident page is not published. -/
def spawnRead (h : Hdr) (sa : BitVec 6) (pk : BitVec 3) (n : Nat) (s : State)
    (k : Env → State → State → DWord → List Byte → State) : Outcome State Fault Refusal :=
  gate { h := h, once := true, mem := true } s fun e pre post =>
    let va := e.s sa.toNat
    match readRec post e va 1 n with
    | (.bad code addr aux, _) => trapAt pre code e.act addr aux
    | (.held, _) => pre
    | (.nonres, s) => clearRes (uncount s e h) e.g pk.toNat (lanesOf e.act)
    | (.ok bs, s) => k e pre s va bs

/-- A task record that SPAWN accepts (R92). -/
def taskOk (bs : List Byte) (va : DWord) (ctx : Nat) (sysT : Bool) : Bool :=
  let hdr := recD bs 0
  let w := recD bs 8
  let c := recD bs 0x30
  va.toNat % 64 = 0 && fld hdr 0 39 = 0 && fld hdr 40 8 = ctx && (!bit hdr 39 || sysT) && fld w 18 14 = 0 && fld w 48 16 = 0
    && decide (fld c 0 5 ≤ 16) && fld c 5 3 = 0 && fld c 15 1 = 0 && fld c 27 37 = 0 && decide (1 ≤ fld c 16 11)
    && decide (fld c 16 11 ≤ 1024)

/-- Publish a task of no grid: a team of one group (R425). -/
def publishTask (s : State) (core ctx : Nat) (va hdr : DWord) : State :=
  let (u, s) := freshUid s
  let gang := fld hdr 48 8
  let t : Team := { uid := u, ctx := ctx, sysT := bit hdr 39, pin := bit hdr 61, mig := bit hdr 63, idem := bit hdr 62, gang := gang }
  publish { s with teams := s.teams ++ [t] }
    { ctx := ctx, handle := va, sysT := bit hdr 39, team := u, core := core, seq := 0, gang := gang }

/-- SPAWN of a task. -/
def execSpawnTask (h : Hdr) (sa : BitVec 6) (pk : BitVec 3) (s : State) : Outcome State Fault Refusal :=
  spawnRead h sa pk 64 s fun e pre post va bs =>
    if !taskOk bs va e.grp.ctx e.grp.sysT then trapReserved pre e.act
    else afterRelease e pre post .dev fun s => publishTask (atOnce s e h) e.core e.grp.ctx va (recD bs 0)

/-- SPAWN of a grid. A record slot that is not resident parks the SPAWN at its own word. -/
def execSpawnGrid (h : Hdr) (sa : BitVec 6) (pk : BitVec 3) (s : State) : Outcome State Fault Refusal :=
  spawnRead h sa pk 256 s fun e pre post va bs =>
    let l := launchOf bs va
    if !launchOk post bs l e.grp.ctx e.grp.sysT then trapReserved pre e.act
    else match slotMissing post l with
      | some a =>
        let stay := fun (p : Path) => if p.lanes &&& e.lanes != 0
          then { p with wait := .resid (a.toNat % 2 ^ 56 / 4096), live := [], whole := true } else p
        let s := residNotice pre 3 0 e.grp.ctx 1 e.core (e.g % 64) a
        modGroup { s with cur := none } e.g fun x => holdPaths (mapWait x stay)
      | none => afterRelease e pre post .dev fun s => (launchGrid (atOnce s e h) l e.grp.sysT (.core e.core)).2

/-- Threads that a walker holds. -/
def threadCount (f : Flask) : Nat := f.insts.foldl (fun n i => n + i.threads.length) 0

/-- SPAWN of a graph: it starts on the walker of the group's flask. -/
def execSpawnGraph (h : Hdr) (sa : BitVec 6) (pk : BitVec 3) (s : State) : Outcome State Fault Refusal :=
  spawnRead h sa pk 32 s fun e pre post _ bs =>
    let nodes := recD bs 0
    let n := recNat bs 8 4
    let start := recNat bs 0x0C 4
    let gdone := recD bs 0x10
    let fl := coreFlask e.core
    let f := flaskAt post fl
    if nodes.toNat % 32 != 0 || n ≤ start || gdone.toNat % 8 != 0 || recNat bs 0x18 8 != 0 then trapReserved pre e.act
    else if 64 ≤ f.insts.length || 256 ≤ threadCount f then pre
    else afterRelease e pre post .dev fun s =>
      modFlask (atOnce s e h) fl fun f =>
        let x : Inst := { num := f.inst, ctx := e.grp.ctx, sysT := e.grp.sysT, nodes := nodes, ncount := n, gdone := gdone,
                          threads := [{ id := 0, node := start }] }
        { f with insts := f.insts ++ [x], inst := f.inst + 1 }

/-! ### AMSG (R111 to R114, R308) -/

/-- A handler's entry (R112): its low 64 bits and HPRIO. -/
structure Handler where
  w : DWord
  prio : Nat
deriving DecidableEq, Repr

def Handler.entry (x : Handler) : Pc := BitVec.ofNat 32 (fld x.w 0 32)
def Handler.regs (x : Handler) : Nat := fld x.w 32 11
def Handler.home (x : Handler) : Nat := fld x.w 48 9
def Handler.valid (x : Handler) : Bool := bit x.w 63

/-- Entry `i` of a context's handler table (R112), whose address is in the descriptor (R163). -/
def handlerOf (s : State) (ctx i : Nat) : Handler :=
  let va := BitVec.ofNat 64 (descField s ctx 0x10 8 + 16 * i)
  { w := BitVec.ofNat 64 (ctxNat s ctx va 8), prio := ctxNat s ctx (va + 8) 1 % 16 }

/-- The core where a message goes: its DEST, or the handler's home core (R111). -/
def msgCore (s : State) (bs : List Byte) : Nat :=
  let d := bytesAt bs 6 2
  if d = 0xFFFF then (handlerOf s (bytesAt bs 1 1) (bytesAt bs 0 1)).home else d

/-- Messages that a core holds or that are on their way to it. -/
def msgLoad (s : State) (core : Nat) : Nat :=
  (coreAt s core).msgs.length + (s.msgs.filter fun m => m.port.isNone && msgCore s m.bytes == core).length

/-- Messages held at or on their way to a flue port. -/
def portLoad (s : State) (port : Nat) : Nat :=
  (mget s.ports port {}).held.length + (s.msgs.filter fun m => m.port == some port).length

/-- A flue port trained in peer mode. -/
def peerUp (s : State) (port : Nat) : Bool := sysFld s (sel 4 port) 16 1 == 1 && sysFld s (sel 4 port) 4 4 == 1

/-- AMSG (R308): one message for each lane whose guard is true; a full destination blocks it. Log entry 38. -/
def execAmsg (h : Hdr) (sa : BitVec 6) (vb : BitVec 10) (s : State) : Outcome State Fault Refusal :=
  gate { h := h, cB := (List.range 12).map (· + vb.toNat), mem := true } s fun e pre post =>
    let w := e.s sa.toNat
    let d := fld w 48 16
    let port := if 0x1000 ≤ d && d < 0x1000 + 512 * 12 then some ((d - 0x1000) / 512) else none
    let dest := if port.isSome then d % 512 else d
    if e.act = 0 then atOnce post e h
    else if fld w 8 8 != e.grp.ctx then trapAt pre 0x06 e.act 0 0
    else if !(d < 512 || d = 0xFFFF || port.any (peerUp post)) then trapAt pre 0x18 e.act 0 0
    else
      let msg := fun (op l : Nat) =>
        ({ bytes := messageBytes (fld w 0 8) (fld w 8 8) 0 (fld w 24 8) e.core dest 0
             ((List.range 12).map fun k => natBytes 4 (e.v (vb.toNat + k) l).toNat).flatten,
           dest := dest, op := op, src := e.core, port := port } : Msg)
      let full := match port with
        | some p => decide (64 ≤ portLoad post p)
        | none => decide (64 ≤ msgLoad post (msgCore post (msg 0 0).bytes))
      if full then pre
      else
        let ls := lanesOf e.act
        let (id, s) := newOp post e.grp.uid (sigOf e.grp.uid h.set) ls.length
        { s with msgs := s.msgs ++ ls.map (msg id) }

/-! ### Drone time and notes -/

/-- TNOW (R309): in the 6-cycle class; a group never reads a smaller count than before (R39). Log entry 30. -/
def execTnow (h : Hdr) (d : Reg) (a : SImm) (s : State) : Outcome State Fault Refusal :=
  gate (infoOf h d true none none []) s fun e _ post =>
    let n := max e.grp.tnow (flaskDrone post (coreFlask e.core))
    let s := modGroup post e.g fun x => { x with tnow := n }
    let s := writeD s e d true 6 fun _ => (BitVec.ofNat 64 n + e.simm a).toNat
    fixTail s e h 6 0

/-- Lanes parked at TWAIT whose time the flask count has reached go on (R40, R310). -/
def wakeTimes (s : State) (g : Nat) : State :=
  let fl := coreFlask (slotCore g)
  modGroup s g fun x => mapWait x fun p => match p.wait with
    | .time t => if reached s fl t then { p with wait := .run } else p
    | _ => p

/-- TWAIT (R310). Log entry 37. -/
def execTwait (h : Hdr) (sa : BitVec 6) (s : State) : Outcome State Fault Refusal :=
  gateTo { h := h, once := true } s
    (fun e => [(nextPc e.pc h.sp, if e.act = 0 then .run else .time (e.s sa.toNat), e.lanes)])
    fun e _ post => wakeTimes (atOnce post e h) e.g

/-- Flasks whose walker holds a live graph of a context. Log entry 39. -/
def noteFlasks (s : State) (ctx : Nat) : List Nat :=
  (s.flasks.filter fun p => p.2.insts.any fun i => i.ctx == ctx).map (·.1)

/-- The flasks whose note tables an address must enter: those with a live graph of the context that do not hold it yet. -/
def noteTables (s : State) (ctx : Nat) (va : DWord) : List Nat :=
  (noteFlasks s ctx).filter fun fl => !(flaskAt s fl).notes.contains va

/-- GWNOTE (R108, R311): the release first; then it waits while a note table that it must enter is full. Log entry 39. -/
def execGwnote (h : Hdr) (sa : BitVec 6) (s : State) : Outcome State Fault Refusal :=
  gate { h := h, once := true, mem := true } s fun e pre post =>
    let va := e.s sa.toNat
    let room := fun (s : State) => (noteTables s e.grp.ctx va).all fun fl => (flaskAt s fl).notes.length < 64
    if va.toNat % 8 != 0 then trapAt pre 0x05 e.act va 0
    else afterReleaseWhen e pre post .dev room fun s =>
      let put := fun (s : State) (fl : Nat) => modFlask s fl fun f => { f with notes := f.notes ++ [va] }
      atOnce ((noteTables s e.grp.ctx va).foldl put s) e h

end Sys2Proof.Machine
end

