-- ==== Sys2Proof/Machine/Admit.lean ====
section
/-! DEFINITION. Admission of tasks to group slots, stealing, gangs, decrements on their way, and active messages with their
handler groups (R84, R93, R94, R97, R101, R110 to R116, R128 to R132, R425). -/

namespace Sys2Proof.Machine

open Host

/-! ### Room on a core (R115, R116) -/

/-- Register allocation in registers of 512 bytes (R116). -/
def allocOf (regs : Nat) : Nat := (regs + 7) / 8 * 8

/-- Tasks that a gang placement keeps a slot for (R129). -/
def placedIn (s : State) (core quarter : Nat) : List TaskE :=
  s.tasks.filter fun t => t.placed.any fun k => slotCore k == core && slotQuarter k == quarter

/-- REGS of a task's record. -/
def taskRegs (s : State) (t : TaskE) : Nat := fld (BitVec.ofNat 64 (recField s t.ctx t.handle 0x30 8)) 16 11

/-- Groups that hold a slot of a quarter. -/
def inQuarter (s : State) (core quarter : Nat) : List (Nat × Group) :=
  s.groups.filter fun p => slotCore p.1 == core && slotQuarter p.1 == quarter

/-- Registers of a quarter's file in use: 2,048 of 512 bytes (R116). A move holds both places until it is done. -/
def fileUsed (s : State) (core quarter : Nat) : Nat :=
  (inQuarter s core quarter).foldl (fun n p => if p.2.tier == .tiered then n else n + regCount p.2) 0
    + (placedIn s core quarter).foldl (fun n t => n + allocOf (taskRegs s t)) 0

/-- Registers of a core's backing tier in use: 32,768 of 512 bytes. -/
def backUsed (s : State) (core : Nat) : Nat :=
  s.groups.foldl (fun n p => if slotCore p.1 == core && p.2.tier != .resident then n + regCount p.2 else n) 0

/-- Where an allocation fits: in the quarter's file, in the backing tier, or nowhere. -/
def fitTier (s : State) (core quarter regs : Nat) : Option Tier :=
  if fileUsed s core quarter + allocOf regs ≤ 2048 then some .resident
  else if backUsed s core + allocOf regs ≤ 32768 then some .tiered
  else none

/-- Free group slots of a quarter. -/
def freeSlots (s : State) (core quarter : Nat) : List Nat :=
  ((List.range 16).map fun k => slotKey core quarter k).filter fun g =>
    (groupAt s g).isNone && !s.tasks.any fun t => t.placed == some g

/-- Scratchpad held on a core (R161). -/
def scratchUsed (s : State) (core : Nat) : Nat :=
  s.teams.foldl (fun n t => if t.core == some core then n + t.scratch else n) 0

/-- Group images of a context in use (R255). -/
def imagesUsed (s : State) (ctx : Nat) : List Nat :=
  ((s.groups.filter fun p => p.2.ctx == ctx && !p.2.done).map fun p => p.2.image)
    ++ (s.parked.filter fun p => p.g.ctx == ctx).map fun p => p.g.image

/-- A group image is left beyond those kept for placed gangs. -/
def imageLeft (s : State) (ctx : Nat) : Bool :=
  let kept := (s.tasks.filter fun t => t.ctx == ctx && t.placed.isSome).length
  decide ((imagesUsed s ctx).length + kept < sysFld s (sel 23 ctx) 48 16)

/-- The lowest free group image, and the lowest free team image (R255). -/
def freeImage (s : State) (ctx : Nat) : Option Nat :=
  let used := imagesUsed s ctx
  (List.range (sysFld s (sel 23 ctx) 48 16)).find? fun i => !used.contains i
def freeTeamImage (s : State) (ctx : Nat) : Option Nat :=
  let used := (s.teams.filter fun t => t.ctx == ctx).filterMap fun t => t.image
  (List.range (sysFld s (sel 23 ctx) 38 10)).find? fun i => !used.contains i

/-- The core admits work: in use, not being retired or halted, its flask not gated (R8, R59, R86, R407). -/
def coreOpen (s : State) (core : Nat) : Bool :=
  let f := flaskAt s (coreFlask core)
  let c := coreAt s core
  decide (core < 512) && c.enabled && !c.noAdmit && !f.gated && !f.halting

/-- The context starts work (R57, R163, R257). -/
def ctxOpen (s : State) (ctx : Nat) : Bool :=
  ctxResident s ctx && !isOver s ctx && !bit (sysVal s (sel 23 ctx)) 0

/-- A flask's count passes a multiple of `p` in this fabric cycle (R40). -/
def passes (s : State) (fl p : Nat) : Bool := flaskDrone s fl / p != flaskDrone { s with droneE := s.prevE } fl / p

/-- The tick of a quiet context (R132). -/
def atTick (s : State) (fl tick : Nat) : Bool := passes s fl (2 ^ (tick + 6))

/-- Tasks of a quiet context start at its ticks (R132). -/
def quietStart (s : State) (ctx core : Nat) : Bool :=
  !isQuiet s ctx || atTick s (coreFlask core) (sysFld s (sel 22 ctx) 6 4)

/-- A core of another flask than the one that HALT empties or has gated, for a MIG team (R407). -/
def haltLeft (s : State) (t : Team) (core : Nat) : Bool :=
  t.mig && match t.core with
    | some c => coreFlask c != coreFlask core && ((flaskAt s (coreFlask c)).halting || (flaskAt s (coreFlask c)).gated)
    | none => false

/-- The team has room for one group more in the quarter, and its scratchpad and image can be had on the core. -/
def teamFits (s : State) (t : Team) (core quarter : Nat) : Bool :=
  decide (((inQuarter s core quarter).filter fun p => p.2.team == t.uid).length
      + ((placedIn s core quarter).filter fun x => x.team == t.uid).length < 4)
    && (match t.core with
        | some c => !t.pin || c == core
        | none => decide (scratchUsed s core + t.scratch ≤ 524288))
    && (t.image.isSome || (freeTeamImage s t.ctx).isSome) && t.migTo.isNone && (!t.moving || haltLeft s t core) && !t.killed

/-- The conditions of R115 and R255 for one group of a team. -/
def groupFits (s : State) (t : Team) (core quarter regs : Nat) : Bool :=
  coreOpen s core && ctxOpen s t.ctx && !(freeSlots s core quarter).isEmpty && teamFits s t core quarter
    && imageLeft s t.ctx && (fitTier s core quarter regs).isSome

/-- A task's quarter (R110, R115). -/
def quarterOk (t : TaskE) (quarter : Nat) : Bool := decide (quarter < 4) && (t.grid = 0 || t.gid % 4 = quarter)

/-- A READY task of no gang may be admitted to a quarter of a core. Log entry 40. -/
def mayAdmit (s : State) (t : TaskE) (core quarter : Nat) : Bool :=
  t.ready.isSome && !t.running && t.gang = 0 && quarterOk t quarter && quietStart s t.ctx core
    && (match teamOf s t.team with
        | some x => groupFits s x core quarter (taskRegs s t)
        | none => false)

/-! ### Storage of a core (R84, R116)

DESIGN CHOICE (log entry 40): the spec does not say which part of a file, a tier or a scratchpad an allocation takes; any free part
may be it. -/

/-- `n` free units, wherever they lie. -/
def pickUnits (draw : Nat) : Nat → List Nat → List Nat
  | 0, _ => []
  | n + 1, free =>
    match free[Config.freeNat draw n % max 1 free.length]? with
    | none => []
    | some u => u :: pickUnits draw n (free.erase u)

/-- Units of a quarter's file, of the backing tier and of the scratchpad. -/
def fileUnits (quarter : Nat) : List Nat := (List.range 256).map fun u => 64 + 256 * quarter + u
def backUnits : List Nat := (List.range 4096).map fun u => 2048 + u
def padUnits : List Nat := (List.range 4096).map fun u => 8192 + u

/-- Units that a context takes on a core: they are its own from now on. What it has not held last is zeroed (R84), by place.
Log entry 40. -/
def takeUnits (s : State) (core ctx n : Nat) (free : List Nat) : List Nat × List Nat × State :=
  let (d, s) := draw s
  let us := pickUnits d n free
  let c := coreAt s core
  let clean := (List.range us.length).filter fun i => mget? c.lastBy (us.getD i 0) != some ctx
  (us, clean, modCore s core fun c => { c with lastBy := us.foldl (fun m u => mput m u ctx) c.lastBy })

/-- Register units for an allocation in a tier (R116). Log entry 40. -/
def takeRegs (s : State) (core quarter ctx regs : Nat) (tier : Tier) : List Nat × List Nat × State :=
  let used := ((s.groups.filter fun p => slotCore p.1 == core).map fun p => p.2.units).flatten
  let all := match tier with
    | .resident | .movingIn => fileUnits quarter
    | .tiered | .movingOut => backUnits
  takeUnits s core ctx (allocOf regs / 8) (all.filter fun u => !used.contains u)

/-- A group takes units for the registers that it brings along or moves (R122). Log entry 40. -/
def placeRegs (s : State) (g : Nat) (tier : Tier) : State :=
  match groupAt s g with
  | none => s
  | some x =>
    let (us, _, s) := takeRegs s (slotCore g) (slotQuarter g) x.ctx x.regs tier
    modGroup s g fun x => { x with units := x.units ++ us }

/-! ### Starting a group -/

/-- What a new group is. -/
structure Birth where
  ctx    : Nat
  sysT   : Bool
  handle : DWord := 0
  grid   : Nat := 0
  team   : Nat
  gid    : Nat := 0
  phase  : Nat := 0
  nlanes : Nat
  regs   : Nat
  prio   : Nat
  entry  : Pc
  poison : Option DWord := none
  noTask : Bool := false
deriving DecidableEq, Repr

/-- A team takes its scratchpad on a core (R115): what another context held last is zeroed (R84). Log entry 40. -/
def holdPad (s : State) (uid core : Nat) : State :=
  match teamOf s uid with
  | none => s
  | some t =>
    if t.scratch = 0 then modTeam s uid fun x => { x with core := some core }
    else
      let used := ((s.teams.filter fun x => x.core == some core && x.uid != uid).map fun x => x.pads).flatten
      let (us, clean, s) := takeUnits s core t.ctx ((t.scratch + 127) / 128) (padUnits.filter fun u => !used.contains u)
      let (n, s) := draw s
      modTeam s uid fun x => { x with core := some core, seed := some n, clean := clean, pads := us }

/-- The team is bound to its core when its first group is admitted, with scratchpad and image (R84, R115, R255). Log entry 40. -/
def bindTeam (s : State) (uid home : Nat) : State :=
  match teamOf s uid with
  | none => s
  | some t =>
    let s := if t.core.isSome then s else holdPad s uid home
    let image := freeTeamImage s t.ctx
    let s := if t.image.isSome then s else modTeam s uid fun x => { x with image := image }
    restoreTeam s uid

/-- A group starts in a slot, after its core's acquire (R84, R95, R115, R135). Log entries 3 and 40. -/
def bear (s : State) (g home : Nat) (tier : Tier) (b : Birth) : State :=
  let core := slotCore g
  let s := bindTeam s b.team home
  let (uid, s) := freshUid s
  let (n, s) := draw s
  let (us, clean, s) := takeRegs s core (slotQuarter g) b.ctx b.regs tier
  let c := coreAt s core
  let x : Group :=
    { uid := uid, ctx := b.ctx, sysT := b.sysT, handle := b.handle, noTask := b.noTask, grid := b.grid, team := b.team, gid := b.gid,
      nlanes := b.nlanes, regs := b.regs, image := (freeImage s b.ctx).getD 0, phase := b.phase,
      paths := [{ pc := b.entry, lanes := firstLanes b.nlanes }], seed := if mget? c.lastBy (g % 64) == some b.ctx then some n else none,
      vseed := some n, clean := clean, units := us,
      prio := BitVec.ofNat 4 b.prio, last := c.cycle, elig := c.cycle, tier := tier, poison := b.poison }
  let s := modCore s core fun c => { c with lastBy := mput c.lastBy (g % 64) b.ctx }
  lendBack (setGroup (acquire s core .dev) g x) g

/-- Restore what a phase record carries (R101): registers not carried hold unpredictable values. -/
def restorePhase (s : State) (x : Group) (prec : DWord) : Group × State :=
  let (n, s) := draw s
  let rd := fun off len => recField s x.ctx prec off len
  let c := BitVec.ofNat 64 (rd 0x40 8)
  let alive := BitVec.ofNat 128 (rd 0x48 16)
  let x := { x with seed := some n, vseed := some n, clean := [], paths := regang (x.paths.map fun p => { p with lanes := p.lanes &&& alive }) }
  let x := ((List.range (carriedS c).length).zip (carriedS c)).foldl (fun x p =>
    putS x p.2 (BitVec.ofNat 64 (rd (0x80 + 8 * p.1) 8))) x
  let x := (carriedP c).foldl (fun (x : Group) k => { x with p := mput x.p k (BitVec.ofNat 128 (rd (0xC0 + 16 * k) 16)) }) x
  let x := ((List.range (carriedV c).length).zip (carriedV c)).foldl (fun x p =>
    let bs := (ctxRead s x.ctx (prec + BitVec.ofNat 64 (0x140 + 512 * p.1)) 512).getD []
    (List.range 128).foldl (fun x l => putV x p.2 l (BitVec.ofNat 32 (bytesAt bs (4 * l) 4))) x) x
  (x, s)

/-- A task becomes RUNNING in slot `g` (R93, R97, R101): STARTED, its registers, its entry. -/
def startTask (s : State) (t : TaskE) (g : Nat) (tier : Tier) : State :=
  let rd := fun off n => recField s t.ctx t.handle off n
  let hdr := taskHdr s t.ctx t.handle
  let c := BitVec.ofNat 64 (rd 0x30 8)
  let poisoned := rd 0x0A 1 % 2 == 1
  let pentry := rd 0x14 4
  let prec := BitVec.ofNat 64 (rd 0x18 8)
  let jump := poisoned && pentry != 0
  let b : Birth :=
    { ctx := t.ctx, sysT := t.sysT, handle := t.handle, grid := t.grid, team := t.team, gid := t.gid, phase := t.phase,
      nlanes := fld c 8 7 + 1, regs := fld c 16 11, prio := fld hdr 56 4,
      entry := BitVec.ofNat 32 (if jump then pentry else rd 0x10 4), poison := if poisoned && !jump then some (t.poison.getD 0) else none }
  let s := setStarted s t.ctx t.handle
  let s := modTask s t.ctx t.handle fun t => { t with running := true, ready := none, placed := none }
  let s := bear s g (if t.grid = 0 then slotCore g else t.core) tier b
  match groupAt s g with
  | none => s
  | some x =>
    let (x, s) := if prec = 0 then (x, s) else restorePhase s x prec
    setGroup s g (if jump then putS (putS x 0 0x10) 1 (t.poison.getD 0) else x)

/-- A free slot of a quarter: which one is the core's choice. -/
def pickSlot (s : State) (core quarter : Nat) : Option Nat :=
  let ks := freeSlots s core quarter
  ks[Config.freeNat s.free 0 % max 1 ks.length]?

/-- A task is admitted to a quarter of a core that has room for it. -/
def admitTask (s : State) (t : TaskE) (core quarter : Nat) : State :=
  match pickSlot s core quarter, fitTier s core quarter (taskRegs s t) with
  | some g, some tier => startTask s t g tier
  | _, _ => s

/-- TASK_ADMIT (R93, R115, R116): on the core where the task is READY. -/
def execTaskAdmit (core quarter ctx : Nat) (handle : DWord) (s : State) : Outcome State Fault Refusal :=
  if 512 ≤ core || 4 ≤ quarter then .fault .noUnit
  else match taskOf s ctx handle with
    | none => .next s
    | some t =>
      let home := match (teamOf s t.team).map fun x => (x.pin, x.core) with
        | some (true, some c) => c
        | _ => t.core
      if home = core && mayAdmit s t core quarter then .next (admitTask s t core quarter) else .next s

/-! ### Stealing (R110) -/

/-- Mesh position of a core's router (R6, R8, R21). -/
def routerOf (core : Nat) : Nat × Nat :=
  let fl := core / 16
  let k := core % 16 / 2
  (4 * (fl % 4) + k % 4, 2 * (fl / 4) + k / 4)

def absDiff (a b : Nat) : Nat := (a - b) + (b - a)

/-- Mesh hops between two cores (R23). -/
def hops (a b : Nat) : Nat :=
  let p := routerOf a
  let q := routerOf b
  absDiff p.1 q.1 + absDiff p.2 q.2

/-- Level where a thief finds a core's tasks: 0 its power cluster, 1 its flask, 2 other flasks; none for itself.
Log entry 40. -/
def stealLevel (thief victim : Nat) : Option Nat :=
  if thief = victim then none
  else if coreDomain thief = coreDomain victim then some 0
  else if coreFlask thief = coreFlask victim then some 1
  else some 2

/-- The task may be stolen by a quarter of a core. -/
def mayStealTask (s : State) (t : TaskE) (core quarter level : Nat) : Bool :=
  let hdr := taskHdr s t.ctx t.handle
  !bit hdr 61 && !isQuiet s t.ctx && (level != 2 || bit hdr 63) && mayAdmit s t core quarter

/-- `a` is taken before `b` (R110). -/
def stealsBefore (s : State) (core : Nat) (a b : TaskE) : Bool :=
  let prio := fun (t : TaskE) => fld (taskHdr s t.ctx t.handle) 56 4
  if prio a != prio b then prio b < prio a
  else if a.ready.getD 0 != b.ready.getD 0 then a.ready.getD 0 < b.ready.getD 0
  else if hops core a.core != hops core b.core then hops core a.core < hops core b.core
  else a.core < b.core

/-- STEAL (R110): the first level that holds a candidate. That no group of the quarter is eligible is the scheduler's
condition (`Sys2Proof.Machine.mayAct`). -/
def execSteal (core quarter : Nat) (s : State) : Outcome State Fault Refusal :=
  if 512 ≤ core || 4 ≤ quarter then .fault .noUnit
  else
    let at' := fun (level : Nat) => s.tasks.filter fun t =>
      stealLevel core t.core == some level && mayStealTask s t core quarter level
    match [at' 0, at' 1, at' 2].find? fun xs => !xs.isEmpty with
    | some (t :: ts) =>
      let best := ts.foldl (fun a b => if stealsBefore s core b a then b else a) t
      .next (admitTask s best core quarter)
    | _ => .next s

/-! ### Decrements and release times (R93, R94, R96) -/

/-- The router of a record's home slice (R8, R26, R27); none where its page is not resident. -/
def recRouter (s : State) (ctx : Nat) (h : DWord) : Option (Nat × Nat) :=
  match walk s ctx (h.toNat % 2 ^ 56) with
  | .ok _ k => some (homeFlask k, homeSlice s k / 2)
  | _ => none

/-- `x`, sent before `d`, must be performed before it: both are of one task's end (R95, R96), or go from one router to one router
(R24). Log entry 38. -/
def decBefore (s : State) (x d : DecS) : Bool :=
  (d.batch != 0 && x.batch == d.batch)
  || (decide (d.src < 512) && x.src / 2 == d.src / 2 && (recRouter s d.ctx d.handle).isSome
      && recRouter s x.ctx x.handle == recRouter s d.ctx d.handle)

/-- Decrement `i` is performed at its record's home, if its kind is the one named and no other goes before it (R24, R95, R96). -/
def decStep (s : State) (i : Nat) (poison : Bool) : State :=
  match s.decs[i]? with
  | none => s
  | some d =>
    if d.poison == poison && !(s.decs.take i).any (fun x => decBefore s x d) && !ctxLocked s d.ctx d.handle 64
    then performDec { s with decs := s.decs.eraseIdx i } d else s

/-- DEPS_DECREMENT (R94). -/
def execDepsDecrement (i : Nat) (s : State) : Outcome State Fault Refusal := .next (decStep s i false)

/-- POISONED_DECREMENT (R96, R97). -/
def execPoisonedDecrement (i : Nat) (s : State) : Outcome State Fault Refusal := .next (decStep s i true)

/-- TASK_RELEASE_TIME (R40, R93). -/
def execTaskReleaseTime (ctx : Nat) (handle : DWord) (s : State) : Outcome State Fault Refusal := .next (tryReady s ctx handle)

/-! ### Gangs (R128 to R130) -/

/-- The members of the coming release: what was skipped or killed fills its place among MEMBERS. -/
def gangTasks (s : State) (g : Nat) : List TaskE :=
  let ws := gangWaiting s g
  ws.take (gangMembers s g - (gangReady s g - ws.length))

/-- READY has reached MEMBERS. Log entry 41. -/
def gangComplete (s : State) (g : Nat) : Bool :=
  bit (gangVal s g) 63 && decide (1 ≤ gangMembers s g) && decide (gangMembers s g ≤ gangReady s g)

/-- When a gang became complete (R129). -/
def gangAge (s : State) (g : Nat) : Nat := mget s.gangAt g 0

/-- Column and row of a team in its cluster's rectangle (R104). -/
def clusterCell (l : Launch) (team : Nat) : Nat × Nat :=
  let k := team % max 1 (l.clw * l.clh)
  (k % max 1 l.clw, k / max 1 l.clw)

/-! #### Whether an idle module has room for a gang (R129): its cores are alike, and a cluster stands on one rectangle of a flask -/

/-- What stands on a core: by quarter, registers and groups; scratchpad; groups of one team in a quarter at most. -/
structure Load where
  regs    : List Nat := [0, 0, 0, 0]
  slots   : List Nat := [0, 0, 0, 0]
  scratch : Nat := 0
deriving DecidableEq, Repr

/-- Loads of one core together, if they fit it (R115, R116, R161). -/
def Load.add (a b : Load) : Option Load :=
  let r : Load := { regs := List.zipWith (· + ·) a.regs b.regs, slots := List.zipWith (· + ·) a.slots b.slots,
                    scratch := a.scratch + b.scratch }
  if r.regs.all (fun n => n ≤ 2048) && r.slots.all (fun n => n ≤ 16) && r.scratch ≤ 524288 then some r else none

/-- What a team's tasks ask of a core: one load, or, for a team of no grid, one for each quarter (R110, R115). -/
def teamLoads (s : State) (ts : List TaskE) (team : Nat) : List Load :=
  let mine := ts.filter fun t => t.team == team
  let scratch := ((teamOf s team).map fun t => t.scratch).getD 0
  let load := fun (quarter : TaskE → Nat) => ({
    regs := (List.range 4).map fun q => (mine.filter fun t => quarter t == q).foldl (fun n t => n + allocOf (taskRegs s t)) 0,
    slots := (List.range 4).map fun q => (mine.filter fun t => quarter t == q).length, scratch := scratch } : Load)
  let all := if mine.all fun t => t.grid != 0 then [load fun t => t.gid % 4] else (List.range 4).map fun q => load fun _ => q
  all.filter fun l => l.slots.all fun n => n ≤ 4

/-- The clusters of a gang's teams: for each team its cell in the rectangle, its size, and its loads. -/
def gangClusters (s : State) (ts : List TaskE) : List (List (Nat × Nat × Nat × Nat × List Load)) :=
  let teams := dedup (ts.map fun t => t.team)
  let clus := fun (u : Nat) => (teamOf s u).map (teamCluster s)
  let key := fun (u : Nat) => (teams.find? fun v => clus v == clus u).getD u
  let cell := fun (u : Nat) => match teamOf s u with
    | some t => match (if t.grid = 0 then none else gridOf s t.grid) with
      | some gr => ((clusterCell gr.launch t.index).1, (clusterCell gr.launch t.index).2, gr.launch.clw, gr.launch.clh)
      | none => (0, 0, 1, 1)
    | none => (0, 0, 1, 1)
  (dedup (teams.map key)).map fun k => (teams.filter fun u => key u == k).map fun u =>
    ((cell u).1, (cell u).2.1, (cell u).2.2.1, (cell u).2.2.2, teamLoads s ts u)

/-- The ways to put the teams of a cluster on the cores of a rectangle with its corner on a core. -/
def putCluster (s : State) (corner : Nat) : List (Nat × Nat × Nat × Nat × List Load) → List (SMap Load) → List (SMap Load)
  | [], ms => ms
  | (x, y, w, h, ls) :: rest, ms =>
    let core := corner + 4 * y + x
    if 4 < corner % 4 + w || 4 < corner % 16 / 4 + h || !(coreAt s core).enabled then []
    else putCluster s corner rest (ms.flatMap fun m => ls.filterMap fun l => ((mget m core {}).add l).map fun r => mput m core r)

/-- Some way to put every cluster somewhere. -/
def putGang (s : State) : List (List (Nat × Nat × Nat × Nat × List Load)) → SMap Load → Bool
  | [], _ => true
  | c :: rest, m => (List.range 512).any fun corner => (putCluster s corner c [m]).any fun m => putGang s rest m

/-- The gang cannot be placed even on an idle module (R129): cores, or the images of its context (R255).
Log entry 41. -/
def gangTooBig (s : State) (ts : List TaskE) : Bool :=
  let x := sysVal s (sel 23 ((ts.head?.map fun t => t.ctx).getD 0))
  decide (fld x 48 16 < ts.length) || decide (fld x 38 10 < (dedup (ts.map fun t => t.team)).length)
    || !putGang s (gangClusters s ts) []

/-- A gang that stays unreleased, for not even an idle module could place it: GANG_FIT has gone (R129). Log entry 41. -/
def gangOut (s : State) (g : Nat) : Bool := s.gangStuck.contains g && gangTooBig s (gangTasks s g)

/-- A complete gang goes before this one (R129): they are taken in the order in which they became complete, but for those that can
never be placed. Log entry 41. -/
def gangBehind (s : State) (g : Nat) : Bool :=
  (List.range 256).any fun k => k != g && k != 0 && gangComplete s k && decide (gangAge s k < gangAge s g) && !gangOut s k

/-- The corner core of a team's cluster when the team stands on `core`; none where the rectangle leaves the flask.
Log entry 40. -/
def clusterCorner (l : Launch) (team core : Nat) : Option Nat :=
  let (x, y) := clusterCell l team
  let c := core % 4
  let r := core % 16 / 4
  if x ≤ c && y ≤ r && c - x + l.clw ≤ 4 && r - y + l.clh ≤ 4 then some (16 * (core / 16) + 4 * (r - y) + (c - x)) else none

/-- The places keep each team on one core and each cluster on one rectangle (R104, R115). -/
def placesAgree (s : State) (ps : List (TaskE × Nat × Nat)) : Bool :=
  ps.all fun p =>
    ps.all (fun q => p.1.team != q.1.team || p.2.1 == q.2.1)
      && (match teamOf s p.1.team, (if p.1.grid = 0 then none else gridOf s p.1.grid) with
          | some t, some gr =>
            let corner := clusterCorner gr.launch t.index p.2.1
            corner.isSome && ps.all fun q => match teamOf s q.1.team with
              | some u => q.1.grid != p.1.grid || clusterIdx gr.launch u.index != clusterIdx gr.launch t.index
                  || clusterCorner gr.launch u.index q.2.1 == corner
              | none => true
          | _, _ => true)

/-- Place members one by one: each keeps a slot, registers and scratchpad; none where one does not fit. Log entry 40. -/
def placeAll : List (TaskE × Nat × Nat) → State → Option State
  | [], s => some s
  | (t, core, q) :: rest, s =>
    match teamOf s t.team, pickSlot s core q with
    | some x, some g =>
      if quarterOk t q && groupFits s x core q (taskRegs s t) && fitTier s core q (taskRegs s t) == some .resident then
        let s := modTask s t.ctx t.handle fun t => { t with placed := some g, core := core }
        let image := freeTeamImage s x.ctx
        let s := if x.core.isSome then s else holdPad s x.uid core
        placeAll rest (if x.image.isSome then s else modTeam s x.uid fun x => { x with image := image })
      else none
    | _, _ => none

/-- The request of a placed team for IRES (R129). DESIGN CHOICE (log entry 41): no group issues it, and it ranks with GPRIO 15. -/
def gangRequest (s : State) (g team core : Nat) : Nat × State :=
  request s (coreDomain core)
    { kind := .gang team, ctx := ((teamOf s team).map fun t => t.ctx).getD 0, team := team, prio := 15,
      i15 := fld (gangVal s g) 34 10, dur := 0, gang := true }

/-- GANG_PLACE (R129, steps 1 to 3): `places` gives core and quarter of each member, in the order in which they became
READY; none where the allocator finds no place. Log entry 41. -/
def execGangPlace (gang : Nat) (places : List (Nat × Nat)) (s : State) : Outcome State Fault Refusal :=
  if gang = 0 || 256 ≤ gang then .fault .noUnit
  else if !gangComplete s gang || gangBehind s gang then .next s
  else if (gangWaiting s gang).any fun t => gangShut s gang t.ctx then .next (dropForeign s gang)
  else
    let ts := gangTasks s gang
    if gangTooBig s ts then
      .next (if s.gangStuck.contains gang then s
        else taskNotice { s with gangStuck := gang :: s.gangStuck } 6 (fld (gangVal s gang) 48 8) 0xFFFF 0xFF
          (BitVec.ofNat 64 gang) (BitVec.ofNat 64 (gangMembers s gang)))
    else
      let ps := ts.zip places
      if places.length != ts.length || !placesAgree s ps then .next s
      else match placeAll ps { s with free := s.free + 1 } with
        | none => .next s
        | some s =>
          let s := setSysFld s (sel 21 gang) 0 12 (gangReady s gang - gangMembers s gang)
          let teams := dedup (ts.map fun t => t.team)
          let (rs, s) := teams.foldl (fun (acc : List (Nat × Nat) × State) u =>
            let core := ((ps.find? fun p => p.1.team == u).map fun p => p.2.1).getD 0
            let (id, s) := gangRequest acc.2 gang u core
            (acc.1 ++ [(u, id)], s)) ([], s)
          let g : GangS := { gang := gang, members := ts.map fun t => (t.ctx, t.handle), teams := rs }
          .next { s with gangs := if ts.isEmpty then s.gangs else s.gangs ++ [g],
                         gangStuck := s.gangStuck.filter (fun k => k != gang), gangAt := mdel s.gangAt gang }

/-- The order in which gangs become complete is kept (R129). Log entry 41. -/
def noteGangs (s : State) : State :=
  (dedup ((s.tasks.filter fun t => t.gang != 0).map fun t => t.gang) ++ s.gangAt.map (·.1)).foldl (fun s g =>
    if !gangComplete s g then { s with gangAt := mdel s.gangAt g, gangStuck := s.gangStuck.filter fun k => k != g }
    else if (mget? s.gangAt g).isSome then s
    else { s with gangAt := mput s.gangAt g s.nextUid, nextUid := s.nextUid + 1 }) s

/-- Every team's IRES is live. -/
def gangLive (s : State) (g : GangS) : Bool :=
  g.teams.all fun p => match grantDomain s p.2 with
    | some d => liveAt s d p.2
    | none => false

/-- What a task reads as it starts, its record and the phase record that it names, holds a line that a sub-block has to itself (R175). -/
def startHeld (s : State) (x : TaskE) : Bool :=
  keptHome s && (ctxLocked s x.ctx x.handle 64
    || (let prec := BitVec.ofNat 64 (recField s x.ctx x.handle 0x18 8)
        prec != 0 && ctxLocked s x.ctx prec
          (0x140 + 512 * (carriedV (BitVec.ofNat 64 (recField s x.ctx prec 0x40 8))).length)))

/-- A member of a placed gang, at tick `t` of its release: it starts in the first fabric cycle in which its flask's count has
reached the tick (R40, R129). DESIGN CHOICE (log entry 41): one that cannot start then, for its entry does not admit it (R128),
its context starts no work (R57, R257) or a line of its record is kept (R175), waits for a later tick. -/
def memberStart (g : GangS) (t : Nat) (s : State) (m : Nat × DWord) : State :=
  let hold := fun (s : State) =>
    { s with gangs := s.gangs.map fun q => if q.members == g.members && !q.held.contains m then { q with held := m :: q.held } else q }
  match taskOf s m.1 m.2 with
  | none => s
  | some x => match x.placed with
    | none => s
    | some k =>
      let fl := coreFlask (slotCore k)
      if flaskDrone s fl < t || (g.held.contains m && !atTick s fl (fld (gangVal s g.gang) 44 4)) then s
      else if gangShut s g.gang x.ctx then badGang (hold s) x
      else if ctxOpen s x.ctx && !startHeld s x then startTask s x k .resident else hold s

/-- Members of a release start at its tick. Log entry 41. -/
def gangStart (s : State) (g : GangS) : State :=
  match g.tick with
  | none => s
  | some t => g.members.foldl (memberStart g t) s

/-- Releases of a gang: a tick is set once every reservation is live; members start at it. Log entry 41. -/
def gangGo (s : State) (gang : Nat) : State :=
  let p := 2 ^ (fld (gangVal s gang) 44 4 + 6)
  let tick := fun (g : GangS) =>
    if g.gang == gang && g.tick.isNone && gangLive s g then { g with tick := some (ceilDiv (drone s) p * p) } else g
  let s := { s with gangs := s.gangs.map tick }
  (s.gangs.filter fun g => g.gang == gang).foldl gangStart s

/-- GANG_RELEASE (R40, R129, step 4). Log entry 41. -/
def execGangRelease (gang : Nat) (s : State) : Outcome State Fault Refusal :=
  if gang = 0 || 256 ≤ gang then .fault .noUnit else .next (gangGo s gang)

/-! ### Messages and handler groups (R111 to R114) -/

/-- Why a message is dropped (R74, R113). Log entry 38. -/
def msgBad (s : State) (bs : List Byte) : Option Nat :=
  let ctx := bytesAt bs 1 1
  let h := handlerOf s ctx (bytesAt bs 0 1)
  let core := msgCore s bs
  if !ctxResident s ctx then some 1
  else if !h.valid then some 2
  else if h.regs < 12 || 1024 < h.regs then some 3
  else if 512 ≤ core || !(coreAt s core).enabled then some 4
  else none

/-- BAD_MSG (R74). Log entry 45. -/
def badMsg (s : State) (core : Nat) (bs : List Byte) (cause : Nat) : State :=
  let core := if core < 512 then core else 0xFFFF
  taskNotice s 4 (bytesAt bs 1 1) core (if core < 512 then coreFlask core else 0xFF) (BitVec.ofNat 64 (bytesAt bs 0 8))
    (BitVec.ofNat 64 cause)

/-- Where a message enters and leaves the fabric: the router of a core, two cores to a router; a flue port; a walker (R8, R24).
Log entry 38. -/
def msgRoute (s : State) (m : Msg) : Nat × Option Nat × Nat :=
  (if m.src < 512 then m.src / 2 else m.src, m.port, if m.port.isNone then msgCore s m.bytes / 2 else 0)

/-- A message that only its core's full queue holds back (R113). Log entry 38. -/
def msgFull (s : State) (m : Msg) : Bool :=
  m.port.isNone && (msgBad s m.bytes).isNone && decide (64 ≤ (coreAt s (msgCore s m.bytes)).msgs.length)

/-- `x`, sent before `m`, must arrive before it: both take the same way between routers (R24), or wait in one flue link (R36, R113).
Log entry 38. -/
def msgBefore (s : State) (x m : Msg) : Bool :=
  if msgFull s x && msgCore s x.bytes != msgCore s m.bytes then x.src == m.src && decide (0x10000 ≤ m.src) && decide (m.src < 0x10010)
  else msgRoute s x == msgRoute s m

/-- MESSAGE_ARRIVAL (R24, R36, R37, R111, R113, R114): message `i` reaches its core's queue, or its flue link, which takes it in peer
mode only. Log entry 38. -/
def execMessageArrival (i : Nat) (s : State) : Outcome State Fault Refusal :=
  match s.msgs[i]? with
  | none => .next s
  | some m =>
    let gone := { s with msgs := s.msgs.eraseIdx i }
    if (s.msgs.take i).any fun x => msgBefore s x m then .next s
    else match m.port with
      | some p =>
        if sysFld s (sel 4 p) 4 4 != 1 then .next s else
        let s := if (mget s.ports p {}).retrain then
            { gone with ports := mmod gone.ports p {} fun x => { x with held := x.held ++ [m] } }
          else { gone with ports := mmod gone.ports p {} fun x => { x with seq := x.seq + 1 } }
        .next (opPart s m.op)
      | none =>
        match msgBad s m.bytes with
        | some cause => .next (opPart (badMsg gone (msgCore s m.bytes) m.bytes cause) m.op)
        | none =>
          let core := msgCore s m.bytes
          if 64 ≤ (coreAt s core).msgs.length then .next s
          else .next (opPart (modCore gone core fun c => { c with msgs := c.msgs ++ [m] }) m.op)

/-- Lanes of a handler group. NLANES has values that no group has; the spec gives them no meaning. Log entry 37. -/
def handlerLanes (draw n : Nat) : Nat := if n < 128 then n + 1 else Config.freeNat draw n % 128 + 1

/-- The group of a message starts in a quarter of the core that has room for it (R113, R425). Log entry 38. -/
def spawnHandler (s : State) (core : Nat) (bs : List Byte) : Option State :=
  let ctx := bytesAt bs 1 1
  let h := handlerOf s ctx (bytesAt bs 0 1)
  let (d, s) := draw s
  let (u, s) := freshUid s
  let t : Team := { uid := u, ctx := ctx }
  let qs := (List.range 4).filter fun q => groupFits s t core q h.regs
  match qs[Config.freeNat d 0 % max 1 qs.length]? with
  | none => none
  | some q =>
    match pickSlot s core q, fitTier s core q h.regs with
    | some g, some tier =>
      let n := handlerLanes d (bytesAt bs 3 1)
      let b : Birth := { ctx := ctx, sysT := false, team := u, nlanes := n, regs := h.regs, prio := h.prio, entry := h.entry,
                         noTask := true }
      let s := bear { s with teams := s.teams ++ [t] } g core tier b
      let s := modGroup s g fun x =>
        let x := (List.range 12).foldl (fun x k => (List.range 128).foldl (fun x l =>
          putV x k l (if l = 0 then BitVec.ofNat 32 (bytesAt bs (0x10 + 4 * k) 4) else 0)) x) x
        putS (putS x 0 (BitVec.ofNat 64 (bytesAt bs 0 8))) 1 (BitVec.ofNat 64 (bytesAt bs 8 8))
      some s
    | _, _ => none

/-- HANDLER_SPAWN (R57, R69, R113): the oldest message of the core, or of a context's host queue; of a context that is overdrawn, none
leaves. DESIGN CHOICE (log entry 45): the BAD_MSG notice of a message dropped here names the core of the event, also for a message of
the host, whose DEST may name another. -/
def execHandlerSpawn (core : Nat) (hostCtx : Option Nat) (s : State) : Outcome State Fault Refusal :=
  if 512 ≤ core then .fault .noUnit
  else
    let next := match hostCtx with
      | some c => (mget s.ctxs c {}).hostq.head?
      | none => (coreAt s core).msgs.head?.map fun (m : Msg) => m.bytes
    match next with
    | none => .next s
    | some bs =>
      if isOver s (bytesAt bs 1 1) || hostCtx.any (isOver s) then .next s else
      let popped := match hostCtx with
        | some c =>
          let s := { s with ctxs := mmod s.ctxs c {} fun x => { x with hostq := x.hostq.drop 1 } }
          setSysFld s (sel 17 c) 0 6 (32 - (mget s.ctxs c {}).hostq.length)
        | none => modCore s core fun c => { c with msgs := c.msgs.drop 1 }
      match msgBad s bs with
      | some cause => .next (badMsg popped core bs cause)
      | none =>
        if (hostCtx.isSome && msgCore s bs != core) || !quietStart s (bytesAt bs 1 1) core then .next s
        else .next ((spawnHandler popped core bs).getD s)

end Sys2Proof.Machine
end

