-- ==== Sys2Proof/Machine/Bellows.lean ====
section
/-! DEFINITION. Queue rings and the bellows: QCFG, BLWS, BLWSTOP and the stream's elements (R125 to R127, R373 to R376). -/

namespace Sys2Proof.Machine

open Host

/-- QUEUE_CONFIG with the queue number (R250). -/
def trapQueue (pre : State) (e : Env) (q : BitVec 2) : State := trapAt pre 0x15 e.act 0 (q.setWidth 64)

/-- Registers of a ring. -/
def ringSpan (base depth : Nat) : List Nat := (List.range depth).map (· + base)

/-- Two ranges share a register. -/
def spansMeet (b1 n1 b2 n2 : Nat) : Bool := decide (b1 < b2 + n2) && decide (b2 < b1 + n1)

/-- QCFG (R125, R373). Log entry 16. -/
def execQcfg (h : Hdr) (q : BitVec 2) (rbase depth : SImm) (s : State) : Outcome State Fault Refusal :=
  gate { h := h, once := true, mem := true } s fun e pre post =>
    let base := (e.simm rbase).toNat
    let n := (e.simm depth).toNat
    let r := ringOf e.grp q.toNat
    let others := e.grp.q.filter fun p => p.1 != q.toNat && p.2.conf
    if r.stream.isSome || 256 < n then trapQueue pre e q
    else if n = 0 then
      let off := fun (x : Group) =>
        { markFull (if r.conf then ringSpan r.rbase r.depth else []) x with q := mput x.q q.toNat {} }
      atOnce (modGroup post e.g off) e h
    else if regCount e.grp < base + n || others.any (fun p => spansMeet base n p.2.rbase p.2.depth) then trapQueue pre e q
    else
      let on := fun (x : Group) =>
        { markEmpty (ringSpan base n) x with q := mput x.q q.toNat { rbase := base, depth := n, conf := true } }
      atOnce (modGroup post e.g on) e h

/-- The stream that a descriptor names (R374). -/
def streamOf (e : Env) (t : Ty) (sg : Sig) (bs : List Byte) : Stream :=
  let counts := (List.range 4).map fun i => recNat bs (0x10 + 4 * i) 4
  { ty := t, base := recD bs 0, lstride := recD bs 8, counts := counts,
    strides := (List.range 4).map fun i => recD bs (0x20 + 8 * i), n := counts.foldl (· * ·) 1, k := 0, sig := sg,
    word := e.pc, req := 0 }

/-- Put a ring of a group. -/
def putRing (s : State) (g q : Nat) (f : Ring → Ring) : State :=
  modGroup s g fun x => { x with q := mput x.q q (f (ringOf x q)) }

/-- BLWS (R127, R375): the record is checked first, then the extent, then the ring. Log entry 33. -/
def execBlws (h : Hdr) (t : Ty) (q : BitVec 2) (sa : BitVec 6) (s : State) : Outcome State Fault Refusal :=
  gate { h := h, once := true, mem := true } s fun e pre post => afterDrain e pre post fun s =>
    match readRec s e (e.s sa.toNat) 64 64 with
    | (.bad code addr aux, _) => trapAt pre code e.act addr aux
    | (.held, _) => pre
    | (.nonres, s) => modGroup s e.g fun x =>
        if h.set.toNat < 12 then setFlag x h.set.toNat (flagOf x h.set.toNat - 1) else x
    | (.ok bs, s) =>
      let st := streamOf e t (sigOf e.grp.uid h.set) bs
      let r := ringOf e.grp q.toNat
      if 2 ^ 48 < st.n then trapReserved pre e.act
      else if !r.conf || r.stream.isSome || r.head != r.tail then trapQueue pre e q
      else if st.n = 0 then atOnce (putRing s e.g q.toNat fun r => { r with head := 0, tail := 0 }) e h
      else
        let d := coreDomain e.core
        let team := myTeam s e
        let (id, s) := request s d
          { kind := .stream e.grp.uid q.toNat, ctx := e.grp.ctx, team := team.uid, prio := e.grp.prio.toNat, i15 := 2,
            dur := cycleTime s (coreFlask e.core) (st.n * 128 * t.size) 512, gang := team.gang != 0 }
        putRing s e.g q.toNat fun r => { r with head := 0, tail := 0, stream := some { st with req := id } }

/-- A stream ends: its flag falls. The reservation of one that has completed passes on; otherwise it is released (R52,
R376). -/
def endStream (s : State) (g q : Nat) (completed : Bool) : State :=
  match (groupAt s g).bind fun x => (ringOf x q).stream with
  | none => s
  | some st =>
    let d := coreDomain (slotCore g)
    let s := putRing s g q fun r => { r with stream := none }
    fall (if completed then passOn s d st.req else endGrant s d st.req) st.sig

/-- BLWSTOP (R376). -/
def execBlwstop (h : Hdr) (q : BitVec 2) (s : State) : Outcome State Fault Refusal :=
  gate { h := h, once := true, mem := true } s fun e pre post =>
    if !(ringOf e.grp q.toNat).conf then trapQueue pre e q
    else atOnce (endStream post e.g q.toNat false) e h

/-- Address of element `k` of lane `l` (R375). -/
def elementVa (st : Stream) (k l : Nat) : DWord :=
  let c := fun i => st.counts.getD i 1
  let idx := [k % c 0, k / c 0 % c 1, k / (c 0 * c 1) % c 2, k / (c 0 * c 1 * c 2)]
  (idx.zip st.strides).foldl (fun a p => a + BitVec.ofNat 64 p.1 * p.2) (st.base + BitVec.ofNat 64 l * st.lstride)

/-- The bytes of the next element of each lane. Log entry 33. -/
def elementRead (p : Party) (st : Stream) (s : State) : List (List EngB) × Met × State :=
  (List.range 128).foldl (fun (acc : List (List EngB) × Met × State) l =>
    let (bs, m, s) := engRead p (elementVa st st.k l) st.ty.size acc.2.1 acc.2.2
    (acc.1 ++ [bs], m, s)) ([], {}, s)

/-- The elements in register `reg`; a poisoned one reads as a free value (R187). -/
def elementPut (st : Stream) (vals : List (List EngB)) (d reg : Nat) (y : Group) : Group :=
  (List.range 128).foldl (fun y l =>
    let bs := vals.getD l []
    let w := BitVec.ofNat 32 (loadPat st.ty (bs.map (·.b)))
    putV y reg l (if bs.any (·.bad.isSome) then Config.freeWord d l else w)) y

/-- BELLOWS_ELEMENT (R125, R375): one element of every lane, or what stops the stream there. The stream of a group that has been killed
runs on with no ring to fill (R54, R155). Log entry 33. -/
def execBellowsElement (g : Nat) (q : BitVec 2) (s : State) : Outcome State Fault Refusal :=
  match groupAt s g with
  | none => .next s
  | some x =>
    let r := ringOf x q.toNat
    match r.stream with
    | none => .next s
    | some st =>
      let core := slotCore g
      if !liveAt s (coreDomain core) st.req || st.halted.isSome || (!x.done && r.depth ≤ r.tail - r.head) then .next s
      else
        let p : Party := { core := core, ctx := x.ctx, sysT := x.sysT, slot := g % 64, no := st.no }
        let t := s
        let (d, s) := draw s
        let (vals, m, s) := elementRead p st s
        if m.lock then .next t
        else match m.fault with
        | some a =>
          .next (deferCause (endStream s g q.toNat false) x.uid { code := 0x18, lanes := aliveLanes x, addr := a, origin := st.word })
        | none =>
          match m.miss.find? fun y => !st.refused.contains y.1 with
          | some y =>
            let s := residNotice s 5 0 x.ctx 0 core (g % 64) y.2.1
            .next (putRing s g q.toNat fun r => { r with stream := some { st with halted := some y.1 } })
          | none =>
            let reg := r.rbase + st.k % max 1 r.depth
            let s := modGroup s g fun y => markFull [reg] (elementPut st vals d reg y)
            let s := putRing s g q.toNat fun r => { r with tail := r.tail + 1, stream := some { st with k := st.k + 1 } }
            let s := match m.poison with
              | some line => deferCause s x.uid
                  { code := 0x0E, lanes := aliveLanes x, aux := linePa line, origin := st.word }
              | none => s
            .next (if st.k + 1 = st.n then endStream s g q.toNat true else s)

/-- The kernel has answered for the page on which a stream halted (R375): it goes on, or its bytes there read as zero.
Log entry 33. -/
def resumeStream (s : State) (g q : Nat) (mapped : Bool) : State :=
  match (groupAt s g).bind fun x => (ringOf x q).stream with
  | none => s
  | some st =>
    match st.halted with
    | none => s
    | some page => putRing s g q fun r => { r with stream := some { st with
        halted := none, refused := if mapped then st.refused else page :: st.refused } }

end Sys2Proof.Machine
end

