-- ==== Sys2Proof/Machine/Integer.lean ====
section
/-! DEFINITION. Integer instructions, class 0x1 (R314 to R320). -/

namespace Sys2Proof.Machine

open Host

/-- `fit` of R313: clamp with SAT, else wrap; a pattern extended to 64 bits by the signedness of the type (R296, R336).
Log entry 11. -/
def fit (t : Ty) (sat : Bool) (x : Int) : Nat := patOf (if sat then clampTo t x else intOf t (patOf x))

/-- An integer source in a lane (R315). -/
def Env.int (e : Env) (t : Ty) (x : Src) (l : Nat) : Int := intOf t (e.num t.wide x l)

/-- A C register as an integer. -/
def Env.cint (e : Env) (t : Ty) (n : BitVec 10) (l : Nat) : Int := intOf t (e.cnum t.wide n l)

/-- Operands `d, a, b` of one type. -/
def info2 (h : Hdr) (t : Ty) (d : Reg) (a b : Src) : Info := infoOf h d t.wide (some (a, t.wide)) (some (b, t.wide)) []

/-- Operands `d, a, b, vc` of one type. -/
def info3 (h : Hdr) (t : Ty) (d : Reg) (a b : Src) (c : BitVec 10) : Info :=
  infoOf h d t.wide (some (a, t.wide)) (some (b, t.wide)) (pairRegs t.wide c)

/-- Operands `d, a`. -/
def info1 (h : Hdr) (t : Ty) (d : Reg) (a : Src) : Info := infoOf h d t.wide (some (a, t.wide)) none []

/-- Two integer operands (R315). -/
def intBin (h : Hdr) (t : Ty) (d : Reg) (a b : Src) (lat : Nat) (f : Int → Int → Nat) (s : State) :
    Outcome State Fault Refusal :=
  intOp (info2 h t d a b) d t.wide lat (fun e l => f (e.int t a l) (e.int t b l)) s

/-- Three integer operands (R315). -/
def intTri (h : Hdr) (t : Ty) (d : Reg) (a b : Src) (c : BitVec 10) (lat : Nat) (f : Int → Int → Int → Nat) (s : State) :
    Outcome State Fault Refusal :=
  intOp (info3 h t d a b c) d t.wide lat (fun e l => f (e.int t a l) (e.int t b l) (e.cint t c l)) s

/-- IADD (R315). -/
def execIadd (h : Hdr) (t : Ty) (sat : Bool) (d : Reg) (a b : Src) (s : State) : Outcome State Fault Refusal :=
  intBin h t d a b 6 (fun x y => fit t sat (x + y)) s

/-- ISUB (R315). -/
def execIsub (h : Hdr) (t : Ty) (sat : Bool) (d : Reg) (a b : Src) (s : State) : Outcome State Fault Refusal :=
  intBin h t d a b 6 (fun x y => fit t sat (x - y)) s

/-- The carry chains of R316: result and carry out of a lane. -/
def carryOp (sub : Bool) (t : Ty) (a b : Nat) (cin : Bool) : Nat × Bool :=
  let w := 2 ^ t.bits
  let a := a % w
  let b := b % w
  let c := if cin then 1 else 0
  if sub then (fit t false ((a : Int) - b - c), decide (a < b + c)) else (fit t false ((a : Int) + b + c), decide (w ≤ a + b + c))

/-- IADDC and ISUBB (R316). With an s destination the carry in is that of the lowest lane whose guard is true.
Log entry 11. -/
def carryExec (sub : Bool) (h : Hdr) (t : Ty) (d : Reg) (a b : Src) (pk : BitVec 3) (s : State) :
    Outcome State Fault Refusal :=
  gate (info2 h t d a b) s fun e _ post =>
    let cin := fun (l : Nat) => e.p pk.toNat l
    let res := fun (l : Nat) => match d with
      | .v _ => carryOp sub t (e.num t.wide a l) (e.num t.wide b l) (cin l)
      | .s _ => carryOp sub t (e.num t.wide a oneLane) (e.num t.wide b oneLane) (cin ((lowLane e.act).getD 0))
    let s := writeD post e d t.wide 6 fun l => (res l).1
    fixTail (writeP s e pk.toNat 6 fun l => (res l).2) e h 6 0

/-- IADDC (R316). -/
def execIaddc (h : Hdr) (t : Ty) (d : Reg) (a b : Src) (pk : BitVec 3) (s : State) : Outcome State Fault Refusal :=
  carryExec false h t d a b pk s

/-- ISUBB (R316). -/
def execIsubb (h : Hdr) (t : Ty) (d : Reg) (a b : Src) (pk : BitVec 3) (s : State) : Outcome State Fault Refusal :=
  carryExec true h t d a b pk s

/-- IMUL (R315). -/
def execImul (h : Hdr) (t : Ty) (sat : Bool) (d : Reg) (a b : Src) (s : State) : Outcome State Fault Refusal :=
  intBin h t d a b 10 (fun x y => fit t sat (x * y)) s

/-- IMULH (R317). -/
def execImulh (h : Hdr) (t : Ty) (d : Reg) (a b : Src) (s : State) : Outcome State Fault Refusal :=
  intBin h t d a b 10 (fun x y => fit t false (x * y / (2 ^ t.bits : Nat))) s

/-- IMAD (R315). -/
def execImad (h : Hdr) (t : Ty) (sat : Bool) (d : Reg) (a b : Src) (c : BitVec 10) (s : State) : Outcome State Fault Refusal :=
  intTri h t d a b c 10 (fun x y z => fit t sat (x * y + z)) s

/-- Quotient and remainder (R318, R210). -/
def divRem (t : Ty) (a b : Int) : Int × Int :=
  if b = 0 then (if t.signed then -1 else ((2 ^ t.bits : Nat) : Int) - 1, a)
  else if t.signed && a = (intRange t).1 && b = -1 then (a, 0)
  else (Int.tdiv a b, Int.tmod a b)

/-- IDIV (R318). -/
def execIdiv (h : Hdr) (t : Ty) (d : Reg) (a b : Src) (s : State) : Outcome State Fault Refusal :=
  varOp (info2 h t d a b) d t.wide (fun e l => (fit t false (divRem t (e.int t a l) (e.int t b l)).1, 0)) s

/-- IREM (R318). -/
def execIrem (h : Hdr) (t : Ty) (d : Reg) (a b : Src) (s : State) : Outcome State Fault Refusal :=
  varOp (info2 h t d a b) d t.wide (fun e l => (fit t false (divRem t (e.int t a l) (e.int t b l)).2, 0)) s

/-- IMIN (R315). -/
def execImin (h : Hdr) (t : Ty) (d : Reg) (a b : Src) (s : State) : Outcome State Fault Refusal :=
  intBin h t d a b 6 (fun x y => fit t false (if x < y then x else y)) s

/-- IMAX (R315). -/
def execImax (h : Hdr) (t : Ty) (d : Reg) (a b : Src) (s : State) : Outcome State Fault Refusal :=
  intBin h t d a b 6 (fun x y => fit t false (if y < x then x else y)) s

/-- IABS (R319). -/
def execIabs (h : Hdr) (t : Ty) (sat : Bool) (d : Reg) (a : Src) (s : State) : Outcome State Fault Refusal :=
  intOp (info1 h t d a) d t.wide 6 (fun e l => fit t sat ((e.int t a l).natAbs : Int)) s

/-- INEG (R319). -/
def execIneg (h : Hdr) (t : Ty) (sat : Bool) (d : Reg) (a : Src) (s : State) : Outcome State Fault Refusal :=
  intOp (info1 h t d a) d t.wide 6 (fun e l => fit t sat (-(e.int t a l))) s

/-- The accumulator's type of a dot product (R320). -/
def dotAcc (t : Ty) : Ty := if t.signed then .s32 else .z32

/-- Sum of products of `n` packed elements of `w` bits (R320). -/
def dotSum (t : Ty) (n : Nat) (a b : Nat) : Int :=
  (List.range n).foldl (fun acc i => acc + intOf t (a / 2 ^ (t.bits * i)) * intOf t (b / 2 ^ (t.bits * i))) 0

/-- IDP4 and IDP2 (R320): all operands are 32-bit. -/
def dotExec (n : Nat) (h : Hdr) (t : Ty) (sat : Bool) (d : Reg) (a b : Src) (c : BitVec 10) (s : State) :
    Outcome State Fault Refusal :=
  intOp (infoOf h d false (some (a, false)) (some (b, false)) [c.toNat]) d false 10
    (fun e l => fit (dotAcc t) sat (intOf (dotAcc t) (e.cnum false c l) + dotSum t n (e.num false a l) (e.num false b l))) s

/-- IDP4 (R320). -/
def execIdp4 (h : Hdr) (t : Ty) (sat : Bool) (d : Reg) (a b : Src) (c : BitVec 10) (s : State) : Outcome State Fault Refusal :=
  dotExec 4 h t sat d a b c s

/-- IDP2 (R320). -/
def execIdp2 (h : Hdr) (t : Ty) (sat : Bool) (d : Reg) (a b : Src) (c : BitVec 10) (s : State) : Outcome State Fault Refusal :=
  dotExec 2 h t sat d a b c s

/-- IADD3 (R315). -/
def execIadd3 (h : Hdr) (t : Ty) (sat : Bool) (d : Reg) (a b : Src) (c : BitVec 10) (s : State) : Outcome State Fault Refusal :=
  intTri h t d a b c 6 (fun x y z => fit t sat (x + y + z)) s

end Sys2Proof.Machine
end

