-- ==== Sys2Proof/Machine/Bits.lean ====
section
/-! DEFINITION. Bit instructions, class 0x2 (R321 to R327). -/

namespace Sys2Proof.Machine

open Host

/-- Two operands as unsigned numbers of the type's width, a 6-cycle result. -/
def bitBin (h : Hdr) (t : Ty) (d : Reg) (a b : Src) (lat : Nat) (f : Nat → Nat → Nat) (s : State) :
    Outcome State Fault Refusal :=
  intOp (info2 h t d a b) d t.wide lat (fun e l => f (e.num t.wide a l) (e.num t.wide b l) % 2 ^ t.bits) s

/-- AND (R322). -/
def execAnd (h : Hdr) (t : Ty) (d : Reg) (a b : Src) (s : State) : Outcome State Fault Refusal :=
  bitBin h t d a b 6 (fun x y => x &&& y) s

/-- OR (R322). -/
def execOr (h : Hdr) (t : Ty) (d : Reg) (a b : Src) (s : State) : Outcome State Fault Refusal :=
  bitBin h t d a b 6 (fun x y => x ||| y) s

/-- XOR (R322). -/
def execXor (h : Hdr) (t : Ty) (d : Reg) (a b : Src) (s : State) : Outcome State Fault Refusal :=
  bitBin h t d a b 6 (fun x y => x ^^^ y) s

/-- Complement in `w` bits. -/
def notBits (w x : Nat) : Nat := 2 ^ w - 1 - x % 2 ^ w

/-- ANDN (R322). -/
def execAndn (h : Hdr) (t : Ty) (d : Reg) (a b : Src) (s : State) : Outcome State Fault Refusal :=
  bitBin h t d a b 6 (fun x y => x &&& notBits t.bits y) s

/-- NOT (R322). -/
def execNot (h : Hdr) (t : Ty) (d : Reg) (a : Src) (s : State) : Outcome State Fault Refusal :=
  intOp (info1 h t d a) d t.wide 6 (fun e l => notBits t.bits (e.num t.wide a l)) s

/-- Bits chosen by a table at each position (R322). -/
def mix3 (w : Nat) (tbl : BitVec 8) (a b c : Nat) : Nat :=
  (List.range w).foldl (fun acc i =>
    let k := a / 2 ^ i % 2 + 2 * (b / 2 ^ i % 2) + 4 * (c / 2 ^ i % 2)
    if tbl.getLsbD k then acc + 2 ^ i else acc) 0

/-- BMIX3 (R322). -/
def execBmix3 (h : Hdr) (t : Ty) (d : Reg) (a b : Src) (c : BitVec 10) (tbl : BitVec 8) (s : State) :
    Outcome State Fault Refusal :=
  intOp (info3 h t d a b c) d t.wide 6
    (fun e l => mix3 t.bits tbl (e.num t.wide a l) (e.num t.wide b l) (e.cnum t.wide c l)) s

/-- A shift or rotate: the count is B[31:0], unsigned (R323). -/
def shiftExec (h : Hdr) (t : Ty) (d : Reg) (a b : Src) (f : Nat → Nat → Nat) (s : State) : Outcome State Fault Refusal :=
  intOp (infoOf h d t.wide (some (a, t.wide)) (some (b, false)) []) d t.wide 6
    (fun e l => f (e.num t.wide a l) (e.num false b l)) s

/-- SHL (R323). -/
def execShl (h : Hdr) (t : Ty) (d : Reg) (a b : Src) (s : State) : Outcome State Fault Refusal :=
  shiftExec h t d a b (fun x n => if t.bits ≤ n then 0 else x * 2 ^ n % 2 ^ t.bits) s

/-- SHR (R323). -/
def execShr (h : Hdr) (t : Ty) (d : Reg) (a b : Src) (s : State) : Outcome State Fault Refusal :=
  shiftExec h t d a b (fun x n => if t.bits ≤ n then 0 else x / 2 ^ n) s

/-- SAR (R323): sign fill. -/
def execSar (h : Hdr) (t : Ty) (d : Reg) (a b : Src) (s : State) : Outcome State Fault Refusal :=
  shiftExec h t d a b (fun x n => fit t false (intOf t x / (2 ^ min n t.bits : Nat))) s

/-- A rotation right by `k` below the width. -/
def rotRight (w x k : Nat) : Nat := (x / 2 ^ k + x * 2 ^ (w - k)) % 2 ^ w

/-- ROTL (R323). -/
def execRotl (h : Hdr) (t : Ty) (d : Reg) (a b : Src) (s : State) : Outcome State Fault Refusal :=
  shiftExec h t d a b (fun x n => rotRight t.bits x ((t.bits - n % t.bits) % t.bits)) s

/-- ROTR (R323). -/
def execRotr (h : Hdr) (t : Ty) (d : Reg) (a b : Src) (s : State) : Outcome State Fault Refusal :=
  shiftExec h t d a b (fun x n => rotRight t.bits x (n % t.bits)) s

/-- DSHR (R323): the count is one 32-bit register of any number. -/
def execDshr (h : Hdr) (t : Ty) (d : Reg) (a b : Src) (c : BitVec 10) (s : State) : Outcome State Fault Refusal :=
  intOp (infoOf h d t.wide (some (a, t.wide)) (some (b, t.wide)) [c.toNat]) d t.wide 6
    (fun e l => (e.num t.wide a l * 2 ^ t.bits + e.num t.wide b l) / 2 ^ (e.cnum false c l % t.bits) % 2 ^ t.bits) s

/-- One bits below position `w` (R324). -/
def onesCount (w x : Nat) : Nat := (List.range w).foldl (fun acc i => acc + x / 2 ^ i % 2) 0

/-- Zero bits below the lowest one bit (R324). -/
def ctzCount (w x : Nat) : Nat := ((List.range w).find? fun i => x / 2 ^ i % 2 == 1).getD w

/-- A count of a source, 32 bits wide (R324). -/
def countExec (h : Hdr) (t : Ty) (d : Reg) (a : Src) (f : Nat → Nat) (s : State) : Outcome State Fault Refusal :=
  intOp (infoOf h d false (some (a, t.wide)) none []) d false 6 (fun e l => f (e.num t.wide a l)) s

/-- ONES (R324). -/
def execOnes (h : Hdr) (t : Ty) (d : Reg) (a : Src) (s : State) : Outcome State Fault Refusal :=
  countExec h t d a (onesCount t.bits) s

/-- CLZ (R324). -/
def execClz (h : Hdr) (t : Ty) (d : Reg) (a : Src) (s : State) : Outcome State Fault Refusal :=
  countExec h t d a (fun x => t.bits - bitLen x) s

/-- CTZ (R324). -/
def execCtz (h : Hdr) (t : Ty) (d : Reg) (a : Src) (s : State) : Outcome State Fault Refusal :=
  countExec h t d a (ctzCount t.bits) s

/-- Bits in the reverse order (R324). -/
def revBits (w x : Nat) : Nat := (List.range w).foldl (fun acc i => acc + x / 2 ^ i % 2 * 2 ^ (w - 1 - i)) 0

/-- BREV (R324). -/
def execBrev (h : Hdr) (t : Ty) (d : Reg) (a : Src) (s : State) : Outcome State Fault Refusal :=
  intOp (info1 h t d a) d t.wide 6 (fun e l => revBits t.bits (e.num t.wide a l)) s

/-- The field of a control value, cut at the top bit (R325): position and length, none for an empty field. -/
def fieldOf (w ctl : Nat) : Option (Nat × Nat) :=
  let pos := ctl % 256
  let len := ctl / 256 % 256
  if len = 0 || w ≤ pos then none else some (pos, min len (w - pos))

/-- FXTR on numbers (R325). -/
def fieldExtract (t : Ty) (a ctl : Nat) : Nat :=
  match fieldOf t.bits ctl with
  | none => 0
  | some (pos, n) =>
    let f := a / 2 ^ pos % 2 ^ n
    if t.signed then patOf (sextNat n f) else f

/-- FINS on numbers (R325). -/
def fieldInsert (w a c ctl : Nat) : Nat :=
  match fieldOf w ctl with
  | none => c
  | some (pos, n) => c - c / 2 ^ pos % 2 ^ n * 2 ^ pos + a % 2 ^ n * 2 ^ pos

/-- FXTR (R325). -/
def execFxtr (h : Hdr) (t : Ty) (d : Reg) (a b : Src) (s : State) : Outcome State Fault Refusal :=
  shiftExec h t d a b (fieldExtract t) s

/-- FINS (R325). -/
def execFins (h : Hdr) (t : Ty) (d : Reg) (a b : Src) (c : BitVec 10) (s : State) : Outcome State Fault Refusal :=
  intOp (infoOf h d t.wide (some (a, t.wide)) (some (b, false)) (pairRegs t.wide c)) d t.wide 6
    (fun e l => fieldInsert t.bits (e.num t.wide a l) (e.cnum t.wide c l) (e.num false b l)) s

/-- Product without carries (R326). -/
def clProduct (w a b : Nat) : Nat :=
  (List.range w).foldl (fun acc i => if b / 2 ^ i % 2 = 1 then acc ^^^ (a * 2 ^ i) else acc) 0

/-- CLMUL (R326). -/
def execClmul (h : Hdr) (t : Ty) (d : Reg) (a b : Src) (s : State) : Outcome State Fault Refusal :=
  bitBin h t d a b 10 (clProduct t.bits) s

/-- CLMULH (R326). -/
def execClmulh (h : Hdr) (t : Ty) (d : Reg) (a b : Src) (s : State) : Outcome State Fault Refusal :=
  bitBin h t d a b 10 (fun x y => clProduct t.bits x y / 2 ^ t.bits) s

/-- Bytes chosen by selectors (R327): `prev` is the byte below. -/
def bselGo (a b c : Nat) : Nat → Nat → Nat → List Nat
  | 0, _, _ => []
  | k + 1, i, prev =>
    let f := c / 2 ^ (4 * i) % 16
    let y := if f ≤ 3 then a / 2 ^ (8 * f) % 256
      else if f ≤ 7 then b / 2 ^ (8 * (f - 4)) % 256
      else if f = 9 then 255
      else if f = 10 then (if i ≠ 0 && 128 ≤ prev then 255 else 0)
      else 0
    y :: bselGo a b c k (i + 1) y

/-- BSEL on numbers (R327). -/
def byteSelect (a b c : Nat) : Nat := (bselGo a b c 4 0 0).foldr (fun y acc => y + 256 * acc) 0

/-- BSEL (R327). -/
def execBsel (h : Hdr) (d : Reg) (a b : Src) (c : BitVec 10) (s : State) : Outcome State Fault Refusal :=
  intOp (info3 h .z32 d a b c) d false 6 (fun e l => byteSelect (e.num false a l) (e.num false b l) (e.cnum false c l)) s

end Sys2Proof.Machine
end

