-- ==== Sys2Proof/Machine/Control.lean ====
section
/-! DEFINITION. Branches, exit, rejoin masks, yields, software traps and user interrupts, class 0x0 (R283, R285, R287 to
R295). -/

namespace Sys2Proof.Machine

open Host

/-- NOP (R289). -/
def execNop (h : Hdr) (s : State) : Outcome State Fault Refusal := gate { h := h } s fun _ _ post => post

/-- Lanes by the word that each goes to. -/
def byTarget (f : Nat → Pc) (ls : List Nat) : List (Pc × LaneMask) :=
  ls.foldl (fun acc l =>
    let t := f l
    if acc.any (fun p => p.1 == t) then acc.map fun p => if p.1 == t then (t, p.2 ||| laneBit l) else p
    else acc ++ [(t, laneBit l)]) []

/-- A branch by an offset (R272, R287). -/
def relBranch (h : Hdr) (off : BitVec 32) (s : State) (act : Env → State → State) (vw : List Nat) :
    Outcome State Fault Refusal :=
  let i : Info := { h := h, vw := vw }
  gateTo i s (splitTo i (fun e => e.pc + off) (fun _ => .run)) fun e _ post => act e post

/-- BRA (R287). -/
def execBra (h : Hdr) (off : BitVec 32) (s : State) : Outcome State Fault Refusal :=
  relBranch h off s (fun e s => atOnce s e h) []

/-- An indirect branch (R287): a scalar gives every lane one target. -/
def indBranch (h : Hdr) (a : Reg) (s : State) : Outcome State Fault Refusal :=
  let src : Src := match a with
    | .v n => .v n
    | .s n => .s n
  gateTo { h := h, a := some (src, false) } s
    (fun e =>
      let out := (nextPc e.pc h.sp, Wait.run, e.lanes &&& ~~~ e.act)
      match a with
      | .s n => [((e.s n.toNat).setWidth 32, .run, e.act), out]
      | .v n => ((byTarget (fun l => e.v n.toNat l) (lanesOf e.act)).map fun p => (p.1, .run, p.2)) ++ [out])
    fun e _ post => atOnce post e h

/-- BRX (R287). -/
def execBrx (h : Hdr) (a : Reg) (s : State) : Outcome State Fault Refusal := indBranch h a s

/-- RET (R287). -/
def execRet (h : Hdr) (a : Reg) (s : State) : Outcome State Fault Refusal := indBranch h a s

/-- K, the link register of the group that issues (R287). -/
def linkReg (s : State) : Nat :=
  match s.cur with
  | none => 0
  | some c => match groupAt s c.g with
    | none => 0
    | some x => regCount x - 1

/-- CALL (R287): the link write is in the 6-cycle class (R284). -/
def execCall (h : Hdr) (off : BitVec 32) (s : State) : Outcome State Fault Refusal :=
  let k := linkReg s
  relBranch h off s (fun e s =>
    fixTail (modGroup s e.g (fixLanes (e.cyc + 6) k (fun _ => nextPc e.pc h.sp) (lanesOf e.act))) e h 6 0) [k]

/-- EXIT (R143, R154, R288): before the last lanes go, the group's release at dev scope is complete (R95). -/
def execExit (h : Hdr) (s : State) : Outcome State Fault Refusal :=
  gate { h := h } s fun e pre post =>
    if aliveLanes e.grp &&& ~~~ e.act = 0 then
      afterRelease e pre post .dev fun s => exitLanes (atOnce s e h) e.g e.act
    else exitLanes (atOnce post e h) e.g e.act

/-- Change a rejoin register, then test its join (R142, R292). -/
def setJoin (s : State) (e : Env) (k : BitVec 3) (f : Join → Join) : State :=
  modGroup s e.g fun x => joinStep e.cyc { x with j := mmod x.j k.toNat {} f } k.toNat

/-- RJSET (R292). -/
def execRjset (h : Hdr) (k : BitVec 3) (s : State) : Outcome State Fault Refusal :=
  gate { h := h } s fun e _ post => atOnce (setJoin post e k fun j => { j with mask := j.mask ||| e.act }) e h

/-- RJCLR (R292). -/
def execRjclr (h : Hdr) (k : BitVec 3) (s : State) : Outcome State Fault Refusal :=
  gate { h := h } s fun e _ post =>
    atOnce (setJoin post e k fun j => { mask := j.mask &&& ~~~ e.act, arrived := j.arrived &&& ~~~ e.act }) e h

/-- The join on jk completes at an RJOIN that finds MASK empty, which ends the watchdog's count too (R142, R145). -/
def emptyJoin (e : Env) (k : Nat) (x : Group) : Group :=
  if e.act != 0 && (mget e.grp.j k {}).mask == 0 then { x with stall := 0 } else x

/-- RJOIN (R141, R142, R292): lanes of MASK arrive and wait at the next word, the others pass. -/
def execRjoin (h : Hdr) (k : BitVec 3) (s : State) : Outcome State Fault Refusal :=
  gateTo { h := h } s
    (fun e =>
      let m := (mget e.grp.j k.toNat {}).mask &&& e.act
      let n := nextPc e.pc h.sp
      [(n, .join k, m), (n, .run, e.lanes &&& ~~~ m)])
    fun e _ post =>
      let post := modGroup post e.g (emptyJoin e k.toNat)
      atOnce (setJoin post e k fun j => { j with arrived := j.arrived ||| (j.mask &&& e.act) }) e h

/-- YIELD (R290): the path is not ready for `n` compute cycles after this one. Log entry 23. -/
def execYield (h : Hdr) (n : BitVec 10) (s : State) : Outcome State Fault Refusal :=
  gate { h := h, once := true } s fun e _ post =>
    let wait := fun (p : Path) => if p.lanes &&& e.lanes != 0 then { p with ready := e.cyc + n.toNat + 1 } else p
    atOnce (modGroup post e.g fun x => { x with paths := x.paths.map wait }) e h

/-- WAITF (R291): what it waits for is its WAIT, at the gate. -/
def execWaitf (h : Hdr) (s : State) : Outcome State Fault Refusal :=
  gate { h := h, once := true } s fun e _ post => atOnce post e h

/-- TRAP (R293): SOFTWARE, of the after kind. -/
def execTrap (h : Hdr) (a : SImm) (s : State) : Outcome State Fault Refusal :=
  gate { h := h, once := true } s fun e _ post =>
    takeTrap (atOnce post e h) e.g { code := 0x09, lanes := e.act, aux := e.simm a } (nextPc e.pc h.sp)

/-- BKPT (R156, R293): BREAKPOINT, of the at kind. -/
def execBkpt (h : Hdr) (s : State) : Outcome State Fault Refusal :=
  gate { h := h, once := true } s fun e pre _ =>
    trapAt (modGroup pre e.g fun x => { x with bkptSp := h.sp }) 0x0A e.act 0 0xFF

/-- UIVEC (R294). Log entry 25. -/
def execUivec (h : Hdr) (a : SImm) (s : State) : Outcome State Fault Refusal :=
  gate { h := h, once := true } s fun e pre post =>
    if 0xFFFF < (e.simm a).toNat then trapAt pre 0x18 e.act 0 0
    else atOnce (modGroup post e.g fun x => { x with uiVec := (e.simm a).setWidth 16 }) e h

/-- UIRET (R275, R295): the issuing lanes park until every lane of the handler set has parked or exited.
Log entries 16 and 25. -/
def execUiret (h : Hdr) (s : State) : Outcome State Fault Refusal :=
  let i : Info := { h := h, bad := (curGroup s).any fun x => !x.uiAct }
  gateTo i s (splitTo i (fun e => e.pc) (fun _ => .uiret)) fun e _ post => atOnce (modGroup post e.g uiCheck) e h

end Sys2Proof.Machine
end

