-- ==== Sys2Proof/Machine/Fabric.lean ====
section
/-! DEFINITION. The events of replication and of write-backs (R31 to R34, R159). -/

namespace Sys2Proof.Machine

open Host

/-- A replication window of 2^WIN microseconds begins in this fabric cycle, once (R32): every entry's count and W clear. -/
def windowBegins (s : State) (fl : Nat) : State :=
  if (flaskAt s fl).winAt == s.fab + 1 || !passes s fl (2 ^ sysFld s (sel 3 fl) 28 4 * 1000) then s
  else modFlask s fl fun f =>
    { f with dir := f.dir.map fun p => (p.1, { p.2 with count := 0, w := false }), winAt := s.fab + 1 }

/-- REPLICATION_WINDOW (R32). -/
def execReplicationWindow (fl : Nat) (s : State) : Outcome State Fault Refusal :=
  if 32 ≤ fl then .fault .noUnit else .next (windowBegins s fl)

/-- REMOTE_READ (R32, R33): a weak read from flask `fl` of the line at physical key `pa` reaches its home.
Log entry 31. -/
def execRemoteRead (fl pa : Nat) (s : State) : Outcome State Fault Refusal :=
  if 32 ≤ fl then .fault .noUnit
  else if !frameOk s pa || homeFlask pa == fl then .next s
  else .next (serveWeak s fl 256 (lineFor s 0 (keyLine pa)).key (keyLine pa)).2

/-- REPLICA_FILL (R33): fill `i` installs its replica, sets the sharer bit and is acknowledged. -/
def execReplicaFill (i : Nat) (s : State) : Outcome State Fault Refusal :=
  match s.fills[i]? with
  | none => .next s
  | some f =>
    let s := { s with fills := s.fills.eraseIdx i }
    let gr := granuleOf (128 * f.line)
    let home := homeFlask (128 * f.line)
    match mget? (flaskAt s home).dir gr with
    | none => .next s
    | some e =>
      let s := modFlask s home fun k => { k with dir := mput k.dir gr { e with sharers := e.sharers ||| BitVec.ofNat 32 (2 ^ f.fl) } }
      let (w, s) := l2Place s f.fl f.ctx f.line
      .next (match w with
        | some w => modFlask s f.fl fun k => { k with replicas := mput k.replicas f.line { data := f.data, way := w } }
        | none => s)

/-- Bytes of an L1 line from offset `off` are dirty and these. -/
def dirtyAs (x : L1Line) (off : Nat) (bs : List Byte) : Bool :=
  ((List.range bs.length).zip bs).all fun p => x.dirty.getLsbD (off + p.1) && lineByte x.data (off + p.1) == p.2

/-- The oldest store of a group is a strong store of these bytes to this place. -/
def headIs (x : Group) (pa : Nat) (bs : List Byte) : Bool :=
  match x.storeq with
  | { dst := .home _ va leaf, bytes := b, .. } :: _ => leafKey leaf va == pa && b == bs
  | _ => false

/-- REP_WRITE (R34): a write from flask `fl` to a granule in REP leaves its core, as a write-back of dirty bytes or as the
oldest store of a group, and is performed at home. Log entry 31. -/
def execRepWrite (fl pa : Nat) (bytes : List Byte) (s : State) : Outcome State Fault Refusal :=
  if 32 ≤ fl then .fault .noUnit
  else if !(mget (flaskAt s (homeFlask pa)).dir (granuleOf pa) {}).rep || bytes.isEmpty then .next s
  else
    let cores := (List.range 16).map fun k => 16 * fl + k
    match cores.findSome? fun c =>
      ((coreAt s c).l1.find? fun x => x.line == keyLine pa && dirtyAs x (pa % 128) bytes).map fun x => (c, x) with
    | some (c, x) => .next (if locked s x.line then s else writeBack s c x)
    | none =>
      match s.groups.find? fun p => coreFlask (slotCore p.1) == fl && headIs p.2 pa bytes with
      | some (g, _) => .next (drainOne s g)
      | none => .next s

/-- REPLICA_INVALIDATE (R34): invalidation `i`, once every fill sent for the granule has been acknowledged. -/
def execReplicaInvalidate (i : Nat) (s : State) : Outcome State Fault Refusal :=
  match s.invs[i]? with
  | none => .next s
  | some v =>
    if s.fills.any fun f => granuleOf (128 * f.line) == v.granule then .next s
    else
      let s := { s with invs := s.invs.eraseIdx i }
      let s := modFlask s v.fl fun k => { k with replicas := k.replicas.filter fun p => granuleOf (128 * p.1) != v.granule }
      let home := homeFlask (v.granule * 4096)
      .next (match mget? (flaskAt s home).dir v.granule with
        | none => s
        | some e => modFlask s home fun k =>
            { k with dir := mput k.dir v.granule { e with sharers := e.sharers &&& ~~~ (BitVec.ofNat 32 (2 ^ v.fl)) } })

/-- HOME_WRITEBACK (R159): the dirty bytes of an L1 line, by address space and line index, reach their home. -/
def execHomeWriteback (core asid line : Nat) (s : State) : Outcome State Fault Refusal :=
  if 512 ≤ core then .fault .noUnit
  else match l1Find (coreAt s core) asid line with
    | none => .next s
    | some x => .next (if lineFree s core x.line then writeBack s core x else s)

end Sys2Proof.Machine
end

