-- ==== Sys2Proof/Machine/Fetch.lean ====
section
/-! DEFINITION. Fetching instruction words (R169, R264, R272; log entry 5). -/

namespace Sys2Proof.Machine

/-- Virtual address of word `pc` of a context's code segment (log entry 5). -/
def codeVa (s : State) (ctx : Nat) (pc : Pc) : DWord :=
  BitVec.ofNat 64 ((mget s.ctxs ctx {}).codeBase + 12 * pc.toNat)

/-- What a fetch gives. -/
inductive Word96 where
  | ok (w : IWord)
  /-- The page is not resident, or a sub-block has a line of it to itself: the path is not ready (R170, R175). -/
  | wait
  | trap (code : Nat) (addr aux : DWord)
deriving DecidableEq, Repr

/-- Fetch a word for a group on a core: its page needs X (R169). Log entry 5. -/
def fetchWord (s : State) (core ctx : Nat) (priv : Bool) (pc : Pc) : Word96 :=
  let va := codeVa s ctx pc
  if (mget s.ctxs ctx {}).codeBase + 12 * pc.toNat ≥ 2 ^ 64 then .trap 0x18 va 0
  else
    let step := fun (acc : Word96 × List Byte) (p : Nat × Nat) =>
      match acc.1 with
      | .ok _ =>
        if walkHeld s core ctx (va + BitVec.ofNat 64 p.1) then (.wait, [])
        else match (look s core ctx priv .fetch (va + BitVec.ofNat 64 p.1)).1 with
        | .ok l k => if locked s (keyLine k) then (.wait, []) else (.ok 0, acc.2 ++ homeBytes s (leafKeyid l) k p.2)
        | .nonres => (.wait, [])
        | .range => (.trap 0x18 (va + BitVec.ofNat 64 p.1) 0, [])
        | .perm l => (.trap 0x06 (va + BitVec.ofNat 64 p.1) l, [])
      | _ => acc
    match (linePieces va.toNat 12).foldl step (.ok 0, []) with
    | (.ok _, bs) => .ok (wordOfBytes bs)
    | (x, _) => x

end Sys2Proof.Machine
end

