-- ==== Sys2Proof/Machine/Fit.lean ====
section
/-! DEFINITION. Approximable regions and the fitting engines: class 0xC and their events (R229 to R242, R394 to R398). -/

namespace Sys2Proof.Machine

open Host

/-! ### Arithmetic of the engine: f32, to nearest even, no flags, subnormals honoured (R236, R237) -/

def nAdd (a b : Nat) : Nat := (fAdd .f32 .rn false a b).1
def nSub (a b : Nat) : Nat := (fSub .f32 .rn false a b).1
def nMul (a b : Nat) : Nat := (fMul .f32 .rn false a b).1
def nFma (a b c : Nat) : Nat := (fFma .f32 .rn false a b c).1

/-- Exact quotient, with a sticky bit below 60 fraction bits. -/
def divFV (x y : FV) : FV :=
  match x, y with
  | .nan _, _ | _, .nan _ => .nan false
  | .inf _, .inf _ => .nan false
  | .inf a, .fin b _ _ => .inf (a != b)
  | .fin a _ _, .inf b => .fin (a != b) 0 0
  | .fin a m e, .fin b n k =>
    if n = 0 then (if m = 0 then .nan false else .inf (a != b))
    else .fin (a != b) (jam (m * 2 ^ 60 / n) (m * 2 ^ 60 % n == 0)) (e - k - 61)

def nDiv (a b : Nat) : Nat := (pack .f32 .rn false false (divFV (unpack .f32 a) (unpack .f32 b))).1
def nLt (a b : Nat) : Bool := ltFV false (unpack .f32 a) (unpack .f32 b)
def nAbs (a : Nat) : Nat := a % 2 ^ 31
def nOne : Nat := 0x3F800000
def nTwo : Nat := 0x40000000

/-- Finite: neither NaN nor infinity (R235). -/
def isFin (a : Nat) : Bool :=
  match unpack .f32 a with
  | .fin _ _ _ => true
  | _ => false

/-- The larger of two errors; a NaN stays. -/
def maxErr (a b : Nat) : Nat := if (unpack .f32 a).isNan then a else if (unpack .f32 b).isNan || nLt a b then b else a

/-! ### The region record (R229) -/

/-- A configuration record. -/
structure Region where
  seed : Nat
  tol  : Nat
  floor : Nat
  nobs : Nat
  nb   : Nat
  hsel : Nat
  lrate : Nat
  sexp : Nat
  npass : Nat
  failmax : Nat
deriving DecidableEq, Repr

def regionOf (bs : List Byte) : Region :=
  let n := fun off len => bytesAt bs off len
  { seed := n 0 4, tol := n 4 4, floor := n 8 4, nobs := n 0x0C 2, nb := n 0x0E 2, hsel := n 0x10 1, lrate := n 0x11 1,
    sexp := n 0x12 1, npass := n 0x13 1, failmax := n 0x14 1 }

/-- Every field within its limits (R229). Log entry 36. -/
def regionOk (bs : List Byte) : Bool :=
  let r := regionOf bs
  let pos := fun x => isFin x && nLt 0 x
  pos r.tol && pos r.floor && decide (32 ≤ r.nobs) && decide (1 ≤ r.nb) && decide (r.hsel ≤ 2) && decide (1 ≤ r.lrate)
    && decide (r.lrate ≤ 24) && decide (r.sexp ≤ 15) && decide (1 ≤ r.npass) && bytesAt bs 0x15 11 = 0

/-- Virtual address of a region's record (R163, R229). -/
def regionVa (s : State) (ctx id : Nat) : DWord := BitVec.ofNat 64 (descField s ctx 0x20 8 + 32 * id)

/-- The record of a region; none while it has not been configured, when no record in the table keeps the limits. -/
def regionRec (s : State) (ctx id : Nat) : Option Region :=
  match ctxRead s ctx (regionVa s ctx id) 32 with
  | some bs => if regionOk bs then some (regionOf bs) else none
  | none => none

/-! ### Weights (R238) -/

/-- One step of the generator. -/
def lfsr (x : BitVec 32) : BitVec 32 := if x.getLsbD 0 then (x >>> 1) ^^^ 0x80200003 else x >>> 1

/-- The weight that a state spells. -/
def weightOf (x : BitVec 32) : Nat :=
  let k : Int := ((x.extractLsb' 8 24).toNat : Int) - 8388608
  if k = 0 then 0 else (packFin .f32 .rn false false (k < 0) k.natAbs (-25)).1

/-- Draw a weight for each key in turn. -/
def drawFor (keys : List Nat) (gen : BitVec 32) : SMap Word × BitVec 32 :=
  keys.foldl (fun acc k =>
    let g := lfsr acc.2
    (mput acc.1 k (BitVec.ofNat 32 (weightOf g)), g)) ([], gen)

/-- H (R229). -/
def FitSlot.h (x : FitSlot) : Nat := 8 * 2 ^ x.hsel

/-- Biases become 0 and the weights are drawn, W1[j][i] at 8j + i, W2[o][j] at 32o + j. Log entry 36. -/
def reseed (x : FitSlot) : FitSlot :=
  let (w1, g) := drawFor (List.range (8 * x.h)) x.gen
  let (w2, g) := drawFor (((List.range 4).map fun o => (List.range x.h).map fun j => 32 * o + j).flatten) g
  { x with w1 := w1, w2 := w2, b1 := [], b2 := [], gen := g }

/-- A region in IDLE, with weights from its SEED (R229, R231). -/
def idleSlot (ctx id granule used : Nat) (r : Region) : FitSlot :=
  reseed { ctx := ctx, id := id, hsel := r.hsel, gen := BitVec.ofNat 32 (if r.seed = 0 then 1 else r.seed),
           granule := granule, used := used }

/-! ### The pattern (R236, R237, R239) -/

def wAt (m : SMap Word) (k : Nat) : Nat := (mget m k 0).toNat

/-- norm (R236). -/
def FitSlot.norm (x : FitSlot) (v i : Nat) : Nat :=
  let mn := wAt x.mn i
  let w := nSub (wAt x.mx i) mn
  if nAbs w = 0 then 0 else nSub (nDiv (nMul nTwo (nSub v mn)) w) nOne

def FitSlot.normAll (x : FitSlot) (vs : List Nat) : List Nat :=
  ((List.range vs.length).zip vs).map fun p => x.norm p.2 p.1

/-- Out of range (R236). -/
def FitSlot.outside (x : FitSlot) (vs : List Nat) : Bool := (x.normAll vs).any fun n => nLt nTwo (nAbs n)

/-- z of each hidden neuron (R237). -/
def FitSlot.hidden (x : FitSlot) (xs : List Nat) : List Nat :=
  (List.range x.h).map fun j =>
    ((List.range xs.length).zip xs).foldl (fun z p => nFma (wAt x.w1 (8 * j + p.1)) p.2 z) (wAt x.b1 j)

def relu (z : Nat) : Nat := if nLt 0 z then z else 0

/-- Outputs from the hidden values. -/
def FitSlot.outs (x : FitSlot) (hs : List Nat) (n : Nat) : List Nat :=
  (List.range n).map fun o =>
    ((List.range hs.length).zip hs).foldl (fun y p => nFma (wAt x.w2 (32 * o + p.1)) p.2 y) (wAt x.b2 o)

/-- forward (R237), from inputs not yet normalised. -/
def FitSlot.forward (x : FitSlot) (vs : List Nat) (n : Nat) : List Nat :=
  x.outs ((x.hidden (x.normAll vs)).map relu) n

/-- Gradients of a batch: of W1, b1, W2 and b2. -/
structure Grad where
  w1 : SMap Word := []
  b1 : SMap Word := []
  w2 : SMap Word := []
  b2 : SMap Word := []
deriving DecidableEq, Repr

def gAdd (m : SMap Word) (k v : Nat) : SMap Word := mput m k (BitVec.ofNat 32 (nAdd (wAt m k) v))

/-- One sample's gradients are added (R239). -/
def addGrad (x : FitSlot) (g : Grad) (q : Sample) : Grad :=
  let xs := x.normAll (q.xs.map (·.toNat))
  let zs := x.hidden xs
  let hs := zs.map relu
  let es := ((x.outs hs q.ys.length).zip q.ys).map fun p => nSub p.1 p.2.toNat
  let eAt := (List.range es.length).zip es
  let d := fun (j : Nat) =>
    let sum := eAt.foldl (fun d p => nFma (wAt x.w2 (32 * p.1 + j)) p.2 d) 0
    if nLt 0 (zs.getD j 0) then sum else if (unpack .f32 (zs.getD j 0)).isNan then sum else 0
  let g := (List.range x.h).foldl (fun (g : Grad) j =>
    let w1 := ((List.range xs.length).zip xs).foldl (fun m p => gAdd m (8 * j + p.1) (nMul (d j) p.2)) g.w1
    { g with w1 := w1, b1 := gAdd g.b1 j (d j) }) g
  eAt.foldl (fun (g : Grad) p =>
    let w2 := (List.range x.h).foldl (fun m j => gAdd m (32 * p.1 + j) (nMul p.2 (hs.getD j 0))) g.w2
    { g with w2 := w2, b2 := gAdd g.b2 p.1 p.2 }) g

/-- Each parameter becomes round(p − G × 2^−(L+5)) (R239). -/
def stepAll (l : Nat) (g p : SMap Word) : SMap Word :=
  let k := (packFin .f32 .rn false false true 1 (-((l : Int) + 5))).1
  g.foldl (fun m q => mput m q.1 (BitVec.ofNat 32 (nFma q.2.toNat k (wAt m q.1)))) p

/-- The update after the 32nd sample (R239). -/
def batchUpdate (r : Region) (x : FitSlot) : FitSlot :=
  let g := x.batch.foldl (addGrad x) {}
  { x with w1 := stepAll r.lrate g.w1 x.w1, b1 := stepAll r.lrate g.b1 x.b1, w2 := stepAll r.lrate g.w2 x.w2,
           b2 := stepAll r.lrate g.b2 x.b2, batch := [] }

/-- The largest relative error of a sample over its outputs (R240). -/
def relError (r : Region) (x : FitSlot) (q : Sample) : Nat :=
  let ys := q.ys.map (·.toNat)
  ((x.forward (q.xs.map (·.toNat)) ys.length).zip ys).foldl (fun acc p =>
    let den := if nLt (nAbs p.2) r.floor then r.floor else nAbs p.2
    maxErr acc (nDiv (nAbs (nSub p.2 p.1)) den)) 0

/-! ### The state machine (R240) -/

/-- Entry to a state: nothing taken in it yet. -/
def FitSlot.enter (x : FitSlot) (st : Nat) : FitSlot := { x with st := st, scount := 0, batch := [], nb := 0, roundErr := 0 }

/-- A window starts. Log entry 36. -/
def FitSlot.window (x : FitSlot) : FitSlot := { x with strikes := 0, drift := 0, wcount := 0 }

/-- OBSERVE, with FAILS cleared. Log entry 36. -/
def FitSlot.observe (x : FitSlot) : FitSlot := { x.enter 1 with fails := 0 }

/-- Widen MIN and MAX; NOBS samples end OBSERVE. -/
def takeObserve (r : Region) (x : FitSlot) (q : Sample) : FitSlot :=
  let put := fun (isMin : Bool) (m : SMap Word) => ((List.range q.xs.length).zip q.xs).foldl (fun m p =>
    let v := if x.scount = 0 then p.2.toNat else (fMinMax .f32 isMin false (wAt m p.1) p.2.toNat).1
    mput m p.1 (BitVec.ofNat 32 v)) m
  let x := { x with mn := put true x.mn, mx := put false x.mx, scount := x.scount + 1 }
  if x.scount = r.nobs then x.enter 2 else x

/-- A sample joins a batch of TRAIN or FALLBACK. -/
def takeTrain (r : Region) (x : FitSlot) (q : Sample) : FitSlot :=
  let x := { x with batch := x.batch ++ [q], scount := x.scount + 1 }
  if x.batch.length < 32 then x
  else
    let x := batchUpdate r { x with nb := x.nb + 1 }
    if x.nb = r.nb then { x.enter 3 with passes := 0 } else x

/-- A sample joins a round of TRIAL. Log entry 36. -/
def takeTrial (r : Region) (x : FitSlot) (q : Sample) : FitSlot :=
  let x := { x with batch := x.batch ++ [q], scount := x.scount + 1,
                    roundErr := BitVec.ofNat 32 (maxErr x.roundErr.toNat (relError r x q)) }
  if x.batch.length < 32 then x
  else
    let err := x.roundErr.toNat
    let x := { x with batch := [], roundErr := 0 }
    if (unpack .f32 err).isNan || nLt r.tol err then
      let x := { x with fails := x.fails + 1 }
      x.enter (if r.failmax != 0 && r.failmax ≤ x.fails then 6 else 2)
    else
      let x := { x with passes := x.passes + 1 }
      if x.passes = r.npass then { (x.enter 4).window with lec := 0 } else x

/-- A sample in SUBST: strikes, drift and the window of 256. -/
def takeSubst (r : Region) (x : FitSlot) (q : Sample) : FitSlot :=
  let x := { x with scount := x.scount + 1, wcount := x.wcount + 1 }
  let x : FitSlot := if x.outside (q.xs.map (·.toNat)) then { x with drift := x.drift + 1 }
    else if nLt r.tol (relError r x q) then { x with strikes := x.strikes + 1 } else x
  if x.strikes = 3 then x.enter 5
  else if x.drift = 16 then (reseed { x with mn := [], mx := [] }).observe
  else if x.wcount = 256 then x.window else x

/-- A sample leaves the queue (R235, R240). DESIGN CHOICE (log entry 36): the lengths are those of the sample, whatever an earlier one
had, and MIN and MAX of an input that none had before are 0. -/
def takeSample (r : Region) (x : FitSlot) (q : Sample) : FitSlot :=
  if !((q.xs ++ q.ys).all fun w => isFin w.toNat) then x
  else
    let x := { x with nin := q.xs.length, nout := q.ys.length }
    let out := x.outside (q.xs.map (·.toNat))
    match x.st with
    | 0 => takeObserve r x.observe q
    | 1 => takeObserve r x q
    | 2 | 5 => if out then x else takeTrain r x q
    | 3 => if out then x else takeTrial r x q
    | 4 => takeSubst r x q
    | _ => x

/-! ### Images (R231) -/

/-- Virtual address in the image of a region for a flask. -/
def patVa (s : State) (ctx id fl off : Nat) : DWord := BitVec.ofNat 64 (descField s ctx 0x28 8 + (32 * id + fl) * 2048 + off)

/-- A count that has one byte of room: beyond it the spec gives none. -/
def byteCount (draw n : Nat) : Nat := if n < 256 then n else Config.freeNat draw n % 256

/-- The image of a slot. A partial batch is discarded. Log entry 36. -/
def slotImage (draw : Nat) (x : FitSlot) : List (Nat × List Byte) :=
  let ws := fun (base n : Nat) (key : Nat → Nat) (m : SMap Word) =>
    (base, ((List.range n).map fun i => natBytes 4 (wAt m (key i))).flatten)
  [(0, natBytes 1 x.st ++ natBytes 1 x.nin ++ natBytes 1 x.nout ++ natBytes 1 x.hsel ++ natBytes 4 x.gen.toNat
      ++ natBytes 4 (x.scount - x.batch.length) ++ natBytes 4 x.lec.toNat ++ natBytes 1 x.passes ++ natBytes 1 (byteCount draw x.fails)
      ++ natBytes 1 x.strikes ++ natBytes 1 x.drift ++ natBytes 4 x.wcount ++ natBytes 8 (x.granule % 2 ^ 38 * 4096)
      ++ natBytes 1 1),
   ws 0x40 8 id x.mn, ws 0x60 8 id x.mx, ws 0x80 (8 * x.h) id x.w1, ws 0x480 x.h id x.b1]
    ++ (List.range 4).map (fun o => ws (0x500 + 128 * o) x.h (32 * o + ·) x.w2) ++ [ws 0x700 4 id x.b2]

/-- A slot is written to its image. -/
def writeSlot (s : State) (fl : Nat) (x : FitSlot) : State :=
  putAll { s with free := s.free + 1 } x.ctx (patVa s x.ctx x.id fl 0) (slotImage s.free x)

/-- STATE = 6 and IMG = 1 in an image and nothing else. -/
def writeInvalid (s : State) (fl ctx id : Nat) : State :=
  putAll s ctx (patVa s ctx id fl 0) [(0, natBytes 1 6), (0x20, natBytes 1 1)]

/-- STATE of an image; of a value past 6, which no engine writes, the spec says nothing. Log entry 36. -/
def imageState (n : Nat) : Nat := if n ≤ 6 then n else Config.freeNat 0 n % 7

/-- An image that an engine has written: its slot. -/
def loadSlot (s : State) (fl ctx id used : Nat) : Option FitSlot :=
  match ctxRead s ctx (patVa s ctx id fl 0) 2048 with
  | none => none
  | some bs =>
    let n := fun off len => bytesAt bs off len
    let ws := fun (base : Nat) (keys : List Nat) (stride : Nat → Nat) =>
      keys.map fun k => (k, BitVec.ofNat 32 (n (base + stride k) 4))
    if n 0x20 1 != 1 then none
    else
      let h := 8 * 2 ^ (min 2 (n 3 1))
      let scount := n 8 4
      some { ctx := ctx, id := id, st := imageState (n 0 1), nin := n 1 1, nout := n 2 1, hsel := min 2 (n 3 1), gen := BitVec.ofNat 32 (n 4 4),
             scount := scount, lec := BitVec.ofNat 32 (n 0x0C 4), passes := n 0x10 1, fails := n 0x11 1, strikes := n 0x12 1,
             drift := n 0x13 1, wcount := n 0x14 4, granule := n 0x18 8 / 4096 % 2 ^ 38,
             mn := ws 0x40 (List.range 8) (4 * ·), mx := ws 0x60 (List.range 8) (4 * ·),
             w1 := ws 0x80 (List.range (8 * h)) (4 * ·), b1 := ws 0x480 (List.range h) (4 * ·),
             w2 := ws 0x500 (((List.range 4).map fun o => (List.range h).map fun j => 32 * o + j).flatten) (4 * ·),
             b2 := ws 0x700 (List.range 4) (4 * ·), used := used, nb := scount / 32 }

/-! ### Slots (R230) -/

def fitSlot (s : State) (fl ctx id : Nat) : Option FitSlot :=
  (flaskAt s fl).fit.find? fun x => x.ctx == ctx && x.id == id

def modSlot (s : State) (fl ctx id : Nat) (f : FitSlot → FitSlot) : State :=
  modFlask s fl fun x => { x with fit := updFirst (fun y => y.ctx == ctx && y.id == id) f x.fit }

def dropSlot (s : State) (fl : Nat) (x : FitSlot) : State :=
  modFlask s fl fun f => { f with fit := f.fit.filter fun y => !(y.ctx == x.ctx && y.id == x.id) }

/-- No slot and no image of a region on a flask names a code granule any more. Log entry 36. -/
def forget (s : State) (ctx id fl : Nat) : State :=
  { s with granules := s.granules.filter fun g => !(g.1 == ctx && g.2.1 == id && g.2.2.1 == fl) }

/-- The slot of a region on a flask names this code granule (R231, R241). Log entry 36. -/
def noteGranule (s : State) (ctx id fl k : Nat) : State :=
  let t := forget s ctx id fl
  { t with granules := (ctx, id, fl, k) :: t.granules }

/-- The least recently used of some slots. Log entry 36. -/
def oldestSlot (xs : List FitSlot) : Option FitSlot :=
  xs.foldl (fun acc x => match acc with
    | none => some x
    | some y => if x.used < y.used then some x else some y) none

/-- Room for one slot more: an IDLE or INVALID slot goes first. -/
def freeSlot (s : State) (fl : Nat) : State :=
  let xs := (flaskAt s fl).fit
  if xs.length < 64 then s
  else match oldestSlot (xs.filter fun x => x.st = 0 || x.st = 6) with
    | some x => forget (dropSlot (if x.st = 6 then writeInvalid s fl x.ctx x.id else s) fl x) x.ctx x.id fl
    | none => match oldestSlot xs with
      | some x => dropSlot (writeSlot s fl x) fl x
      | none => s

/-- The slot of a configured region, allocated where there is none, and used now. -/
def useSlot (s : State) (fl ctx id : Nat) (r : Region) : State :=
  let now := (flaskAt s fl).fit.foldl (fun n x => max n x.used) 0 + 1
  match fitSlot s fl ctx id with
  | some _ => modSlot s fl ctx id fun x => { x with used := now }
  | none =>
    let s := freeSlot s fl
    match loadSlot s fl ctx id now with
    | some x => noteGranule (modFlask s fl fun f => { f with fit := f.fit ++ [x] }) ctx id fl x.granule
    | none => modFlask s fl fun f => { f with fit := f.fit ++ [idleSlot ctx id 0 now r] }

/-- A region becomes INVALID in every engine (R241). -/
def invalidate (s : State) (ctx id : Nat) : State :=
  if (regionRec s ctx id).isNone then s
  else (List.range 32).foldl (fun s fl =>
    match fitSlot s fl ctx id with
    | some _ => modSlot s fl ctx id fun x => x.enter 6
    | none => writeInvalid s fl ctx id) s

/-- Writes at home to code granules take effect (R241). -/
def settleFit (s : State) : State :=
  match s.fitInval with
  | [] => s
  | xs => xs.foldl (fun s x => invalidate s x.1 x.2) { s with fitInval := [] }

/-- Teardown of a context frees its slots (R241): its pattern area goes with its memory. Log entry 36. -/
def dropFit (s : State) (ctx : Nat) : State :=
  { s with
    granules := s.granules.filter fun g => g.1 != ctx,
    flasks := s.flasks.map fun p => (p.1, { p.2 with fit := p.2.fit.filter fun x => x.ctx != ctx }) }

/-- The engines write every slot of a saved context and free it (R231). -/
def saveFit (s : State) (ctx : Nat) : State :=
  (List.range 32).foldl (fun s fl =>
    ((flaskAt s fl).fit.filter fun x => x.ctx == ctx).foldl (fun s x => dropSlot (writeSlot s fl x) fl x) s) s

/-! ### The instructions -/

/-- A region identifier, 0 to 255; none outside (R381). -/
def Env.region (e : Env) (id : SImm) : Option Nat := if (e.simm id).toNat < 256 then some (e.simm id).toNat else none

/-- Granule of the APXB word. -/
def codeGranule (s : State) (ctx : Nat) (pc : Pc) : Nat :=
  match walk s ctx ((codeVa s ctx pc).toNat % 2 ^ 56) with
  | .ok _ k => granuleOf k
  | _ => 0

/-- The lanes of an APXB open its region, its outputs are empty, and its path waits for reply `n` (R233, R394). -/
def openRegion (n rid vout : Nat) (outs : List Nat) (pc : Pc) (lanes : List (Nat × List Word)) (x : Group) : Group :=
  let x := lanes.foldl (fun (x : Group) p =>
    { x with apx := mput x.apx p.1 { id := rid, vout := vout, nout := outs.length, input := p.2, pc := pc } }) x
  mapWait (markEmpty outs x) fun p => if p.wait == .apx 0 then { p with wait := .apx n } else p

/-- APXB (R232, R233, R394): its lanes wait at the word for the reply. Log entry 36. -/
def execApxb (h : Hdr) (id : SImm) (vin : BitVec 10) (nin : BitVec 3) (vout : BitVec 10) (nout : BitVec 2) (fin : BitVec 12)
    (s : State) : Outcome State Fault Refusal :=
  let ins := (List.range (nin.toNat + 1)).map (· + vin.toNat)
  let outs := (List.range (nout.toNat + 1)).map (· + vout.toNat)
  let i : Info := { h := h, cA := ins, vw := outs }
  gateTo i s (splitTo i (fun e => e.pc) (fun _ => .apx 0)) fun e pre post =>
    match e.region id with
    | none => trapReserved pre e.act
    | some rid =>
      if e.act = 0 then post
      else
        let (n, s) := freshUid post
        let lanes := (lanesOf e.act).map fun l => (l, ins.map fun r => e.v r l)
        let s := modGroup s e.g (openRegion n rid vout.toNat outs e.pc lanes)
        let q : FitReq :=
          { id := n, uid := e.grp.uid, ctx := e.grp.ctx, rid := rid, lanes := lanes, nout := outs.length, vout := vout.toNat,
            fin := fin.toNat, pc := e.pc, granule := codeGranule s e.grp.ctx e.pc, sig := sigOf e.grp.uid h.set }
        modFlask s (coreFlask e.core) fun f => { f with reqs := f.reqs ++ [q] }

/-- Samples join the queue of 256, in lane order; what does not fit is dropped (R234). -/
def sendSamples (s : State) (fl : Nat) (qs : List Sample) : State :=
  modFlask s fl fun f => { f with samples := f.samples ++ qs.take (256 - f.samples.length) }

/-- APXE (R233, R395). DESIGN CHOICE (log entry 36): samples of different groups stand in the queue in the order of their APXEs. -/
def execApxe (h : Hdr) (s : State) : Outcome State Fault Refusal :=
  gate { h := h } s fun e pre post =>
    let opens := (lanesOf e.act).filterMap fun l => (mget? e.grp.apx l).map fun o => (l, o)
    let outs := fun (o : Open) => (List.range o.nout).map (· + o.vout)
    if opens.any fun p => (outs p.2).any (isEmpty e.grp) then pre
    else
      let qs := opens.map fun p =>
        ({ ctx := e.grp.ctx, id := p.2.id, xs := p.2.input, ys := (outs p.2).map fun r => e.v r p.1 } : Sample)
      let s := sendSamples post (coreFlask e.core) qs
      atOnce (modGroup s e.g fun x => { x with apx := x.apx.filter fun p => !inLanes e.act p.1 }) e h

/-- A region stands in IDLE in every engine: its slots start anew but for FAILS, which only the entry to OBSERVE clears, and its images
are marked unwritten (R229, R231, R240). Log entry 36. -/
def idleEverywhere (s : State) (ctx rid : Nat) (r : Region) : State :=
  (List.range 32).foldl (fun s fl =>
    let s := match fitSlot s fl ctx rid with
      | some _ => modSlot s fl ctx rid fun x => { idleSlot ctx rid x.granule x.used r with fails := x.fails }
      | none => forget s ctx rid fl
    ctxWrite s ctx (patVa s ctx rid fl 0x20) [0]) s

/-- FTCFG (R229, R396). -/
def execFtcfg (h : Hdr) (id : SImm) (sa : BitVec 6) (s : State) : Outcome State Fault Refusal :=
  gate (engInfo h true) s fun e pre post => afterDrain e pre post fun s =>
    match e.region id with
    | none => trapField pre e
    | some rid =>
      let va := e.s sa.toNat
      let ctx := e.grp.ctx
      match readRec s e va 1 32 with
      | (.bad code addr aux, _) => trapAt pre code e.elect addr aux
      | (.held, _) => pre
      | (.nonres, s) => atOnce (residNotice s 5 0 ctx 0 e.core (e.g % 64) va) e h
      | (.ok bs, s) =>
        if va.toNat % 32 != 0 || !regionOk bs then trapField pre e
        else
          let r := regionOf bs
          let s := ctxWrite (settleFit s) ctx (regionVa s ctx rid) bs
          let s := idleEverywhere s ctx rid r
          atOnce s e h

/-- FTINV (R241, R397). -/
def execFtinv (h : Hdr) (id : SImm) (s : State) : Outcome State Fault Refusal :=
  gate (engInfo h) s fun e pre post => afterDrain e pre post fun s =>
    match e.region id with
    | none => trapField pre e
    | some rid => atOnce (invalidate (settleFit s) e.grp.ctx rid) e h

/-- The word of FTSTAT (R398). -/
def fitStat (draw : Nat) (x : Option FitSlot) : DWord :=
  match x with
  | none => 15
  | some x => BitVec.ofNat 64 (x.wcount % 512 * 2 ^ 48 + x.drift % 256 * 2 ^ 32 + x.strikes % 256 * 2 ^ 24
      + byteCount draw x.fails * 2 ^ 16 + x.passes % 256 * 2 ^ 8 + x.st)

/-- FTSTAT (R398): from the slot, or from the image where the slot has been freed. -/
def execFtstat (h : Hdr) (d : BitVec 6) (id : SImm) (s : State) : Outcome State Fault Refusal :=
  gate (engInfo h) s fun e pre post =>
    match e.region id with
    | none => trapField pre e
    | some rid =>
      let s := settleFit post
      let fl := coreFlask e.core
      let x := (fitSlot s fl e.grp.ctx rid).or (loadSlot s fl e.grp.ctx rid 0)
      varResult s e h [] [] (some (d.toNat, fitStat s.free x)) 0 false

/-! ### The engine's steps -/

/-- Answer a request in SUBST, lane by lane (R240): the lanes substituted with their outputs, and LEC afterwards. -/
def substitute (r : Region) (x : FitSlot) (q : FitReq) : List (Nat × List Word) × BitVec 32 :=
  q.lanes.foldl (fun acc p =>
    let vs := p.2.map (·.toNat)
    if vs.any (fun v => !isFin v) || x.outside vs then acc
    else if acc.2.toNat % 2 ^ r.sexp = 2 ^ r.sexp - 1 then (acc.1, acc.2 + 1)
    else (acc.1 ++ [(p.1, (x.forward vs q.nout).map (BitVec.ofNat 32))], acc.2 + 1)) ([], x.lec)

/-- The reply of request `id` is on its way. -/
def answerReq (s : State) (fl id : Nat) (ls : List (Nat × List Word)) (never : Bool) : State :=
  modFlask s fl fun f => { f with
    reqs := updFirst (fun y => y.id == id) (fun y => { y with reply := some ls, never := never }) f.reqs }

/-- The slot of a request's region as the request finds it: allocated, used now, out of IDLE (R230, R240). -/
def requestSlot (s : State) (fl : Nat) (q : FitReq) (r : Region) : State :=
  let s := noteGranule (useSlot s fl q.ctx q.rid r) q.ctx q.rid fl q.granule
  let nin := ((q.lanes.head?.map fun p => p.2.length)).getD 0
  modSlot s fl q.ctx q.rid fun x =>
    let y : FitSlot := { x with nin := nin, nout := q.nout, granule := q.granule }
    if y.st = 0 then y.observe else y

/-- A request occupies the engine for 8 fabric cycles, after those before it (R234). Log entry 36. -/
def occupy (s : State) (fl : Nat) : State := modFlask s fl fun f => { f with fitBusy := max f.fitBusy s.fab + 8 }

/-- FIT_REQUEST (R230, R232, R234, R240): the flask's oldest request arrives at the engine, which answers it under the state in force
and ahead of every sample. Log entry 36. -/
def execFitRequest (fl : Nat) (s : State) : Outcome State Fault Refusal :=
  if 32 ≤ fl then .fault .noUnit
  else
    let s := settleFit s
    match (flaskAt s fl).reqs.find? fun q => q.reply.isNone with
    | none => .next s
    | some q =>
      let s := occupy s fl
      match regionRec s q.ctx q.rid with
      | none => .next (answerReq s fl q.id [] true)
      | some r =>
        let s := requestSlot s fl q r
        match fitSlot s fl q.ctx q.rid with
        | none => .next s
        | some x =>
          if x.st != 4 then .next (answerReq s fl q.id [] false)
          else
            let (ls, lec) := substitute r x q
            .next (answerReq (modSlot s fl q.ctx q.rid fun x => { x with lec := lec }) fl q.id ls false)

/-- What a reply does to its group: the outputs of the lanes substituted are written, the outputs are full, the regions of
those lanes close, and they go on at FIN and the others at the next word (R232, R394). -/
def replyTo (cyc : Nat) (q : FitReq) (x : Group) : Group :=
  let subs := q.reply.getD []
  let mask := maskOf (subs.map (·.1))
  let x := subs.foldl (fun x p => ((List.range p.2.length).zip p.2).foldl (fun x o => arriveV cyc (q.vout + o.1) p.1 o.2 x) x) x
  let x := markFull ((List.range q.nout).map (· + q.vout)) x
  let (mine, rest) := x.paths.partition fun p => p.wait == .apx q.id
  let part := (mine.map fun p => [{ p with wait := Wait.run, pc := q.pc + BitVec.ofNat 32 q.fin, lanes := p.lanes &&& mask },
                                  { p with wait := Wait.run, pc := q.pc + 1, lanes := p.lanes &&& ~~~ mask }]).flatten
  { x with
    apx := x.apx.filter fun p => !(inLanes mask p.1 || (q.never && q.lanes.any fun l => l.1 == p.1))
    paths := regang (rest ++ part) }

/-- APXB_REPLY (R232, R394): outputs are written, the outputs become full, and the path splits; while its lanes run a handler, the
reply waits for them. Log entry 25. -/
def execApxbReply (id : Nat) (s : State) : Outcome State Fault Refusal :=
  match (s.flasks.map fun p => p.2.reqs).flatten.find? fun q => q.id == id && q.reply.isSome with
  | none => .next s
  | some q =>
    if ((slotOf s q.uid).bind (groupAt s)).any fun x => x.uiAct && x.uiWait == .apx id then .next s else
    let s := { s with flasks := s.flasks.map fun p => (p.1, { p.2 with reqs := p.2.reqs.filter fun y => y.id != id }) }
    let cyc := ((slotOf s q.uid).map fun g => (coreAt s (slotCore g)).cycle).getD 0
    .next (fall (modUid s q.uid (replyTo cyc q)) q.sig)

/-- Fabric cycles until the next sample may leave: 8, and 64 more where this sample was the 32nd of a training batch (R234). -/
def sampleHold (x y : FitSlot) : Nat :=
  if (x.st = 2 || x.st = 5) && x.batch.length = 31 && y.batch.isEmpty then 72 else 8

/-- The sample at the head of the queue leaves it, once no request occupies the engine and the last sample lies far enough back
(R234, R235, R239, R240). DESIGN CHOICE (log entry 36): a sample for a region without a slot allocates one, and every sample counts as
a use in the order of R230. -/
def takeHead (s : State) (fl : Nat) : State :=
  let s := settleFit s
  let f := flaskAt s fl
  match f.samples with
  | [] => s
  | q :: rest =>
    if s.fab < f.fitBusy || s.fab < f.fitNext then s
    else
      let s := modFlask s fl fun f => { f with samples := rest, fitNext := s.fab + 8 }
      match regionRec s q.ctx q.id with
      | none => s
      | some r =>
        let s := useSlot s fl q.ctx q.id r
        match fitSlot s fl q.ctx q.id with
        | none => s
        | some x =>
          let y := takeSample r x q
          modFlask (modSlot s fl q.ctx q.id fun _ => y) fl fun f => { f with fitNext := s.fab + sampleHold x y }

/-- FIT_SAMPLE (R234, R235, R239, R240). -/
def execFitSample (fl : Nat) (s : State) : Outcome State Fault Refusal :=
  if 32 ≤ fl then .fault .noUnit else .next (takeHead s fl)

end Sys2Proof.Machine
end

