-- ==== Sys2Proof/Machine/Fp.lean ====
section
/-! DEFINITION. FP32 instructions, class 0x3 (R328 to R333). -/

namespace Sys2Proof.Machine

open Host

/-- Two f32 operands, an 8-cycle result with flags (R329). -/
def fpBin (h : Hdr) (d : Reg) (a b : Src) (f : Bool → Nat → Nat → Nat × Fl) (s : State) : Outcome State Fault Refusal :=
  fixedOp (info2 h .f32 d a b) d false 8 (fun e l => f e.ftz (e.fnum .f32 a l) (e.fnum .f32 b l)) s

/-- FADD (R329). -/
def execFadd (h : Hdr) (r : Rnd) (d : Reg) (a b : Src) (s : State) : Outcome State Fault Refusal :=
  fpBin h d a b (fAdd .f32 r) s

/-- FSUB (R329). -/
def execFsub (h : Hdr) (r : Rnd) (d : Reg) (a b : Src) (s : State) : Outcome State Fault Refusal :=
  fpBin h d a b (fSub .f32 r) s

/-- FMUL (R329). -/
def execFmul (h : Hdr) (r : Rnd) (d : Reg) (a b : Src) (s : State) : Outcome State Fault Refusal :=
  fpBin h d a b (fMul .f32 r) s

/-- FFMA (R329). -/
def execFfma (h : Hdr) (r : Rnd) (d : Reg) (a b : Src) (c : BitVec 10) (s : State) : Outcome State Fault Refusal :=
  fixedOp (info3 h .f32 d a b c) d false 8
    (fun e l => fFma .f32 r e.ftz (e.fnum .f32 a l) (e.fnum .f32 b l) (e.cnum false c l)) s

/-- FMIN (R330). -/
def execFmin (h : Hdr) (d : Reg) (a b : Src) (s : State) : Outcome State Fault Refusal := fpBin h d a b (fMinMax .f32 true) s

/-- FMAX (R330). -/
def execFmax (h : Hdr) (d : Reg) (a b : Src) (s : State) : Outcome State Fault Refusal := fpBin h d a b (fMinMax .f32 false) s

/-- FRND (R331). -/
def execFrnd (h : Hdr) (r : Rnd) (d : Reg) (a : Src) (s : State) : Outcome State Fault Refusal :=
  fixedOp (info1 h .f32 d a) d false 8 (fun e l => fRnd r e.ftz (e.fnum .f32 a l)) s

/-- FSCALE (R331): B is an s32. -/
def execFscale (h : Hdr) (r : Rnd) (d : Reg) (a b : Src) (s : State) : Outcome State Fault Refusal :=
  fixedOp (info2 h .f32 d a b) d false 8 (fun e l => fScale r e.ftz (e.fnum .f32 a l) (e.int .s32 b l)) s

/-- FCLASS (R332). -/
def execFclass (h : Hdr) (d : Reg) (a : Src) (s : State) : Outcome State Fault Refusal :=
  fixedOp (info1 h .f32 d a) d false 8 (fun e l => (fClass (e.fnum .f32 a l), 0)) s

/-- FABS (R333). -/
def execFabs (h : Hdr) (d : Reg) (a : Src) (s : State) : Outcome State Fault Refusal :=
  fixedOp (info1 h .f32 d a) d false 8 (fun e l => (e.fnum .f32 a l % 2 ^ 31, 0)) s

/-- FNEG (R333). -/
def execFneg (h : Hdr) (d : Reg) (a : Src) (s : State) : Outcome State Fault Refusal :=
  fixedOp (info1 h .f32 d a) d false 8 (fun e l => ((e.fnum .f32 a l + 2 ^ 31) % 2 ^ 32, 0)) s

/-- FCPYS (R333): a with the sign bit of b. -/
def execFcpys (h : Hdr) (d : Reg) (a b : Src) (s : State) : Outcome State Fault Refusal :=
  fixedOp (info2 h .f32 d a b) d false 8
    (fun e l => (e.fnum .f32 a l % 2 ^ 31 + e.fnum .f32 b l / 2 ^ 31 % 2 * 2 ^ 31, 0)) s

end Sys2Proof.Machine
end

