-- ==== Sys2Proof/Machine/Half.lean ====
section
/-! DEFINITION. Packed half, conversions and block-4, class 0x4 (R334 to R340, R211 to R214). -/

namespace Sys2Proof.Machine

open Host

/-- Apply an operation to both 16-bit elements (R335). -/
def both (f : Nat → Nat × Fl) : Nat × Fl :=
  let x := f 0
  let y := f 1
  (x.1 % 65536 + y.1 % 65536 * 65536, x.2 ||| y.2)

/-- Element `i` of a pair (R206). -/
def half (x i : Nat) : Nat := x / 65536 ^ i % 65536

/-- Two packed operands (R335). -/
def halfBin (h : Hdr) (t : Ty) (d : Reg) (a b : Src) (f : Bool → Nat → Nat → Nat × Fl) (s : State) :
    Outcome State Fault Refusal :=
  fixedOp (info2 h .z32 d a b) d false 8
    (fun e l => both fun i => f e.ftz (half (e.hnum t a l) i) (half (e.hnum t b l) i)) s

/-- HADD2 (R335). -/
def execHadd2 (h : Hdr) (t : Ty) (r : Rnd) (d : Reg) (a b : Src) (s : State) : Outcome State Fault Refusal :=
  halfBin h t d a b (fAdd t r) s

/-- HMUL2 (R335). -/
def execHmul2 (h : Hdr) (t : Ty) (r : Rnd) (d : Reg) (a b : Src) (s : State) : Outcome State Fault Refusal :=
  halfBin h t d a b (fMul t r) s

/-- HFMA2 (R335). -/
def execHfma2 (h : Hdr) (t : Ty) (r : Rnd) (d : Reg) (a b : Src) (c : BitVec 10) (s : State) : Outcome State Fault Refusal :=
  fixedOp (info3 h .z32 d a b c) d false 8
    (fun e l => both fun i => fFma t r e.ftz (half (e.hnum t a l) i) (half (e.hnum t b l) i) (half (e.cnum false c l) i)) s

/-- HMIN2 (R335). -/
def execHmin2 (h : Hdr) (t : Ty) (d : Reg) (a b : Src) (s : State) : Outcome State Fault Refusal :=
  halfBin h t d a b (fMinMax t true) s

/-- HMAX2 (R335). -/
def execHmax2 (h : Hdr) (t : Ty) (d : Reg) (a b : Src) (s : State) : Outcome State Fault Refusal :=
  halfBin h t d a b (fMinMax t false) s

/-- A source of CVT and CVTPK (R267, R336). -/
def Env.cvtSrc (e : Env) (st : Ty) (x : Src) (l : Nat) : Nat :=
  match x with
  | .imm n =>
    if st == .e4m3 || st == .e5m2 then n.toNat
    else if isFloat st then immFloat st n
    else e.num st.wide x l
  | _ => e.num st.wide x l

/-- CVT (R336, R337). -/
def execCvt (h : Hdr) (dt st : Ty) (r : Rnd) (sat : Bool) (d : Reg) (a : Src) (s : State) : Outcome State Fault Refusal :=
  fixedOp (infoOf h d dt.wide (some (a, st.wide)) none []) d dt.wide 8
    (fun e l => convert dt st r sat e.ftz (e.cvtSrc st a l)) s

/-- What D holds at issue. -/
def Env.old (e : Env) (d : Reg) (l : Nat) : Nat :=
  match d with
  | .v n => (e.v n.toNat l).toNat
  | .s n => (e.s n.toNat).toNat % 2 ^ 32

/-- The packing of R338. -/
def packPair (dt : Ty) (ea eb old : Nat) : Nat :=
  if dt.bits = 16 then eb % 2 ^ 16 * 2 ^ 16 + ea % 2 ^ 16
  else if dt.bits = 8 then eb % 2 ^ 8 * 2 ^ 24 + ea % 2 ^ 8 * 2 ^ 16 + old / 2 ^ 16
  else eb % 2 ^ 4 * 2 ^ 28 + ea % 2 ^ 4 * 2 ^ 24 + old / 2 ^ 8

/-- CVTPK (R338): D is a source too for 8-bit and i4 targets. -/
def execCvtpk (h : Hdr) (dt st : Ty) (r : Rnd) (sat : Bool) (d : Reg) (a b : Src) (s : State) : Outcome State Fault Refusal :=
  fixedOp (infoOf h d false (some (a, st.wide)) (some (b, st.wide)) (if dt.bits = 16 then [] else dstRegs false d)) d false 8
    (fun e l =>
      let x := convert dt st r sat e.ftz (e.cvtSrc st a l)
      let y := convert dt st r sat e.ftz (e.cvtSrc st b l)
      (packPair dt x.1 y.1 (e.old d l), x.2 ||| y.2)) s

/-- The type number T of a block (R212). -/
def blkNum : BlkTy → Nat
  | .int => 0 | .e2m1 => 1 | .pow2 => 2 | .hybrid => 3

/-- One block of sixteen (R214, R339): its codes, its scale byte and its flags. Log entry 15. -/
def qblock (ty : Nat) (xs bs : List FV) : List Nat × Nat × Fl :=
  let mx := maxAbs xs
  let mb := maxAbs bs
  let ex := blockExp ty (if absLt mx mb then mb else mx)
  let cs := xs.map (b4Code ty ex)
  (cs.map (·.1), ty * 64 + ex, orFl (cs.map (·.2)))

/-- What QBLK gives in lane `i` of an eighth (R339). -/
def qblkOut (q : List Nat × Nat × Fl) (i : Nat) : Nat :=
  let word := fun (from' : Nat) => (List.range 8).foldl (fun acc j => acc + q.1.getD (from' + j) 0 * 16 ^ j) 0
  match i with
  | 0 => word 0
  | 1 => word 8
  | 2 => q.2.1
  | _ => 0

/-- The block of an eighth `k` (R339). -/
def Env.blkOf (e : Env) (t : BlkTy) (a b : Src) (k : Nat) : List Nat × Nat × Fl :=
  let ls := (List.range 16).map (· + 16 * k)
  qblock (blkNum t) (ls.map fun l => unpack .f32 (e.src32 a l).toNat) (ls.map fun l => unpack .f32 (e.fnum .f32 b l))

/-- QBLK (R214, R339): each eighth that holds a lane of the stream. -/
def execQblk (h : Hdr) (t : BlkTy) (d : BitVec 10) (a b : Src) (s : State) : Outcome State Fault Refusal :=
  fixedOp (infoOf h (.v d) false (some (a, false)) (some (b, false)) []) (.v d) false 10
    (fun e l => (qblkOut (e.blkOf t a b (l / 16)) (l % 16), (e.blkOf t a b (l / 16)).2.2)) s

/-- What DQBLK gives in lane `l` (R340). -/
def dqblkOut (x : Nat → Nat) (l : Nat) : Nat :=
  let k := 16 * (l / 16)
  let i := l % 16
  let codes := x k + x (k + 1) * 2 ^ 32
  (pack .f32 .rn false false (decodeB4 (codes / 16 ^ i % 16) (x (k + 2) % 256))).1

/-- DQBLK (R340). -/
def execDqblk (h : Hdr) (d : BitVec 10) (a : Src) (s : State) : Outcome State Fault Refusal :=
  gate (infoOf h (.v d) false (some (a, false)) none []) s fun e _ post =>
    fixTail (writeD post e (.v d) false 8 (dqblkOut fun l => (e.src32 a l).toNat)) e h 8 0

end Sys2Proof.Machine
end

