-- ==== Sys2Proof/Machine/Move.lean ====
section
/-! DEFINITION. Moves, compares, predicates and special registers, class 0x5 (R284, R296 to R303). -/

namespace Sys2Proof.Machine

open Host

/-- A source of a move as the pattern it leaves in 64 bits (R267, R296): sign-extended for s types. -/
def Env.pat (e : Env) (t : Ty) (x : Src) (l : Nat) : Nat :=
  if t == .f32 then e.fnum .f32 x l else fit t false (e.int t x l)

/-- MOV (R296). -/
def execMov (h : Hdr) (t : Ty) (d : Reg) (a : Src) (s : State) : Outcome State Fault Refusal :=
  intOp (info1 h t d a) d t.wide 6 (fun e l => e.pat t a l) s

/-- MOVI (R272, R296). -/
def execMovi (h : Hdr) (d : BitVec 10) (imm : BitVec 32) (s : State) : Outcome State Fault Refusal :=
  intOp (infoOf h (.v d) false none none []) (.v d) false 6 (fun _ _ => imm.toNat) s

/-- MOVH (R296). -/
def execMovh (h : Hdr) (_t : Ty) (d : Reg) (a b : Src) (s : State) : Outcome State Fault Refusal :=
  intOp (infoOf h d true (some (a, false)) (some (b, false)) []) d true 6
    (fun e l => e.num false a l * 2 ^ 32 + e.num false b l) s

/-- The lane whose pk decides in lane `l`: with an s destination, the lowest active lane of the stream (R265, R296).
Log entry 11. -/
def pickLane (d : Reg) (e : Env) (l : Nat) : Nat :=
  match d with
  | .v _ => l
  | .s _ => (lowLane e.lanes).getD 0

/-- SEL (R296). Log entry 11. -/
def execSel (h : Hdr) (t : Ty) (d : Reg) (a b : Src) (pk : BitVec 3) (s : State) : Outcome State Fault Refusal :=
  intOp (info2 h t d a b) d t.wide 6
    (fun e l => if e.p pk.toNat (pickLane d e l) then e.pat t a l else e.pat t b l) s

/-- A predicate of each lane, with flags. -/
def predOp (i : Info) (pd : BitVec 3) (lat : Nat) (f : Env → Nat → Bool × Fl) (s : State) : Outcome State Fault Refusal :=
  gate i s fun e _ post =>
    fixTail (writeP post e pd.toNat lat fun l => (f e l).1) e i.h lat (orFl ((lanesOf e.act).map fun l => (f e l).2))

/-- The sources of an instruction whose destination is no register of class 00 or 01. -/
def infoAB (h : Hdr) (t : Ty) (a b : Src) : Info := { h := h, a := some (a, t.wide), b := some (b, t.wide) }

/-- The relations of ICMP (R297). -/
def cmpInt (c : Cmp) (x y : Int) : Bool :=
  match c with
  | .eq => x == y
  | .ne => x != y
  | .lt => decide (x < y)
  | .le => decide (x ≤ y)
  | .gt => decide (y < x)
  | .ge => decide (y ≤ x)
  | .num => true
  | .nan => false

/-- ICMP (R297). -/
def execIcmp (h : Hdr) (t : Ty) (c : Cmp) (pd : BitVec 3) (a b : Src) (s : State) : Outcome State Fault Refusal :=
  predOp (infoAB h t a b) pd 6 (fun e l => (cmpInt c (e.int t a l) (e.int t b l), 0)) s

/-- FCMP on values (R297). -/
def cmpFv (c : Cmp) (x y : FV) : Bool × Fl :=
  if x.isNan || y.isNan then
    match c with
    | .ne | .nan => (true, nvOf [x, y])
    | .eq | .num => (false, nvOf [x, y])
    | _ => (false, flNV)
  else
    let lt := ltFV false x y
    let gt := ltFV false y x
    (match c with
      | .eq => !lt && !gt
      | .ne => lt || gt
      | .lt => lt
      | .le => !gt
      | .gt => gt
      | .ge => !lt
      | .num => true
      | .nan => false, 0)

/-- FCMP (R297). -/
def execFcmp (h : Hdr) (c : Cmp) (pd : BitVec 3) (a b : Src) (s : State) : Outcome State Fault Refusal :=
  predOp (infoAB h .f32 a b) pd 8
    (fun e l => cmpFv c (ftzIn .f32 e.ftz (unpack .f32 (e.fnum .f32 a l))) (ftzIn .f32 e.ftz (unpack .f32 (e.fnum .f32 b l)))) s

/-- PLOG (R298). -/
def execPlog (h : Hdr) (op : PlogOp) (pd pa pb : BitVec 3) (s : State) : Outcome State Fault Refusal :=
  predOp { h := h } pd 6
    (fun e l =>
      let x := e.p pa.toNat l
      let y := e.p pb.toNat l
      (match op with
        | .and => x && y
        | .or => x || y
        | .xor => x != y, 0)) s

/-- PXFR (R298). Log entry 15. -/
def execPxfr (h : Hdr) (x : PxArgs) (s : State) : Outcome State Fault Refusal :=
  match x with
  | .ps pd a =>
    let nz := fun (e : Env) (l : Nat) => match a with
      | .s n => e.s n.toNat != 0
      | _ => e.src32 a l != 0
    predOp { h := h, a := some (a, false) } pd 6 (fun e l => (nz e l, 0)) s
  | .vp vd pa =>
    intOp (infoOf h (.v vd) false none none []) (.v vd) false 6 (fun e l => if e.p pa.toNat l then 1 else 0) s
  | .vs vd a =>
    intOp (infoOf h (.v vd) false none none []) (.v vd) false 6 (fun e _ => if e.simm a != 0 then 1 else 0) s

/-- Lanes of V whose predicate is true. -/
def Env.poll (e : Env) (pa : BitVec 3) : LaneMask := maskOf ((lanesOf e.act).filter fun l => e.p pa.toNat l)

/-- POLL (R299). -/
def execPoll (h : Hdr) (m : PollMode) (d : PollDst) (pa : BitVec 3) (s : State) : Outcome State Fault Refusal :=
  match d with
  | .p pd =>
    predOp { h := h } pd 6
      (fun e _ =>
        let t := e.poll pa
        (match m with
          | .all => t == e.act
          | .some => t != 0
          | .same | .mask => t == e.act || t == 0, 0)) s
  | .s n =>
    gate { h := h, once := true } s fun e _ post =>
      let t := e.poll pa
      let put := fun (k : Nat) (x : DWord) (s : State) => if e.mayS k then modGroup s e.g (fixS (e.cyc + 6) k x) else s
      fixTail (put (n.toNat + 1) (t.extractLsb' 64 64) (put n.toNat (t.extractLsb' 0 64) post)) e h 6 0

/-- PEERS (R300). Log entry 15. -/
def execPeers (h : Hdr) (t : Ty) (d : PeerDst) (a : Src) (s : State) : Outcome State Fault Refusal :=
  match d with
  | .lead v =>
    intOp (infoOf h (.v v) false (some (a, t.wide)) none []) (.v v) false 6
      (fun e l => ((lanesOf e.act).find? fun m => e.num t.wide a m == e.num t.wide a l).getD l) s
  | .one p =>
    predOp { h := h, a := some (a, t.wide) } p 6
      (fun e l => ((lanesOf e.act).all fun m => e.num t.wide a m == e.num t.wide a l, 0)) s

/-! ### Special registers (R301 to R303) -/

/-- The launch record of a group's grid; none for a group that belongs to no grid (R425). -/
def gridLaunch (s : State) (x : Group) : Option Launch := if x.grid = 0 then none else (gridOf s x.grid).map (·.launch)

/-- The value of a special register (R301, R425). Log entry 15. -/
def specialReg (s : State) (g : Nat) (x : Group) (num axis lane : Nat) : DWord :=
  let n := fun (k : Nat) => BitVec.ofNat 64 k
  let la := gridLaunch s x
  let team := ((teamOf s x.team).map (·.index)).getD 0
  match num with
  | 0 => n lane
  | 1 => n (lane / 4)
  | 2 => n x.gid
  | 3 => n (x.gid / 4)
  | 4 => n (if la.isNone then 0 else team)
  | 5 => match la with
    | none => 0
    | some l =>
      let c := clusterIdx l team
      n (match axis with
        | 0 => c % max 1 l.gx
        | 1 => c / max 1 l.gx % max 1 l.gy
        | _ => c / max 1 (l.gx * l.gy))
  | 6 => n x.nlanes
  | 7 => n ((la.map (·.groups)).getD 1)
  | 8 => n ((la.map fun l => if axis = 0 then l.clw else l.clh).getD 1)
  | 9 => n ((la.map fun l => if axis = 0 then l.gx else if axis = 1 then l.gy else l.gz).getD 1)
  | 10 => n (slotCore g)
  | 11 => n (coreFlask (slotCore g))
  | 12 => n x.ctx
  | 13 => n (flaskDrone s (coreFlask (slotCore g)))
  | 14 => (la.map (·.addr)).getD 0
  | 15 => (la.map (·.param)).getD 0
  | 16 => x.prio.setWidth 64
  | 17 => x.fstat
  | 18 => x.mstat
  | _ => uimask x

/-- RDSYS (R301, R302). -/
def execRdsys (h : Hdr) (d : Reg) (wide : Bool) (num axis : BitVec 10) (s : State) : Outcome State Fault Refusal :=
  let i := infoOf h d (wide && Reg.isV d) none none []
  gate i s fun e pre post =>
    let val := fun l => specialReg pre e.g e.grp num.toNat axis.toNat l
    match d with
    | .v n =>
      varResult post e h (dstRegs wide d) (runVals wide n.toNat ((lanesOf e.act).map fun l => (l, (val l).toNat))) none 0 false
    | .s n => varResult post e h [] [] (if e.mayS n.toNat then some (n.toNat, val oneLane) else none) 0 false

/-- Write the RW fields of a special register (R303). -/
def writeSpecial (num : Nat) (v : DWord) (x : Group) : Group :=
  match num with
  | 16 => { x with prio := v.setWidth 4 }
  | 17 => { x with fstat := v &&& fstatBits }
  | 18 => { x with mstat := v &&& mstatBits }
  | _ => { x with uiEn := bit v 0, uiOvf := bit v 1 }

/-- WRSYS (R303). -/
def execWrsys (h : Hdr) (num : BitVec 10) (a : SImm) (s : State) : Outcome State Fault Refusal :=
  gate { h := h, once := true } s fun e _ post =>
    atOnce (modGroup post e.g (writeSpecial num.toNat (e.simm a))) e h

end Sys2Proof.Machine
end

