-- ==== Sys2Proof/Machine/Registers.lean ====
section
/-! DEFINITION. System registers as software reads and writes them (R2, R11, R12, R28, R35, R38, R42 to R46, R55, R57, R58,
R63, R70, R73, R78, R82, R85, R120, R128, R131, R146, R163, R254, R258, R399 to R401). -/

namespace Sys2Proof.Machine

/-- A selector that names a register (R399). -/
def selOk (x : Nat) : Bool :=
  let i := x % 4096
  match x / 4096 with
  | 0 | 5 | 19 | 20 | 28 | 29 => i == 0
  | 1 | 2 | 3 | 12 | 13 | 14 | 15 | 16 => decide (i < 32)
  | 4 => decide (i < 12)
  | 6 | 7 | 8 | 9 => decide (i < 128)
  | 10 | 11 | 17 | 22 | 23 | 24 | 25 => decide (i < 256)
  | 18 | 26 => true
  | 21 => decide (1 ≤ i) && decide (i < 256)
  | 27 => decide (i < 512)
  | 30 => decide (i < 4)
  | _ => false

/-- The bits that a plain write replaces: the RW fields without a rule of their own. -/
def rwBits (num : Nat) : Nat :=
  match num with
  | 2 => 2 ^ 48 - 1
  | 3 => 0xF00000FF
  | 6 | 7 | 8 => 0xFFFF
  | 11 => 1
  | 12 => 0xFFFF8FFF
  | 14 | 16 => 0xFFFFFFFF
  | 15 => 0x1FFFFFFFF
  | 19 => 0xFFBFFF00
  | 21 => 0x80FFFFFC0FFF0000
  | 22 => 0xFFC1
  | 26 => 0x80FF0000FFFFFFFF
  | 27 => 0xFFFFFFFF00003F0C
  | 29 => 0x3FFFFFFFF8001
  | 30 => 0x3FFFFFFFFF0F1
  | _ => 0

/-- The bits of RW1C fields. -/
def w1cBits (x : Nat) : Nat :=
  match x / 4096 with
  | 1 => 0x200
  | 4 => 0x20000
  | 17 => if x % 4096 = 0 then 0xFFFFFFFFFFFF0000 else 0xFFFFFFFF0000
  | 20 => 2
  | 22 => 2
  | 23 => 0x180
  | _ => 0

/-- The value after the plain part of a write (R401). -/
def plainWrite (x : Nat) (old v : DWord) : DWord :=
  let rw := BitVec.ofNat 64 (rwBits (x / 4096))
  let w1c := BitVec.ofNat 64 (w1cBits x)
  (((old &&& ~~~ rw) ||| (v &&& rw)) &&& ~~~ (v &&& w1c))

/-! ### Reading (R400) -/

/-- Spare cores left in a flask (R8, R85). -/
def sparesLeft (s : State) (fl : Nat) : Nat := Config.spareFuse fl % 3 - (flaskAt s fl).spareUsed

/-- SVN (R78). -/
def svnOf (s : State) : BitVec 32 := s.boot.svn.getD Config.svnFuse

/-- THERM: TEMP is at or above TCRIT (R58). -/
def therm (s : State) (fl : Nat) : Bool := sysFld s (sel 12 fl) 24 8 ≤ sysFld s (sel 13 fl) 40 8

/-- What a read of a register gives: the fields that follow other state are taken from it (R28, R58, R78, R85). -/
def sysRead (s : State) (x : Nat) : DWord :=
  let v := sysVal s x
  match x / 4096 with
  | 2 => setFld v 63 1 (if v.setWidth 48 == (flaskAt s (x % 4096)).masks then 0 else 1)
  | 13 => setFld v 33 1 (if therm s (x % 4096) then 1 else 0)
  | 20 => setFld v 12 4 (sparesLeft s (sysFld s (sel 19 0) 23 5))
  | 28 => setFld v 32 32 (svnOf s).toNat
  | _ => v

/-! ### Writing (R401) -/

/-- The park that stands for a group: a QUOTA stop, or a request of its context, team, flask or core (R57, R64, R86, R257,
R407). -/
def parkDue (s : State) (core : Nat) (x : Group) : Option ParkWhy :=
  if isOver s x.ctx then some .quota
  else if bit (sysVal s (sel 23 x.ctx)) 0 then some .preempt
  else if ((teamOf s x.team).bind fun t => t.migTo).isSome then some .migrate
  else if !((teamOf s x.team).any fun t => t.moving) then none
  else if (flaskAt s (coreFlask core)).halting then some .halt
  else if (coreAt s core).noAdmit then some .retire
  else none

/-- Ask a group for the park that stands for it. Log entry 42. -/
def askDue (s : State) (core : Nat) (x : Group) : Group :=
  match parkDue s core x with
  | none => x
  | some .quota => askQuota x
  | some w => askPark w x

/-- The requests of one kind that groups have not yet met are withdrawn; what else stands is asked for. Log entry 42. -/
def dropParks (s : State) (p : Group → Bool) (why : ParkWhy) : State :=
  let one := fun (q : Nat × Group) =>
    if p q.2 && (q.2.park.map fun (r : ParkReq) => r.why) == some why then (q.1, askDue s (slotCore q.1) (dropPark q.2)) else q
  { s with groups := s.groups.map one }

/-- QUOTA (R57): a value of zero or above clears OVER. -/
def writeQuota (s : State) (ctx : Nat) (v : DWord) : State :=
  let s := setCount s ctx v.toInt
  if v.toInt < 0 then s
  else dropParks (setSysFld s (sel 11 ctx) 1 1 0) (fun x => x.ctx == ctx) .quota

/-- SLICECFG (R11, R12). -/
def writeSlicecfg (s : State) (fl : Nat) (v : DWord) : State :=
  let x := sel 1 fl
  let s := setSys s x (plainWrite x (sysVal s x) v)
  let n := fld v 0 4
  if n = 0 || 12 < n || sysFld s x 8 1 = 1 then setSysFld s x 9 1 1 else setSysFld s x 0 4 n

/-- RTHRESH (R35): THRESH 0 returns the flask's REP granules to MS. -/
def writeRthresh (s : State) (core fl : Nat) (v : DWord) : State :=
  let x := sel 3 fl
  let s := setSys s x (plainWrite x (sysVal s x) v)
  if fld v 0 8 != 0 then s
  else ((flaskAt s fl).dir.filter fun p => p.2.rep).foldl (fun s p => toMs s p.1 p.2 none core p.2.w) s

/-- FLUECTL (R38): a mode change drops the link, and the port trains in the new mode. Log entry 48. -/
def writeFluectl (s : State) (port : Nat) (v : DWord) : State :=
  let x := sel 4 port
  let s := setSys s x (plainWrite x (sysVal s x) v)
  let m := fld v 0 4
  if 3 ≤ m || (m = 2 && port != 5 && port != 11) then setSysFld s x 17 1 1
  else if m = sysFld s x 4 4 then setSysFld s x 0 4 m
  else
    let s := setSysFld (setSysFld (setSysFld s x 0 4 m) x 4 4 m) x 16 1 0
    { s with ports := mmod s.ports port {} fun (p : Port) => { p with retrain := m != 0 } }

/-- The L2 ways that quiet contexts may keep: every flask has at least 4 x CURL2 ways, of which 4 stay common (R131). -/
def quietWays (s : State) : Nat :=
  4 * ((List.range 32).foldl (fun m fl => min m (sysFld s (sel 1 fl) 12 4)) 12) - 4

/-- QWAYS of all quiet contexts together. Log entry 41. -/
def quietUse (s : State) : Nat :=
  (List.range 256).foldl (fun n c => if isQuiet s c then n + sysFld s (sel 22 c) 10 6 else n) 0

/-- QUIETCTL (R131). -/
def writeQuietctl (s : State) (ctx : Nat) (v : DWord) : State :=
  let x := sel 22 ctx
  let t := setSys s x (plainWrite x (sysVal s x) v)
  if quietWays t < quietUse t then setSysFld s x 1 1 1 else t

/-- The partitions that too few ways are left for are cut (R131). Log entry 41. -/
def cutQuiet (s : State) : State :=
  if quietUse s ≤ quietWays s then s
  else (List.range 256).foldl (fun s c =>
    if isQuiet s c then setSysFld (setSysFld s (sel 22 c) 10 6 0) (sel 22 c) 1 1 1 else s) s

/-- Issue of a key (R82). Log entry 46. -/
def issueKey (s : State) (id : Nat) : State :=
  let x := sel 18 id
  if sysFld s x 0 2 != 0 then s else setSysFld (setSysFld s x 16 8 (sysFld s x 16 8 + 1)) x 0 2 1

/-- Retirement of a key begins (R82, R83). Log entry 46. -/
def retireKey (s : State) (id : Nat) : State :=
  let x := sel 18 id
  if id = 0 || sysFld s x 0 2 != 1 then s else setSysFld s x 0 2 2

/-- KEYTAB (R82). -/
def writeKeytab (s : State) (id : Nat) (v : DWord) : State :=
  match fld v 2 2 with
  | 1 => issueKey s id
  | 2 => retireKey s id
  | _ => s

/-- The flask, or beyond the last, that lies at an edge: 0 east, 1 west, 2 north, 3 south (R6, R85). Log entry 45. -/
def edgeFlask (fl edge : Nat) : Option Nat :=
  match edge with
  | 0 => if fl % 4 < 3 then some (fl + 1) else none
  | 1 => if 0 < fl % 4 then some (fl - 1) else none
  | 2 => if 4 ≤ fl then some (fl - 4) else none
  | _ => if fl < 28 then some (fl + 4) else none

/-- The UCIe lane group of a command, named once for both flasks of the edge: by the lower flask (R22). -/
def laneGroup (fl edge mod lane : Nat) : Nat × Nat :=
  let g := 32 * mod + lane / 8
  match edge with
  | 0 => (fl, g)
  | 1 => (fl - 1, g)
  | 2 => (fl - 4, 1024 + g)
  | _ => (fl, 1024 + g)

/-- The unit that FLASK of a service command names: for kind 3 a stack, by the low 4 bits (R85). Log entry 47. -/
def cmdUnit (v : DWord) : Nat := if fld v 28 4 = 3 then fld v 23 4 else fld v 23 5

/-- Why a service command cannot run: 2 no spare, 3 bad target (R85 to R89). Log entry 47. -/
def svcRefusal (s : State) (v : DWord) : Option Nat :=
  let kind := fld v 28 4
  let fl := fld v 23 5
  let idx := fld v 8 8
  let lane := fld v 16 6
  let bad := match kind with
    | 1 | 2 => 16 ≤ idx || lane != 0
    | 3 => 32 ≤ idx || lane != 0
    | 4 => 12 ≤ fl || 8 ≤ idx || lane != 0
    | 5 => idx % 16 != 0 || (edgeFlask fl (idx / 64)).isNone
    | _ => true
  let none' := match kind with
    | 1 => sparesLeft s fl == 0
    | 2 => (flaskAt s fl).sliceUsed
    | 4 => (mget s.ports fl {}).spare
    | 5 =>
      let (f, g) := laneGroup fl (idx / 64) (idx / 16 % 4) lane
      (flaskAt s f).lanes.contains g
    | _ => false
  if bad then some 3 else if none' then some 2 else none

/-- A service command ends: SVCSTAT and the notice report it (R74, R85). Log entry 47. -/
def svcEnd (s : State) (cmd : DWord) (err : Nat) : State :=
  let x := sel 20 0
  let s := setSysFld (setSysFld (setSysFld s x 0 1 0) x 1 1 1) x 8 4 err
  let s := { s with svc := none, svcFin := false }
  serviceNotice s 2 0xFF 0xFFFF 0xFF (sysRead s x) cmd

/-- SVCCMD (R85): GO starts the command. Log entry 47. -/
def writeSvccmd (s : State) (v : DWord) : State :=
  let x := sel 19 0
  let s := setSys s x (plainWrite x (sysVal s x) v)
  if !bit v 0 then s
  else if s.svc.isSome then setSysFld s (sel 20 0) 8 4 1
  else
    let cmd := sysVal s x
    match svcRefusal s cmd with
    | some e => svcEnd s cmd e
    | none =>
      let y := sel 20 0
      { setSysFld (setSysFld (setSysFld s y 0 1 1) y 1 1 0) y 8 4 0 with svc := some cmd, svcFin := false }

/-- GANGTAB (R128, R129): READY tasks that the entry no longer admits count no more; those that it has not admitted until now do. -/
def writeGangtab (s : State) (g : Nat) (v : DWord) : State :=
  let x := sel 21 g
  let s := setSys s x (plainWrite x (sysVal s x) v)
  let s := dropForeign { s with gangStuck := s.gangStuck.filter fun k => k != g } g
  (s.tasks.filter fun t => t.gang == g && t.ready.isSome && !t.counted).foldl gangCount s

/-- A context has a resident group. -/
def hasGroups (s : State) (ctx : Nat) : Bool := s.groups.any fun p => p.2.ctx == ctx

/-- PARK becomes 1 (R257): every group of the context is asked to park. Log entry 42. -/
def parkCtx (s : State) (ctx : Nat) : State :=
  modGroups (setSysFld s (sel 23 ctx) 0 1 1) (fun x => x.ctx == ctx) (askPark .preempt)

/-- RESUME (R257): PARK and PARKED clear; what has not been saved yet runs on, and what has been is restored by
GROUP_RESUME. Log entry 42. -/
def resumeCtx (s : State) (ctx : Nat) : State :=
  dropParks (setSysFld s (sel 23 ctx) 0 2 0) (fun x => x.ctx == ctx) .preempt

/-- CTXCTL (R254, R257): the counts of images stand while a group is resident. Log entry 42. -/
def writeCtxctl (s : State) (ctx : Nat) (v : DWord) : State :=
  let x := sel 23 ctx
  let s := setSys s x (plainWrite x (sysVal s x) v)
  let s := if hasGroups s ctx then s else setSysFld s x 38 26 (fld v 38 26)
  let s := if bit v 0 then parkCtx s ctx else setSysFld s x 0 1 0
  if bit v 2 then resumeCtx s ctx else s

/-- SAVEA and SAVEB (R254). -/
def writeSave (s : State) (x : Nat) (v : DWord) : State :=
  if hasGroups s (x % 4096) then s else setSysFld s x 12 44 (fld v 12 44)

/-- DBGCTL (R258): STEP stays until the step is taken. Log entry 51. -/
def writeDbgctl (s : State) (core : Nat) (v : DWord) : State :=
  let x := sel 27 core
  let s := setSys s x (plainWrite x (sysVal s x) v)
  if bit v 1 then setSysFld s x 1 1 1 else s

/-- A write to a register by a party of core `core` (512 for none), applied by its unit (R401). -/
def regWrite (s : State) (core x : Nat) (v : DWord) : State :=
  let i := x % 4096
  match x / 4096 with
  | 1 => writeSlicecfg s i v
  | 3 => writeRthresh s core i v
  | 4 => writeFluectl s i v
  | 10 => writeQuota s i v
  | 18 => writeKeytab s i v
  | 19 => writeSvccmd s v
  | 21 => writeGangtab s i v
  | 22 => writeQuietctl s i v
  | 23 => writeCtxctl s i v
  | 24 | 25 => writeSave s x v
  | 27 => writeDbgctl s i v
  | _ => setSys s x (plainWrite x (sysVal s x) v)

/-- MINPT as the governor takes it (R58). -/
def minPt (s : State) (fl : Nat) : Nat := min (sysFld s (sel 12 fl) 0 4) (sysFld s (sel 12 fl) 4 4)

end Sys2Proof.Machine
end

