-- ==== Sys2Proof/Machine/Park.lean ====
section
/-! DEFINITION. Parks at safe points and their saves, the kernel's answers to a stop, migration, kills of whole teams by
errors and overruns, page requests and notices (R64, R65, R72, R73, R86, R96, R155, R170, R187, R245 to R257). -/

namespace Sys2Proof.Machine

open Host

/-! ### Saving a parked group (R246, R247) -/

/-- Every path is held at a safe point, or frozen, and no reply of the fitting engine is awaited (R246, R408). -/
def grpParked (x : Group) : Bool :=
  x.park.isSome && x.stop.isNone && !x.done && !x.paths.isEmpty
    && (x.paths.all fun p => (p.held || p.frozen) && (match p.wait with | .apx _ => false | _ => true))
    && !(x.uiAct && match x.uiWait with | .apx _ => true | _ => false)

/-- The word and the lanes of the most populous path. -/
def mainPath (x : Group) : Pc × LaneMask :=
  match x.paths with
  | [] => (0, 0)
  | p :: ps =>
    let q := ps.foldl (fun (a : Path) b => if countLanes a.lanes < countLanes b.lanes then b else a) p
    (q.pc, q.lanes)

/-- The team has no queued or running engine operation (R64). -/
def engineIdle (s : State) (uid : Nat) : Bool :=
  let mine := ((s.groups.filter fun p => p.2.team == uid).map fun p => p.2.uid)
    ++ (s.parked.filter fun p => p.g.team == uid).map fun p => p.g.uid
  !(s.cores.any fun c => (c.2.copies.any fun k => k.team == uid) || c.2.mx.ops.any fun o => o.team == uid)
    && !(s.hbm.any fun k => k.2.queues.any fun q => q.2.any fun o => mine.contains o.uid)
    && !(s.nmWait.any fun o => mine.contains o.uid)

/-- Every group of the team is parked or saved, and its engine operations are over: a park of migration, retirement or HALT
saves it only then (R64, R86, R407). Log entry 29. -/
def teamParked (s : State) (uid : Nat) : Bool :=
  engineIdle s uid && (s.groups.filter fun p => p.2.team == uid && !p.2.done).all fun p => grpParked p.2

/-- A park that takes the whole team. -/
def wholePark (w : ParkWhy) : Bool := match w with | .migrate | .retire | .halt => true | _ => false

/-- Save a parked group once its save conditions hold (R153, R246); its image carries a park record, of code 0.
Log entry 17. -/
def saveParked (s : State) (g : Nat) (why : ParkWhy) : State :=
  match groupAt s g with
  | none => s
  | some x =>
    if wholePark why && !teamParked s x.team then s else
    let s := settleFixed (stopStreams (endBurst s g) g) x.uid
    let (ok, s) := release s g .dev
    match groupAt s g with
    | none => s
    | some x =>
      let liveOnly := why != .debug && grpSafe x
      if !ok || !saveReady s x liveOnly then s
      else
        let x := { x with recents := [] }
        let pc := (mainPath x).1
        let st : Stop := { code := 0, pc := pc, lanes := 0, addr := 0, aux := 0, word := 0, origin := 0,
                           drone := BitVec.ofNat 64 (flaskDrone s (coreFlask (slotCore g))), flags := if liveOnly then 2 else 0 }
        match writeImage s g x st liveOnly with
        | (none, s) => loseContext s x.ctx
        | (some b, s) => parkAs s g x b st (some why) liveOnly

/-- GROUP_PARKED (R246): a deferred cause goes first (R251); a QUOTA stop is a trap at a safe point (R57, R250), any other park a save
without a record in the trap queue. -/
def execGroupParked (g : Nat) (s : State) : Outcome State Fault Refusal :=
  match groupAt s g with
  | none => .next s
  | some x =>
    if !grpParked x then .next s
    else match x.park, x.causes with
      | none, _ => .next s
      | some _, c :: rest => .next (takeTrap (setGroup s g { x with causes := rest }) g c (mainPath x).1)
      | some r, [] => .next (match r.why with
        | .quota => takeTrap s g { code := 0x0C, lanes := aliveLanes x, aux := sysVal s (sel 10 x.ctx) } (mainPath x).1
        | w => saveParked s g w)

/-! ### Coming back (R252) -/

/-- The state of a team moves to another core with its binding (R115, R116). Log entry 42. -/
def moveTeam (s : State) (uid core : Nat) : State :=
  match teamOf s uid with
  | none => s
  | some t =>
    let s := { s with tasks := s.tasks.map fun x => if x.team == uid then { x with core := core } else x }
    match t.core with
    | none => s
    | some c =>
      if c = core then s
      else
        let mx := (coreAt s c).mx
        let s := if mx.holder == some uid then
            let s := modCore s c fun k => { k with mx := { k.mx with holder := none, recs := [], poison := [] } }
            modCore s core fun k => { k with mx := { k.mx with
              holder := some uid, last := some t.ctx, recs := mx.recs, poison := mx.poison } }
          else s
        let bufs := (coreAt s c).bufs.filter fun p => p.2.team == uid
        let s := modCore s c fun k => { k with bufs := k.bufs.filter fun p => p.2.team != uid }
        let s := modCore s core fun k => { k with bufs := bufs.foldl (fun m p => mput m p.1 p.2) k.bufs }
        holdPad s uid core

/-- The team's hold on the matrix unit and its circular buffers can follow it to a core (R215, R255). Log entry 42. -/
def mxFollows (s : State) (t : Team) (core : Nat) : Bool :=
  match t.core with
  | some c => c == core ||
      (((coreAt s c).mx.holder != some t.uid || (coreAt s core).mx.holder.isNone)
        && (coreAt s c).bufs.all fun p => p.2.team != t.uid || (mget? (coreAt s core).bufs p.1).isNone)
  | none => true

/-- A saved group has a place in a quarter of a core: a slot, registers, and the limits of R115. -/
def hasPlace (s : State) (x : Group) (core quarter : Nat) : Bool :=
  decide (core < 512) && decide (quarter < 4) && (x.grid = 0 || x.gid % 4 = quarter) && !(freeSlots s core quarter).isEmpty
    && (fitTier s core quarter x.regs).isSome && (coreAt s core).enabled && !(flaskAt s (coreFlask core)).gated
    && decide (((inQuarter s core quarter).filter fun p => p.2.team == x.team).length < 4)

/-- A saved group comes back (R197, R245, R252): what is left of its stop is `edit`'s; park requests that stand are made
again, and registers that its wave has lent are lent. -/
def putBack (s : State) (i core quarter : Nat) (edit : Parked → Group → Group) : Option State :=
  match s.parked[i]? with
  | none => none
  | some p =>
    if !hasPlace s p.g core quarter then none
    else match pickSlot s core quarter, fitTier s core quarter p.g.regs with
      | some g, some tier =>
        let s := resumeIn { s with free := s.free + 1 } i g edit
        let s := placeRegs (modGroup s g fun x => { x with tier := tier, units := [] }) g tier
        let s := lendBack s g
        let s := modGroup s g (askDue s core)
        some (barStep s p.g.team)
      | _, _ => none

/-- The kernel may resume a saved group on a core (R64, R65, R110, R132, R252, R257, R407): elsewhere only a team of no gang whose engine
operations are over. Log entry 42. -/
def mayResume (s : State) (p : Parked) (core : Nat) : Bool :=
  match teamOf s p.g.team with
  | none => false
  | some t =>
    let home := t.core.getD p.core
    let level := stealLevel core home
    coreOpen s core && ctxResident s p.g.ctx && sysFld s (sel 23 p.g.ctx) 6 1 == 0 && t.migTo.isNone
      && !(p.why == some .preempt && bit (sysVal s (sel 23 p.g.ctx)) 0)
      && (!t.moving || (p.why == some .halt && t.mig && coreFlask core != coreFlask home))
      && (level.isNone || (!t.pin && t.gang == 0 && engineIdle s t.uid && !isQuiet s p.g.ctx && (level != some 2 || t.mig))) && mxFollows s t core

/-- A resume by the kernel. A team with no resident group takes its binding along. -/
def kernelResume (s : State) (i core quarter : Nat) (edit : Parked → Group → Group) : State :=
  match s.parked[i]? with
  | none => s
  | some p =>
    if !mayResume s p core then s
    else
      let whole := ((teamOf s p.g.team).map fun t => t.saved).getD false
      let t := if whole then moveTeam s p.g.team core else s
      let t := modTeam t p.g.team fun t => { t with moving := false }
      (putBack t i core quarter edit).getD s

/-- A stop of code BREAKPOINT that is resumed in place (R293): a BKPT is stepped over; a path that a debug register stopped
issues its word. Log entry 51. -/
def passBreak (p : Parked) (x : Group) : Group :=
  if p.code != 0x0A then x
  else
    let go := fun (q : Path) =>
      if q.pc != p.pc || q.lanes &&& p.lanes = 0 then q
      else if p.aux == 0xFF then { q with pc := nextPc q.pc x.bkptSp, live := [], whole := false }
      else { q with skipBp := true }
    { x with paths := regang (x.paths.map go) }

/-- GROUP_RESUME (R252): each path restarts at its saved PC. -/
def execGroupResume (i core quarter : Nat) (s : State) : Outcome State Fault Refusal :=
  .next (kernelResume s i core quarter passBreak)

/-- The paths that hold lanes of the record restart at the trap handler, with CODE in s62 and PC in s63 (R252). -/
def redirect (pc : Pc) (p : Parked) (x : Group) : Group :=
  let go := fun (q : Path) => if q.lanes &&& p.lanes = 0 then q else { q with pc := pc, wait := .run, live := [], whole := false }
  putS (putS { x with paths := regang (x.paths.map go) } 62 (BitVec.ofNat 64 p.code)) 63 (p.pc.setWidth 64)

/-- GROUP_REDIRECT (R252): with TRAPPC of all ones the context has no handler. Log entry 42. -/
def execGroupRedirect (i core quarter : Nat) (s : State) : Outcome State Fault Refusal :=
  match s.parked[i]? with
  | none => .next s
  | some p =>
    let pc := descField s p.g.ctx 0x30 4
    if pc = 0xFFFFFFFF then .next s else .next (kernelResume s i core quarter (redirect (BitVec.ofNat 32 pc)))

/-- GROUP_KILL (R252). -/
def execGroupKill (i : Nat) (s : State) : Outcome State Fault Refusal :=
  match s.parked[i]? with
  | none => .next s
  | some p => .next (killParked s p.g.uid)

/-- Groups saved on a core for a reason come back to it, in their quarters. Log entry 42. -/
def bringBack (s : State) (why : ParkWhy) (core : Nat) : State :=
  s.parked.foldl (fun s p =>
    if p.why == some why && p.core == core then
      match s.parked.findIdx? fun q => q.g.uid == p.g.uid with
      | some i => (putBack s i core p.quarter fun _ x => x).getD s
      | none => s
    else s) s

/-- Teams bound to a core are no longer on their way. -/
def settleTeams (s : State) (core : Nat) : State :=
  { s with teams := s.teams.map fun t => if t.core == some core then { t with moving := false } else t }

/-! ### Context parks (R257) -/

/-- CTXCTL_PARK. -/
def execCtxctlPark (ctx : Nat) (s : State) : Outcome State Fault Refusal :=
  if 256 ≤ ctx then .fault .noUnit else .next (parkCtx s ctx)

/-- CTXCTL_RESUME. -/
def execCtxctlResume (ctx : Nat) (s : State) : Outcome State Fault Refusal :=
  if 256 ≤ ctx then .fault .noUnit else .next (resumeCtx s ctx)

/-! ### Kills of a team (R64, R96, R155, R187) -/

/-- The record of a kill (R248): FLAGS say that the team is killed, and whether it is relaunched. Log entry 43. -/
def killRecord (s : State) (g : Nat) (x : Group) (code : Nat) (aux : DWord) (again : Bool) : State :=
  let st : Stop := { code := code, pc := (mainPath x).1, lanes := aliveLanes x, addr := 0, aux := aux, word := 0, origin := 0,
                     drone := BitVec.ofNat 64 (flaskDrone s (coreFlask (slotCore g))), flags := if again then 12 else 4 }
  notify s (4 + x.ctx) (recordBytes s g x st)

/-- An uncorrectable error in storage of a team: it is killed, and relaunched if IDEM is set (R187). Log entry 43. -/
def killByError (s : State) (uid gid kind : Nat) : State :=
  match s.groups.find? fun p => p.2.team == uid && p.2.gid == gid && !p.2.done, teamOf s uid with
  | some (g, x), some t =>
    let s := dropMig (killRecord s g x 0x0F (BitVec.ofNat 64 kind) t.idem) uid
    if t.idem then relaunchTeam s uid (t.core.getD (slotCore g)) else killTeam s uid
  | _, _ => s

/-- The restore of a saved group meets an uncorrectable error: its team is killed, and relaunched if IDEM is set (R187, R256).
Log entry 43. -/
def killByRestore (s : State) (uid kind : Nat) : State :=
  match s.parked.find? fun p => p.g.uid == uid with
  | none => s
  | some p => match teamOf s p.g.team with
    | none => s
    | some t =>
      let s := dropMig (killRecord s (slotKey p.core p.quarter p.slot) p.g 0x0F (BitVec.ofNat 64 kind) t.idem) t.uid
      if t.idem then relaunchTeam s t.uid (t.core.getD p.core) else killTeam s t.uid

/-- A resident group has issued LIMIT instructions since a park request (R63, R64, R86, R246). Log entry 29. -/
def overran (s : State) (g : Nat) (x : Group) (r : ParkReq) : Bool :=
  let limit := sysFld s (sel 14 (coreFlask (slotCore g))) 0 32
  limit != 0 && decide (limit ≤ r.issued) && !grpParked x
    && r.why != .debug

/-- REGION_OVERRUN (R64): the team starts its phase again on the flask chosen for it, if IDEM is set. Log entry 29. -/
def execRegionOverrun (g : Nat) (s : State) : Outcome State Fault Refusal :=
  match groupAt s g with
  | none => .next s
  | some x =>
    match x.park, teamOf s x.team with
    | some r, some t =>
      if !overran s g x r then .next s
      else
        let home := t.core.getD (slotCore g)
        if t.idem then
          .next (relaunchTeam (dropMig s t.uid) t.uid (match t.migTo with | some fl => 16 * fl + home % 16 | none => home))
        else
          let s := withdrawMig s x 0x0D
          .next (killTeam (killRecord s g x 0x0D (BitVec.ofNat 64 r.issued) false) t.uid)
    | _, _ => .next s

/-! ### Migration (R64, R65) -/

/-- A saved team goes to a core: the groups that were saved for that come back there, and the others stay saved, for the kernel to
resume (R64, R257). Log entry 42. -/
def moveAll (s : State) (uid core : Nat) : Option State :=
  let ps := s.parked.filter fun p => p.g.team == uid && p.why == some .migrate
  let s := modTeam (moveTeam s uid core) uid fun t => { t with migTo := none }
  let s := { s with parked := s.parked.map fun p => if p.g.team == uid then { p with core := core } else p }
  ps.foldl (fun acc p => acc.bind fun s =>
    (s.parked.findIdx? fun q => q.g.uid == p.g.uid).bind fun i => putBack s i core p.quarter fun _ x => x) (some s)

/-- MIGRATED (R64): the team, parked whole and idle, is resumed on a core of the chosen flask that has room for it; groups that another
park had saved before go with it. -/
def execMigrated (team fl : Nat) (s : State) : Outcome State Fault Refusal :=
  if 32 ≤ fl then .fault .noUnit
  else match teamOf s team with
    | none => .next s
    | some t =>
      let ps := s.parked.filter fun p => p.g.team == team
      let parked := !ps.isEmpty && !s.groups.any fun p => p.2.team == team && !p.2.done
      if t.migTo != some fl || !parked || !engineIdle s team then .next s
      else
        let cores := (List.range 16).map fun k => 16 * fl + (k + Config.freeNat s.free 0) % 16
        match cores.findSome? fun c => if coreOpen s c && mxFollows s t c then moveAll { s with free := s.free + 1 } team c else none with
        | none => .next s
        | some u =>
          let core := ((teamOf u team).bind fun t => t.core).getD 0
          let old := (t.core.map coreFlask).getD 0
          .next (powerNotice (dropMig u team) 2 t.ctx core fl (BitVec.ofNat 64 t.index) (BitVec.ofNat 64 (old + 256 * fl)))

/-! ### Errors (R187) -/

/-- UNCORRECTABLE_ERROR (R187, R256). Log entry 43. -/
def execUncorrectableError (site : ErrSite) (s : State) : Outcome State Fault Refusal :=
  match site with
  | .team uid gid kind => .next (killByError s uid gid kind)
  | .l1 core asid line off uid gid =>
    match l1Find (coreAt s core) asid line with
    | none => .next s
    | some x =>
      if off < 128 && x.valid.getLsbD off then
        let m := ~~~ (BitVec.ofNat 128 (2 ^ off))
        let t := modCore s core fun c => l1Put c { x with valid := x.valid &&& m, dirty := x.dirty &&& m }
        let here := s.groups.any fun p => p.2.team == uid && p.2.gid == gid && slotCore p.1 == core && asidOf s p.2.ctx == asid
        if !x.dirty.getLsbD off then .next t else if here then .next (killByError t uid gid 3) else .next s
      else .next s
  | .line line =>
    if 2 ≤ keyTier (128 * line) || (lineFor s 0 line).clear then .next s else .next (poisonLine s 0 line)
  | .restore uid kind => .next (killByRestore s uid kind)
  | .save ctx image areaB =>
    if 256 ≤ ctx then .fault .noUnit
    else
      let x := sel 23 ctx
      if !areaB then
        (if bit (sysVal s x) 7 then .next s
         else
           let s := setSysFld s x 7 1 1
           if bit (sysVal s x) 8 then .next (loseContext s ctx)
           else .next (serviceNotice s 5 ctx 0xFFFF 0xFF (BitVec.ofNat 64 image) 0))
      else if !bit (sysVal s x) 7 || bit (sysVal s x) 8 then .next s
      else .next (loseContext (setSysFld s x 8 1 1) ctx)

/-- CORRECTED (R74, R187): one more corrected error of a unit. DESIGN CHOICE (log entry 43): CTX is none in every such notice, and CORE
and FLASK are for storage outside a core. -/
def execCorrected (kind unit line : Nat) (s : State) : Outcome State Fault Refusal :=
  if 8 ≤ kind then .fault .noUnit
  else
    let k := kind * 2 ^ 32 + unit
    let n := mget s.corrected k 0 + 1
    let s := { s with corrected := mput s.corrected k n }
    let (core, fl) := if kind < 5 then (unit % 512, unit % 512 / 16) else (0xFFFF, 0xFF)
    let pa := if kind < 5 then 0 else keyPa (128 * line)
    .next (if n % 256 = 0 then serviceNotice s 1 0xFF core fl (BitVec.ofNat 64 kind) (BitVec.ofNat 64 pa) else s)

/-! ### Page requests and notices (R72, R73, R170) -/

/-- The page is mapped. -/
def pageMapped (s : State) (ctx page : Nat) : Bool :=
  match walk s ctx (page * 4096) with
  | .ok _ _ => true
  | _ => false

/-- PREQ_COMPLETE (R170, R356): the kernel has mapped or refused a page; the request is complete with its last page.
Log entry 44. -/
def execPreqComplete (id page : Nat) (mapped : Bool) (s : State) : Outcome State Fault Refusal :=
  match s.preqs.find? fun q => q.id == id with
  | none => .next s
  | some q =>
    if !q.pages.contains page || (mapped && !pageMapped s q.ctx page) then .next s
    else
      let rest := q.pages.filter fun p => p != page
      if rest.isEmpty then .next (fall { s with preqs := s.preqs.filter fun r => r.id != id } q.sig)
      else .next { s with preqs := updFirst (fun r => r.id == id) (fun r => { r with pages := rest }) s.preqs }

/-- NOTICE_WRITE (R72, R73): a producer writes the entry that it holds, once the queue has room. Log entry 44. -/
def execNoticeWrite (i : Nat) (s : State) : Outcome State Fault Refusal :=
  match s.notices[i]? with
  | none => .next s
  | some n => .next ((queuePut { s with notices := s.notices.eraseIdx i } n.queue n.bytes).getD s)

end Sys2Proof.Machine
end

