-- ==== Sys2Proof/Machine/Power.lean ====
section
/-! DEFINITION. The current controller, standing grants, the governor, droop, and the drone: the events of clocks and power
(R39 to R42, R46, R47, R51, R53, R56 to R61, R64, R310). -/

namespace Sys2Proof.Machine

open Host

/-! ### The controller (R46, R47) -/

/-- A number held between two bounds. -/
def clampI (x lo hi : Int) : Nat := (max lo (min x hi)).toNat

/-- One step of the controller: INTEG and CEIL after it. -/
def piStep (budget kp ki integ est mv : Nat) : Nat × Nat :=
  let e : Int := (budget : Int) - est
  let integ := clampI ((integ : Int) + ((ki : Int) * e).fdiv 65536) 0 65535
  let u := clampI (((kp : Int) * e).fdiv 65536 + integ) 0 65535
  (integ, clampI ((4 * u / mv : Nat)) 48 1023)

/-- EST of the microsecond that has ended (R46). Log entry 28. -/
def estOf (s : State) (c : Nat) : Nat := min (energyOf (kindsOf (clusAt s c).events fun _ => true)) 65535

/-- The step of a cluster's controller, once at each multiple of 1,000 ns (R46, R47): PCSTAT shows what it leaves.
Log entry 28. -/
def piController (s : State) (c : Nat) : State :=
  if (clusAt s c).piAt == s.fab + 1 || !passes s (c / 4) 1000 then s
  else
    let est := estOf s c
    let (integ, ceil) := piStep (sysFld s (sel 6 c) 0 16) (sysFld s (sel 7 c) 0 16) (sysFld s (sel 8 c) 0 16)
      (sysFld s (sel 9 c) 32 16) est (vmv s (c / 4))
    let s := modClus s c fun k => { k with piAt := s.fab + 1, events := [], ests := (est :: k.ests).take 50 }
    setSysFld (setSysFld (setSysFld (setSysFld s (sel 9 c) 48 16 est) (sel 9 c) 32 16 integ) (sel 9 c) 16 10 (grantedOf s c))
      (sel 9 c) 0 10 ceil

/-- PI_CONTROLLER_STEP (R47). An event that names another EST than R46 gives is no step. Log entry 7.
Log entries 1 and 28. -/
def execPiControllerStep (c est : Nat) (s : State) : Outcome State Fault Refusal :=
  if 128 ≤ c then .fault .noUnit else .next (if est = estOf s c then piController s c else s)

/-! ### Standing grants (R56, R57) -/

/-- Contexts with a resident group in a cluster. Log entry 28. -/
def clusContexts (s : State) (c : Nat) : List Nat :=
  dedup ((s.groups.filter fun p => coreDomain (slotCore p.1) == c && !p.2.done).map fun p => p.2.ctx)

/-- What each context has used under the standing grants of the microsecond that has ended (R56). -/
def standUsed (s : State) (c : Nat) : List (Nat × Nat) :=
  let k := clusAt s c
  k.standing.map fun p => (p.1, energyOf (kindsOf k.unres fun x => x == p.1))

/-- The standing grants of the microsecond that has ended are trued up against each context's unreserved energy (R56).
Log entry 28. -/
def trueUp (s : State) (c : Nat) : State :=
  let k := clusAt s c
  let s := modClus s c fun k => { k with standing := [], unres := [], bare := [] }
  k.standing.foldl (fun s p => giveBack s p.1 p.2 (energyOf (kindsOf k.unres fun x => x == p.1))) s

/-- The standing grants of the microsecond that begins. -/
def standNow (s : State) (c : Nat) : State :=
  let cs := clusContexts s c
  let e := ceilDiv (ceilDiv (16 * vmv s (c / 4) * 1000) 4000) (max 1 cs.length)
  cs.foldl (fun s ctx =>
    if isOver s ctx then s
    else charge (modClus s c fun k => { k with standing := k.standing ++ [(ctx, e)] }) ctx e) s

/-- Once at each multiple of 1,000 ns (R56). Log entry 28. -/
def standingGrants (s : State) (c : Nat) : State :=
  if (clusAt s c).stdAt == s.fab + 1 || !passes s (c / 4) 1000 then s
  else standNow (modClus (trueUp s c) c fun k => { k with stdAt := s.fab + 1 }) c

/-- STANDING_GRANT (R56). An event that names other energies than those used under the grants that end is no step. Log entry 7.
Log entries 1 and 28. -/
def execStandingGrant (c : Nat) (used : List (Nat × Nat)) (s : State) : Outcome State Fault Refusal :=
  if 128 ≤ c then .fault .noUnit else .next (if used = standUsed s c then standingGrants s c else s)

/-- ARBITER_GRANT (R50, R51). -/
def execArbiterGrant (c : Nat) (s : State) : Outcome State Fault Refusal :=
  if 128 ≤ c then .fault .noUnit else .next (arbitrate s c)

/-- CURRENT_RAMP (R53). -/
def execCurrentRamp (c : Nat) (s : State) : Outcome State Fault Refusal :=
  if 128 ≤ c then .fault .noUnit else .next (ramp s c)

/-! ### Thermal migration (R63, R64) -/

/-- The warning temperature as the governor takes it (R58). -/
def warnTemp (s : State) (fl : Nat) : Nat :=
  let crit := sysFld s (sel 12 fl) 24 8
  let warn := sysFld s (sel 12 fl) 16 8
  if crit ≤ warn then crit - 5 else warn

/-- Where the groups of a team are wanted: quarter and registers. -/
def teamNeeds (s : State) (uid : Nat) : List (Nat × Nat) :=
  ((s.groups.filter fun p => p.2.team == uid && !p.2.done).map fun p => (slotQuarter p.1, p.2.regs))
    ++ (s.parked.filter fun p => p.g.team == uid).map fun p => (p.quarter, p.g.regs)

/-- A core has room for the whole team. -/
def coreRoom (s : State) (t : Team) (core : Nat) : Bool :=
  let needs := teamNeeds s t.uid
  coreOpen s core && mxFollows s t core && decide (scratchUsed s core + t.scratch ≤ 524288)
    && (List.range 4).all fun q =>
      let mine := needs.filter fun p => p.1 == q
      let regs := mine.foldl (fun n p => n + allocOf p.2) 0
      decide (mine.length ≤ (freeSlots s core q).length) && decide (fileUsed s core q + regs ≤ 2048)

/-- Flasks that a migration may go to. -/
def coolFlasks (s : State) (t : Team) (fl : Nat) : List Nat :=
  (List.range 32).filter fun k =>
    k != fl && decide (sysFld s (sel 13 k) 40 8 + 10 ≤ warnTemp s k) && (List.range 16).any fun i => coreRoom s t (16 * k + i)

/-- A migration that is asked for, or waits, finds a flask, or a notice says that none qualifies. Log entry 29. -/
def placeMig (s : State) (fl uid : Nat) : State :=
  match teamOf s uid with
  | none => s
  | some t =>
    if t.migTo.isSome then s
    else
      let ks := coolFlasks s t fl
      let (d, s) := draw s
      match ks[Config.freeNat d 0 % max 1 ks.length]? with
      | some k =>
        let s := modTeam s uid fun t => { t with migTo := some k }
        modGroups s (fun x => x.team == uid) (askPark .migrate)
      | none => powerNotice s 4 t.ctx (t.core.getD 0xFFFF) fl (BitVec.ofNat 64 t.index) 0

/-- Teams that a hot flask asks to migrate. -/
def hotTeams (s : State) (fl : Nat) : List Nat :=
  (s.teams.filter fun t => t.mig && !t.pin && !t.killed && (t.core.map coreFlask) == some fl
    && s.groups.any fun p => p.2.team == t.uid && !p.2.done).map fun t => t.uid

/-- MIGREQ shows the requests pending. -/
def showMig (s : State) (fl : Nat) : State :=
  setSysFld s (sel 13 fl) 34 1 (if (flaskAt s fl).migs.isEmpty then 0 else 1)

/-- The thermal scheduler at a governor step: `hot` when TEMP has stayed at or above TWARN through the step.
Log entry 29. -/
def migStep (s : State) (fl : Nat) (hot : Bool) : State :=
  let s := if hot && sysFld s (sel 14 fl) 0 32 != 0 then
      modFlask s fl fun f => { f with migs := f.migs ++ (hotTeams s fl).filter fun u => !f.migs.contains u }
    else s
  showMig ((flaskAt s fl).migs.foldl (fun s u => placeMig s fl u) s) fl

/-! ### The governor (R58 to R60) -/

/-- A point held in the range that FGOV allows. -/
def clampPt (s : State) (fl n : Nat) : Nat := max (minPt s fl) (min n (sysFld s (sel 12 fl) 4 4))

/-- A group of a quiet context is resident on the flask. -/
def quietHere (s : State) (fl : Nat) : Bool :=
  s.groups.any fun p => coreFlask (slotCore p.1) == fl && !p.2.done && isQuiet s p.2.ctx

/-- The sum of EST over the last 50 us, 50 times the average (R59). -/
def estSum (s : State) (c : Nat) : Nat := (clusAt s c).ests.foldl (· + ·) 0

/-- The sums of a flask's four clusters. -/
def flaskSums (s : State) (fl : Nat) : List Nat := (List.range 4).map fun k => estSum s (4 * fl + k)

/-- The target by the first rule of R59 that applies. Log entry 29. -/
def targetPt (s : State) (fl : Nat) : Nat :=
  let f := sel 12 fl
  let stat := sel 13 fl
  let cur := curPt s fl
  let budget := fun (k : Nat) => 50 * sysFld s (sel 6 (4 * fl + k)) 0 16
  let sum := fun (k : Nat) => estSum s (4 * fl + k)
  if therm s fl then 0
  else if sysFld s f 15 1 = 1 || quietHere s fl then clampPt s fl (sysFld s f 8 4)
  else if (List.range 4).any (fun k => decide (17 * budget k < 16 * sum k)) || decide (warnTemp s fl ≤ sysFld s stat 40 8)
      || sysFld s stat 34 1 = 1 then clampPt s fl (cur - 1)
  else if (flaskAt s fl).busy && (List.range 4).all (fun k => decide (8 * sum k < 7 * budget k)) then clampPt s fl (cur + 1)
  else clampPt s fl cur

/-- A point change begins, unless one is under way or the compute clock is off (R59, R60). -/
def startHop (s : State) (fl n : Nat) : State :=
  let f := flaskAt s fl
  if f.gated || f.hop.isSome || n = curPt s fl then s
  else setSysFld (modFlask s fl fun f => { f with hop := some { target := n, up := decide (curPt s fl < n) } }) (sel 13 fl) 4 1 1

/-- A group is resident on the flask. -/
def groupHere (s : State) (fl : Nat) : Bool := s.groups.any fun p => coreFlask (slotCore p.1) == fl && !p.2.done

/-- GOVERNOR_STEP (R59, R64), once at each multiple of 50,000 ns: `temp` is the sensors' reading, and `hot` says that it has stood at
or above TWARN through the step. An event that names other sums of EST, or another answer on the groups resident throughout, than
the state gives is no step. Log entries 1, 7 and 29. -/
def execGovernorStep (fl temp : Nat) (sums : List Nat) (hot busy : Bool) (s : State) : Outcome State Fault Refusal :=
  if 32 ≤ fl then .fault .noUnit
  else if (flaskAt s fl).govAt == s.fab + 1 || !passes s fl 50000 || sums != flaskSums s fl || busy != (flaskAt s fl).busy then .next s
  else
    let temp := min temp 255
    let s := migStep (setSysFld s (sel 13 fl) 40 8 temp) fl (hot && decide (warnTemp s fl ≤ temp))
    let n := targetPt s fl
    .next (startHop (modFlask s fl fun f => { f with govAt := s.fab + 1, busy := groupHere s fl }) fl n)

/-- The change is over. -/
def endHop (s : State) (fl n : Nat) : State :=
  setSysFld (modFlask s fl fun f => { f with hop := none, vpt := n }) (sel 13 fl) 4 1 0

/-- POINT_CHANGE_SWITCH (R60): the clock mux switches. An upward change, whose voltage has been raised, is complete. -/
def execPointChangeSwitch (fl : Nat) (s : State) : Outcome State Fault Refusal :=
  if 32 ≤ fl then .fault .noUnit
  else match (flaskAt s fl).hop with
    | none => .next s
    | some p =>
      if p.switched then .next s
      else
        let s := setSysFld s (sel 13 fl) 0 4 p.target
        .next (if p.up then endHop s fl p.target
          else modFlask s fl fun f => { f with hop := some { p with switched := true } })

/-- POINT_CHANGE_COMPLETE (R60): the voltage of a downward change is lowered. -/
def execPointChangeComplete (fl : Nat) (s : State) : Outcome State Fault Refusal :=
  if 32 ≤ fl then .fault .noUnit
  else match (flaskAt s fl).hop with
    | none => .next s
    | some p => .next (if p.switched then endHop s fl p.target else s)

/-! ### Droop (R61) -/

/-- DROOP_DETECT. -/
def execDroopDetect (fl : Nat) (s : State) : Outcome State Fault Refusal :=
  if 32 ≤ fl then .fault .noUnit
  else
    let s := setSysFld s (sel 13 fl) 48 16 (min 65535 (sysFld s (sel 13 fl) 48 16 + 1))
    if sysFld s (sel 13 fl) 32 1 = 1 then .next s
    else
      let s := setSysFld s (sel 13 fl) 32 1 1
      .next { s with cores := s.cores.map fun p => if coreFlask p.1 == fl then (p.1, { p.2 with skip := 0 }) else p }

/-- DROOP_CLEAR. -/
def execDroopClear (fl : Nat) (s : State) : Outcome State Fault Refusal :=
  if 32 ≤ fl then .fault .noUnit else .next (setSysFld s (sel 13 fl) 32 1 0)

/-! ### The drone (R40 to R42) -/

/-- DRONE_TIMED_START (R40). -/
def execDroneTimedStart (u : TimedUnit) (s : State) : Outcome State Fault Refusal :=
  match u with
  | .task ctx handle => .next (tryReady s ctx handle)
  | .copy core => if 512 ≤ core then .fault .noUnit else .next (cpyStart s core)
  | .gang gang => if gang = 0 || 256 ≤ gang then .fault .noUnit else .next (gangGo s gang)
  | .twait g => .next (wakeTimes s g)

/-- TWAIT_RELEASE (R310). -/
def execTwaitRelease (g : Nat) (s : State) : Outcome State Fault Refusal := .next (wakeTimes s g)

/-- A context is resident. -/
def anyContext (s : State) : Bool := (List.range 256).any fun c => ctxResident s c

/-- SYNC_MESSAGE (R41, R42): `offset` is how far the source is ahead of the module, in nanoseconds; a module that follows a source is
none. Log entry 30. -/
def execSyncMessage (port : Nat) (offset : Int) (s : State) : Outcome State Fault Refusal :=
  if 12 ≤ port then .fault .noUnit
  else if sysFld s (sel 4 port) 16 1 != 1 then .next s
  else
    let near := decide (offset.natAbs ≤ 20)
    let x := sel 5 0
    let s := setSysFld (setSysFld s x 48 8 port) x 0 32 (BitVec.ofInt 32 offset).toNat
    let s := setSysFld (setSysFld s x 62 1 0) x 61 1 0
    let jump := !s.firstLock && decide (10000 < offset) && !s.ctxSeen && !anyContext s
    let s := if jump then { s with droneE := s.droneE + offset.toNat * 8, slew := 0 } else { s with slew := offset * 8 }
    let s := { s with lastSync := s.droneE, firstLock := true }
    .next (setSysFld s x 63 1 (if near || jump then 1 else 0))

/-- The module becomes the time source of its peers (R41, R42): it follows no port and is corrected no more. Log entry 30. -/
def timeSource (s : State) : State :=
  let x := sel 5 0
  { setSysFld (setSysFld (setSysFld s x 61 1 1) x 63 1 0) x 48 8 0xFF with slew := 0 }

/-- Holdover, 1 s after the last sync message (R41, R42). Log entry 30. -/
def holdover (s : State) : State :=
  if s.droneE < s.lastSync + 8 * 10 ^ 9 then s
  else { setSysFld (setSysFld s (sel 5 0) 62 1 1) (sel 5 0) 63 1 0 with slew := 0 }

/-- HOLDOVER (R41, R42). Log entry 30. -/
def execHoldover (s : State) : Outcome State Fault Refusal := .next (holdover s)

end Sys2Proof.Machine
end

