-- ==== Sys2Proof/Machine/RowOps.lean ====
section
/-! DEFINITION. Row operations of the HBM stacks: NMCPY, NMZERO and their events (R184 to R186, R377, R378, R420, R421). -/

namespace Sys2Proof.Machine

open Host

/-! ### Places of a row (R184) -/

def stackAt (s : State) (k : Nat) : Stack := mget s.hbm k {}
def modStack (s : State) (k : Nat) (f : Stack → Stack) : State := { s with hbm := mput s.hbm k (f (stackAt s k)) }

/-- Stack of a key of tier 00. -/
def keyStack (k : Nat) : Nat := keyPa k / 2 ^ 36 % 16
/-- Pseudo-channel. -/
def keyPch (k : Nat) : Nat := k / 2 ^ 31 % 32
/-- Bank of the stack: 64 x pseudo-channel + bank. -/
def keyBank (k : Nat) : Nat := k / 2 ^ 25 % 2048
/-- Subarray of the bank. -/
def keySub (k : Nat) : Nat := k / 2 ^ 10 % 2 ^ 15 / 511

/-- What the stack finds of a page when it reaches a row (R377). -/
inductive RowLook where
  | ok (leaf : DWord) (key : Nat)
  | nonres (page : Nat)
  | refused
  | bad
deriving DecidableEq, Repr

/-- The page of a row: resident, row-local, with its permission, in the stack if that is known. -/
def rowLook (s : State) (o : NmOp) (stack : Option Nat) (a : Acc) (va : DWord) : RowLook × State :=
  let page := pageOf s o.ctx va.toNat
  if o.refused.contains page then (.refused, s)
  else
    let (x, s) := look s o.core o.ctx (o.sysT && ctxPriv s o.ctx) a va
    match x with
    | .ok l k =>
      if fld l 8 4 = 3 && (match stack with | some n => keyStack k == n | none => true) then (.ok l k, s) else (.bad, s)
    | .nonres => (.nonres page, s)
    | _ => (.bad, s)

/-- Address of a row. -/
def rowVa (base : DWord) (r : Nat) : DWord := base + BitVec.ofNat 64 (1024 * r)

/-! ### Issue (R377, R378) -/

/-- The operation completes for its group: flag and tag (R378). -/
def nmDone (s : State) (o : NmOp) : State := complete s o.uid o.sig o.ui o.sd

/-- ADDRESS_RANGE ends the operation (R377). -/
def nmCause (s : State) (o : NmOp) (va : DWord) : State :=
  deferCause s o.uid { code := 0x18, lanes := o.lanes, addr := va, origin := o.word }

/-- Notice of KIND 5 for a page that holds an operation up. -/
def nmNotice (s : State) (o : NmOp) (acc : Nat) (va : DWord) : State :=
  residNotice s 5 0 o.ctx acc o.core ((slotOf s o.uid).getD 0 % 64) va

/-- Before it joins any queue the operation translates its first destination page (R378); rows of refused pages are passed
over. `fuel` counts the rows left. Log entry 35. -/
def nmEnter : Nat → NmOp → State → State
  | 0, o, s => nmDone s o
  | fuel + 1, o, s =>
    let va := rowVa o.sd o.row
    let (x, s) := rowLook s o none .write va
    match x with
    | .refused => nmEnter fuel { o with row := o.row + 1 } s
    | .nonres page => { nmNotice s o 1 va with nmWait := s.nmWait ++ [{ o with halted := some page }] }
    | .bad => nmDone (nmCause s o va) o
    | .ok _ k => modStack s (keyStack k) fun t => { t with queues := mmod t.queues (keyPch k) [] (· ++ [o]) }

/-- A range of rows is canonical when its first and last bytes are (R377). -/
def rowsCanonical (base : DWord) (n : Nat) : Bool := canonical base && canonical (base + BitVec.ofNat 64 (1024 * n - 1))

/-- NMCPY and NMZERO at issue (R377). Log entries 17 and 35. -/
def nmIssue (h : Hdr) (ui zero : Bool) (sd ss : BitVec 6) (n : SImm) (s : State) : Outcome State Fault Refusal :=
  gate { h := h, once := true, mem := true } s fun e pre post =>
    let d := e.s sd.toNat
    let src := e.s ss.toNat
    let k := (e.simm n).toNat
    if d.toNat % 1024 != 0 || (!zero && src.toNat % 1024 != 0) then
      trapAt pre 0x05 e.act (if d.toNat % 1024 != 0 then d else src) 0
    else if k = 0 || 65536 < k then trapReserved pre e.act
    else if !rowsCanonical d k then trapAt pre 0x18 e.act d 0
    else if !zero && !rowsCanonical src k then trapAt pre 0x18 e.act src 0
    else afterDrain e pre post fun s =>
      let (id, s) := freshUid s
      nmEnter k { id := id, uid := e.grp.uid, ctx := e.grp.ctx, sysT := e.grp.sysT, core := e.core, zero := zero, sd := d,
                  ss := src, n := k, sig := sigOf e.grp.uid h.set, ui := ui, word := e.pc, lanes := e.act } s

def execNmcpy (h : Hdr) (ui : Bool) (sd ss : BitVec 6) (n : SImm) (s : State) : Outcome State Fault Refusal :=
  nmIssue h ui false sd ss n s

def execNmzero (h : Hdr) (ui : Bool) (sd : BitVec 6) (n : SImm) (s : State) : Outcome State Fault Refusal :=
  nmIssue h ui true sd 0 n s

/-! ### In the stack -/

/-- The operation at the head of a queue. -/
def nmHead (s : State) (stack pch : Nat) : Option NmOp := (mget (stackAt s stack).queues pch []).head?

def modNm (s : State) (stack pch : Nat) (f : NmOp → NmOp) : State :=
  modStack s stack fun t => { t with queues := mmod t.queues pch [] fun q => match q with | o :: r => f o :: r | [] => [] }

/-- Lines of a row. -/
def rowLines (k : Nat) : List Nat := (List.range 8).map (· + k / 128)

/-- The rows of a side whose page is found now, as keys. -/
def rowsFound (s : State) (o : NmOp) (stack : Nat) (a : Acc) (base : DWord) : List (DWord × Nat) :=
  ((List.range o.n).map fun r => match (rowLook s o (some stack) a (rowVa base r)).1 with
    | .ok l k => [(l, k)]
    | _ => []).flatten

/-- Replicas of a line's granule go (R34, R185). Log entry 31. -/
def dirDrop (s : State) (core line : Nat) : State :=
  let gr := granuleOf (128 * line)
  let s := joinInvs s core fun i => i.granule == gr
  match mget? (flaskAt s (homeFlask (128 * line))).dir gr with
  | some e => if e.rep || e.sharers != 0 || s.fills.any fun f => granuleOf (128 * f.line) == gr then toMs s gr e none core true else s
  | none => s

/-- A destination line leaves L2, hot arrays and replicas without write-back (R185). What was dirty in it since the operation wrote its
row gives way to the row's new value; before that the line shows the old value of its row. -/
def dropLine (s : State) (o : NmOp) (line : Nat) : State :=
  let s := dirDrop s o.core line
  match mget? s.lines line with
  | none => s
  | some i =>
    let s := setLine s line { i with way := none, dirty := false }
    match (if i.dirty then mget? o.wrote line else none) with
    | some d => { s with mem := memWrite s.mem (128 * line) ((List.range 128).map fun j => lineByte d j) }
    | none => s

/-- A dirty L2 line of the source is written back (R185). -/
def cleanLine (s : State) (line : Nat) : State :=
  match mget? s.lines line with
  | some i => setLine s line { i with dirty := false }
  | none => s

/-- ROW_OP_START (R185, R421): at the head of its queue the operation writes back dirty L2 lines of the source and
invalidates, without write-back, the destination's lines. -/
def execRowOpStart (stack pch : Nat) (s : State) : Outcome State Fault Refusal :=
  if 16 ≤ stack || 32 ≤ pch then .fault .noUnit
  else match nmHead s stack pch with
    | none => .next s
    | some o =>
      if o.going then .next s
      else
        let src := if o.zero then [] else rowsFound s o stack .read o.ss
        let dst := rowsFound s o stack .write o.sd
        let s := src.foldl (fun s p => (rowLines p.2).foldl cleanLine s) s
        let s := dst.foldl (fun s p => (rowLines p.2).foldl (fun s l => dropLine s o l) s) s
        let (_, s) := draw s
        .next (modNm s stack pch fun o => { o with going := true })

/-- Write one line of a destination row (R81, R187, R378): `bytes` in the clear, under the destination's key. -/
def rowLine (s : State) (o : NmOp) (leaf : DWord) (line : Nat) (bytes : List Byte) (poison : Bool) : State :=
  let s := dirDrop s o.core line
  let s := { s with mem := memWrite s.mem (128 * line) bytes }
  let s := setLine s line { key := leafKeyid leaf, gen := keyGen s (leafKeyid leaf), poison := poison }
  hitRegions s (128 * line)

/-- One row: from a source row, or zeros. The answer is the lines written. -/
def rowMove (s : State) (o : NmOp) (dl : DWord) (dk : Nat) (src : Option (DWord × Nat)) : SMap (BitVec 1024) × State :=
  (List.range 8).foldl (fun acc i =>
    let (w, s) := acc
    let line := dk / 128 + i
    let (bytes, bad) := match src with
      | some (sl, sk) => (homeBytes s (leafKeyid sl) (sk + 128 * i) 128, linePoison s (sk / 128 + i))
      | none => (List.replicate 128 0, false)
    (mput w line (lineOfBytes bytes), rowLine s o dl line bytes bad)) (o.wrote, s)

/-- A bank owes no refresh now (R186). Log entry 35. -/
def bankFree (s : State) (stack bank : Nat) : Bool := mget (stackAt s stack).fresh bank 0 ≤ drone s

/-- ROW_PAIR (R185, R377): the next destination row, once the pair before it has ended, the refresh to which it yields has run, and the
banks it uses owe none (R186, R420). Each row counts as unreserved energy of the issuing cluster (R56, R378). Log entries 28 and 35. -/
def execRowPair (stack pch : Nat) (s : State) : Outcome State Fault Refusal :=
  if 16 ≤ stack || 32 ≤ pch then .fault .noUnit
  else match nmHead s stack pch with
    | none => .next s
    | some o =>
      if !o.going || o.past || o.halted.isSome || o.n ≤ o.row || drone s < o.till || drone s < o.yield then .next s
      else
        let dva := rowVa o.sd o.row
        let sva := rowVa o.ss o.row
        let (d, s) := rowLook s o (some stack) .write dva
        let (x, s) := if o.zero then (RowLook.refused, s) else rowLook s o (some stack) .read sva
        let halt := fun (page acc : Nat) (va : DWord) =>
          modNm (nmNotice s o acc va) stack pch fun o => { o with halted := some page }
        let stop := fun (va : DWord) => modNm (nmCause s o va) stack pch fun o => { o with past := true }
        match d, x with
        | .bad, _ => .next (stop dva)
        | .refused, _ => .next (modNm s stack pch fun o => { o with row := o.row + 1 })
        | .nonres page, _ => .next (halt page 1 dva)
        | .ok _ _, .bad => .next (stop sva)
        | .ok _ _, .nonres page => .next (halt page 0 sva)
        | .ok dl dk, x =>
          let src := match x with
            | .ok sl sk => some (sl, sk)
            | _ => none
          let far := match src with
            | some (_, sk) => keyBank sk != keyBank dk || keySub sk != keySub dk
            | none => false
          let banks := keyBank dk :: (match src with | some (_, sk) => if far then [keyBank sk] else [] | none => [])
          let lines := rowLines dk ++ match src with | some (_, sk) => rowLines sk | none => []
          if !banks.all (bankFree s stack) || lines.any (locked s) then .next s
          else
            let (w, s) := rowMove (tally s (coreDomain o.core) 20 o.ctx 1) o dl dk src
            let till := drone s + (if far then 240 else 90)
            .next (modNm s stack pch fun o => { o with row := o.row + 1, till := till, banks := banks, wrote := w })

/-- When the row pair under way that uses bank `b` of a stack ends, or now (R420). Log entry 35. -/
def pairEnds (s : State) (stack b : Nat) : Nat :=
  (stackAt s stack).queues.foldl (fun t p => match p.2.head? with
    | some o => if o.banks.contains b then max t o.till else t
    | none => t) (drone s)

/-- REFRESH_DUE (R186, R420): a refresh of 350 ns runs at once, or after the pair that uses the bank and the refreshes owed
before it; a bank never owes more than four. Log entry 35. -/
def execRefreshDue (stack pch bank : Nat) (s : State) : Outcome State Fault Refusal :=
  if 16 ≤ stack || 32 ≤ pch || 64 ≤ bank then .fault .noUnit
  else
    let b := 64 * pch + bank
    let ends := pairEnds s stack b
    let from' := max ends (mget (stackAt s stack).fresh b 0)
    let yields := fun (o : NmOp) =>
      if drone s < o.till && o.banks.contains b then { o with yield := max o.yield (from' + 350) } else o
    if ends + 4 * 350 < from' + 350 then .next s
    else .next (modStack s stack fun t => { t with
      fresh := mput t.fresh b (from' + 350), queues := t.queues.map fun q => (q.1, q.2.map yields) })

/-- ROW_OP_COMPLETE (R185, R378): lines of the destination filled since are dropped, and once the invalidations are done the
flag falls and the next operation of the queue may start. Log entry 35. -/
def execRowOpComplete (stack pch : Nat) (s : State) : Outcome State Fault Refusal :=
  if 16 ≤ stack || 32 ≤ pch then .fault .noUnit
  else match nmHead s stack pch with
    | none => .next s
    | some o =>
      if !o.going || o.halted.isSome || drone s < o.till || !(o.past || o.row = o.n) then .next s
      else
        let s := (o.wrote.map (·.1)).foldl (fun s l => dropLine s o l) s
        if !noInvs s o.core then .next s
        else
          let s := modStack s stack fun t => { t with queues := mmod t.queues pch [] (·.drop 1) }
          .next (nmDone s o)

/-- The kernel has answered for the page that holds up the operation at the head of a queue (R377). Log entry 35. -/
def resumeRow (s : State) (stack pch : Nat) (mapped : Bool) : State :=
  modNm s stack pch fun o => match o.halted with
    | some page => { o with halted := none, refused := if mapped then o.refused else page :: o.refused }
    | none => o

/-- The kernel has answered for the first destination page of an operation (R377, R378). -/
def resumeWait (s : State) (id : Nat) (mapped : Bool) : State :=
  match s.nmWait.find? fun o => o.id == id with
  | none => s
  | some o =>
    let s := { s with nmWait := s.nmWait.filter fun o => o.id != id }
    let o := match o.halted with
      | some page => { o with halted := none, refused := if mapped then o.refused else page :: o.refused }
      | none => o
    nmEnter (o.n - o.row) o s

end Sys2Proof.Machine
end

