-- ==== Sys2Proof/Machine/Sched.lean ====
section
/-! DEFINITION. Words that are no instruction, deferred traps, breakpoints and steps, the join watchdog, age boosts, user
interrupts, register tiering, and results and pages that arrive (R100, R116, R119 to R124, R139, R145, R146, R152, R156 to R158,
R244, R249, R258, R275, R295). -/

namespace Sys2Proof.Machine

open Host

/-! ### Words that are no instruction (R244, R275) -/

/-- The path under way has met the DIST and WAIT of its word (R151, R152). -/
def hdrMet (s : State) (c : Cur) (x : Group) (dist : Nat) (wait : BitVec 12) : Bool := distMet s c x dist && waitMet (c.flags x) wait

/-- The lanes that a refused word names: the elected lane where its opcode is of an instruction of classes 0xA, 0xC and 0xD
that acts once per stream and its guard is true in some lane (R380), else the stream. Log entry 16. -/
def refusedLanes (s : State) (c : Cur) (x : Group) (f : Fields) : LaneMask :=
  let op := f.op.toNat
  let once := (op / 64 = 10 || (op / 64 = 12 && 0x302 ≤ op) || op / 64 = 13) && assignedOp op
  let e : Env := { g := c.g, grp := x, core := slotCore c.g, cyc := (coreAt s (slotCore c.g)).cycle, pc := c.pc,
                   lanes := c.lanes, act := c.lanes, sr := x.s, vr := x.v, rc := x.recents, free := s.free }
  let act := guardMask e f.hdr
  if once && act != 0 then ({ e with act := act } : Env).elect else c.lanes

/-- A word that is refused at issue, once its DIST and WAIT are met: PRIVILEGE before anything else for a word of class 0xD
(R275), CRREL and a CRES that names no held current apart. Log entry 16. -/
def refuseWord (s : State) (w : IWord) (code : Nat) : State :=
  match s.cur with
  | none => s
  | some c =>
    match groupAt s c.g with
    | none => s
    | some x =>
      let f := Fields.ofWord w
      let sys := f.op.toNat / 64 = 13 && f.op != 0x345 && (f.op != 0x344 || (f.cb == 3 && f.b != 0)) && code = 0x02
      if !hdrMet s c x f.dist.toNat f.wait then s
      else if sys && !grpPriv s x then trapAt s 0x04 (refusedLanes s c x f) 0 0
      else trapAt s code (refusedLanes s c x f) 0 (w.extractLsb' 32 64)

/-- ILLEGAL_OPCODE (R275). -/
def execIllegalOpcode (w : IWord) (s : State) : Outcome State Fault Refusal := .next (refuseWord s w 0x01)

/-- LIVE_EXEC (R244): AUX names the instruction that led to the LIVE word. -/
def execLiveExec (w : IWord) (s : State) : Outcome State Fault Refusal :=
  if !isLive w then .next s
  else match s.cur with
  | none => .next s
  | some c =>
    match groupAt s c.g with
    | none => .next s
    | some x =>
      let via := ((x.paths.find? fun p => p.pc == c.pc && p.lanes &&& c.lanes != 0).map (·.via)).getD 0
      .next (if hdrMet s c x 0 0 then trapAt s 0x03 c.lanes 0 (via.setWidth 64) else s)

/-! ### Deferred traps and the debugger (R156, R157, R249, R258) -/

/-- Paths that may issue: running, not frozen, not held. -/
def openPaths (x : Group) : List Path := x.paths.filter fun p => p.wait == .run && !p.frozen && !p.held

/-- `a` goes before `b` in a slot: more lanes, then the lower PC (R138). -/
def pathBefore (a b : Path) : Bool :=
  if countLanes a.lanes != countLanes b.lanes then decide (countLanes b.lanes < countLanes a.lanes)
  else decide (a.pc.toNat < b.pc.toNat)

/-- The first path of some in the order of R138. -/
def firstPath : List Path → Option Path
  | [] => none
  | p :: ps => match firstPath ps with
    | none => some p
    | some q => some (if pathBefore q p then q else p)

/-- A group that may issue: its registers are resident and nothing has stopped it (R117). -/
def mayIssue (x : Group) : Bool := !x.done && x.stop.isNone && x.tier == .resident

/-- The path that a group issues next: the one under way, or the first of those that may issue. -/
def nextPath (s : State) (g : Nat) (x : Group) : Option (Pc × LaneMask) :=
  match s.cur with
  | some c => if c.g = g then some (c.pc, c.lanes) else none
  | none => (firstPath (openPaths x)).map fun p => (p.pc, p.lanes)

/-- DEFERRED_TRAP (R249): the oldest deferred cause stops the group before its next issue; others are held (R251). -/
def execDeferredTrap (g : Nat) (s : State) : Outcome State Fault Refusal :=
  match groupAt s g with
  | none => .next s
  | some x =>
    match x.causes, nextPath s g x with
    | c :: rest, some (pc, _) =>
      if mayIssue x then .next (takeTrap (setGroup s g { x with causes := rest }) g c pc) else .next s
    | _, _ => .next s

/-- The words that the issue of a word covers: those of a sink block come with the SINK (R258). Log entry 51. -/
def wordsAt (pc : Pc) (w : IWord) : List Nat :=
  pc.toNat :: match decode w with
    | .ok (.sink _ n) => (List.range n.toNat).map fun k => (pc + 1 + BitVec.ofNat 32 k).toNat
    | _ => []

/-- The debug register of a core that matches the word of a context, or a word of its sink block (R156, R258). -/
def breakReg (s : State) (core ctx : Nat) (pc : Pc) (w : IWord) : Option Nat :=
  (List.range 8).find? fun n =>
    let x := sysVal s (sel 26 (8 * core + n))
    bit x 63 && fld x 48 8 == ctx && (wordsAt pc w).contains (fld x 0 32)

/-- BREAKPOINT (R156): a match stops the group in the slot where the word would issue. It never fires on a LIVE word, nor
again at the first issue after a resume (R293). Log entry 51. -/
def execBreakpoint (g : Nat) (s : State) : Outcome State Fault Refusal :=
  match s.cur, groupAt s g with
  | some c, some x =>
    match breakReg s (slotCore g) x.ctx c.pc c.word with
    | none => .next s
    | some n =>
      let skip := x.paths.any fun p => p.pc == c.pc && p.lanes &&& c.lanes != 0 && p.skipBp
      if c.g != g || skip || isLive c.word then .next s else .next (trapAt s 0x0A c.lanes 0 (BitVec.ofNat 64 n))
  | _, _ => .next s

/-- The stopped group that DBGCTL selects: SEL names the low bits of its image; for a step of one path, a path stands at
SELPC. Log entry 23. -/
def stepPick (s : State) (core : Nat) : Option Nat :=
  let x := sysVal s (sel 27 core)
  let ok := fun (p : Parked) =>
    p.core == core && (fld x 8 6 == 0x3F || p.g.image % 64 == fld x 8 6)
      && (bit x 2 || p.g.paths.any fun q => q.pc.toNat == fld x 32 32)
  s.parked.findIdx? ok

/-- What the group that is resumed for one step remembers: every path, or the path at SELPC, past its BKPT (R157, R258). -/
def stepEdit (s : State) (core : Nat) (p : Parked) (y : Group) : Group :=
  let x := sysVal s (sel 27 core)
  let y := passBreak p y
  if bit x 2 then { y with stepAll := true }
  else
    let pc := BitVec.ofNat 32 (fld x 32 32)
    let on := p.code == 0x0A && p.aux == 0xFF && p.pc == pc
    { y with stepPc := some (if on then nextPc pc y.bkptSp else pc) }

/-- DEBUG_STEP (R157, R258): the selected group is resumed for one step. Log entry 51. -/
def execDebugStep (core : Nat) (s : State) : Outcome State Fault Refusal :=
  if 512 ≤ core then .fault .noUnit
  else
    let x := sysVal s (sel 27 core)
    if !bit x 1 then .next s
    else match stepPick s core with
      | none => .next s
      | some i =>
        match s.parked[i]? with
        | none => .next s
        | some p =>
          match putBack s i core p.quarter (stepEdit s core) with
          | none => .next s
          | some s => .next (setSysFld s (sel 27 core) 1 1 0)

/-! ### Watchdog and ages (R119, R139, R145, R146) -/

/-- The path is parked: it is held or frozen, or waits at a join, a BAR, a TWAIT, a PHASE or a UIRET; one that waits for the
reply of an APXB is not (R117, R145, R246, R295, R305). -/
def pathParked (p : Path) : Bool :=
  p.held || p.frozen || match p.wait with
    | .run | .apx _ => false
    | _ => true

/-- Lanes wait on jk and every lane pending for it belongs to a parked path. -/
def stuckOn (x : Group) (k : Nat) : Bool :=
  let pend := pending x (mget x.j k {})
  waitsOn x k && x.paths.all fun p => p.lanes &&& pend == 0 || pathParked p

/-- The watchdog counts in this compute cycle (R145). -/
def watchdogOn (x : Group) : Bool :=
  !x.done && x.stop.isNone && !x.uiAct && (x.park.map (·.why)) != some .debug && (List.range 8).any (stuckOn x)

/-- JOIN_STALL (R145): at the waiting RJOIN. Log entry 17. -/
def execJoinStall (g : Nat) (k : BitVec 3) (s : State) : Outcome State Fault Refusal :=
  match groupAt s g with
  | none => .next s
  | some x =>
    let limit := sysFld s (sel 16 (coreFlask (slotCore g))) 0 32
    if limit = 0 || x.stall < limit || !watchdogOn x || !stuckOn x k.toNat then .next s
    else
      let ws := x.paths.filter fun p => p.wait == .join k
      let lanes := ws.foldl (fun (m : LaneMask) p => m ||| p.lanes) 0
      .next (takeTrap s g { code := 0x08, lanes := lanes, aux := k.setWidth 64 } ((ws.head?.map (·.via)).getD 0))

/-- AGE_BOOST (R119): the count comes to 4,096. That the group is eligible and not chosen is the scheduler's condition. -/
def execAgeBoost (g : Nat) (s : State) : Outcome State Fault Refusal :=
  .next (modGroup s g fun x => if 4095 ≤ x.age then { x with age := 4096 } else x)

/-- PATH_AGE_BOOST (R139): the count of the path that may issue at a word comes to 4,096. -/
def execPathAgeBoost (g : Nat) (pc : Pc) (s : State) : Outcome State Fault Refusal :=
  let up := fun (p : Path) => if p.pc == pc && p.wait == .run && !p.frozen && 4095 ≤ p.age then { p with age := 4096 } else p
  .next (modGroup s g fun x => { x with paths := x.paths.map up })

/-! ### User interrupts (R158, R253, R295) -/

/-- A tag can be delivered to the group: to its most populous path that is not parked. Log entry 25. -/
def uiPath (x : Group) : Option Path :=
  if mayIssue x && x.uiEn && !x.uiAct && x.uiVec != 0xFFFF && !x.uiTags.isEmpty then
    firstPath (x.paths.filter fun p => !pathParked p)
  else none

/-- UI_DELIVER. Log entry 25. -/
def execUiDeliver (g : Nat) (s : State) : Outcome State Fault Refusal :=
  match groupAt s g with
  | none => .next s
  | some x =>
    match uiPath x, x.uiTags with
    | some p, tag :: rest =>
      let dsts := fun (q : Path) =>
        if q == p then { q with pc := x.uiVec.setWidth 32, wait := .run, live := [], whole := false, via := p.pc, skipBp := false }
        else { q with frozen := true }
      .next (setGroup s g (putS { x with
        paths := x.paths.map dsts, uiPc := p.pc, uiSet := p.lanes, uiWait := p.wait, uiAct := true, uiTags := rest } 63 tag))
    | _, _ => .next s

/-! ### Register tiering (R116, R120 to R124) -/

/-- Flags named in WAIT by the next words of the paths that may issue, and not zero. -/
def waitedFlags (s : State) (g : Nat) (x : Group) : List Nat :=
  let names := fun (p : Path) =>
    match fetchWord s (slotCore g) x.ctx (grpPriv s x) p.pc with
    | .ok w => (List.range 12).filter fun k => (Fields.ofWord w).wait.getLsbD k
    | _ => []
  (dedup ((openPaths x).map names).flatten).filter fun k => flagOf x k != 0

/-- Requests of the engine operations of a group, each with the flag that it counts on. -/
def engineReqs (s : State) (g : Nat) (x : Group) : List (Sig × Nat) :=
  let c := coreAt s (slotCore g)
  ((c.copies.filter fun k => k.uid == x.uid).map fun k => (k.sig, k.req))
    ++ ((c.mx.ops.filter fun o => o.uid == x.uid).map fun o => (o.sig, o.req))
    ++ (x.q.filterMap fun r => r.2.stream.map fun t => (t.sig, t.req))
    ++ (x.burst.map fun b => (b.sig, b.req)).toList

/-- What remains of D of a reservation, in nanoseconds (R48, R121). -/
def remains (s : State) (clus id : Nat) : Nat :=
  match grantOf s clus id with
  | none => 0
  | some r => if r.granted then r.dur - (s.droneE - r.since) / 8 else r.dur

/-- Compute cycles of a flask in some nanoseconds. -/
def cyclesIn (s : State) (fl ns : Nat) : Nat := ns * ptMHz (curPt s fl) / 1000

/-- A long wait holds (R121). Log entry 24. -/
def longWait (s : State) (g : Nat) (x : Group) : Bool :=
  let fl := coreFlask (slotCore g)
  let wait := sysFld s (sel 15 fl) 0 32
  let far := fun (t : DWord) => decide (wait < cyclesIn s fl (t.toNat - flaskDrone s fl))
  let parked := x.paths.all pathParked && x.paths.any fun p => match p.wait with
    | .bar _ | .resid _ => true
    | .time t => far t
    | _ => false
  let flags := if x.stop.isSome then [] else waitedFlags s g x
  (s.blocks.any fun b => b.uid == x.uid) || (s.preqs.any fun q => q.uid == x.uid) || parked
    || (engineReqs s g x).any fun r => match r.1 with
        | .grp _ k => flags.contains k && decide (wait < cyclesIn s fl (remains s (coreDomain (slotCore g)) r.2))
        | .none => false

/-- A long wait holds, and nothing keeps the group in its file (R121). That it is not eligible, and the order of candidates, are
the scheduler's conditions. Log entry 24. -/
def tierCand (s : State) (g : Nat) (x : Group) : Bool :=
  let cyc := (coreAt s (slotCore g)).cycle
  !x.done && x.tier == .resident && longWait s g x && x.lent.isEmpty && !(x.q.any fun r => r.2.stream.isSome)
    && !(x.recents.any fun r => cyc < r.due) && !(s.results.any fun r => r.uid == x.uid && r.due.isSome) && !isQuiet s x.ctx

/-- A tiered group that waits for nothing but space (R123), or whose registers an accepted MMA is to read (R418). Log entry 24. -/
def recallReady (s : State) (g : Nat) (x : Group) : Bool :=
  x.tier == .tiered && (!x.lent.isEmpty || (!x.done && !longWait s g x))

/-- Some group of the core waits for physical register space (R121): a tiered group, a READY task, or a complete gang, which may go to
any core (R129). Log entry 24. -/
def spaceWanted (s : State) (core : Nat) : Bool :=
  (s.groups.any fun p => slotCore p.1 == core && recallReady s p.1 p.2
      && decide (2048 < fileUsed s core (slotQuarter p.1) + regCount p.2))
    || s.tasks.any fun t => (t.core == core || (t.gang != 0 && t.placed.isNone && gangComplete s t.gang)) && t.ready.isSome && !t.running
      && (List.range 4).any fun q => quarterOk t q && decide (2048 < fileUsed s core q + allocOf (taskRegs s t))

/-- TIER_OUT (R121): the move begins. Log entry 24. -/
def execTierOut (g : Nat) (s : State) : Outcome State Fault Refusal :=
  match groupAt s g with
  | none => .next s
  | some x =>
    let core := slotCore g
    let demand := sysFld s (sel 15 (coreFlask core)) 32 1 == 1
    if tierCand s g x && (!demand || spaceWanted s core) && decide (backUsed s core + regCount x ≤ 32768) then
      .next (placeRegs (setGroup s g { x with tier := .movingOut }) g .movingOut)
    else .next s

/-- A quarter's file has space for a group's registers (R116). -/
def recallFits (s : State) (g : Nat) (x : Group) : Bool := decide (fileUsed s (slotCore g) (slotQuarter g) + regCount x ≤ 2048)

/-- The recall of `p` goes ahead of that of `x` on one core: one for lent registers ahead of every other (R418); else, where both want
space of one quarter or `p` has space in its own, the higher GPRIO first, then the older wait (R123). Log entry 24. -/
def recalledBefore (s : State) (p x : Nat × Group) : Bool :=
  slotCore p.1 == slotCore x.1 &&
    if p.2.lent.isEmpty != x.2.lent.isEmpty then x.2.lent.isEmpty
    else (slotQuarter p.1 == slotQuarter x.1 || recallFits s p.1 p.2)
      && (x.2.prio.toNat < p.2.prio.toNat || (x.2.prio == p.2.prio && p.2.elig < x.2.elig))

/-- TIER_RECALL (R123, R418). Log entry 24. -/
def execTierRecall (g : Nat) (s : State) : Outcome State Fault Refusal :=
  match groupAt s g with
  | none => .next s
  | some x =>
    if recallReady s g x && !(s.groups.any fun p => p.1 != g && recallReady s p.1 p.2 && recalledBefore s p (g, x))
        && recallFits s g x then
      .next (placeRegs (setGroup s g { x with tier := .movingIn }) g .movingIn)
    else .next s

/-- TIER_MOVE_DONE (R122): the space that the move leaves is free. Log entry 24. -/
def execTierMoveDone (g : Nat) (s : State) : Outcome State Fault Refusal :=
  .next (modGroup s g fun x => match x.tier with
    | .movingOut => { x with tier := .tiered, units := x.units.filter fun u => 2048 ≤ u }
    | .movingIn => { x with tier := .resident, units := x.units.filter fun u => u < 2048 }
    | _ => x)

/-! ### Results and pages that arrive (R100, R152, R307, R375, R377, R378) -/

/-- VARIABLE_LATENCY_RESULT (R152). -/
def execVariableLatencyResult (id : Nat) (s : State) : Outcome State Fault Refusal :=
  match s.results.find? fun r => r.id == id && r.due.isNone with
  | none => .next s
  | some r => .next (finishRes s r)

/-- A group parked for a record page runs on from the word at which it waits. -/
def resumeGroup (s : State) (g : Nat) (mapped : Bool) : State :=
  let back := fun (ctx : Nat) (p : Path) => match p.wait with
    | .resid page => if mapped && pageMapped s ctx page then { p with wait := .run, whole := p.held } else p
    | _ => p
  modGroup s g fun x => holdPaths { x with paths := regang (x.paths.map (back x.ctx)) }

/-- RESIDENCY_RESOLVED: a group whose page is refused stays parked. Log entry 44. -/
def execResidencyResolved (u : Resolved) (mapped : Bool) (s : State) : Outcome State Fault Refusal :=
  match u with
  | .group g => .next (resumeGroup s g mapped)
  | .stream g q =>
    match (groupAt s g).bind fun x => ((ringOf x q).stream.bind fun t => t.halted).map fun page => (x.ctx, page) with
    | some (ctx, page) => .next (if mapped && !pageMapped s ctx page then s else resumeStream s g q mapped)
    | none => .next s
  | .rowOp stack pch => .next (resumeRow s stack pch mapped)
  | .rowWait id => .next (resumeWait s id mapped)

end Sys2Proof.Machine
end

