-- ==== Sys2Proof/Machine/System.lean ====
section
/-! DEFINITION. System instructions, class 0xD (R13, R35, R131, R257, R275, R399 to R407), and the events of the registers
that have a rule of their own (R12, R13, R28, R35, R38, R57, R71, R75, R82, R83, R131). -/

namespace Sys2Proof.Machine

open Host

/-- A system instruction acts once and is open to system teams of privileged contexts (R275). -/
def sysInfo (h : Hdr) : Info := { h := h, once := true, priv := true, elect := true }

/-- A value as an unsigned number. -/
def Env.num64 (e : Env) (x : SImm) : Nat := (e.simm x).toNat

/-- Add a flag that falls when the machine has come to some state. -/
def wait (s : State) (w : WaitFor) (sg : Sig) : State := { s with waiters := s.waiters ++ [{ what := w, sig := sg }] }

/-! ### SYSRD and SYSWR (R399 to R401) -/

/-- SYSRD. -/
def execSysrd (h : Hdr) (d sa : BitVec 6) (s : State) : Outcome State Fault Refusal :=
  gate (sysInfo h) s fun e pre post =>
    let x := (e.s sa.toNat).toNat
    if 2 ^ 17 ≤ x || !selOk x then trapReserved pre e.elect
    else varResult post e h [] [] (some (d.toNat, sysRead post x)) 0 false

/-- SYSWR: the release of its group at dev scope comes first. -/
def execSyswr (h : Hdr) (sa sb : BitVec 6) (s : State) : Outcome State Fault Refusal :=
  gate (sysInfo h) s fun e pre post =>
    let x := (e.s sa.toNat).toNat
    if 2 ^ 17 ≤ x || !selOk x then trapReserved pre e.elect
    else afterRelease e pre post .dev fun s => atOnce (regWrite s e.core x (e.s sb.toNat)) e h

/-! ### SLCFG (R12, R13, R131, R402) -/

/-- Quiet partitions are cut against the L2 that a flask is limited to while it repartitions. -/
def cutFor (s : State) (fl n : Nat) : State :=
  let c := curL2 s fl
  setSysFld (cutQuiet (setSysFld s (sel 1 fl) 12 4 (min n c))) (sel 1 fl) 12 4 c

/-- Steps 1 and 2 of R13: the L2 limits itself to the smaller count, in ways, and what stands in a way that leaves goes: a dirty line
to its next level, a replica altogether. Log entry 20. -/
def limitL2 (s : State) (fl n : Nat) : State :=
  let out := fun (w : Nat) => decide (4 * min n (curL2 s fl) ≤ w)
  let line := fun (p : Nat × LineS) =>
    if homeFlask (128 * p.1) == fl && p.2.way.any out then (p.1, { p.2 with way := none, dirty := false }) else p
  modFlask { s with lines := s.lines.map line } fl fun f => { f with replicas := f.replicas.filter fun p => !out p.2.way }

/-- SLCFG applies L2UNITS, or waits for the repartition under way. Log entry 48. -/
def applySlicecfg (s : State) (fl : Nat) (sg : Sig) : State :=
  let n := sysFld s (sel 1 fl) 0 4
  if sysFld s (sel 1 fl) 8 1 = 1 then wait s (.slcfg fl) sg
  else if n = curL2 s fl then fall s sg
  else
    let s := limitL2 (cutFor (setSysFld s (sel 1 fl) 8 1 1) fl n) fl n
    wait (modFlask s fl fun f => { f with repart := some n }) (.notBusy fl) sg

/-- SLCFG. Log entry 15. -/
def execSlcfg (h : Hdr) (a : SImm) (s : State) : Outcome State Fault Refusal :=
  gate (sysInfo h) s fun e pre post =>
    if 32 ≤ e.num64 a then trapReserved pre e.elect
    else afterDrain e pre post fun s => applySlicecfg s (e.num64 a) (sigOf e.grp.uid h.set)

/-- A line of tier 01 that one side of a repartition owns: its flask's offsets of the units `lo` to `hi - 1` of L2. -/
def inUnits (fl lo hi line : Nat) : Bool :=
  let k := 128 * line
  let off := keyPa k % 2 ^ 30
  keyTier k == 1 && keyPa k / 2 ^ 30 == fl && decide ((12 - hi) * 2 ^ 26 ≤ off) && decide (off < (12 - lo) * 2 ^ 26)

/-- The units `lo` to `hi - 1` change owner (R13, steps 3 and 4, R14): no copy of their lines stays, and where they join the tier
(`tier`) every line of them has its clear bit set; a unit of L2 keeps none. Log entry 31. -/
def zeroUnits (s : State) (fl lo hi : Nat) (tier : Bool) : State :=
  let here := inUnits fl lo hi
  let flask := fun (p : Nat × Flask) => (p.1, { p.2 with
    replicas := p.2.replicas.filter fun r => !here r.1, dir := p.2.dir.filter fun d => !here (32 * d.1) })
  let units := (List.range (hi - lo)).map (· + lo)
  modFlask { s with lines := s.lines.filter fun p => !here p.1, flasks := s.flasks.map flask,
                    fills := s.fills.filter fun f => !here f.line } fl fun f =>
    { f with clearUnits := if tier then dedup (f.clearUnits ++ units) else f.clearUnits.filter fun u => !units.contains u }

/-- Flags that wait for a state of a flask fall. -/
def fallFor (s : State) (w : WaitFor) : State :=
  let mine := s.waiters.filter fun x => x.what == w
  mine.foldl (fun s x => fall s x.sig) { s with waiters := s.waiters.filter fun x => x.what != w }

/-- REPARTITION_DONE (R13, step 5). -/
def execRepartitionDone (fl : Nat) (s : State) : Outcome State Fault Refusal :=
  if 32 ≤ fl then .fault .noUnit
  else match (flaskAt s fl).repart with
    | none => .next s
    | some n =>
      let c := curL2 s fl
      let s := zeroUnits s fl (min n c) (max n c) (decide (n < c))
      let s := modFlask (setSysFld (setSysFld s (sel 1 fl) 12 4 n) (sel 1 fl) 8 1 0) fl fun f => { f with repart := none }
      let s := fallFor (cutQuiet s) (.notBusy fl)
      let more := s.waiters.filter fun x => x.what == .slcfg fl
      let s := { s with waiters := s.waiters.filter fun x => x.what != .slcfg fl }
      .next (more.foldl (fun s x => applySlicecfg s fl x.sig) s)

/-! ### TLBINV (R168, R403) -/

/-- An entry of a context that translates some byte from `lo` up to `hi`. -/
def tlbMeets (ctx lo hi : Nat) (x : Nat × Nat × DWord × Nat) : Bool :=
  x.1 == ctx && decide (x.2.1 * 2 ^ x.2.2.2 < hi) && decide (lo < (x.2.1 + 1) * 2 ^ x.2.2.2)

/-- A line of an L1 or of a queued store is covered. -/
def coversLine (lo hi vline : Nat) : Bool := decide (lo ≤ 128 * vline) && decide (128 * vline < hi)

/-- A queued store goes to a covered page. -/
def storeOn (lo hi : Nat) (q : StoreQ) : Bool :=
  match q.dst with
  | .scratch _ => false
  | .l1 _ va _ | .home _ va _ => coversLine lo hi (va / 128)

/-- Step 1: the covered entries go from every domain and every second level; queued stores that they have translated are marked.
Log entry 50. -/
def dropEntries (s : State) (ctx lo hi : Nat) : State :=
  let mark := fun (p : Nat × Group) => if p.2.ctx == ctx
    then (p.1, { p.2 with storeq := p.2.storeq.map fun q => if storeOn lo hi q then { q with old := true } else q }) else p
  let clus := fun (p : Nat × PClus) => (p.1, { p.2 with tlb := p.2.tlb.filter fun x => !tlbMeets ctx lo hi x })
  let flask := fun (p : Nat × Flask) => (p.1, { p.2 with tlb2 := p.2.tlb2.filter fun x => !tlbMeets ctx lo hi x })
  { s with groups := s.groups.map mark, pclus := s.pclus.map clus, flasks := s.flasks.map flask }

/-- Step 2: queued stores of the context leave, and its covered L1 lines are written back and dropped. Log entry 50. -/
def flushPages (s : State) (ctx lo hi : Nat) : State :=
  let s := (s.groups.filter fun p => p.2.ctx == ctx).foldl (fun s p => drainAll s p.1) s
  let asid := asidOf s ctx
  s.cores.foldl (fun s p =>
    (p.2.l1.filter fun x => x.asid == asid && coversLine lo hi x.vline && (x.dirty == 0 || !locked s x.line)).foldl
      (fun s x => flushLine s p.1 asid x.vline) s) s

/-- Steps 2 and 3 are not done: a covered line that a sub-block has to itself, or a covered store translated with a dropped entry that
stands in its queue behind one that must wait (R168, R403). Log entry 50. -/
def pagesHeld (s : State) (ctx lo hi : Nat) : Bool :=
  (s.groups.any fun p => p.2.ctx == ctx && p.2.storeq.any fun q => q.old && storeOn lo hi q)
    || (s.cores.any fun p => p.2.l1.any fun x => x.asid == asidOf s ctx && coversLine lo hi x.vline && x.dirty != 0)

/-- Sub-blocks of the context whose anchor's line is covered: they run under an entry that has been dropped.
Log entry 50. -/
def coveredSubs (s : State) (ctx lo hi : Nat) : List Nat :=
  (s.subs.filter fun b => b.ctx == ctx && !b.done && coversLine lo hi b.vline).map fun b => b.id

/-- TLBINV: its three steps. Of a whole context that is no longer resident it is the teardown (R82, R241). Log entry 36. -/
def invalidate' (s : State) (ctx lo hi : Nat) (sg : Sig) : State :=
  let s := flushPages (dropEntries s ctx lo hi) ctx lo hi
  let s := if hi = 2 ^ 56 && lo = 0 && !ctxResident s ctx then dropFit s ctx else s
  match coveredSubs s ctx lo hi with
  | [] => if pagesHeld s ctx lo hi then wait s (.subs ctx lo hi []) sg else fall s sg
  | ids => wait s (.subs ctx lo hi ids) sg

/-- TLBINV. Log entry 50. -/
def execTlbinv (h : Hdr) (ctx : SImm) (sa : BitVec 6) (size : BitVec 4) (s : State) : Outcome State Fault Refusal :=
  gate (sysInfo h) s fun e pre post =>
    let c := e.num64 ctx
    let va := e.s sa.toNat
    let bits := match pageBits size.toNat with
      | some b => b
      | none => 56
    let lo := va.toNat % 2 ^ 56
    if 256 ≤ c || (11 < size.toNat && size != 15) || (size == 15 && va != 0) then trapReserved pre e.elect
    else if size != 15 && va.toNat % 2 ^ bits != 0 then trapAt pre 0x05 e.elect va 0
    else afterRelease e pre post .dev fun s => invalidate' s c lo (lo + 2 ^ bits) (sigOf e.grp.uid h.set)

/-! ### Vector bursts (R48, R49, R404, R405) -/

/-- Request a burst or a held current for the issuing group; one that it has ends first. -/
def startBurst (s : State) (e : Env) (h : Hdr) (ns units : Nat) (hold : Bool) : State :=
  let s := endBurst s e.g
  let t := (teamOf s e.grp.team).getD { uid := e.grp.team, ctx := e.grp.ctx }
  let (id, s) := request s (coreDomain e.core)
    { kind := .burst e.grp.uid, ctx := e.grp.ctx, team := t.uid, prio := e.grp.prio.toNat, i15 := units, dur := ns,
      gang := t.gang != 0 }
  modGroup s e.g fun x => { x with burst := some { req := id, ns := ns, hold := hold, sig := sigOf e.grp.uid h.set } }

/-- The form with a current `b`, 0 for a vector burst. PRIVILEGE is not checked for the whole class: a vector burst is open to
every team. An immediate current is held, so it is checked with the word (R275), and one that a register names after it.
Log entry 15. -/
def cresForm (h : Hdr) (a : SImm) (held : Bool) (b : Env → Nat) (s : State) : Outcome State Fault Refusal :=
  gate { h := h, once := true, elect := true, priv := held } s fun e pre post =>
    let ns := e.num64 a
    let units := b e
    if units != 0 && !grpPriv post e.grp then trapAt pre 0x04 e.elect 0 0
    else if ns = 0 || 1048575 < ns || 1023 < units then trapReserved pre e.elect
    else startBurst post e h ns (if units = 0 then 6 else units) (units != 0)

/-- CRES with b = 0 (R404). -/
def execCres (h : Hdr) (a : SImm) (s : State) : Outcome State Fault Refusal := cresForm h a false (fun _ => 0) s

/-- CRES with a held current (R404). -/
def execCresHold (h : Hdr) (a b : SImm) (s : State) : Outcome State Fault Refusal := 
  cresForm h a (match b with | .imm n => n != 0 | .s _ => false) (fun e => e.num64 b) s

/-- CRREL (R405). -/
def execCrrel (h : Hdr) (s : State) : Outcome State Fault Refusal :=
  gate { h := h, once := true, elect := true } s fun e _ post => atOnce (endBurst post e.g) e h

/-- The duration of a live burst is over: its reservation passes to the next request of the quarter (R52, R404). -/
def burstOver (s : State) (g : Nat) : State :=
  match (groupAt s g).bind fun x => x.burst with
  | none => s
  | some b => match b.live with
    | none => s
    | some t =>
      if drone s < t + b.ns then s
      else passOn (modGroup s g fun x => { x with burst := none }) (coreDomain (slotCore g)) b.req

/-- The energy of the events counted under the grant of a group's burst (R56). -/
def burstUsed (s : State) (g : Nat) : Nat :=
  match ((groupAt s g).bind fun x => x.burst).bind fun b => grantOf s (coreDomain (slotCore g)) b.req with
  | none => 0
  | some r => energyOf r.acts

/-- BURST_END (R404). An event that names another energy than the burst has used is no step. Log entry 7. -/
def execBurstEnd (g used : Nat) (s : State) : Outcome State Fault Refusal := .next (if used = burstUsed s g then burstOver s g else s)

/-- A burst whose grant is live lifts the limit, and its flag falls (R49, R53, R404). -/
def burstStep (s : State) (g : Nat) : State :=
  match (groupAt s g).bind fun x => x.burst with
  | none => s
  | some b =>
    if b.live.isNone && liveAt s (coreDomain (slotCore g)) b.req then
      fall (modGroup s g fun x => { x with burst := some { b with live := some (drone s) } }) b.sig
    else s

/-! ### QUIESCE and HALT (R257, R406, R407) -/

/-- A context that QUIESCE may name: not the group's own. Log entry 15. -/
def quiesceForm (h : Hdr) (a : SImm) (k : State → Nat → Sig → State) (s : State) : Outcome State Fault Refusal :=
  let own := match a with
    | .imm n => (curGroup s).any fun x => x.ctx == n.toNat
    | .s _ => false
  gate { sysInfo h with bad := own } s fun e pre post =>
    let c := e.num64 a
    if 256 ≤ c || c = e.grp.ctx then trapReserved pre e.elect
    else afterDrain e pre post fun s =>
      if !ctxResident s c then atOnce s e h else k s c (sigOf e.grp.uid h.set)

/-- QUIESCE a, 0: its flag falls when PARKED is 1. -/
def execQuiesce (h : Hdr) (a : SImm) (s : State) : Outcome State Fault Refusal :=
  quiesceForm h a (fun s c sg => wait (parkCtx s c) (.parked c) sg) s

/-- QUIESCE a, 1. -/
def execQuiesceResume (h : Hdr) (a : SImm) (s : State) : Outcome State Fault Refusal :=
  quiesceForm h a (fun s c sg => fall (resumeCtx s c) sg) s

/-- A flask that HALT may name: not the group's own. Log entry 15. -/
def haltForm (h : Hdr) (a : SImm) (k : State → Nat → Sig → State) (s : State) : Outcome State Fault Refusal :=
  let own := match a with
    | .imm n => s.cur.any fun c => coreFlask (slotCore c.g) == n.toNat
    | .s _ => false
  gate { sysInfo h with bad := own } s fun e pre post =>
    let fl := e.num64 a
    if 32 ≤ fl || fl = coreFlask e.core then trapReserved pre e.elect
    else afterDrain e pre post fun s => k s fl (sigOf e.grp.uid h.set)

/-- Ask every group of some cores to park; their teams are on their way (R86, R407). -/
def parkCores (s : State) (here : Nat → Bool) (why : ParkWhy) : State :=
  let one := fun (p : Nat × Group) => if here (slotCore p.1) then (p.1, askPark why p.2) else p
  let at' := fun (t : Team) => match t.core with
    | some c => here c
    | none => s.groups.any fun p => here (slotCore p.1) && p.2.team == t.uid
  let team := fun (t : Team) => if at' t then { t with moving := true } else t
  { s with groups := s.groups.map one, teams := s.teams.map team }

/-- HALT a, 0. -/
def execHalt (h : Hdr) (a : SImm) (s : State) : Outcome State Fault Refusal :=
  haltForm h a (fun s fl sg =>
    if (flaskAt s fl).gated then fall s sg
    else
      let s := modFlask s fl fun f => { f with halting := true }
      wait (parkCores s (fun c => coreFlask c == fl) .halt) (.gated fl) sg) s

/-- A gated flask runs again at the lowest point that it may take (R407). Log entry 55. -/
def openFlask (s : State) (fl : Nat) : State :=
  let pt := minPt s fl
  let s := modFlask s fl fun f => { f with gated := false, halting := false, hop := none, vpt := pt }
  setSysFld (setSysFld s (sel 13 fl) 0 4 pt) (sel 13 fl) 4 1 0

/-- HALT a, 1. Log entry 42. -/
def execHaltRelease (h : Hdr) (a : SImm) (s : State) : Outcome State Fault Refusal :=
  haltForm h a (fun s fl sg =>
    if !(flaskAt s fl).gated then fall s sg
    else
      let s := openFlask s fl
      let s := (List.range 16).foldl (fun s k => bringBack (settleTeams s (16 * fl + k)) .halt (16 * fl + k)) s
      fall s sg) s

/-! ### Registers written from outside the cores (R71, R75) -/

/-- SLICECFG_WRITE (R12). -/
def execSlicecfgWrite (fl : Nat) (x : DWord) (s : State) : Outcome State Fault Refusal :=
  if 32 ≤ fl then .fault .noUnit else .next (writeSlicecfg s fl x)

/-- HASHMASK_WRITE (R28): the masks in force stay. -/
def execHashmaskWrite (fl : Nat) (x : DWord) (s : State) : Outcome State Fault Refusal :=
  if 32 ≤ fl then .fault .noUnit else .next (regWrite s 512 (sel 2 fl) x)

/-- FLUECTL_MODE_WRITE (R38). -/
def execFluectlModeWrite (port : Nat) (x : DWord) (s : State) : Outcome State Fault Refusal :=
  if 12 ≤ port then .fault .noUnit else .next (writeFluectl s port x)

/-- QUIETCTL_WRITE (R131). -/
def execQuietctlWrite (ctx : Nat) (x : DWord) (s : State) : Outcome State Fault Refusal :=
  if 256 ≤ ctx then .fault .noUnit else .next (writeQuietctl s ctx x)

/-- RTHRESH_WRITE (R35). -/
def execRthreshWrite (fl : Nat) (x : DWord) (s : State) : Outcome State Fault Refusal :=
  if 32 ≤ fl then .fault .noUnit else .next (writeRthresh s 512 fl x)

/-- QUOTA_WRITE (R56, R57). -/
def execQuotaWrite (ctx : Nat) (x : DWord) (s : State) : Outcome State Fault Refusal :=
  if 256 ≤ ctx then .fault .noUnit else .next (writeQuota s ctx x)

/-- REGISTER_WRITE (R71, R401). -/
def execRegisterWrite (sel : BitVec 17) (x : DWord) (s : State) : Outcome State Fault Refusal :=
  if !selOk sel.toNat then .fault .noUnit else .next (regWrite s 512 sel.toNat x)

/-! ### Keys (R82, R83) -/

/-- KEY_ISSUE (R82). -/
def execKeyIssue (id : Nat) (s : State) : Outcome State Fault Refusal :=
  if 4096 ≤ id then .fault .noUnit else .next (issueKey s id)

/-- KEY_RETIRE (R83, step 1). -/
def execKeyRetire (id : Nat) (s : State) : Outcome State Fault Refusal :=
  if 4096 ≤ id then .fault .noUnit else .next (retireKey s id)

/-- An identifier that no page names: what was enciphered under a destroyed key reads under none (R84). -/
def noKey : Nat := 4096

/-- The sweep of R83: the identifier's lines leave L2 and every replica without write-back, those whose clear bit is set too, which
stay clear (R14), and the key is destroyed. Log entry 46. -/
def sweepKey (s : State) (id : Nat) : State :=
  let mine := fun (line : Nat) => (mget s.lines line {}).key == id && (mget? s.lines line).isSome
  let line := fun (p : Nat × LineS) =>
    if p.2.key == id then (p.1, { p.2 with key := noKey, way := none, dirty := false }) else p
  let flask := fun (p : Nat × Flask) => (p.1, { p.2 with replicas := p.2.replicas.filter fun r => !mine r.1 })
  { s with lines := s.lines.map line, flasks := s.flasks.map flask, fills := s.fills.filter fun f => !mine f.line }

/-- KEY_RETIRE_DONE (R83, steps 3 to 5). Log entry 46. -/
def execKeyRetireDone (id : Nat) (s : State) : Outcome State Fault Refusal :=
  if 4096 ≤ id then .fault .noUnit
  else if sysFld s (sel 18 id) 0 2 != 2 then .next s
  else .next (setSysFld (sweepKey s id) (sel 18 id) 0 2 0)

end Sys2Proof.Machine
end

