-- ==== Sys2Proof/Machine/Service.lean ====
section
/-! DEFINITION. Retirement in service, flue ports and peer modules, the host, management, boot and attestation (R28, R36, R38,
R66 to R69, R75 to R80, R85 to R89, R423). -/

namespace Sys2Proof.Machine

open Host

/-! ### Retirement in service (R85 to R89) -/

/-- The command under way is of a kind, and its work is still to do. -/
def svcRuns (s : State) (kind fl idx : Nat) : Bool :=
  match s.svc with
  | some v => !s.svcFin && fld v 28 4 == kind && cmdUnit v == fl && fld v 8 8 == idx
  | none => false

/-- The work of the command is done; the management controller stores the retirement (R85). -/
def svcWorked (s : State) : State :=
  match s.svc with
  | some v => { s with svcFin := true, retired := s.retired ++ [v] }
  | none => s

/-- A retirement as it stands from then on, and after each later boot (R86 to R89). Log entry 47. -/
def applyRetired (s : State) (v : DWord) : State :=
  let fl := cmdUnit v
  let idx := fld v 8 8
  match fld v 28 4 with
  | 1 => modCore (modFlask s fl fun f => { f with spareUsed := f.spareUsed + 1 }) (16 * fl + idx) fun c => { c with spare := true }
  | 2 => modFlask s fl fun f => { f with sliceUsed := true }
  | 3 => { s with hbm := mmod s.hbm fl {} fun (k : Stack) => { k with retired := idx :: k.retired } }
  | 4 => setSysFld { s with ports := mmod s.ports fl {} fun (p : Port) => { p with spare := true } } (sel 4 fl) 8 4 idx
  | _ =>
    let (f, g) := laneGroup fl (idx / 64) (idx / 16 % 4) (fld v 16 6)
    modFlask s f fun x => { x with lanes := g :: x.lanes }

/-- Nothing runs on a core. -/
def coreEmpty (s : State) (core : Nat) : Bool :=
  let c := coreAt s core
  !(s.groups.any fun p => slotCore p.1 == core) && c.copies.isEmpty && c.mx.ops.isEmpty

/-- SVC_RETIRE_CORE (R86): admission stops and the groups are asked to park; once the core is empty, what its L1 still holds
dirty (R155) is written back, a spare takes its number, and what was saved resumes there. Log entry 47. -/
def execSvcRetireCore (fl c : Nat) (s : State) : Outcome State Fault Refusal :=
  if 32 ≤ fl || 16 ≤ c then .fault .noUnit
  else if !svcRuns s 1 fl c then .next s
  else
    let core := 16 * fl + c
    if !(coreAt s core).noAdmit then
      .next (parkCores (modCore s core fun k => { k with noAdmit := true }) (fun x => x == core) .retire)
    else if !coreEmpty s core then .next s
    else
      let v := s.svc.getD 0
      let s := applyRetired (modCore (cleanCore s core) core fun k => { k with noAdmit := false, l1 := [], lastBy := [] }) v
      .next (bringBack (settleTeams (svcWorked s) core) .retire core)

/-- SVC_RETIRE_SLICE (R87): dirty lines of the slice are written back, and the spare takes its number and its data. -/
def execSvcRetireSlice (fl k : Nat) (s : State) : Outcome State Fault Refusal :=
  if 32 ≤ fl || 16 ≤ k then .fault .noUnit
  else if !svcRuns s 2 fl k then .next s
  else
    let line := fun (p : Nat × LineS) =>
      if homeFlask (128 * p.1) == fl && homeSlice s (128 * p.1) == k then (p.1, { p.2 with dirty := false }) else p
    .next (svcWorked (applyRetired { s with lines := s.lines.map line } (s.svc.getD 0)))

/-- SVC_RETIRE_PSEUDO_CHANNEL (R88). -/
def execSvcRetirePseudoChannel (stack p : Nat) (s : State) : Outcome State Fault Refusal :=
  if 16 ≤ stack || 32 ≤ p then .fault .noUnit
  else if !svcRuns s 3 stack p then .next s
  else .next (svcWorked (applyRetired s (s.svc.getD 0)))

/-- SVC_RETIRE_FLUE_LANE (R36, R89): the spare is swapped in and the port retrains; a port that is off has no link to train.
DESIGN CHOICE (log entry 48): UP stays 1 while it retrains, as its mode does not change. -/
def execSvcRetireFlueLane (port lane : Nat) (s : State) : Outcome State Fault Refusal :=
  if 12 ≤ port || 8 ≤ lane then .fault .noUnit
  else if !svcRuns s 4 port lane then .next s
  else if (mget s.ports port {}).spare then .next s
  else
    let s := applyRetired s (s.svc.getD 0)
    if sysFld s (sel 4 port) 4 4 = 0 then .next (svcWorked s)
    else .next { s with ports := mmod s.ports port {} fun (p : Port) => { p with retrain := true } }

/-- SVC_RETIRE_UCIE_LANE (R22, R89). Log entry 45. -/
def execSvcRetireUcieLane (fl edge mod lane : Nat) (s : State) : Outcome State Fault Refusal :=
  if 32 ≤ fl || 4 ≤ edge || 4 ≤ mod || 64 ≤ lane then .fault .noUnit
  else if !svcRuns s 5 fl (64 * edge + 16 * mod) || (s.svc.map fun v => fld v 16 6) != some lane then .next s
  else .next (svcWorked (applyRetired s (s.svc.getD 0)))

/-- SVC_DONE (R85). Log entry 47. -/
def execSvcDone (s : State) : Outcome State Fault Refusal :=
  match s.svc with
  | some v => .next (if s.svcFin then svcEnd s v 0 else s)
  | none => .next s

/-! ### Flue ports (R36, R38) -/

/-- FLUE_RETRAIN_DONE (R36, R37): the link is up, and held messages flow, in peer mode only. Log entry 38. -/
def execFlueRetrainDone (port : Nat) (s : State) : Outcome State Fault Refusal :=
  if 12 ≤ port then .fault .noUnit
  else
    let p := mget s.ports port {}
    if !p.retrain then .next s
    else
      let out := if sysFld s (sel 4 port) 4 4 = 1 then p.held.length else 0
      let s := { s with ports := mput s.ports port { p with retrain := false, held := p.held.drop out, seq := p.seq + out } }
      let s := setSysFld s (sel 4 port) 16 1 1
      .next (match s.svc with
        | some v => if !s.svcFin && fld v 28 4 == 4 && fld v 23 5 == port then svcWorked s else s
        | none => s)

/-- FLIT_REPLAY (R36): the flit is sent again under its own sequence number and delivered once, in order: what the link has
delivered does not change. -/
def execFlitReplay (port : Nat) (s : State) : Outcome State Fault Refusal :=
  if 12 ≤ port then .fault .noUnit else .next s

/-! ### Peer modules (R423) -/

/-- A refused result: its lanes read zero, nothing at the peer has changed, and no copy stays in L1.
Log entries 43 and 45. -/
def refuseRes (s : State) (r : Res) (lanes : LaneMask) : State :=
  let ls := r.peer.filter fun p => inLanes lanes p.1
  let one := fun (x : Res) => { x with
    vals := x.vals.map fun v => if inLanes lanes (v.1 % 128) then (v.1, (0 : Word)) else v,
    sreg := x.sreg.map fun q => (q.1, (0 : DWord)), peer := x.peer.filter fun p => !inLanes lanes p.1,
    undo := x.undo.filter fun u => !inLanes lanes u.1 }
  let s := { s with
    results := updFirst (fun x => x.id == r.id) one s.results,
    mem := (r.undo.filter fun u => inLanes lanes u.1).foldl (fun m u => memPut m u.2.1 u.2.2.1) s.mem }
  let s := match groupOf s r.uid, slotOf s r.uid with
    | some x, some g => ls.foldl (fun s p =>
        let v := p.2.toNat % 2 ^ 56 / 128
        match l1Find (coreAt s (slotCore g)) (asidOf s x.ctx) v with
        | some y => if y.dirty = 0 then modCore s (slotCore g) fun c => l1Drop c (asidOf s x.ctx) v else s
        | none => s) s
    | _, _ => s
  deferCause s r.uid { code := 0x18, lanes := maskOf (ls.map (·.1)), addr := ((ls.head?).map (·.2)).getD 0, origin := r.word }

/-- The oldest queued store of a group goes to a peer. -/
def peerStore (x : Group) : Option StoreQ :=
  match x.storeq with
  | e :: _ => match e.dst with
    | .home _ va leaf => if keyTier (leafKey leaf va) = 3 then some e else none
    | _ => none
  | [] => none

/-- A copy that has not moved is refused a line: it is the copy's own range failure when it comes to it (R369).
Log entry 45. -/
def refuseCopy (s : State) (id line : Nat) : State :=
  let one := fun (c : Copy) => if c.id == id && !c.moved then { c with no := line :: c.no } else c
  { s with cores := s.cores.map fun p => (p.1, { p.2 with copies := p.2.copies.map one }) }

/-- So is operation `i` of a core's matrix unit (R392). Log entry 45. -/
def refuseMx (s : State) (core i line : Nat) : State :=
  let one := fun (o : MxOp) => if o.moved then o else { o with no := line :: o.no }
  modCore s core fun c => { c with mx := { c.mx with ops := c.mx.ops.zipIdx.map fun p => if p.2 = i then one p.1 else p.1 } }

/-- So is a stream (R375). Log entry 45. -/
def refuseStream (s : State) (uid : Nat) (q : BitVec 2) (line : Nat) : State :=
  match slotOf s uid with
  | some g => match (groupAt s g).bind fun x => (ringOf x q.toNat).stream with
    | some st => putRing s g q.toNat fun r => { r with stream := some { st with no := line :: st.no } }
    | none => s
  | none => s

/-- The fills of an entry that are on their way bring zeros for the line, and stop their groups (R182). Log entry 45. -/
def refuseFills (s : State) (id line : Nat) : State :=
  match s.entries.find? fun e => e.id == id with
  | none => s
  | some e =>
    let hit := (linePieces e.addr.toNat e.size).filter fun p =>
      match walk s e.ctx ((e.addr.toNat + p.1) % 2 ^ 56) with
      | .ok _ k => keyLine k == line
      | _ => false
    let first := (hit.head?.map (·.1)).getD e.size
    let zero := fun (bs : List Byte) => bs.zipIdx.map fun b => if hit.any fun p => p.1 ≤ b.2 && b.2 < p.1 + p.2 then (0 : Byte) else b.1
    let far := fun (r : Option DWord) => match r with
      | some a => min first (a - e.addr).toNat
      | none => first
    if hit.isEmpty then s
    else modEntry s id fun e => { e with
      fills := e.fills.map fun f => { f with bytes := zero f.bytes, range := some (e.addr + BitVec.ofNat 64 (far f.range)) } }

/-- The dirty bytes of an L1 line that its peer refuses are dropped, with the notice of R359. Log entries 43 and 45. -/
def refuseWriteBack (s : State) (core asid vline : Nat) : State :=
  match l1Find (coreAt s core) asid vline with
  | none => s
  | some x =>
    if x.dirty = 0 || !atPeer x.line || !lineFree s core x.line then s
    else
      let s := modCore s core fun c => l1Put c { x with dirty := 0 }
      serviceNotice s 3 0xFF core (coreFlask core) (BitVec.ofNat 64 (keyPa (128 * x.line))) 1

/-- PEER_REFUSAL (R423); `lanes` are those of an access whose offset is refused; lanes that have changed one byte are refused together.
Log entries 45 and 54. -/
def execPeerRefusal (what : PeerItem) (lanes : LaneMask) (s : State) : Outcome State Fault Refusal :=
  .next (match what with
    | .access id => match s.results.find? fun r => r.id == id with
      | some r =>
        let peer := maskOf (r.peer.map (·.1))
        let mine := r.undo.filter fun u => inLanes lanes u.1
        let apart := mine.all fun u => memByte s.mem u.2.1 == u.2.2.2 && !r.undo.any fun v => !inLanes lanes v.1 && v.2.1 == u.2.1
        if lanes = 0 || lanes &&& ~~~ peer != 0 || !apart then s
        else refuseRes s r lanes
      | none => s
    | .store uid => match slotOf s uid, (groupOf s uid).bind peerStore with
      | some g, some e =>
        if canDrain s (slotCore g) e then refuseStore (modGroup s g fun x => { x with storeq := x.storeq.drop 1 }) g e else s
      | _, _ => s
    | .copy id line => if atPeer line then refuseCopy s id line else s
    | .matrix core i line => if atPeer line then refuseMx s core i line else s
    | .stream uid q line => if atPeer line then refuseStream s uid q line else s
    | .fills entry line => if atPeer line then refuseFills s entry line else s
    | .subBlock id line =>
      if atPeer line then { s with subs := updFirst (fun b => b.id == id) (fun b => { b with no := line :: b.no }) s.subs } else s
    | .writeBack core asid vline => refuseWriteBack s core asid vline)

/-- The identifier that a line's bytes are kept under, for a party that names none. Log entry 45. -/
def ownKey (s : State) (k : Nat) : Nat := (lineFor s 0 (keyLine k)).key

/-- PEER_ACCESS_ARRIVAL (R423): an access of the peer is performed where its offset lies in the tier; otherwise it is refused
and nothing happens here. Log entries 45 and 54. -/
def execPeerAccessArrival (port : Nat) (a : PeerAccess) (s : State) : Outcome State Fault Refusal :=
  if 12 ≤ port then .fault .noUnit
  else
    let key := fun (sram : Bool) (addr : Nat) => pkey (if sram then 1 else 0) addr
    let ok := fun (sram : Bool) (addr n : Nat) =>
      peerUp s port && !(mget s.ports port {}).retrain && decide (addr + n ≤ 2 ^ 42) && decide (1 ≤ n) && !lockedRun s (key sram addr) n && frameOk s (key sram addr) && frameOk s (key sram (addr + n - 1))
    match a with
    | .load sram addr n => .next (if ok sram addr n then touchL2 s 256 (ownKey s (key sram addr)) (keyLine (key sram addr)) else s)
    | .store sram addr bs =>
      .next (if ok sram addr bs.length then homeWriteRun s 32 512 256 (ownKey s (key sram addr)) (key sram addr) bs else s)
    | .atomic sram addr op t x y =>
      if !ok sram addr t.size then .next s
      else
        let k := key sram addr
        let kid := ownKey s k
        let old := bytesNat (homeBytes s kid k t.size)
        .next (homeWriteRun s 32 512 256 kid k (natBytes t.size (atomicOp op t old x.toNat y.toNat)))

/-! ### The host (R66 to R70) -/

/-- A counter of HMSTAT counts up and stays at its largest value. -/
def hmCount (s : State) (ctx lo : Nat) : State :=
  setSysFld s (sel 17 ctx) lo 16 (min 65535 (sysFld s (sel 17 ctx) lo 16 + 1))

/-- HOST_MESSAGE (R67, R68): what the host writes to a context's aperture while its link is up. DESIGN CHOICE (log entry 45): the
message's MCTX byte stays as the host wrote it. -/
def execHostMessage (ctx off : Nat) (bytes : List Byte) (s : State) : Outcome State Fault Refusal :=
  if 256 ≤ ctx || 4096 ≤ off then .fault .noUnit
  else if !s.boot.linkUp || bytes.isEmpty then .next s
  else if bytes.length != 64 || off % 64 != 0 || 0xFC0 < off + bytes.length then .next (hmCount s ctx 16)
  else if !ctxResident s ctx then .next (hmCount s 0 48)
  else
    let q := (mget s.ctxs ctx {}).hostq
    if 32 ≤ q.length then .next (hmCount s ctx 32)
    else
      let bs := bytes.take 2 ++ natBytes 1 2 ++ (bytes.drop 3).take 1 ++ natBytes 2 0xFFFF ++ bytes.drop 6
      let s := { s with ctxs := mmod s.ctxs ctx {} fun (x : CtxS) => { x with hostq := x.hostq ++ [bs] } }
      .next (setSysFld s (sel 17 ctx) 0 6 (32 - (q.length + 1)))

/-- A line that a staging access reaches is kept by a sub-block. -/
def stagingHeld (s : State) (off n : Nat) : Bool :=
  !s.subs.isEmpty && (linePieces off n).any fun p => match mget? s.staging ((off + p.1) / 2 ^ 21) with
    | some (k, _) => locked s (keyLine (k + (off + p.1) % 2 ^ 21))
    | none => false

/-- What a byte of the staging window reads as: all ones where no page that can be read is mapped (R66). Log entry 45. -/
def stagingByte (s : State) (o : Nat) : Byte :=
  match mget? s.staging (o / 2 ^ 21) with
  | some (k, kid) =>
    let k := k + o % 2 ^ 21
    if frameOk s k && (2 ≤ keyTier k || keyLive s kid) then homeByte s kid k else 0xFF
  | none => 0xFF

/-- What a byte of a context's aperture reads as: the credit word at 0xFC0, and zero elsewhere (R67). Log entry 45. -/
def apertureByte (s : State) (ctx o : Nat) : Byte :=
  if o = 0xFC0 then BitVec.ofNat 8 (sysFld s (sel 17 ctx) 0 6) else 0

/-- A read by the host, while its link is up (R66, R67, R70). Log entry 45. -/
def hostRead (s : State) (what : HostRead) : State :=
  if !s.boot.linkUp then s
  else match what with
    | .linkStatus => { s with hostOut := [1] }
    | .hmstat ctx => if 256 ≤ ctx then s else { s with hostOut := natBytes 8 (sysRead s (sel 17 ctx)).toNat }
    | .aperture ctx off n =>
      if 256 ≤ ctx || 4096 < off + n then s else { s with hostOut := (List.range n).map fun i => apertureByte s ctx (off + i) }
    | .staging off n =>
      if 2 ^ 36 < off + n || stagingHeld s off n then s else { s with hostOut := (List.range n).map fun i => stagingByte s (off + i) }

/-- HOST_STAGING_WRITE (R66): into the device pages mapped there, line by line (R187), dropped elsewhere. Log entry 45. -/
def execHostStagingWrite (off : Nat) (bytes : List Byte) (s : State) : Outcome State Fault Refusal :=
  if 2 ^ 36 < off + bytes.length then .fault .noUnit
  else if !s.boot.linkUp || stagingHeld s off bytes.length then .next s
  else
    .next ((linePieces off bytes.length).foldl (fun s p =>
      let o := off + p.1
      match mget? s.staging (o / 2 ^ 21) with
      | some (k, kid) =>
        let k := k + o % 2 ^ 21
        if frameOk s k && (2 ≤ keyTier k || keyLive s kid) then homeWriteRun s 32 512 256 kid k ((bytes.drop p.1).take p.2) else s
      | none => s) s)

/-! ### Boot and management (R75 to R80) -/

def bootStat (lo n : Nat) (s : State) : Nat := sysFld s (sel 28 0) lo n
def setBoot (s : State) (lo n v : Nat) : State := setSysFld s (sel 28 0) lo n v

/-- A measurement slot (R80). -/
def slotOfBoot (s : State) (k : Nat) : List Byte := (mget? s.boot.slots k).getD (List.replicate 64 0)

/-- Extend a slot with an image. Log entry 12. -/
def extend (s : State) (k : Nat) (image : List Byte) : State :=
  let m := Config.shake256 (slotOfBoot s k ++ Config.shake256 image)
  { s with boot := { s.boot with slots := mput s.boot.slots k m } }

/-- The boot stops at stage `k`, for a cause (R77, R78). DESIGN CHOICE (log entry 49): the host link is down after any stop. -/
def bootStop (s : State) (k cause : Nat) : State :=
  setBoot (setBoot (setBoot { s with boot := { s.boot with linkUp := false } } 16 4 k) 8 4 cause) 0 1 1

/-- The signature of a stage's image is valid under the key of its row (R76). Log entry 12. -/
def signed (s : State) (k : Nat) (x : BootImage) : Bool :=
  let key := if k = 4 then s.boot.key4 else x.key
  (k = 4 || Config.shake256 key == Config.shake256 Config.rootKey) && Config.mlDsaVerify key x.bytes x.signature
    && (k != 3 || Config.stage3CertOk x.bytes)

/-- What a stage does once it runs, as far as the machine shows it: stage 1 applies the stored retirements, stage 3 trains the
host link, which a stop at stage 4 has taken down again. -/
def bootEffect (s : State) (k : Nat) (x : BootImage) : State :=
  match k with
  | 1 => s.retired.foldl applyRetired s
  | 3 => { s with boot := { s.boot with linkUp := true, key4 := Config.stage3Key x.bytes } }
  | 4 => { s with boot := { s.boot with linkUp := true } }
  | _ => s

/-- The stage k image is verified, measured and run (R76, R77, R80); or the boot stops. Log entry 49. -/
def bootStage (s : State) (k : Nat) (x : BootImage) : State :=
  if !x.present then bootStop s k 4
  else if !signed s k x then bootStop s k 1
  else if x.version.toNat < (svnOf s).toNat then bootStop s k 2
  else
    let s := setBoot (extend s k x.bytes) 16 4 k
    if k = 2 && !x.badDrags.isEmpty then bootStop s k 3 else bootEffect s k x

/-- The stages from `k` on. Log entry 49. -/
def bootFrom (k : Nat) : List BootImage → State → State
  | [], s => { s with boot := { s.boot with images := [] } }
  | x :: rest, s =>
    let s := bootStage { s with boot := { s.boot with images := rest } } k x
    if bootStat 0 1 s = 1 then s else bootFrom (k + 1) rest s

/-- POWER_ON (R76): the boot of a machine that has been reset. -/
def execPowerOn (images : List BootImage) (s : State) : Outcome State Fault Refusal :=
  if bootStat 16 4 s != 0 || bootStat 0 1 s = 1 then .next s
  else
    let none' : BootImage := { present := false, bytes := [], version := 0, key := [], signature := [], badDrags := [] }
    .next (bootFrom 1 ((images ++ List.replicate 4 none').take 4) (extend s 0 Config.stage0Rom))

/-- RECOVERY_IMAGE (R77, R78): an image of the stage at which the boot stopped comes in, and its verification begins. Log entry 49. -/
def execRecoveryImage (img : BootImage) (s : State) : Outcome State Fault Refusal :=
  if bootStat 0 1 s != 1 || s.boot.recov.isSome then .next s
  else .next (setBoot { s with boot := { s.boot with recov := some img } } 1 1 1)

/-- The recovery image has been verified: the boot goes on from its stage, or stops there again (R77). DESIGN CHOICE (log
entry 49): STOPPED and CAUSE of BOOTSTAT are 0 from then on, though R78 keeps BOOTSTAT until the next module reset.
Log entries 49 and 49. -/
def recoveryVerified (s : State) : State :=
  match s.boot.recov with
  | none => s
  | some img =>
    let s := setBoot (setBoot (setBoot { s with boot := { s.boot with recov := none } } 1 1 0) 8 4 0) 0 1 0
    bootFrom (bootStat 16 4 s) (img :: s.boot.images) s

/-- The management controller returns the certificate of its public key (R79). -/
def certificate (s : State) : State := { s with mgmtOut := Config.kermonsdalCert Config.identityKey }

/-- The message that a quote signs (R80). -/
def quoteMessage (s : State) (nonce : List Byte) : List Byte :=
  nonce ++ natBytes 8 devident.toNat ++ ((List.range 5).map (slotOfBoot s)).flatten ++ natBytes 4 (svnOf s).toNat

/-- ATTESTATION_QUOTE (R80): the answer over the management port. Log entry 49. -/
def execAttestationQuote (nonce : List Byte) (s : State) : Outcome State Fault Refusal :=
  if nonce.length != 32 then .next s
  else .next { s with mgmtOut := Config.mlDsaSign (quoteMessage s nonce) }

/-- ANTI_ROLLBACK_ADVANCE (R76): fuses only count up. Log entry 49. -/
def execAntiRollbackAdvance (v : BitVec 32) (s : State) : Outcome State Fault Refusal :=
  if v.toNat ≤ (svnOf s).toNat then .next s else .next { s with boot := { s.boot with svn := some v } }

/-- MGMT_READ_REGISTER (R75): the answer over the management port. -/
def execMgmtReadRegister (sel : BitVec 17) (s : State) : Outcome State Fault Refusal :=
  if !selOk sel.toNat then .fault .noUnit else .next { s with mgmtOut := natBytes 8 (sysRead s sel.toNat).toNat }

/-- HOST_LINK_RESET (R75, R77): the link trains again unless the boot is stopped or has not come to stage 3.
Log entry 48. -/
def execHostLinkReset (s : State) : Outcome State Fault Refusal :=
  .next { s with boot := { s.boot with linkUp := decide (3 ≤ bootStat 16 4 s) && bootStat 0 1 s == 0 } }

/-- Masks whose rows are linearly independent over GF(2) (R28). Log entry 48. -/
def masksOk (m : BitVec 48) : Bool :=
  (List.range 15).all fun i =>
    ((List.range 4).foldl (fun (acc : BitVec 12) k => if (i + 1) / 2 ^ k % 2 = 1 then acc ^^^ m.extractLsb' (12 * k) 12 else acc) 0) != 0

/-- The masks of a flask after a reset: those written, or the reset masks (R28). Log entry 48. -/
def resetMasks (s t : State) (fl : Nat) : State :=
  let m := (sysVal s (sel 2 fl)).setWidth 48
  if masksOk m then modFlask (setSysFld t (sel 2 fl) 0 48 m.toNat) fl fun f => { f with masks := m }
  else setSysFld t (sel 2 fl) 62 1 1

/-- MODULE_RESET (R28, R75, R78): what stays is what the hosts and peers hold, the stored retirements, the fuses, and masks
written. Device memory holds what no key reads (R84). Log entry 46. -/
def execModuleReset (s : State) : Outcome State Fault Refusal :=
  let line := fun (p : Nat × LineS) => (p.1, ({ key := noKey } : LineS))
  let t : State := { State.reset with
    agenda := s.agenda, free := s.free, nextUid := s.nextUid, mem := s.mem, lines := s.lines.map line, retired := s.retired,
    boot := { svn := s.boot.svn } }
  .next ((List.range 32).foldl (resetMasks s) t)

end Sys2Proof.Machine
end

