-- ==== Sys2Proof/Machine/Sink.lean ====
section
/-! DEFINITION. Sink blocks (R172 to R178, R361, R362): the checks at SINK, sub-blocks, their landing, follow accesses and
return. -/

namespace Sys2Proof.Machine

open Host

/-! ### The words of a block -/

/-- What a word names: v and q sources with their FE bit, destinations, whether it names a queue or an s destination. -/
structure SinkUse where
  h    : Hdr
  srcs : List (Nat × Nat) := []
  q    : Bool := false
  sdst : Bool := false
  vw   : List Nat := []
  pw   : List Nat := []
  mem  : Bool := false
deriving DecidableEq, Repr

/-- The registers of a source under an FE bit. -/
def useSrc (x : Src) (wide : Bool) (fe : Nat) : List (Nat × Nat) :=
  match x with
  | .v n => (pairRegs wide n).map (·, fe)
  | _ => []

def isQ : Src → Bool
  | .q _ => true
  | _ => false

/-- A register word: destination, sources, C. -/
def useReg (h : Hdr) (wide : Bool) (d : Reg) (a : Src) (b : Option Src) (c : List Nat) : SinkUse :=
  { h := h, srcs := useSrc a wide 2 ++ (b.map fun b => useSrc b wide 1).getD [] ++ c.map (·, 0),
    q := isQ a || (b.map isQ).getD false, sdst := Reg.isS d, vw := dstRegs wide d }

/-- A compare. -/
def usePred (h : Hdr) (wide : Bool) (pd : BitVec 3) (a b : Src) : SinkUse :=
  { h := h, srcs := useSrc a wide 2 ++ useSrc b wide 1, q := isQ a || isQ b, pw := if pd = 7 then [] else [pd.toNat] }

/-- A residency predicate as a destination. -/
def pkList (pk : BitVec 3) : List Nat := if pk = 7 then [] else [pk.toNat]

/-- What a word of R172's list names; none for any other word. -/
def sinkUse : Instr → Option SinkUse
  | .iadd h t _ d a b | .isub h t _ d a b | .imul h t _ d a b => some (useReg h t.wide d a (some b) [])
  | .imin h t d a b | .imax h t d a b => some (useReg h t.wide d a (some b) [])
  | .and h t d a b | .or h t d a b | .xor h t d a b | .andn h t d a b => some (useReg h t.wide d a (some b) [])
  | .not h t d a | .ones h t d a | .clz h t d a | .ctz h t d a | .brev h t d a => some (useReg h t.wide d a none [])
  | .bmix3 h t d a b c _ => some (useReg h t.wide d a (some b) (pairRegs t.wide c))
  | .dshr h t d a b c | .fins h t d a b c => some (useReg h t.wide d a (some b) (pairRegs t.wide c))
  | .shl h t d a b | .shr h t d a b | .sar h t d a b | .rotl h t d a b | .rotr h t d a b | .fxtr h t d a b =>
    some { useReg h t.wide d a none [] with srcs := useSrc a t.wide 2 ++ useSrc b false 1, q := isQ a || isQ b }
  | .fadd h _ d a b | .fsub h _ d a b | .fmul h _ d a b => some (useReg h false d a (some b) [])
  | .ffma h _ d a b c => some (useReg h false d a (some b) [c.toNat])
  | .fmin h d a b | .fmax h d a b => some (useReg h false d a (some b) [])
  | .icmp h t _ pd a b => some (usePred h t.wide pd a b)
  | .fcmp h _ pd a b => some (usePred h false pd a b)
  | .sel h t d a b _ => some (useReg h t.wide d a (some b) [])
  | .mov h t d a => some (useReg h t.wide d a none [])
  | .movi h d _ => some { h := h, vw := [d.toNat] }
  | .ld h t _ _ _ d m => some { h := h, srcs := [(m.off.toNat, 1)], vw := pairRegs t.wide d, pw := pkList m.pk, mem := true }
  | .st h t _ _ _ x m =>
    some { h := h, srcs := [(m.off.toNat, 1)] ++ (pairRegs t.wide x).map (·, 0), pw := pkList m.pk, mem := true }
  | .atom h op t _ _ d _ off x pk =>
    some { h := h, srcs := [(off.toNat, 1)] ++ (atomRegs op t x).map (·, 0), vw := pairRegs t.wide d, pw := pkList pk, mem := true }
  | _ => none

/-- The v registers that a destination and sources name. -/
def namesOf (d : List Reg) (xs : List Src) (c : List Nat) : List Nat :=
  (d.map (dstRegs false)).flatten ++ (xs.map fun x => (useSrc x false 0).map (·.1)).flatten ++ c

/-- The v registers that a word outside R172's list names (R148). A 64-bit pair counts by its even register, since the allocation
is a multiple of 8. -/
def otherNames : Instr → List Nat
  | .brx _ a | .ret _ a | .cpy _ _ _ a | .cpyfill _ _ _ a => namesOf [a] [] []
  | .iaddc _ _ d a b _ | .isubb _ _ d a b _ | .imulh _ _ d a b | .idiv _ _ d a b | .irem _ _ d a b => namesOf [d] [a, b] []
  | .imad _ _ _ d a b c | .idp4 _ _ _ d a b c | .idp2 _ _ _ d a b c | .iadd3 _ _ _ d a b c => namesOf [d] [a, b] [c.toNat]
  | .iabs _ _ _ d a | .ineg _ _ _ d a => namesOf [d] [a] []
  | .clmul _ _ d a b | .clmulh _ _ d a b | .hmin2 _ _ d a b | .hmax2 _ _ d a b | .movh _ _ d a b => namesOf [d] [a, b] []
  | .bsel _ d a b c => namesOf [d] [a, b] [c.toNat]
  | .frnd _ _ d a | .fclass _ d a | .fabs _ d a | .fneg _ d a | .frcp _ _ d a | .frsq _ d a | .fsqrt _ _ d a => namesOf [d] [a] []
  | .fexp2 _ d a | .flog2 _ d a | .fsin _ d a | .fcos _ d a | .ftanh _ d a | .cvt _ _ _ _ _ d a => namesOf [d] [a] []
  | .fscale _ _ d a b | .fcpys _ d a b | .hadd2 _ _ _ d a b | .hmul2 _ _ _ d a b | .cvtpk _ _ _ _ _ d a b => namesOf [d] [a, b] []
  | .hfma2 _ _ _ d a b c => namesOf [d] [a, b] [c.toNat]
  | .qblk _ _ d a b | .lxch _ _ _ d a b => namesOf [.v d] [a, b] []
  | .dqblk _ d a | .scan _ _ _ _ d a => namesOf [.v d] [a] []
  | .redux _ _ _ _ d a => namesOf [d] [a] []
  | .pxfr _ (.ps _ a) => namesOf [] [a] []
  | .pxfr _ (.vp d _) | .pxfr _ (.vs d _) | .srec _ d => [d.toNat]
  | .peers _ _ (.lead v) a => namesOf [.v v] [a] []
  | .peers _ _ (.one _) a => namesOf [] [a] []
  | .rdsys _ d _ _ _ | .tnow _ d _ | .cbacq _ d _ => namesOf [d] [] []
  | .lds _ _ _ _ d _ off _ => [d.toNat, off.toNat]
  | .sts _ _ _ _ x _ off _ => [x.toNat, off.toNat]
  | .atoms _ op t _ d _ off x => d.toNat :: off.toNat :: atomRegs op t x
  | .red _ op t _ _ x m => m.off.toNat :: atomRegs op t x
  | .preq _ _ _ off _ | .pref _ _ _ off _ | .cctl _ _ _ _ off _ => [off.toNat]
  | .amsg _ _ vb => (List.range 12).map (· + vb.toNat)
  | .apxb _ _ vin nin vout nout _ =>
    (List.range (nin.toNat + 1)).map (· + vin.toNat) ++ (List.range (nout.toNat + 1)).map (· + vout.toNat)
  | _ => []

/-- Run a word that computes, through the meaning it has outside a block. -/
def sinkAlu (i : Instr) (s : State) : Outcome State Fault Refusal :=
  match i with
  | .iadd h t sat d a b => execIadd h t sat d a b s
  | .isub h t sat d a b => execIsub h t sat d a b s
  | .imul h t sat d a b => execImul h t sat d a b s
  | .imin h t d a b => execImin h t d a b s
  | .imax h t d a b => execImax h t d a b s
  | .and h t d a b => execAnd h t d a b s
  | .or h t d a b => execOr h t d a b s
  | .xor h t d a b => execXor h t d a b s
  | .andn h t d a b => execAndn h t d a b s
  | .not h t d a => execNot h t d a s
  | .bmix3 h t d a b c m => execBmix3 h t d a b c m s
  | .shl h t d a b => execShl h t d a b s
  | .shr h t d a b => execShr h t d a b s
  | .sar h t d a b => execSar h t d a b s
  | .rotl h t d a b => execRotl h t d a b s
  | .rotr h t d a b => execRotr h t d a b s
  | .dshr h t d a b c => execDshr h t d a b c s
  | .ones h t d a => execOnes h t d a s
  | .clz h t d a => execClz h t d a s
  | .ctz h t d a => execCtz h t d a s
  | .brev h t d a => execBrev h t d a s
  | .fxtr h t d a b => execFxtr h t d a b s
  | .fins h t d a b c => execFins h t d a b c s
  | .fadd h r d a b => execFadd h r d a b s
  | .fsub h r d a b => execFsub h r d a b s
  | .fmul h r d a b => execFmul h r d a b s
  | .ffma h r d a b c => execFfma h r d a b c s
  | .fmin h d a b => execFmin h d a b s
  | .fmax h d a b => execFmax h d a b s
  | .icmp h t c pd a b => execIcmp h t c pd a b s
  | .fcmp h c pd a b => execFcmp h c pd a b s
  | .sel h t d a b pk => execSel h t d a b pk s
  | .mov h t d a => execMov h t d a s
  | .movi h d imm => execMovi h d imm s
  | _ => .next s

/-- A memory word: type, strong, scope, address operands, and what it does. -/
inductive SinkOp where
  | load (d : BitVec 10)
  | store (x : BitVec 10)
  | atomic (op : AtomOp) (d x : BitVec 10)
deriving DecidableEq, Repr

structure SinkMem where
  h      : Hdr
  t      : Ty
  strong : Bool
  sc     : Scope
  base   : BitVec 6
  off    : BitVec 10
  disp   : BitVec 10
  pk     : BitVec 3
  op     : SinkOp
  acq    : Bool
  rel    : Bool
deriving DecidableEq, Repr

def sinkMem : Instr → Option SinkMem
  | .ld h t st acq sc d m =>
    some { h := h, t := t, strong := st || acq, sc := sc, base := m.base, off := m.off, disp := m.disp, pk := m.pk,
           op := .load d, acq := acq, rel := false }
  | .st h t st rel sc x m =>
    some { h := h, t := t, strong := st || rel, sc := sc, base := m.base, off := m.off, disp := m.disp, pk := m.pk,
           op := .store x, acq := false, rel := rel }
  | .atom h op t o sc d base off x pk =>
    some { h := h, t := t, strong := true, sc := sc, base := base, off := off, disp := 0, pk := pk, op := .atomic op d x,
           acq := Ord.acq o, rel := Ord.rel o }
  | _ => none

/-- The access is performed at the home slice where it runs in L1 (R160). -/
def SinkMem.goesHome (m : SinkMem) : Bool := m.strong && m.sc != .core

/-! ### Running a sub-block -/

/-- A sub-block with the module around it. -/
structure SinkRun where
  s      : State
  b      : Sub
  /-- An access met a line that another sub-block holds (R175, R176): it waits. -/
  shadow : Bool := false
  /-- A word wrote the anchor line. -/
  wrote  : Bool := false
deriving DecidableEq, Repr

/-- What the words read: the sub-block's own registers. -/
def subEnv (b : Sub) (lanes : LaneMask) : Env :=
  { g := b.slot, grp := b.grp, core := b.core, cyc := 0, pc := 0, lanes := lanes, act := lanes, sr := b.grp.s,
    vr := b.grp.v, rc := b.grp.recents, free := 0 }

/-- Lanes of a sub-block whose guard is true. -/
def subAct (b : Sub) (h : Hdr) : LaneMask := guardMask (subEnv b b.lanes) h

/-- A word that computes, on every lane (R175). -/
def subAlu (b : Sub) (i : Instr) : Sub :=
  let grp := { b.grp with paths := [{ pc := 0, lanes := b.lanes }], recents := [], empt := [], lent := [], q := [], fence := none }
  let mini : State := { groups := [(b.slot, grp)], cur := some { g := b.slot, pc := 0, lanes := b.lanes, word := 0, next := 0 } }
  match sinkAlu i mini with
  | .next t =>
    match groupAt t b.slot with
    | some x => { b with
        grp := { x with recents := [] }, wr := (x.recents.map fun r => (r.kind, r.reg, r.lane)) ++ b.wr,
        fl := t.results.foldl (fun acc r => acc ||| r.fl) b.fl }
    | none => b
  | _ => b

/-- A lane's result of a memory word. -/
def subPut (b : Sub) (wide : Bool) (d l n : Nat) : Sub :=
  let g := putV b.grp d l (BitVec.ofNat 32 n)
  if wide then
    { b with grp := putV g (d + 1) l (BitVec.ofNat 32 (n / 2 ^ 32)), wr := (0, d, l) :: (0, d + 1, l) :: b.wr }
  else { b with grp := g, wr := (0, d, l) :: b.wr }

/-- The lane's access is not performed: zero where it reads. -/
def subZero (b : Sub) (m : SinkMem) (l : Nat) : Sub :=
  match m.op with
  | .load d => subPut b m.t.wide d.toNat l 0
  | .store _ => b
  | .atomic _ d _ => subPut b m.t.wide d.toNat l 0

/-- A refusal of a follow access (R173). -/
def subRefuse (b : Sub) (m : SinkMem) (k l code : Nat) (ea aux : DWord) : Sub :=
  { subZero b m l with bad := b.bad ++ [(k, l, code, ea, aux)], faults := b.faults ||| laneBit l }

/-- The first byte of an access whose page is not resident (R171). Log entry 26. -/
def firstMissing (s : State) (ctx : Nat) (ea : DWord) (size : Nat) : DWord :=
  ((linePieces ea.toNat size).findSome? fun p =>
    let va := ea + BitVec.ofNat 64 p.1
    match walk s ctx (va.toNat % 2 ^ 56) with
    | .nonres => some va
    | _ => none).getD ea

/-- A follow access on a non-resident page (R177): zero, the residency bit cleared, the fault bit set, a notice of KIND 2 for its
first byte there (R171). Log entry 26. -/
def subMiss (r : SinkRun) (m : SinkMem) (l : Nat) (ea : DWord) : SinkRun :=
  let acc := match m.op with | .load _ => 0 | .store _ => 1 | .atomic _ _ _ => 2
  let b := subZero r.b m l
  let b := if m.pk = 7 then b else { b with grp := putP b.grp m.pk.toNat l false, wr := (2, m.pk.toNat, l) :: b.wr }
  { r with s := residNotice r.s 2 r.b.level r.b.ctx acc r.b.core (r.b.slot % 64) (firstMissing r.s r.b.ctx ea m.t.size),
           b := { b with faults := b.faults ||| laneBit l } }

/-- Translate an access's bytes: by the TLB domain at level 0; elsewhere by the leaf that the SINK found for the anchor line, and by
the walk of the landing level for another (R174, R175). -/
def subWalk (r : SinkRun) (m : SinkMem) (ea : DWord) : Look × List Piece × State :=
  let a : Acc := match m.op with | .load _ => .read | .store _ => .write | .atomic _ _ _ => .atomic
  if r.b.level = 0 then
    lanePieces r.s { subEnv r.b 0 with grp := { r.b.grp with ctx := r.b.ctx, sysT := r.b.sysT } } a m.goesHome ea m.t.size
  else
    let priv := r.b.sysT && ctxPriv r.s r.b.ctx
    (linePieces ea.toNat m.t.size).foldl (fun acc p =>
      let va := ea + BitVec.ofNat 64 p.1
      let found : Xl := if va.toNat % 2 ^ 56 / 128 = r.b.vline then .ok r.b.leaf (128 * r.b.line + va.toNat % 128)
        else walk r.s r.b.ctx (va.toNat % 2 ^ 56)
      let x : Look := if !canonical va then .range
        else match found with
          | .nonres => .nonres
          | .bad _ => .range
          | .ok l k => if !leafUsable r.s l k then .range else if !permOk l a priv then .perm l else .ok l k
      match acc.1, x with
      | .range, _ | _, .range => (.range, acc.2.1, acc.2.2)
      | .perm l, _ | _, .perm l => (.perm l, acc.2.1, acc.2.2)
      | .nonres, _ | _, .nonres => (.nonres, acc.2.1, acc.2.2)
      | .ok _ _, .ok l k => (.ok l k, acc.2.1 ++ [{ va := va.toNat % 2 ^ 56, n := p.2, leaf := l, key := k }], acc.2.2))
      (.ok 0 0, [], r.s)

/-- The bytes of a follow access; one that a peer refuses is out of range (R423). -/
def subPieces (r : SinkRun) (m : SinkMem) (ea : DWord) : Look × List Piece × State :=
  match subWalk r m ea with
  | (.ok l k, ps, s) => (if ps.any fun p => r.b.no.contains (keyLine p.key) then .range else .ok l k, ps, s)
  | x => x

/-- Read pieces where the sub-block runs: L1 or the home at level 0, the replica for the anchor line at level 1, else the
home or below it (R174, R175). -/
def subRead (r : SinkRun) (m : SinkMem) (ps : List Piece) : List Byte × State :=
  if r.b.level = 0 then
    if m.goesHome then readHome r.s r.b.core r.b.asid ps else readL1 r.s r.b.core r.b.asid [] ps
  else
    ps.foldl (fun acc p =>
      match (if keyLine p.key == r.b.line then r.b.snap else none) with
      | some d => (acc.1 ++ (List.range p.n).map fun i => lineByte d ((p.key + i) % 128), acc.2)
      | none => (acc.1 ++ homeBytes acc.2 (leafKeyid p.leaf) p.key p.n,
                 if keyLine p.key == r.b.line then acc.2 else remoteCount acc.2 (coreFlask r.b.core) p.key)) ([], r.s)

/-- Write pieces where the sub-block runs. -/
def subWrite (r : SinkRun) (m : SinkMem) (s : State) (ps : List Piece) (bs : List Byte) : State :=
  (ps.foldl (fun (acc : Nat × State) p =>
    let part := (bs.drop acc.1).take p.n
    let s := acc.2
    let s := if r.b.level = 0 then
        (if m.goesHome then writeHome (flushPhys s r.b.core (keyLine p.key)) r.b.core r.b.asid p part
         else l1Store s r.b.core r.b.asid p.va p.leaf part)
      else homeWrite s (coreFlask r.b.core) r.b.core (leafKeyid p.leaf) (keyLine p.key) none
        (((List.range p.n).zip part).map fun q => (p.key + q.1, q.2))
    (acc.1 + p.n, s)) (0, s)).2

/-- Address of a lane of a memory word. -/
def subEa (b : Sub) (m : SinkMem) (l : Nat) : DWord := laneEa (subEnv b b.lanes) m.base m.off m.disp m.t.size l

/-- The virtual lines of an access. -/
def eaLines (ea : DWord) (size : Nat) : List Nat :=
  dedup ((linePieces ea.toNat size).map fun p => (ea + BitVec.ofNat 64 p.1).toNat % 2 ^ 56 / 128)

/-- The line is one that another sub-block holds: at level 0 under its core's shadow, elsewhere at its home (R175, R176). -/
def subMeets (r : SinkRun) (line : Nat) : Bool :=
  r.s.subs.any fun x => x.id != r.b.id && x.line == line
    && ((r.b.level == 0 && x.core == r.b.core && (x.level != 0 || x.locks)) || (2 ≤ x.level && x.locks))

/-- An access of a sub-block waits: its line is held by another or by a port, its walk reads such a line, or its set in L1 has no way
for it (R36, R159, R175). Log entry 26. -/
def subHeld (r : SinkRun) (m : SinkMem) (ea : DWord) (ps : List Piece) : Bool :=
  ps.any (fun p => subMeets r (keyLine p.key)
    || (if r.b.level = 0 && !m.goesHome then !hasRoom r.s r.b.core r.b.asid (p.va / 128)
          || (!pieceValid r.s r.b.core r.b.asid p && portHeld r.s (keyLine p.key))
        else portHeld r.s (keyLine p.key)))
  || (linePieces ea.toNat m.t.size).any fun p =>
    let a := (ea + BitVec.ofNat 64 p.1).toNat % 2 ^ 56
    a / 128 != r.b.vline && walkKept r.s r.b.ctx a r.b.id

/-- One lane's access of word `k`: checked, then performed (R173, R175, R177). -/
def subAccess (r : SinkRun) (k : Nat) (m : SinkMem) (l : Nat) : SinkRun :=
  let ea := subEa r.b m l
  let other := (eaLines ea m.t.size).filter fun v => v != r.b.vline
  let mine := mget? r.b.follow l
  let third := other.any fun v => v != mine.getD (other.headD v)
  if k != r.b.anchor && third then { r with b := subRefuse r.b m k l 0x13 ea 0 }
  else
    let r := match other.head? with
      | some v => if k != r.b.anchor then { r with b := { r.b with follow := mput r.b.follow l v } } else r
      | none => r
    if m.strong && ea.toNat % m.t.size != 0 then { r with b := subRefuse r.b m k l 0x05 ea 0 }
    else
      let (x, ps, s) := subPieces r m ea
      let r := { r with s := s }
      match x with
      | .range => { r with b := subRefuse r.b m k l 0x18 ea 0 }
      | .perm leaf => { r with b := subRefuse r.b m k l 0x06 ea leaf }
      | .nonres => subMiss r m l ea
      | .ok _ _ =>
        let shadow := r.shadow || subHeld r m ea ps
        let onAnchor := ps.any fun p => keyLine p.key == r.b.line
        let wr := match m.op with | .load _ => false | _ => onAnchor
        let bad := match m.op with
          | .store _ => none
          | _ => ps.find? fun p => if r.b.level = 0 && !m.goesHome then piecePoison r.s r.b.core r.b.asid p
                                   else linePoison r.s (keyLine p.key)
        let b := match bad with
          | some p => { r.b with poison := some (r.b.poison.getD (keyLine p.key)), planes := r.b.planes ||| laneBit l }
          | none => r.b
        let e := subEnv b b.lanes
        match m.op with
        | .load d =>
          let (bs, s) := subRead r m ps
          { s := s, b := subPut b m.t.wide d.toNat l (loadPat m.t bs), shadow := shadow, wrote := r.wrote }
        | .store v =>
          { s := subWrite r m r.s ps (storeBytes e m.t v l), b := b, shadow := shadow, wrote := r.wrote || wr }
        | .atomic op d v =>
          let (bs, s) := subRead r m ps
          let args := atomArgs e m.t v l
          let old := bytesNat bs
          { s := subWrite r m s ps (natBytes m.t.size (atomicOp op m.t old args.1 args.2)),
            b := subPut b m.t.wide d.toNat l old, shadow := shadow, wrote := r.wrote || wr }

/-- The follow access of a lane travels (R175): it is of another line and a departed sub-block; at level 0, it is performed at its
home as an ordinary access of the group is. -/
def subTravels (b : Sub) (k : Nat) (m : SinkMem) (l : Nat) : Bool :=
  k != b.anchor && (if b.level = 0 then m.goesHome else (eaLines (subEa b m l) m.t.size).any fun v => v != b.vline)

/-- The anchor line is accessed again (R175): by a lane of the word under way whose access is out, or by a later word, where a lane's
address names it or is not known before the words in between have run. Log entry 26. -/
def anchorLater (b : Sub) : Bool :=
  (((b.words[b.at']?).bind sinkMem).any fun m => b.sent.any fun l => (eaLines (subEa b m l) m.t.size).contains b.vline)
  || (List.range b.words.length).any fun k => decide (b.at' < k) && match (b.words[k]?).bind sinkMem with
    | none => false
    | some m =>
      let uses := ((b.words.take k).drop b.at').map fun i => (sinkUse i).toList
      let writes := (uses.flatten.map (·.vw)).flatten
      let preds := (uses.flatten.map (·.pw)).flatten
      let lanes := if preds.contains (m.h.guard.toNat % 8) then b.lanes else subAct b m.h
      (lanesOf lanes).any fun l => writes.contains m.off.toNat || (eaLines (subEa b m l) m.t.size).contains b.vline

/-- Run words from the next one on (R175) until follow accesses are out, or the block ends. -/
def subGo : Nat → SinkRun → SinkRun
  | 0, r => r
  | fuel + 1, r =>
    match r.b.words[r.b.at']? with
    | none => { r with b := { r.b with done := true } }
    | some i =>
      match sinkMem i with
      | none => subGo fuel { r with b := { subAlu r.b i with at' := r.b.at' + 1 } }
      | some m =>
        let ls := lanesOf (subAct r.b m.h)
        let far := ls.filter fun l => subTravels r.b r.b.at' m l
        let r := (ls.filter fun l => !far.contains l).foldl (fun r l => subAccess r r.b.at' m l) r
        if far.isEmpty then subGo fuel { r with b := { r.b with at' := r.b.at' + 1 } }
        else
          let b := { r.b with sent := far }
          { r with b := { b with keeps := anchorLater b } }

/-- Results of a sub-block reach its block (R177). -/
def blockTake (k : Block) (b : Sub) : Block :=
  let ws := b.wr.foldl (fun (acc : List (Nat × Nat × Nat)) w => if acc.contains w then acc else w :: acc) []
  let vs := (ws.filter fun w => w.1 == 0).map fun w => (w.2.1 * 128 + w.2.2, vRaw b.grp w.2.1 w.2.2)
  let ps := (ws.filter fun w => w.1 == 2).map fun w => (w.2.1, w.2.2, inLanes (pRaw b.grp w.2.1) w.2.2)
  { k with
    v := k.v ++ vs, p := k.p ++ ps, bad := k.bad ++ b.bad, fl := k.fl ||| b.fl,
    poison := match k.poison with | some x => some x | none => b.poison, planes := k.planes ||| b.planes,
    srec := k.srec ++ (lanesOf b.lanes).map fun l =>
      (l, BitVec.ofNat 4 (b.level % 8 + if inLanes b.faults l then 8 else 0)) }

/-- The deferred trap of a block's refusals (R173): lowest word, code of its lowest lane, the lanes refused with that code.
Log entry 26. -/
def blockCause (k : Block) : List Cause :=
  let lowest := k.bad.foldl (fun (acc : Option Refused) x =>
    match acc with
    | none => some x
    | some y => if x.1 < y.1 || (x.1 == y.1 && x.2.1 < y.2.1) then some x else some y) none
  (match lowest with
    | none => []
    | some y =>
      let same := k.bad.filter fun x => x.1 == y.1 && x.2.2.1 == y.2.2.1
      [{ code := y.2.2.1, lanes := maskOf (same.map (·.2.1)), addr := y.2.2.2.1, aux := y.2.2.2.2, word := y.1, origin := k.word }])
  ++ (match k.poison with
    | none => []
    | some line => [{ code := 0x0E, lanes := k.planes, aux := linePa line, origin := k.word }])

/-- Every sub-block has returned (R152, R177, R178): results are written, the registers are full, the flag falls, an acquire that
a word asked for is performed, and a deferred cause stops the group. -/
def blockDone (s : State) (k : Block) : State :=
  let s := { s with blocks := s.blocks.filter fun x => x.id != k.id }
  let cyc := (coreAt s k.core).cycle
  let s := modUid s k.uid fun x =>
    let x := k.v.foldl (fun x p => arriveV cyc (p.1 / 128) (p.1 % 128) p.2 x) x
    let x := k.p.foldl (fun x p => arriveP cyc p.1 p.2.1 p.2.2 x) x
    { markFull k.vregs x with srec := k.srec.foldl (fun m p => mput m p.1 p.2) x.srec }
  let s := match k.acq with
    | some sc => acquire s k.core sc
    | none => s
  let s := fall (orFstat s k.uid k.fl) k.sig
  (blockCause k).foldl (fun s c => deferCause s k.uid c) s

/-! ### The SINK word -/

/-- What stops a SINK at a word of its block: the fetch of a word waits, or the word's index, with code, ADDR and AUX of the trap. -/
inductive SinkStop where
  | wait
  | trap (word code : Nat) (addr aux : DWord)
deriving DecidableEq, Repr

/-- The check of word `k` under R275, then R172 (R361); `live` is what stands at `led + 2`, where SP would have its LIVE word.
Log entry 26. -/
def sinkWord (s : State) (x : Group) (w : IWord) (live : Word96) (led : Pc) (k : Nat) : Except SinkStop Instr :=
  let rv := w.extractLsb' 32 64
  let bad := fun (code : Nat) (aux : DWord) => Except.error (SinkStop.trap k code 0 aux)
  if isLive w then bad 0x03 (led.setWidth 64)
  else if !assignedOp (opOf w) then bad 0x01 rv
  else if opOf w / 64 == 0xD && opOf w != 0x344 && opOf w != 0x345 && !grpPriv s x then bad 0x04 0
  else match decode w with
    | .error _ => bad 0x02 rv
    | .ok i =>
      let a := regCount x
      let use := sinkUse i
      let past := match use with
        | some u => (u.srcs.any fun r => a ≤ r.1) || u.vw.any fun r => a ≤ r
        | none => (otherNames i).any fun r => a ≤ r
      let hold := match i with
        | .cresHold .. => !grpPriv s x
        | _ => false
      let rest : Except SinkStop Instr := match use with
        | none => bad 0x13 0
        | some u => if u.h.sp || u.h.wait != 0 || u.h.set != 15 || u.q || u.sdst then bad 0x13 0 else .ok i
      if hold then bad 0x04 0
      else if past then bad 0x02 rv
      else if !w.getLsbD 20 then rest
      else match live with
        | .wait => .error .wait
        | .trap code addr aux => .error (.trap k code addr aux)
        | .ok v =>
          if !isLive v then bad 0x17 (v.extractLsb' 32 64)
          else if !liveOk v a then bad 0x02 rv
          else rest

/-- The `n` words of a block from word `k` on, fetched and checked one after the other: the first that fails any check decides
(R361). `mems` memory words stand before word `k`. Log entry 26. -/
def sinkWords (s : State) (e : Env) (pc0 : Pc) : Nat → Nat → Nat → Except SinkStop (List Instr)
  | 0, k, mems => if mems = 0 then .error (.trap (k - 1) 0x13 0 0) else .ok []
  | n + 1, k, mems =>
    let get := fun (pc : Pc) => fetchWord s e.core e.grp.ctx (grpPriv s e.grp) pc
    let pc := pc0 + BitVec.ofNat 32 k
    match get pc with
    | .wait => .error .wait
    | .trap code addr aux => .error (.trap k code addr aux)
    | .ok w => match sinkWord s e.grp w (get (pc + 1)) (pc - 1) k with
      | .error x => .error x
      | .ok i =>
        let isMem := (sinkMem i).isSome
        let isLd := match i with | .ld .. => true | _ => false
        let mems' := if isMem then mems + 1 else mems
        if (isMem && mems == 0 && !isLd) || 3 < mems' then .error (.trap k 0x13 0 0)
        else match sinkWords s e pc0 n (k + 1) mems' with
          | .ok is => .ok (i :: is)
          | .error x => .error x

/-- Registers that a block reads before it writes them, with their FE bit; the registers and predicates it writes. -/
def blockUse (is : List Instr) : List (Nat × Bool) × List (Nat × Bool) × List Nat :=
  is.foldl (fun acc i =>
    match sinkUse i with
    | none => acc
    | some u =>
      let fresh := (u.srcs.filter fun r => !(acc.2.1.any fun w => w.1 == r.1)).map fun r => (r.1, u.h.fe.getLsbD r.2)
      (acc.1 ++ fresh, acc.2.1 ++ u.vw.map (·, u.h.fe.getLsbD 2), dedup (acc.2.2 ++ u.pw))) ([], [], [])

/-- A trap of the at kind at the SINK that names a word of the block. Log entry 17. -/
def trapSink (s : State) (e : Env) (word code : Nat) (lanes : LaneMask) (addr aux : DWord) : State :=
  takeTrap s e.g { code := code, lanes := lanes, addr := addr, aux := aux, word := word } e.pc

/-- The registers of a group as the SINK sees them: reads that come early are settled (R151). -/
def snapshot (e : Env) : Group :=
  let x := e.grp
  let put := fun (y : Group) (r : Recent) =>
    match r.kind with
    | 0 => putV y r.reg r.lane (e.v r.reg r.lane)
    | 1 => putS y r.reg (e.s r.reg)
    | _ => putP y r.reg r.lane (e.p r.reg r.lane)
  { x.recents.foldl put { x with s := e.sr } with
    paths := [], recents := [], storeq := [], uiTags := [], causes := [], apx := [], srec := [], q := [], j := [] }

/-- The wider of two scopes (R188). -/
def widest (a b : Option Scope) : Option Scope :=
  let n := fun (x : Option Scope) => match x with
    | none => 0 | some .core => 1 | some .clu => 2 | some .dev => 3 | some .sys => 4
  if n a < n b then b else a

/-- The widest scope among the words that a test picks. -/
def scopeOf (is : List Instr) (f : SinkMem → Bool) : Option Scope :=
  is.foldl (fun acc i => match sinkMem i with
    | some m => if f m then widest acc (some m.sc) else acc
    | none => acc) none

/-- A sub-block of some lanes, before it lands. -/
def newSub (e : Env) (is : List Instr) (k0 : Nat) (asid : Nat) (lanes : LaneMask) (p : Piece) (grp : Group) : Sub :=
  { id := 0, blk := 0, uid := e.grp.uid, ctx := e.grp.ctx, sysT := e.grp.sysT, core := e.core, slot := e.g, asid := asid,
    vline := p.va / 128, line := keyLine p.key, leaf := p.leaf, lanes := lanes, words := is, anchor := k0, grp := grp }

/-- Lanes of a non-resident anchor page (R177): level 7, zero and false in all the block would write. -/
def missBlock (lanes vw pw : List Nat) (k : Block) : Block :=
  { k with
    v := k.v ++ (vw.map fun r => lanes.map fun l => (r * 128 + l, (0 : Word))).flatten,
    p := k.p ++ (pw.map fun q => lanes.map fun l => (q, l, false)).flatten,
    srec := k.srec ++ lanes.map fun l => (l, 7#4) }

/-- The dirty bytes of a line leave L1 with a sub-block, and the line with them (R174, R176). -/
def carryLine (s : State) (core line : Nat) : List (Nat × Byte) × State :=
  match (coreAt s core).l1.find? fun x => x.line == line with
  | none => ([], s)
  | some x => ((maskBytes x.dirty).map fun i => (128 * line + i, lineByte x.data i), modCore s core fun c => l1Drop c x.asid x.vline)

/-- Form the sub-blocks of a block whose checks have passed, run those of level 0 as far as they stay in L1, send off the others
(R174 to R177); none where a line is held and the SINK waits.
Log entry 26. -/
def sinkRun (e : Env) (h : Hdr) (is : List Instr) (k0 : Nat) (base : Group) (vw pw : List Nat) (accs : List LaneAcc)
    (s : State) : Option State :=
  let asid := asidOf s e.grp.ctx
  let miss := missing accs
  let there := (accs.map fun a => match a.pieces with | some (p :: ps) => [(a, p, p :: ps)] | _ => []).flatten
  let lines := dedup (there.map fun x => keyLine x.2.1.key)
  let byLine := lines.map fun ln =>
    let mine := there.filter fun x => keyLine x.2.1.key == ln
    (ln, mine, (mine.all fun x => x.2.2.all fun p => pieceValid s e.core asid p) || 2 ≤ keyTier (128 * ln))
  let sub := fun (mine : List (LaneAcc × Piece × List Piece)) =>
    newSub e is k0 asid (maskOf (mine.map fun x => x.1.lane)) ((mine.head?.map (·.2.1)).getD ⟨0, 0, 0, 0⟩) base
  let (bid, s) := freshUid s
  let blk : Block := { id := bid, uid := e.grp.uid, left := 0, vregs := vw, sig := sigOf e.grp.uid h.set, word := e.pc,
                       core := e.core, acq := scopeOf is (·.acq) }
  let blk := missBlock miss vw pw blk
  let held := lines.any fun ln => s.subs.any fun b => b.core == e.core && b.line == ln && b.level == 0 && b.locks
  let (s, near, shadow) := (byLine.filter fun x => x.2.2).foldl (fun (acc : State × List Sub × Bool) x =>
    let (id, s) := freshUid acc.1
    let r := subGo 10 { s := s, b := { sub x.2.1 with level := 0, id := id, blk := bid } }
    (r.s, acc.2.1 ++ [r.b], acc.2.2 || r.shadow)) (s, [], false)
  if held || shadow then none
  else
    let far := byLine.filter fun x => !x.2.2
    let s := far.foldl (fun s x =>
      let (bytes, s) := carryLine s e.core x.1
      let (id, s) := freshUid s
      { s with subs := s.subs ++ [{ sub x.2.1 with id := id, blk := bid, carried := bytes }] }) s
    let out := near.filter fun b => !b.done
    let blk : Block := { (near.filter fun b => b.done).foldl blockTake blk with left := far.length + out.length }
    let s := modGroup s e.g (markEmpty vw)
    let s := { s with blocks := s.blocks ++ [blk], subs := s.subs ++ out }
    some (if blk.left = 0 then blockDone s blk else s)

/-- What the registers of a block ask for at SINK (R126, R172, R220): a trap, or to wait. -/
def sinkRegs (x : Group) (reads : List (Nat × Bool)) (writes : List (Nat × Bool)) : Verdict :=
  match writes.find? fun w => (inRing x w.1).isSome with
  | some w => .trap 0x15 (BitVec.ofNat 64 w.1)
  | none =>
    let empt := reads.filter fun r => isEmpty x r.1
    let lent := writes.filter fun w => x.lent.contains w.1
    match empt.find? (·.2), lent.find? (·.2) with
    | some r, _ => .trap 0x07 (BitVec.ofNat 64 r.1)
    | none, some w => .trap 0x07 (BitVec.ofNat 64 (w.1 + 4096))
    | none, none => if empt.isEmpty && lent.isEmpty then .go else .wait

/-- SINK (R172, R174, R361): with SP, the words after its LIVE word are checked, and then it is refused. Log entry 26. -/
def execSink (h : Hdr) (n : BitVec 4) (s : State) : Outcome State Fault Refusal :=
  gateTo { h := h, mem := true } s (fun e => [(e.pc + 1 + n.setWidth 32, .run, e.lanes)]) fun e pre post =>
    match sinkWords pre e (nextPc e.pc h.sp) n.toNat 0 0 with
    | .error .wait => pre
    | .error (.trap k code addr aux) => trapSink pre e k code e.act addr aux
    | .ok is =>
      let (reads, writes, pw) := blockUse is
      match sinkRegs e.grp reads writes with
      | .trap code aux => trapSink pre e 0 code e.act 0 aux
      | .wait | .fetch _ _ _ => pre
      | .go => afterDrain e pre post fun s =>
        let base := snapshot e
        let k0 := is.findIdx fun i => (sinkMem i).isSome
        match (is[k0]?).bind sinkMem with
        | none => pre
        | some m =>
          let b0 := (is.take k0).foldl subAlu (newSub e is k0 0 e.act ⟨0, 0, 0, 0⟩ base)
          match checkGlobal s e .read m.strong m.goesHome m.t.size (lanesOf (subAct b0 m.h)) (subEa b0 m) with
          | (.bad code lanes addr aux, _) => trapSink pre e k0 code lanes addr aux
          | (.held, _) => pre
          | (.ok accs, s) =>
            if h.sp || (!pw.isEmpty && 12 ≤ h.set.toNat) then trapReserved pre e.act
            else
              let run := fun (s : State) => (sinkRun e h is k0 base (dedup (writes.map (·.1))) pw accs s).getD pre
              match scopeOf is (·.rel) with
              | some sc => afterRelease e pre s sc run
              | none => run s

/-- SREC (R362): in the 6-cycle class. -/
def execSrec (h : Hdr) (d : BitVec 10) (s : State) : Outcome State Fault Refusal :=
  intOp (infoOf h (.v d) false none none []) (.v d) false 6 (fun e l => (mget e.grp.srec l 0xF).toNat) s

/-! ### Landing, follow accesses and return -/

/-- Put a sub-block back. -/
def putSub (s : State) (b : Sub) : State := { s with subs := updFirst (fun x => x.id == b.id) (fun _ => b) s.subs }

/-- The lanes whose follow accesses may share the first trip (R175): those that name the line of the first lane. -/
def sameTrip (b : Sub) (m : SinkMem) : List Nat :=
  let line := fun (l : Nat) => (eaLines (subEa b m l) m.t.size).filter fun v => v != b.vline
  match b.sent with
  | [] => []
  | l :: _ => b.sent.filter fun x => line x == line l

/-- One trip of follow accesses of the current word, then the next words once every one has returned (R175). How many of the lanes
that may share it do, the spec leaves open: what is performed between two trips falls between their accesses (R414).
Log entry 26. -/
def subTrip (r : SinkRun) : SinkRun :=
  match (r.b.words[r.b.at']?).bind sinkMem with
  | none => r
  | some m =>
    let may := sameTrip r.b m
    let (d, s) := draw r.s
    let now := may.take (1 + Config.freeNat d r.b.id % may.length)
    let r := now.foldl (fun r l => subAccess r r.b.at' m l) { r with s := s }
    let b := { r.b with sent := r.b.sent.filter fun l => !now.contains l }
    if b.sent.isEmpty then subGo 10 { r with b := { b with at' := b.at' + 1 } }
    else { r with b := { b with keeps := anchorLater b } }

/-- A whole run with every trip made at once, to see whether a word writes the anchor line (R174, level 1).
Log entry 26. -/
def subDry : Nat → SinkRun → SinkRun
  | 0, r => r
  | fuel + 1, r => if r.b.done then r else subDry fuel (subTrip r)

/-- The landing level of a departed sub-block that does not run on a replica (R174). -/
def homeLevel (s : State) (line : Nat) : Nat :=
  if ((mget? s.lines line).map (·.inL2)).getD false then 2 else if keyTier (128 * line) = 1 then 3 else 4

/-- SUB_BLOCK_LAND (R174, R175): a departed sub-block lands once no earlier one of its core is out on its line (R176).
Log entry 26. -/
def execSubBlockLand (id : Nat) (s : State) : Outcome State Fault Refusal :=
  match s.subs.find? fun b => b.id == id with
  | none => .next s
  | some b =>
    if b.level != 8 || locked s b.line || s.subs.any (fun x => x.core == b.core && x.line == b.line && x.id < b.id) then .next s
    else
      let fl := coreFlask b.core
      let key := 128 * b.line
      let weak := match (b.words[b.anchor]?).bind sinkMem with
        | some m => !m.strong
        | none => false
      let e := mget (flaskAt s (homeFlask key)).dir (granuleOf key) {}
      let snap := (mget? (flaskAt s fl).replicas b.line).map (·.data)
      let held := homeFlask key != fl && (e.rep || e.sharers.getLsbD fl) && snap.isSome
      let near := subGo 10 { s := s, b := { b with level := 1, snap := snap } }
      if held && weak && b.carried.isEmpty && !(subDry 200 near).wrote then .next (putSub near.s near.b)
      else
        let level := homeLevel s b.line
        let s := if leafUsable s b.leaf key then homeWrite s fl b.core (leafKeyid b.leaf) b.line none b.carried else s
        let s := remoteCount s fl key
        let r := subGo 10 { s := s, b := { b with level := level } }
        .next (putSub r.s r.b)

/-- FOLLOW_ACCESS (R175): the follow accesses of one trip are performed and return, unless a line of theirs is held.
Log entry 26. -/
def execFollowAccess (id : Nat) (s : State) : Outcome State Fault Refusal :=
  match s.subs.find? fun b => b.id == id && !b.sent.isEmpty with
  | none => .next s
  | some b =>
    let r := subTrip { s := s, b := b }
    .next (if r.shadow then s else putSub r.s r.b)

/-- SUB_BLOCK_RETURN (R176 to R178): the results of a sub-block that has run reach its block; the shadow lifts.
Log entry 26. -/
def execSubBlockReturn (id : Nat) (s : State) : Outcome State Fault Refusal :=
  match s.subs.find? fun b => b.id == id && b.done with
  | none => .next s
  | some b =>
    let s := { s with subs := s.subs.filter fun x => x.id != id }
    match s.blocks.find? fun k => k.id == b.blk with
    | none => .next s
    | some k =>
      let k := { blockTake k b with left := k.left - 1 }
      let s := { s with blocks := updFirst (fun x => x.id == k.id) (fun _ => k) s.blocks }
      .next (if k.left = 0 then blockDone s k else s)

end Sys2Proof.Machine
end

