-- ==== Sys2Proof/Machine/Special.lean ====
section
/-! DEFINITION. Special functions and cross-lane instructions, class 0x6 (R341 to R346). -/

namespace Sys2Proof.Machine

open Host

/-- A special function of an f32 source (R342). -/
def special (h : Hdr) (d : Reg) (a : Src) (f : Bool → Nat → Nat × Fl) (s : State) : Outcome State Fault Refusal :=
  varOp (info1 h .f32 d a) d false (fun e l => f e.ftz (e.fnum .f32 a l)) s

/-- FRCP (R342, R343). -/
def execFrcp (h : Hdr) (r : Rnd) (d : Reg) (a : Src) (s : State) : Outcome State Fault Refusal := special h d a (fRcp r) s

/-- FRSQ (R342, R343). -/
def execFrsq (h : Hdr) (d : Reg) (a : Src) (s : State) : Outcome State Fault Refusal := special h d a fRsq s

/-- FSQRT (R342, R343). -/
def execFsqrt (h : Hdr) (r : Rnd) (d : Reg) (a : Src) (s : State) : Outcome State Fault Refusal := special h d a (fSqrt r) s

/-- FEXP2 (R342, R343). -/
def execFexp2 (h : Hdr) (d : Reg) (a : Src) (s : State) : Outcome State Fault Refusal := special h d a (fSpecial 1) s

/-- FLOG2 (R342, R343). -/
def execFlog2 (h : Hdr) (d : Reg) (a : Src) (s : State) : Outcome State Fault Refusal := special h d a (fSpecial 2) s

/-- FSIN (R342, R343). -/
def execFsin (h : Hdr) (d : Reg) (a : Src) (s : State) : Outcome State Fault Refusal := special h d a (fSpecial 3) s

/-- FCOS (R342, R343). -/
def execFcos (h : Hdr) (d : Reg) (a : Src) (s : State) : Outcome State Fault Refusal := special h d a (fSpecial 4) s

/-- FTANH (R342, R343). -/
def execFtanh (h : Hdr) (d : Reg) (a : Src) (s : State) : Outcome State Fault Refusal := special h d a (fSpecial 5) s

/-- The source lane of LXCH (R344). -/
def lxchSrc (m : LxMode) (l n : Nat) : Nat :=
  match m with
  | .get => n % 128
  | .fwd => (l + n) % 128
  | .back => (l + 128 - n % 128) % 128
  | .xor => (l ^^^ (n % 128)) % 128

/-- LXCH (R344). -/
def execLxch (h : Hdr) (t : Ty) (m : LxMode) (d : BitVec 10) (a b : Src) (s : State) : Outcome State Fault Refusal :=
  varOp (infoOf h (.v d) t.wide (some (a, t.wide)) (some (b, false)) []) (.v d) t.wide
    (fun e l =>
      let src := lxchSrc m l (e.num false b l)
      (e.num t.wide a (if inLanes e.act src then src else l), 0)) s

/-- One step of REDUX and SCAN (R345) on patterns of the type's width. -/
def redStep (t : Ty) (op : RedOp) (r : Rnd) (ftz : Bool) (x y : Nat) : Nat × Fl :=
  match op with
  | .add => if t == .f32 then fAdd .f32 r ftz x y else (fit t false (intOf t x + intOf t y), 0)
  | .min => if t == .f32 then fMinMax .f32 true ftz x y
    else (fit t false (if intOf t y < intOf t x then intOf t y else intOf t x), 0)
  | .max => if t == .f32 then fMinMax .f32 false ftz x y
    else (fit t false (if intOf t x < intOf t y then intOf t y else intOf t x), 0)
  | .and => (x &&& y, 0)
  | .or => (x ||| y, 0)
  | .xor => (x ^^^ y, 0)

/-- The running result over lanes in increasing order (R346): value and flags up to each lane. -/
def scanGo (f : Nat → Nat → Nat × Fl) (v : Nat → Nat) : Option Nat → Fl → List Nat → List (Nat × Nat × Fl)
  | _, _, [] => []
  | acc, fl, l :: r =>
    let x := match acc with
      | none => (v l, fl)
      | some a => ((f a (v l)).1, fl ||| (f a (v l)).2)
    (l, x.1, x.2) :: scanGo f v (some x.1) x.2 r

/-- The running results of a stream (R345, R346). -/
def Env.runningOf (e : Env) (t : Ty) (op : RedOp) (r : Rnd) (a : Src) : List (Nat × Nat × Fl) :=
  scanGo (redStep t op r e.ftz) (fun l => if t == .f32 then e.num false a l else fit t false (intOf t (e.num t.wide a l)))
    none 0 (lanesOf e.act)

/-- REDUX and SCAN share what they name. -/
def redInfo (h : Hdr) (t : Ty) (d : Reg) (a : Src) : Info := infoOf h d t.wide (some (a, t.wide)) none []

/-- The running result at a lane (R346). -/
def Env.runningAt (e : Env) (t : Ty) (op : RedOp) (r : Rnd) (a : Src) (l : Nat) : Nat × Fl :=
  (((e.runningOf t op r a).find? fun p => p.1 == l).map (·.2)).getD (0, 0)

/-- The running result at the last lane (R345). -/
def Env.runningLast (e : Env) (t : Ty) (op : RedOp) (r : Rnd) (a : Src) : Nat × Fl :=
  ((e.runningOf t op r a).getLast?.map (·.2)).getD (0, 0)

/-- REDUX (R345). Log entry 11. -/
def execRedux (h : Hdr) (t : Ty) (op : RedOp) (r : Rnd) (d : Reg) (a : Src) (s : State) : Outcome State Fault Refusal :=
  varOp (redInfo h t d a) d t.wide (fun e _ => e.runningLast t op r a) s

/-- SCAN (R346). -/
def execScan (h : Hdr) (t : Ty) (op : RedOp) (r : Rnd) (d : BitVec 10) (a : Src) (s : State) : Outcome State Fault Refusal :=
  varOp (redInfo h t (.v d) a) (.v d) t.wide (fun e l => e.runningAt t op r a l) s

end Sys2Proof.Machine
end

