-- ==== Sys2Proof/Machine/Walker.lean ====
section
/-! DEFINITION. The graph walkers (R106 to R109). -/

namespace Sys2Proof.Machine

open Host

/-- A node of a graph (R106). -/
structure Node where
  kind  : Nat
  nflags : Nat
  incount : Nat
  next  : Nat
  addr  : DWord
  mask  : DWord
  alt   : Nat
  cap   : Nat
deriving DecidableEq, Repr

def nodeOf (bs : List Byte) : Node :=
  let n := fun off len => bytesAt bs off len
  { kind := n 0 1, nflags := n 1 1, incount := n 2 2, next := n 4 4, addr := BitVec.ofNat 64 (n 8 8),
    mask := BitVec.ofNat 64 (n 0x10 8), alt := n 0x18 4, cap := n 0x1C 4 }

/-- HOLD (R108). -/
def Node.hold (x : Node) : Bool := x.nflags % 2 == 1

/-- ALSO (R106). -/
def Node.also (x : Node) : Option Nat := if fld x.mask 0 32 = 0xFFFFFFFF then none else some (fld x.mask 0 32)

/-- A known kind with its reserved fields zero (R106, R109). Log entry 39. -/
def Node.ok (x : Node) : Bool :=
  match x.kind with
  | 0 => x.nflags = 0 && x.incount = 0 && fld x.mask 32 32 = 0 && x.alt = 0 && x.cap = 0
  | 1 => decide (x.nflags < 2) && x.incount = 0 && x.cap = 0
  | 2 => decide (x.nflags < 2) && x.incount = 0
  | 3 => x.nflags = 0 && x.addr = 0 && x.mask = 0 && x.alt = 0 && x.cap = 0
  | 4 => x.nflags = 0 && x.incount = 0 && x.next = 0 && x.addr = 0 && x.mask = 0 && x.alt = 0 && x.cap = 0
  | _ => false

def instOf (s : State) (fl num : Nat) : Option Inst := (flaskAt s fl).insts.find? fun i => i.num == num

def modInst (s : State) (fl num : Nat) (f : Inst → Inst) : State :=
  modFlask s fl fun x => { x with insts := updFirst (fun i => i.num == num) f x.insts }

def modThread (s : State) (fl num th : Nat) (f : Thread → Thread) : State :=
  modInst s fl num fun i => { i with threads := updFirst (fun t => t.id == th) f i.threads }

/-- The thread moves to a node. -/
def goNode (s : State) (fl num th node : Nat) : State :=
  modThread s fl num th fun t => { id := t.id, node := node }

/-- The thread ends. -/
def endThread (s : State) (fl num th : Nat) : State :=
  modInst s fl num fun i => { i with threads := i.threads.filter fun t => t.id != th }

/-- ARG1 of the walker's notices (R74). -/
def nodeArg (num node : Nat) : DWord := BitVec.ofNat 64 (node % 2 ^ 32 + num % 2 ^ 32 * 2 ^ 32)

/-- BAD_NODE (R109): the thread ends, and no further node of the instance starts. -/
def badNode (s : State) (fl : Nat) (i : Inst) (t : Thread) : State :=
  let s := endThread s fl i.num t.id
  let s := modInst s fl i.num fun i => { i with bad := true, stopped := true }
  taskNotice s 3 i.ctx 0xFFFF fl i.nodes (nodeArg i.num t.node)

/-- What a thread finds at its node. -/
inductive Found where
  /-- The node's page is not resident. -/
  | wait
  | bad
  | node (n : Node)
deriving DecidableEq, Repr

/-- The node where a thread stands. DESIGN CHOICE (log entry 39): on a page that is not resident the thread waits, with no notice. -/
def findNode (s : State) (i : Inst) (t : Thread) : Found :=
  if i.ncount ≤ t.node then .bad
  else match ctxRead s i.ctx (i.nodes + BitVec.ofNat 64 (32 * t.node)) 32 with
    | none => .wait
    | some bs => if (nodeOf bs).ok then .node (nodeOf bs) else .bad

/-- A thread acts on its node of the kind named (R107): a node that the walker cannot act on ends it. -/
def actNode (fl num th kind : Nat) (s : State) (act : Inst → Thread → Node → State → State) : Outcome State Fault Refusal :=
  if 32 ≤ fl then .fault .noUnit
  else match instOf s fl num with
    | none => .next s
    | some i =>
      match i.threads.find? fun t => t.id == th with
      | none => .next s
      | some t =>
        if i.stopped || t.grid.isSome then .next s
        else match findNode s i t with
          | .wait => .next s
          | .bad => .next (badNode s fl i t)
          | .node n => if n.kind = kind then .next (act i t n s) else .next s

/-- WALKER_TASK (R107): the grid of the record at ADDR is launched as R103 lays down. DESIGN CHOICE (log entry 39): the thread waits,
with no notice, while the record is on a page that is not resident. -/
def execWalkerTask (fl inst th : Nat) (s : State) : Outcome State Fault Refusal :=
  actNode fl inst th 0 s fun i t n s =>
    match ctxRead s i.ctx n.addr 256 with
    | none => s
    | some bs =>
      let l := launchOf bs n.addr
      if !launchOk s bs l i.ctx i.sysT then badNode s fl i t
      else if n.also.isSome && 256 ≤ threadCount (flaskAt s fl) then s
      else match slotMissing s l with
        | some va =>
          if t.told then s
          else residNotice (modThread s fl inst th fun t => { t with told := true }) 3 0 i.ctx 1 (16 * fl) 0 va
        | none =>
          let (g, s) := launchGrid s l i.sysT (.walker fl inst th)
          let s := modThread s fl inst th fun t => { t with grid := some g, told := false }
          match n.also with
          | none => s
          | some k => modInst s fl inst fun i =>
              { i with threads := i.threads ++ [{ id := i.nextTh, node := k }], nextTh := i.nextTh + 1 }

/-- WALKER_TASK_DONE (R105, R107, R109): the grid's completion reaches the walker. -/
def execWalkerTaskDone (fl inst th : Nat) (s : State) : Outcome State Fault Refusal :=
  if 32 ≤ fl then .fault .noUnit
  else match instOf s fl inst with
    | none => .next s
    | some i =>
      match i.threads.find? fun t => t.id == th with
      | none => .next s
      | some t =>
        match t.ended with
        | none => .next s
        | some v =>
          let s := if v = 2 then modInst s fl inst fun i => { i with bad := true } else s
          if i.stopped then .next (endThread s fl inst th)
          else match findNode s i t with
            | .wait => .next s
            | .bad => .next (badNode s fl i t)
            | .node n => .next (goNode s fl inst th n.next)

/-- The condition word of a node, read with a strong load at dev scope (R107); none while HOLD waits for its note (R108), or
the page is not resident (DESIGN CHOICE, log entry 39: with no notice). The answer's state has the note removed. -/
def condWord (s : State) (fl : Nat) (i : Inst) (n : Node) : Option (DWord × State) :=
  let f := flaskAt s fl
  if n.hold && !f.notes.contains n.addr then none
  else match ctxRead s i.ctx n.addr 8 with
    | none => none
    | some bs =>
      let s := if n.hold then modFlask s fl fun f => { f with notes := f.notes.filter fun a => a != n.addr } else s
      some (BitVec.ofNat 64 (bytesNat bs), s)

/-- WALKER_COND (R107, R108). -/
def execWalkerCond (fl inst th : Nat) (s : State) : Outcome State Fault Refusal :=
  actNode fl inst th 1 s fun i _ n s =>
    match condWord s fl i n with
    | none => s
    | some (w, s) => goNode s fl inst th (if w &&& n.mask != 0 then n.next else n.alt)

/-- WALKER_WHILE (R107, R108). -/
def execWalkerWhile (fl inst th : Nat) (s : State) : Outcome State Fault Refusal :=
  actNode fl inst th 2 s fun i t n s =>
    match condWord s fl i n with
    | none => s
    | some (w, s) =>
      let count := mget i.counts t.node 0
      let put := fun (s : State) (k : Nat) => modInst s fl inst fun i => { i with counts := mput i.counts t.node k }
      if w &&& n.mask = 0 then goNode (put s 0) fl inst th n.next
      else if count < n.cap then goNode (put s (count + 1)) fl inst th n.alt
      else goNode (taskNotice (put s 0) 2 i.ctx 0xFFFF fl i.nodes (nodeArg inst t.node)) fl inst th n.next

/-- WALKER_JOIN (R107). Log entry 39. -/
def execWalkerJoin (fl inst th : Nat) (s : State) : Outcome State Fault Refusal :=
  actNode fl inst th 3 s fun i t n s =>
    let count := mget i.counts t.node 0 + 1
    let put := fun (k : Nat) => modInst s fl inst fun i => { i with counts := mput i.counts t.node k }
    if count = n.incount then goNode (put 0) fl inst th n.next else endThread (put count) fl inst th

/-- WALKER_END (R107, R109). -/
def execWalkerEnd (fl inst th : Nat) (s : State) : Outcome State Fault Refusal :=
  actNode fl inst th 4 s fun _ _ _ s => endThread s fl inst th

/-- INSTANCE_END (R109): the last thread has ended, or a stopped instance's grids have completed; the done word is written.
Log entry 39. -/
def execInstanceEnd (fl inst : Nat) (s : State) : Outcome State Fault Refusal :=
  if 32 ≤ fl then .fault .noUnit
  else match instOf s fl inst with
    | none => .next s
    | some i =>
      let busy := i.threads.any fun t => !i.stopped || (t.grid.isSome && t.ended.isNone)
      if busy then .next s
      else
        let bad := i.bad || i.threads.any fun t => t.ended == some 2
        let s := modFlask s fl fun f => { f with insts := f.insts.filter fun x => x.num != inst }
        .next (if i.gdone = 0 then s else ctxWrite s i.ctx i.gdone (natBytes 8 (if bad then 2 else 1)))

end Sys2Proof.Machine
end

