-- ==== Sys2Proof/Machine/Dispatch.lean ====
section
/-! DEFINITION. Dispatch: one direct call of its meaning for every constructor of `Instr`. -/

namespace Sys2Proof.Machine

open Host

def exec (i : Instr) (s : State) : Host.Outcome State Fault Refusal :=
  match i with
  | .nop h => Sys2Proof.Machine.execNop h s
  | .bra h off => Sys2Proof.Machine.execBra h off s
  | .brx h a => Sys2Proof.Machine.execBrx h a s
  | .call h off => Sys2Proof.Machine.execCall h off s
  | .ret h a => Sys2Proof.Machine.execRet h a s
  | .exit h => Sys2Proof.Machine.execExit h s
  | .rjset h k => Sys2Proof.Machine.execRjset h k s
  | .rjoin h k => Sys2Proof.Machine.execRjoin h k s
  | .rjclr h k => Sys2Proof.Machine.execRjclr h k s
  | .yield h n => Sys2Proof.Machine.execYield h n s
  | .waitf h => Sys2Proof.Machine.execWaitf h s
  | .trap h a => Sys2Proof.Machine.execTrap h a s
  | .bkpt h => Sys2Proof.Machine.execBkpt h s
  | .uivec h a => Sys2Proof.Machine.execUivec h a s
  | .uiret h => Sys2Proof.Machine.execUiret h s
  | .iadd h t sat d a b => Sys2Proof.Machine.execIadd h t sat d a b s
  | .isub h t sat d a b => Sys2Proof.Machine.execIsub h t sat d a b s
  | .iaddc h t d a b pk => Sys2Proof.Machine.execIaddc h t d a b pk s
  | .isubb h t d a b pk => Sys2Proof.Machine.execIsubb h t d a b pk s
  | .imul h t sat d a b => Sys2Proof.Machine.execImul h t sat d a b s
  | .imulh h t d a b => Sys2Proof.Machine.execImulh h t d a b s
  | .imad h t sat d a b c => Sys2Proof.Machine.execImad h t sat d a b c s
  | .idiv h t d a b => Sys2Proof.Machine.execIdiv h t d a b s
  | .irem h t d a b => Sys2Proof.Machine.execIrem h t d a b s
  | .imin h t d a b => Sys2Proof.Machine.execImin h t d a b s
  | .imax h t d a b => Sys2Proof.Machine.execImax h t d a b s
  | .iabs h t sat d a => Sys2Proof.Machine.execIabs h t sat d a s
  | .ineg h t sat d a => Sys2Proof.Machine.execIneg h t sat d a s
  | .idp4 h t sat d a b c => Sys2Proof.Machine.execIdp4 h t sat d a b c s
  | .idp2 h t sat d a b c => Sys2Proof.Machine.execIdp2 h t sat d a b c s
  | .iadd3 h t sat d a b c => Sys2Proof.Machine.execIadd3 h t sat d a b c s
  | .and h t d a b => Sys2Proof.Machine.execAnd h t d a b s
  | .or h t d a b => Sys2Proof.Machine.execOr h t d a b s
  | .xor h t d a b => Sys2Proof.Machine.execXor h t d a b s
  | .andn h t d a b => Sys2Proof.Machine.execAndn h t d a b s
  | .not h t d a => Sys2Proof.Machine.execNot h t d a s
  | .bmix3 h t d a b c tbl => Sys2Proof.Machine.execBmix3 h t d a b c tbl s
  | .shl h t d a b => Sys2Proof.Machine.execShl h t d a b s
  | .shr h t d a b => Sys2Proof.Machine.execShr h t d a b s
  | .sar h t d a b => Sys2Proof.Machine.execSar h t d a b s
  | .rotl h t d a b => Sys2Proof.Machine.execRotl h t d a b s
  | .rotr h t d a b => Sys2Proof.Machine.execRotr h t d a b s
  | .dshr h t d a b c => Sys2Proof.Machine.execDshr h t d a b c s
  | .ones h t d a => Sys2Proof.Machine.execOnes h t d a s
  | .clz h t d a => Sys2Proof.Machine.execClz h t d a s
  | .ctz h t d a => Sys2Proof.Machine.execCtz h t d a s
  | .brev h t d a => Sys2Proof.Machine.execBrev h t d a s
  | .fxtr h t d a b => Sys2Proof.Machine.execFxtr h t d a b s
  | .fins h t d a b c => Sys2Proof.Machine.execFins h t d a b c s
  | .clmul h t d a b => Sys2Proof.Machine.execClmul h t d a b s
  | .clmulh h t d a b => Sys2Proof.Machine.execClmulh h t d a b s
  | .bsel h d a b c => Sys2Proof.Machine.execBsel h d a b c s
  | .fadd h r d a b => Sys2Proof.Machine.execFadd h r d a b s
  | .fsub h r d a b => Sys2Proof.Machine.execFsub h r d a b s
  | .fmul h r d a b => Sys2Proof.Machine.execFmul h r d a b s
  | .ffma h r d a b c => Sys2Proof.Machine.execFfma h r d a b c s
  | .fmin h d a b => Sys2Proof.Machine.execFmin h d a b s
  | .fmax h d a b => Sys2Proof.Machine.execFmax h d a b s
  | .frnd h r d a => Sys2Proof.Machine.execFrnd h r d a s
  | .fscale h r d a b => Sys2Proof.Machine.execFscale h r d a b s
  | .fclass h d a => Sys2Proof.Machine.execFclass h d a s
  | .fabs h d a => Sys2Proof.Machine.execFabs h d a s
  | .fneg h d a => Sys2Proof.Machine.execFneg h d a s
  | .fcpys h d a b => Sys2Proof.Machine.execFcpys h d a b s
  | .hadd2 h t r d a b => Sys2Proof.Machine.execHadd2 h t r d a b s
  | .hmul2 h t r d a b => Sys2Proof.Machine.execHmul2 h t r d a b s
  | .hfma2 h t r d a b c => Sys2Proof.Machine.execHfma2 h t r d a b c s
  | .hmin2 h t d a b => Sys2Proof.Machine.execHmin2 h t d a b s
  | .hmax2 h t d a b => Sys2Proof.Machine.execHmax2 h t d a b s
  | .cvt h dt st r sat d a => Sys2Proof.Machine.execCvt h dt st r sat d a s
  | .cvtpk h dt st r sat d a b => Sys2Proof.Machine.execCvtpk h dt st r sat d a b s
  | .qblk h t d a b => Sys2Proof.Machine.execQblk h t d a b s
  | .dqblk h d a => Sys2Proof.Machine.execDqblk h d a s
  | .mov h t d a => Sys2Proof.Machine.execMov h t d a s
  | .movi h d imm => Sys2Proof.Machine.execMovi h d imm s
  | .movh h t d a b => Sys2Proof.Machine.execMovh h t d a b s
  | .sel h t d a b pk => Sys2Proof.Machine.execSel h t d a b pk s
  | .icmp h t c pd a b => Sys2Proof.Machine.execIcmp h t c pd a b s
  | .fcmp h c pd a b => Sys2Proof.Machine.execFcmp h c pd a b s
  | .plog h op pd pa pb => Sys2Proof.Machine.execPlog h op pd pa pb s
  | .pxfr h x => Sys2Proof.Machine.execPxfr h x s
  | .poll h m d pa => Sys2Proof.Machine.execPoll h m d pa s
  | .peers h t d a => Sys2Proof.Machine.execPeers h t d a s
  | .rdsys h d wide num axis => Sys2Proof.Machine.execRdsys h d wide num axis s
  | .wrsys h num a => Sys2Proof.Machine.execWrsys h num a s
  | .frcp h r d a => Sys2Proof.Machine.execFrcp h r d a s
  | .frsq h d a => Sys2Proof.Machine.execFrsq h d a s
  | .fsqrt h r d a => Sys2Proof.Machine.execFsqrt h r d a s
  | .fexp2 h d a => Sys2Proof.Machine.execFexp2 h d a s
  | .flog2 h d a => Sys2Proof.Machine.execFlog2 h d a s
  | .fsin h d a => Sys2Proof.Machine.execFsin h d a s
  | .fcos h d a => Sys2Proof.Machine.execFcos h d a s
  | .ftanh h d a => Sys2Proof.Machine.execFtanh h d a s
  | .lxch h t m d a b => Sys2Proof.Machine.execLxch h t m d a b s
  | .redux h t op r d a => Sys2Proof.Machine.execRedux h t op r d a s
  | .scan h t op r d a => Sys2Proof.Machine.execScan h t op r d a s
  | .ld h t strong acq sc d m => Sys2Proof.Machine.execLd h t strong acq sc d m s
  | .st h t strong rel sc x m => Sys2Proof.Machine.execSt h t strong rel sc x m s
  | .lds h t strong acq d base off disp => Sys2Proof.Machine.execLds h t strong acq d base off disp s
  | .sts h t strong rel x base off disp => Sys2Proof.Machine.execSts h t strong rel x base off disp s
  | .atom h op t o sc d base off x pk => Sys2Proof.Machine.execAtom h op t o sc d base off x pk s
  | .atoms h op t o d base off x => Sys2Proof.Machine.execAtoms h op t o d base off x s
  | .red h op t rel sc x m => Sys2Proof.Machine.execRed h op t rel sc x m s
  | .ldsc h t strong acq sc d base disp pk => Sys2Proof.Machine.execLdsc h t strong acq sc d base disp pk s
  | .preq h t base off disp => Sys2Proof.Machine.execPreq h t base off disp s
  | .pref h t base off disp => Sys2Proof.Machine.execPref h t base off disp s
  | .cctl h op t base off disp => Sys2Proof.Machine.execCctl h op t base off disp s
  | .sink h n => Sys2Proof.Machine.execSink h n s
  | .srec h d => Sys2Proof.Machine.execSrec h d s
  | .fence h o sc => Sys2Proof.Machine.execFence h o sc s
  | .cjoin h c idx timer => Sys2Proof.Machine.execCjoin h c idx timer s
  | .cleave h c => Sys2Proof.Machine.execCleave h c s
  | .cld h ui c sa sb => Sys2Proof.Machine.execCld h ui c sa sb s
  | .cstat h d c => Sys2Proof.Machine.execCstat h d c s
  | .cpy h ui pk a => Sys2Proof.Machine.execCpy h ui pk a s
  | .cpyfill h ui pk a => Sys2Proof.Machine.execCpyfill h ui pk a s
  | .cbinit h b sa sb sc => Sys2Proof.Machine.execCbinit h b sa sb sc s
  | .cbacq h d b => Sys2Proof.Machine.execCbacq h d b s
  | .cbrel h b sa => Sys2Proof.Machine.execCbrel h b sa s
  | .blws h t q sa => Sys2Proof.Machine.execBlws h t q sa s
  | .blwstop h q => Sys2Proof.Machine.execBlwstop h q s
  | .qcfg h q rbase depth => Sys2Proof.Machine.execQcfg h q rbase depth s
  | .nmcpy h ui sd ss n => Sys2Proof.Machine.execNmcpy h ui sd ss n s
  | .nmzero h ui sd n => Sys2Proof.Machine.execNmzero h ui sd n s
  | .obres h k sa => Sys2Proof.Machine.execObres h k sa s
  | .obrel h k => Sys2Proof.Machine.execObrel h k s
  | .scpy h ui sa sb => Sys2Proof.Machine.execScpy h ui sa sb s
  | .ptld h ui t sa => Sys2Proof.Machine.execPtld h ui t sa s
  | .mma h sat ui sa pk => Sys2Proof.Machine.execMma h sat ui sa pk s
  | .accz h a b => Sys2Proof.Machine.execAccz h a b s
  | .accld h t ui sa sb => Sys2Proof.Machine.execAccld h t ui sa sb s
  | .accst h t r ui sa sb => Sys2Proof.Machine.execAccst h t r ui sa sb s
  | .batonTake h => Sys2Proof.Machine.execBatonTake h s
  | .batonPass h => Sys2Proof.Machine.execBatonPass h s
  | .batonQuery h d => Sys2Proof.Machine.execBatonQuery h d s
  | .bar h sc => Sys2Proof.Machine.execBar h sc s
  | .phase h n => Sys2Proof.Machine.execPhase h n s
  | .signal h k => Sys2Proof.Machine.execSignal h k s
  | .spawnTask h sa pk => Sys2Proof.Machine.execSpawnTask h sa pk s
  | .spawnGrid h sa pk => Sys2Proof.Machine.execSpawnGrid h sa pk s
  | .spawnGraph h sa pk => Sys2Proof.Machine.execSpawnGraph h sa pk s
  | .amsg h sa vb => Sys2Proof.Machine.execAmsg h sa vb s
  | .tnow h d a => Sys2Proof.Machine.execTnow h d a s
  | .twait h sa => Sys2Proof.Machine.execTwait h sa s
  | .gwnote h sa => Sys2Proof.Machine.execGwnote h sa s
  | .apxb h id vin nin vout nout fin => Sys2Proof.Machine.execApxb h id vin nin vout nout fin s
  | .apxe h => Sys2Proof.Machine.execApxe h s
  | .ftcfg h id sa => Sys2Proof.Machine.execFtcfg h id sa s
  | .ftinv h id => Sys2Proof.Machine.execFtinv h id s
  | .ftstat h d id => Sys2Proof.Machine.execFtstat h d id s
  | .sysrd h d sa => Sys2Proof.Machine.execSysrd h d sa s
  | .syswr h sa sb => Sys2Proof.Machine.execSyswr h sa sb s
  | .slcfg h a => Sys2Proof.Machine.execSlcfg h a s
  | .tlbinv h ctx sa size => Sys2Proof.Machine.execTlbinv h ctx sa size s
  | .cres h a => Sys2Proof.Machine.execCres h a s
  | .cresHold h a b => Sys2Proof.Machine.execCresHold h a b s
  | .crrel h => Sys2Proof.Machine.execCrrel h s
  | .quiesce h a => Sys2Proof.Machine.execQuiesce h a s
  | .quiesceResume h a => Sys2Proof.Machine.execQuiesceResume h a s
  | .halt h a => Sys2Proof.Machine.execHalt h a s
  | .haltRelease h a => Sys2Proof.Machine.execHaltRelease h a s
  | .illegalOpcode w => Sys2Proof.Machine.execIllegalOpcode w s
  | .liveExec w => Sys2Proof.Machine.execLiveExec w s
  | .deferredTrap g => Sys2Proof.Machine.execDeferredTrap g s
  | .breakpoint g => Sys2Proof.Machine.execBreakpoint g s
  | .debugStep core => Sys2Proof.Machine.execDebugStep core s
  | .joinStall g k => Sys2Proof.Machine.execJoinStall g k s
  | .ageBoost g => Sys2Proof.Machine.execAgeBoost g s
  | .pathAgeBoost g pc => Sys2Proof.Machine.execPathAgeBoost g pc s
  | .uiDeliver g => Sys2Proof.Machine.execUiDeliver g s
  | .taskAdmit core quarter ctx handle => Sys2Proof.Machine.execTaskAdmit core quarter ctx handle s
  | .steal core quarter => Sys2Proof.Machine.execSteal core quarter s
  | .depsDecrement k => Sys2Proof.Machine.execDepsDecrement k s
  | .poisonedDecrement k => Sys2Proof.Machine.execPoisonedDecrement k s
  | .taskReleaseTime ctx handle => Sys2Proof.Machine.execTaskReleaseTime ctx handle s
  | .gangPlace gang places => Sys2Proof.Machine.execGangPlace gang places s
  | .gangRelease gang => Sys2Proof.Machine.execGangRelease gang s
  | .handlerSpawn core hostCtx => Sys2Proof.Machine.execHandlerSpawn core hostCtx s
  | .messageArrival k => Sys2Proof.Machine.execMessageArrival k s
  | .walkerTask fl inst th => Sys2Proof.Machine.execWalkerTask fl inst th s
  | .walkerTaskDone fl inst th => Sys2Proof.Machine.execWalkerTaskDone fl inst th s
  | .walkerCond fl inst th => Sys2Proof.Machine.execWalkerCond fl inst th s
  | .walkerWhile fl inst th => Sys2Proof.Machine.execWalkerWhile fl inst th s
  | .walkerJoin fl inst th => Sys2Proof.Machine.execWalkerJoin fl inst th s
  | .walkerEnd fl inst th => Sys2Proof.Machine.execWalkerEnd fl inst th s
  | .instanceEnd fl inst => Sys2Proof.Machine.execInstanceEnd fl inst s
  | .tierOut g => Sys2Proof.Machine.execTierOut g s
  | .tierRecall g => Sys2Proof.Machine.execTierRecall g s
  | .tierMoveDone g => Sys2Proof.Machine.execTierMoveDone g s
  | .bellowsElement g q => Sys2Proof.Machine.execBellowsElement g q s
  | .subBlockLand id => Sys2Proof.Machine.execSubBlockLand id s
  | .followAccess id => Sys2Proof.Machine.execFollowAccess id s
  | .subBlockReturn id => Sys2Proof.Machine.execSubBlockReturn id s
  | .consortTimer id => Sys2Proof.Machine.execConsortTimer id s
  | .consortFillDone id team => Sys2Proof.Machine.execConsortFillDone id team s
  | .cpyStart core => Sys2Proof.Machine.execCpyStart core s
  | .cpyComplete core => Sys2Proof.Machine.execCpyComplete core s
  | .cbacqServe core b => Sys2Proof.Machine.execCbacqServe core b s
  | .mmaStart core => Sys2Proof.Machine.execMmaStart core s
  | .mmaComplete core => Sys2Proof.Machine.execMmaComplete core s
  | .matrixOpComplete core => Sys2Proof.Machine.execMatrixOpComplete core s
  | .rowOpStart stack pch => Sys2Proof.Machine.execRowOpStart stack pch s
  | .rowPair stack pch => Sys2Proof.Machine.execRowPair stack pch s
  | .refreshDue stack pch bank => Sys2Proof.Machine.execRefreshDue stack pch bank s
  | .rowOpComplete stack pch => Sys2Proof.Machine.execRowOpComplete stack pch s
  | .preqComplete id page mapped => Sys2Proof.Machine.execPreqComplete id page mapped s
  | .noticeWrite k => Sys2Proof.Machine.execNoticeWrite k s
  | .groupParked g => Sys2Proof.Machine.execGroupParked g s
  | .groupResume k core quarter => Sys2Proof.Machine.execGroupResume k core quarter s
  | .groupRedirect k core quarter => Sys2Proof.Machine.execGroupRedirect k core quarter s
  | .groupKill k => Sys2Proof.Machine.execGroupKill k s
  | .ctxctlPark ctx => Sys2Proof.Machine.execCtxctlPark ctx s
  | .ctxctlResume ctx => Sys2Proof.Machine.execCtxctlResume ctx s
  | .uncorrectableError site => Sys2Proof.Machine.execUncorrectableError site s
  | .corrected kind unit line => Sys2Proof.Machine.execCorrected kind unit line s
  | .hostMessage ctx off bytes => Sys2Proof.Machine.execHostMessage ctx off bytes s
  | .mgmtReadRegister sel => Sys2Proof.Machine.execMgmtReadRegister sel s
  | .hostLinkReset => Sys2Proof.Machine.execHostLinkReset s
  | .moduleReset => Sys2Proof.Machine.execModuleReset s
  | .powerOn images => Sys2Proof.Machine.execPowerOn images s
  | .recoveryImage img => Sys2Proof.Machine.execRecoveryImage img s
  | .attestationQuote nonce => Sys2Proof.Machine.execAttestationQuote nonce s
  | .antiRollbackAdvance v => Sys2Proof.Machine.execAntiRollbackAdvance v s
  | .piControllerStep c est => Sys2Proof.Machine.execPiControllerStep c est s
  | .standingGrant c used => Sys2Proof.Machine.execStandingGrant c used s
  | .arbiterGrant c => Sys2Proof.Machine.execArbiterGrant c s
  | .currentRamp c => Sys2Proof.Machine.execCurrentRamp c s
  | .burstEnd g used => Sys2Proof.Machine.execBurstEnd g used s
  | .quotaWrite ctx x => Sys2Proof.Machine.execQuotaWrite ctx x s
  | .governorStep fl temp sums hot busy => Sys2Proof.Machine.execGovernorStep fl temp sums hot busy s
  | .migrated team fl => Sys2Proof.Machine.execMigrated team fl s
  | .regionOverrun g => Sys2Proof.Machine.execRegionOverrun g s
  | .pointChangeSwitch fl => Sys2Proof.Machine.execPointChangeSwitch fl s
  | .droopDetect fl => Sys2Proof.Machine.execDroopDetect fl s
  | .droopClear fl => Sys2Proof.Machine.execDroopClear fl s
  | .droneTimedStart u => Sys2Proof.Machine.execDroneTimedStart u s
  | .twaitRelease g => Sys2Proof.Machine.execTwaitRelease g s
  | .syncMessage port offset => Sys2Proof.Machine.execSyncMessage port offset s
  | .holdover => Sys2Proof.Machine.execHoldover s
  | .replicationWindow fl => Sys2Proof.Machine.execReplicationWindow fl s
  | .remoteRead fl pa => Sys2Proof.Machine.execRemoteRead fl pa s
  | .replicaFill k => Sys2Proof.Machine.execReplicaFill k s
  | .repWrite fl pa bytes => Sys2Proof.Machine.execRepWrite fl pa bytes s
  | .replicaInvalidate k => Sys2Proof.Machine.execReplicaInvalidate k s
  | .rthreshWrite fl x => Sys2Proof.Machine.execRthreshWrite fl x s
  | .homeWriteback core asid line => Sys2Proof.Machine.execHomeWriteback core asid line s
  | .slicecfgWrite fl x => Sys2Proof.Machine.execSlicecfgWrite fl x s
  | .repartitionDone fl => Sys2Proof.Machine.execRepartitionDone fl s
  | .hashmaskWrite fl x => Sys2Proof.Machine.execHashmaskWrite fl x s
  | .fluectlModeWrite port x => Sys2Proof.Machine.execFluectlModeWrite port x s
  | .flueRetrainDone port => Sys2Proof.Machine.execFlueRetrainDone port s
  | .flitReplay port => Sys2Proof.Machine.execFlitReplay port s
  | .peerRefusal what lanes => Sys2Proof.Machine.execPeerRefusal what lanes s
  | .quietctlWrite ctx x => Sys2Proof.Machine.execQuietctlWrite ctx x s
  | .keyIssue id => Sys2Proof.Machine.execKeyIssue id s
  | .keyRetire id => Sys2Proof.Machine.execKeyRetire id s
  | .keyRetireDone id => Sys2Proof.Machine.execKeyRetireDone id s
  | .svcRetireCore fl c => Sys2Proof.Machine.execSvcRetireCore fl c s
  | .svcRetireSlice fl k => Sys2Proof.Machine.execSvcRetireSlice fl k s
  | .svcRetirePseudoChannel stack p => Sys2Proof.Machine.execSvcRetirePseudoChannel stack p s
  | .svcRetireFlueLane port lane => Sys2Proof.Machine.execSvcRetireFlueLane port lane s
  | .svcRetireUcieLane fl edge mod lane => Sys2Proof.Machine.execSvcRetireUcieLane fl edge mod lane s
  | .svcDone => Sys2Proof.Machine.execSvcDone s
  | .fitRequest fl => Sys2Proof.Machine.execFitRequest fl s
  | .apxbReply id => Sys2Proof.Machine.execApxbReply id s
  | .fitSample fl => Sys2Proof.Machine.execFitSample fl s
  | .registerWrite sel x => Sys2Proof.Machine.execRegisterWrite sel x s
  | .pointChangeComplete fl => Sys2Proof.Machine.execPointChangeComplete fl s
  | .peerAccessArrival port a => Sys2Proof.Machine.execPeerAccessArrival port a s
  | .hostStagingWrite off bytes => Sys2Proof.Machine.execHostStagingWrite off bytes s
  | .residencyResolved u mapped => Sys2Proof.Machine.execResidencyResolved u mapped s
  | .variableLatencyResult id => Sys2Proof.Machine.execVariableLatencyResult id s

end Sys2Proof.Machine
end

