-- ==== Sys2Proof/Machine/Issue.lean ====
section
/-! DEFINITION. An issue slot of a quarter: which group, which paths, what comes before the words (R97, R117 to R119, R138 to
R140, R149, R156 to R158, R249, R251, R265, R272, R275). -/

namespace Sys2Proof.Machine

open Host

/-- The state that an outcome names, or the one before. Log entry 1. -/
def stateOf (s : State) (o : Outcome State Fault Refusal) : State :=
  match o with
  | .next t => t
  | _ => s

/-! ### Words -/

/-- A word and the one after it, where SP makes it part of the instruction, or why that one cannot be fetched; or what the fetch of
the word itself gives instead. -/
inductive SlotWords where
  | ok (w next : IWord) (away : Option (Option (Nat × DWord × DWord)))
  | wait
  | trap (code : Nat) (addr aux : DWord)
deriving DecidableEq, Repr

/-- A word whose effect may read or write memory at home without asking line by line: EXIT, PREQ, PREF, CCTL, CJOIN, CLEAVE, CLD and
the classes of engines, tasks, fitting and system (R276). Log entry 26. -/
def asksHome (w : IWord) : Bool :=
  let op := opOf w
  op == 5 || (0x1C8 ≤ op && op ≤ 0x1CA) || (0x203 ≤ op && op ≤ 0x205) || 0x240 ≤ op

/-- Fetch what a path issues; while a sub-block has a line to itself at its home, some words wait (R175). -/
def fetchFor (s : State) (g : Nat) (x : Group) (pc : Pc) : SlotWords :=
  let one := fun (pc : Pc) => fetchWord s (slotCore g) x.ctx (grpPriv s x) pc
  match one pc with
  | .wait => .wait
  | .trap c a b => .trap c a b
  | .ok w =>
    if keptHome s && asksHome w then .wait
    else if isLive w || (Fields.ofWord w).sp == 0 then .ok w 0 none
    else match one (pc + 1) with
      | .ok n => .ok w n none
      | .wait => .ok w 0 (some none)
      | .trap c a b => .ok w 0 (some (some (c, a, b)))

/-- Run the word of an issue under way: a word that decodes is its instruction, and any other is refused (R275). -/
def runWord (c : Cur) (s : State) : Outcome State Fault Refusal :=
  match decode c.word with
  | .ok i => exec i { s with cur := some c }
  | .error _ => .next (refuseWord { s with cur := some c } c.word 0x02)

/-- A word for a vector pipe that may share a slot (R138): classes 1 to 5 but RDSYS and WRSYS. -/
def vecWord (w : IWord) : Bool :=
  let op := (Fields.ofWord w).op
  let cls := op.toNat / 64
  1 ≤ cls && cls ≤ 5 && op != 0x14A && op != 0x14B

/-- Vector slots under way in a quarter. -/
def pipesBusy (s : State) (g : Nat) : List Nat :=
  let c := coreAt s (slotCore g)
  (mget c.pipes (slotQuarter g) []).filter fun t => c.cycle < t

/-- A pipe is free for the group: 3 of the 6, or all under a live burst (R49, R404). Log entries 2 and 23. -/
def pipeFree (s : State) (g : Nat) (x : Group) : Bool :=
  let limit := if x.burst.any fun b => b.live.isSome && !b.hold then 6 else 3
  decide ((pipesBusy s g).length < limit)

/-- What a path would do in this slot: its word, the issue, and the outcome; none while there is nothing to try. -/
structure Tried where
  word : IWord
  out  : Outcome State Fault Refusal

def tryPath (s : State) (g : Nat) (x : Group) (p : Path) (second : Option Second) : Option Tried :=
  match fetchFor s g x p.pc with
  | .wait => none
  | .trap code addr aux =>
    let c : Cur := { g := g, pc := p.pc, lanes := p.lanes, word := 0, next := 0, second := second }
    some { word := 0, out := .next (trapAt { s with cur := some c } code p.lanes addr aux) }
  | .ok w next away =>
    if vecWord w && second.isNone && !pipeFree s g x then none
    else
      let c : Cur := { g := g, pc := p.pc, lanes := p.lanes, word := w, next := next, away := away, second := second }
      some { word := w, out := runWord c s }

/-- The word issues, or traps. -/
def Tried.ready (t : Tried) : Bool :=
  match t.out with
  | .next s => s.cur.isNone
  | _ => true

/-! ### Ready paths (R117, R138) -/

/-- Paths that this slot may try: of a group under a step of one path, that path alone (R157). DESIGN CHOICE (log entry 51): the other
paths are held while it waits at a join, too. -/
def slotPaths (x : Group) : List Path :=
  if !mayIssue x then []
  else match x.stepPc with
    | none => openPaths x
    | some pc => (openPaths x).filter fun p => p.pc == pc

/-- The ready paths of a group. What a path that must wait has set going stands, such as a release under way. -/
def readyPaths (s : State) (g : Nat) : State × List Path :=
  match groupAt s g with
  | none => (s, [])
  | some x =>
    (slotPaths x).foldl (fun (acc : State × List Path) p =>
      match groupAt acc.1 g with
      | none => acc
      | some y =>
        match tryPath acc.1 g y p none with
        | none => acc
        | some t =>
          if t.ready then (acc.1, acc.2 ++ [p])
          else ({ stateOf acc.1 t.out with cur := none }, acc.2)) (s, [])

/-- A group is eligible (R117). -/
def eligible (s : State) (g : Nat) : Bool := !(readyPaths s g).2.isEmpty

/-- Slots of a quarter that hold groups. -/
def quarterGroups (s : State) (core quarter : Nat) : List Nat := (inQuarter s core quarter).map (·.1)

/-- The eligible groups of a quarter with their ready paths. Log entry 23. -/
def scanQuarter (s : State) (core quarter : Nat) : State × List (Nat × List Path) :=
  (quarterGroups s core quarter).foldl (fun (acc : State × List (Nat × List Path)) g =>
    let (s, ps) := readyPaths acc.1 g
    (s, if ps.isEmpty then acc.2 else acc.2 ++ [(g, ps)])) (s, [])

/-- Effective priority (R119). -/
def effPrio (x : Group) : Nat := if 4096 ≤ x.age then 15 else x.prio.toNat

/-- `a` goes before `b`: the higher priority, then the one issued least recently (R118). -/
def groupBefore (a b : Group) : Bool :=
  if effPrio a != effPrio b then decide (effPrio b < effPrio a) else decide (a.last < b.last)

/-- The groups that no other goes before. Log entry 23. -/
def bestGroups (s : State) (es : List (Nat × List Path)) : List (Nat × List Path) :=
  es.filter fun e => es.all fun f => match groupAt s e.1, groupAt s f.1 with
    | some a, some b => !groupBefore b a
    | _, _ => true

/-! ### The slot -/

/-- The order of the ready paths (R138, R139): one whose age count has come to 4,096 goes first. -/
def streamA (ps : List Path) : Option Path :=
  match firstPath (ps.filter fun p => 4096 ≤ p.age) with
  | some p => some p
  | none => firstPath ps

/-- The group has issued LIMIT instructions since a request to park and stands at no safe point (R64). -/
def overAt (s : State) (g : Nat) : Bool :=
  match groupAt (modGroup s g holdPaths) g with
  | some x => x.park.any (overran s g x)
  | none => false

/-- The group has stopped with a trap other than one of the after kind. -/
def atTrapped (t : State) (g uid : Nat) : Bool :=
  match groupAt t g with
  | some y => y.uid == uid && (match y.stop with | some st => st.code != 0x09 | none => false)
  | none => t.parked.any fun p => p.g.uid == uid && p.code != 0 && p.code != 0x09

/-- The issue of a path, as an event before the word sees it. -/
def curOf (g : Nat) (p : Path) (w : IWord) : Cur := { g := g, pc := p.pc, lanes := p.lanes, word := w, next := 0 }

/-- A debug register stops the path at its word. Log entry 51. -/
def breaks (s : State) (g : Nat) (x : Group) (p : Path) (w : IWord) : Bool :=
  !p.skipBp && !isLive w && (breakReg s (slotCore g) x.ctx p.pc w).isSome

/-- What stream B, the path `b`, sees once stream A has issued (R138, R140, R149). Log entries 16 and 23. -/
def secondOf (s t : State) (g : Nat) (x : Group) (b : Path) : Second :=
  let before := (retire (coreAt s (slotCore g)).cycle x).recents
  let old := before.length
  let now := ((groupAt t g).map fun y => y.recents).getD []
  let fixed := ((now.take (now.length - old)).filter fun r => r.kind == 1).map (·.reg)
  let later := (t.results.filter fun r => s.nextUid ≤ r.id && r.uid == x.uid).filterMap fun r => r.sreg.map (·.1)
  { sr := x.s, empt := x.empt, locked := fixed ++ later, v := x.v, recents := before, f := x.f, path := b }

/-- Beats of a slot: the eighths that hold a lane (R140). Log entry 23. -/
def beats (m : LaneMask) : Nat := ((List.range 8).filter fun e => m.extractLsb' (16 * e) 16 != 0).length

/-- A vector slot takes a pipe for its beats (R49, R140). -/
def takePipe (s : State) (g : Nat) (m : LaneMask) : State :=
  let busy := pipesBusy s g
  modCore s (slotCore g) fun c => { c with pipes := mput c.pipes (slotQuarter g) (busy ++ [c.cycle + beats m]) }

/-- Ready paths that the slot leaves out grow older (R139). -/
def agePaths (g : Nat) (ps : List Path) (s : State) : State :=
  ps.foldl (fun s p =>
    if 4095 ≤ p.age then stateOf s (exec (.pathAgeBoost g p.pc) s)
    else modGroup s g fun x => { x with paths := x.paths.map fun q =>
      if q.wait == .run && q.lanes &&& p.lanes != 0 then { q with age := q.age + 1 } else q }) s

/-- The stop of a step that is over (R157): of the after kind. A deferred cause goes before it (R251). Log entry 51.
Log entry 23. -/
def stepStop (s : State) (g : Nat) (lanes : LaneMask) : State :=
  match groupAt s g with
  | none => s
  | some x =>
    if x.done || x.stop.isSome || (x.stepPc.isNone && !x.stepAll) then s
    else
      let pc := ((x.paths.find? fun p => p.lanes &&& lanes != 0).map (·.pc)).getD (mainPath x).1
      match x.causes with
      | c :: rest => takeTrap (setGroup s g { x with causes := rest }) g c pc
      | [] => takeTrap s g { code := 0x0B, lanes := lanes &&& aliveLanes x } pc

/-- LIMIT instructions have gone by since a request to park (R64). Log entry 23. -/
def overrunStop (s : State) (g : Nat) : State :=
  match groupAt s g with
  | none => s
  | some x => if x.park.isSome then let t := modGroup s g holdPaths; stateOf t (exec (.regionOverrun g) t) else s

/-- The events of a word that a path has issued, by opcode class, one for each lane (R46): those of a vector word under a live burst
belong to its grant (R49, R56). Log entry 28. -/
def tallyWord (s : State) (g : Nat) (x : Group) (p : Path) (w : IWord) : State :=
  let d := coreDomain (slotCore g)
  let kind := (Fields.ofWord w).op.toNat / 64
  let n := (lanesOf p.lanes).length
  match x.burst.filter fun b => b.live.isSome && !b.hold && vecWord w with
  | some b => tallyGrant s d b.req kind n
  | none => tally s d kind x.ctx n

/-- Stream B after stream A has issued, judged as it stood at issue: where its unit cannot take it any more, it does not issue. -/
def issueSecond (s t : State) (g : Nat) (x : Group) (b : Path) : Outcome State Fault Refusal :=
  match groupAt t g with
  | none => .next t
  | some y =>
    if y.uid != x.uid || y.stop.isSome || y.done then .next t
    else match tryPath t g y b (some (secondOf s t g x b)) with
      | none => .next t
      | some r =>
        if !r.ready then .next t
        else match r.out with
          | .next u => .next (tallyWord u g x b r.word)
          | o => o

/-- The group `uid` still stands in slot `g`, and nothing has stopped it. -/
def stillRuns (s : State) (g uid : Nat) : Bool := (groupAt s g).any fun y => y.uid == uid && y.stop.isNone

/-- A TRAP that is the LIMIT-th instruction since a request to park: the kill of the team goes before its stop (R251). -/
def trapOver (s t : State) (g : Nat) (x : Group) (a : Path) (w : IWord) : State :=
  let sp := (Fields.ofWord w).sp == 1
  let past := fun (q : Path) => if q == a then { q with pc := nextPc q.pc sp, whole := sp, held := sp } else q
  let u := modGroup s g fun y => { y with
    park := y.park.map fun r => { r with issued := r.issued + 1 }, paths := y.paths.map past }
  let soft := fun (y : Group) => y.uid == x.uid && y.stop.any fun st => st.code == 0x09
  if ((groupAt t g).any soft || t.parked.any fun p => p.g.uid == x.uid && p.code == 0x09) && overAt u g then u else t

/-- The words of a slot: stream A, and stream B where both go to a vector pipe. What stops the group at the boundary is the first of
R251: the kill of its team, then a trap of stream B, then what is left of a step. Log entry 23. -/
def issueStreams (s : State) (g : Nat) (x : Group) (a : Path) (ta : Tried) (b : Option (Path × IWord)) :
    Outcome State Fault Refusal :=
  match ta.out with
  | .next t =>
    let t := tallyWord (trapOver s t g x a ta.word) g x a ta.word
    let out := match b with
      | some (p, _) => issueSecond s t g x p
      | none => .next t
    match out with
    | .next u =>
      let t := if overAt t g && !stillRuns u g x.uid then t else u
      let lanes := match b with
        | some (p, _) => a.lanes ||| p.lanes
        | none => a.lanes
      let t := if vecWord ta.word then takePipe t g lanes else t
      .next (stepStop (overrunStop t g) g a.lanes)
    | o => o
  | o => o

/-- One slot of the group chosen, with its ready paths: first what stops or turns the group before its words, in the order of
R251; then the words. Log entry 23. -/
def issueGroup (s : State) (g : Nat) (ps : List Path) : Outcome State Fault Refusal :=
  match groupAt s g, streamA ps with
  | some x, some a =>
    match x.poison with
    | some h =>
      .next (takeTrap (setGroup s g { x with poison := none }) g { code := 0x10, lanes := aliveLanes x, aux := h } a.pc)
    | none =>
      if (uiPath x).isSome then exec (if x.causes.isEmpty then .uiDeliver g else .deferredTrap g) s
      else match tryPath s g x a none with
        | none => .next s
        | some ta =>
          let rest := ps.filter fun p => p != a
          let b := if !vecWord ta.word || x.stepPc.isSome then none
            else (firstPath rest).bind fun p => match fetchFor s g x p.pc with
              | .ok w _ _ => if vecWord w then some (p, w) else none
              | _ => none
          if atTrapped (stateOf s ta.out) g x.uid then ta.out
          else if breaks s g x a ta.word then exec (.breakpoint g) { s with cur := some (curOf g a ta.word) }
          else match b.filter fun q => breaks s g x q.1 q.2 with
            | some q => exec (.breakpoint g) { s with cur := some (curOf g q.1 q.2) }
            | none =>
              if !x.causes.isEmpty then exec (.deferredTrap g) { s with cur := some (curOf g a ta.word) }
              else
                let left := match b with
                  | some q => rest.filter fun p => p != q.1
                  | none => rest
                match issueStreams s g x a ta b with
                | .next t => .next (agePaths g left t)
                | o => o
  | _, _ => .next s

/-- Eligible groups that are not chosen grow older (R119). -/
def ageGroups (gs : List Nat) (s : State) : State :=
  gs.foldl (fun s g => match groupAt s g with
    | none => s
    | some x =>
      let s := modGroup s g fun y => { y with elig := (coreAt s (slotCore g)).cycle }
      if 4095 ≤ x.age then stateOf s (exec (.ageBoost g) s) else modGroup s g fun y => { y with age := y.age + 1 }) s

/-- A compute cycle ends: in a quarter that has issued nothing in it, the groups that were eligible grow older (R119). -/
def ageIdle (s : State) (core : Nat) : State :=
  let c := coreAt s core
  (List.range 4).foldl (fun s q =>
    if mget? c.qlast q == some c.cycle then s else ageGroups ((quarterGroups s core q).filter (eligible s)) s) s

/-- An issue turn of a quarter (R117, R118): at most one in a compute cycle. -/
def issueTurn (s : State) (core quarter : Nat) : Outcome State Fault Refusal :=
  let c := coreAt s core
  if 512 ≤ core || 4 ≤ quarter || (flaskAt s (coreFlask core)).gated || mget? c.qlast quarter == some c.cycle then .next s
  else
    let (s, es) := scanQuarter s core quarter
    let best := bestGroups s es
    match (match best with
      | [] => none
      | [e] => some e
      | _ => best[Config.freeNat s.free 1 % best.length]?) with
    | none => .next s
    | some (g, ps) =>
      let s := modCore s core fun c => { c with qlast := mput c.qlast quarter c.cycle }
      let s := ageGroups ((es.map (·.1)).filter fun k => k != g) s
      issueGroup (modGroup s g fun x => { x with age := 0, elig := c.cycle }) g ps

/-! ### Events that the scheduler decides -/

/-- A candidate for tiering that goes before this one (R121): the lower GPRIO, then the one longest ineligible.
Log entry 24. -/
def tierBefore (s : State) (g : Nat) (x : Group) : Bool :=
  s.groups.any fun p => p.1 != g && slotCore p.1 == slotCore g && tierCand s p.1 p.2 && !eligible s p.1
    && (p.2.prio.toNat < x.prio.toNat || (p.2.prio == x.prio && p.2.elig < x.elig))

/-- An event in which hardware outside the vector pipes reads or writes memory at home without asking line by line. Log entry 26. -/
def readsHome : Instr → Bool
  | .taskAdmit .. | .steal .. | .depsDecrement .. | .poisonedDecrement .. | .taskReleaseTime .. | .handlerSpawn .. | .messageArrival .. => true
  | .walkerTask .. | .walkerTaskDone .. | .walkerCond .. | .walkerWhile .. | .walkerJoin .. | .walkerEnd .. | .instanceEnd .. => true
  | .bellowsElement .. | .consortFillDone .. | .cpyComplete .. | .cbacqServe .. | .matrixOpComplete .. => true
  | .rowOpStart .. | .rowPair .. | .rowOpComplete .. | .preqComplete .. | .residencyResolved .. | .noticeWrite .. => true
  | .groupParked .. | .groupResume .. | .groupRedirect .. | .groupKill .. | .ctxctlPark .. | .ctxctlResume .. | .migrated .. => true
  | .regionOverrun .. | .uncorrectableError .. | .hostMessage .. | .registerWrite .. | .fitRequest .. | .fitSample .. => true
  | _ => false

/-- What an event asks of the scheduler (R110, R119, R121, R139, R158), and of a sub-block that has a line to itself at its home (R175).
The ages of a compute cycle count by themselves, at the issue turn of a quarter or at the end of the cycle, so the agenda adds nothing
to them. Log entries 1 and 26. -/
def mayAct (s : State) (i : Instr) : Bool :=
  !(keptHome s && readsHome i) && match i with
  | .steal core quarter => (quarterGroups s core quarter).all fun g => !eligible s g
  | .ageBoost _ | .pathAgeBoost _ _ => false
  | .uiDeliver g => eligible s g
  | .tierOut g => !eligible s g && (match groupAt s g with
      | some x => (sysFld s (sel 15 (coreFlask (slotCore g))) 32 1 == 0) || !tierBefore s g x
      | none => true)
  | _ => true

end Sys2Proof.Machine
end

