-- ==== Sys2Proof/Machine/Clock.lean ====
section
/-! DEFINITION. What time and the end of every step bring about: compute edges, the drone, what is due, and whatever a step
has made possible (R19, R39, R41, R61, R62, R100, R145, R151, R154, R197, R241, R257, R360, R402 to R404, R407). -/

namespace Sys2Proof.Machine

open Host

/-! ### Time -/

/-- Fixed-latency results of a core's groups that are due are written (R151, R271); those of a group that has ended by PHASE count
down its next task (R100). -/
def dueResults (s : State) (core : Nat) : State :=
  let cyc := (coreAt s core).cycle
  let due := s.results.filter fun r =>
    match slotOf s r.uid with
    | some g => slotCore g == core && r.due.any fun t => decide (t ≤ cyc)
    | none => r.due.isSome
  due.foldl finishRes s

/-- The join watchdogs of a core count one cycle (R145, R146). -/
def watchJoins (s : State) (core : Nat) : State :=
  let limit := sysFld s (sel 16 (coreFlask core)) 0 32
  let mine := s.groups.filter fun p => slotCore p.1 == core && watchdogOn p.2
  mine.foldl (fun s p =>
    let s := modGroup s p.1 fun x => { x with stall := x.stall + 1 }
    if limit = 0 || p.2.stall + 1 < limit then s
    else match (List.range 8).find? (stuckOn p.2) with
      | some k => stateOf s (exec (.joinStall p.1 (BitVec.ofNat 3 k)) s)
      | none => s) s

/-- One compute edge of a core. Under stretching every fourth edge is suppressed and is no compute cycle (R61, R62). -/
def coreEdge (s : State) (core : Nat) : State :=
  let c := coreAt s core
  let stretch := sysFld s (sel 13 (coreFlask core)) 32 1 == 1
  if stretch && 3 ≤ c.skip then modCore s core fun c => { c with skip := 0 }
  else
    let s := modCore (ageIdle s core) core fun c => { c with cycle := c.cycle + 1, skip := if stretch then c.skip + 1 else 0 }
    watchJoins (dueResults s core) core

/-- The compute edges of a core in one fabric cycle of 1,600 MHz (R18, R19); none while its die is gated (R59).
Log entry 2. -/
def coreCycle (s : State) (core : Nat) : State :=
  if (flaskAt s (coreFlask core)).gated then s
  else
    let n := (coreAt s core).frac + ptMHz (curPt s (coreFlask core))
    let s := modCore s core fun c => { c with frac := n % 1600 }
    (List.range (n / 1600)).foldl (fun s _ => coreEdge s core) s

/-- The correction of the drone in this fabric cycle, in eighths of a nanosecond: at most 50 parts per million (R41).
Log entry 30. -/
def slewNow (s : State) : Int :=
  if s.fab % 4000 != 0 then 0 else if 0 < s.slew then 1 else if s.slew < 0 then -1 else 0

/-- The controllers and the standing grants step at each multiple of 1,000 ns (R47, R56). Log entry 1. -/
def powerDue (s : State) : State :=
  ((List.range 32).filter fun fl => passes s fl 1000).foldl (fun s fl =>
    (List.range 4).foldl (fun s k => standingGrants (piController s (4 * fl + k)) (4 * fl + k)) s) s

/-- The arbiters grant, and current becomes live (R51, R53). Log entry 1. -/
def grantsDue (s : State) : State :=
  (s.pclus.filter fun p => !p.2.grants.isEmpty).foldl (fun s p => ramp (arbitrate s p.1) p.1) s

/-- Some path of the group waits for a time. -/
def waitsTime (x : Group) : Bool := x.paths.any fun p => match p.wait with | .time _ => true | _ => false

/-- What is set for a drone time starts in the first fabric cycle that has reached it (R40). Log entry 1. -/
def timesDue (s : State) : State :=
  let due := s.tasks.filter fun t => t.ready.isNone && !t.running && !(keptHome s && ctxLocked s t.ctx t.handle 64)
  let s := due.foldl (fun s t => tryReady s t.ctx t.handle) s
  let s := (s.groups.filter fun p => waitsTime p.2).foldl (fun s p => wakeTimes s p.1) s
  let s := (s.cores.filter fun p => !p.2.copies.isEmpty).foldl (fun s p => cpyStart s p.1) s
  (dedup (s.gangs.map fun g => g.gang)).foldl gangGo s

/-- What is due in the first fabric cycle of a moment: a replication window begins (R32), an entry's timer runs out (R181), the power
controllers step, grants are made and become live, the matrix units start what is live, bursts end (R404), what is set for a time starts, 1 s without a sync message ends
(R41), and a sample leaves its queue (R234). Log entry 1. -/
def fabDue (s : State) : State :=
  let s := (s.flasks.filter fun p => !p.2.dir.isEmpty).foldl (fun s p => windowBegins s p.1) s
  let s := grantsDue (powerDue s)
  let s := (s.cores.filter fun p => !p.2.mx.ops.isEmpty).foldl (fun s p => mxStart s p.1) s
  let s := (s.groups.filter fun p => p.2.burst.isSome).foldl (fun s p => burstOver (burstStep s p.1) p.1) s
  let s := timesDue s
  let s := if sysFld s (sel 5 0) 62 1 = 1 then s else holdover s
  let s := if keptHome s then s else (s.flasks.filter fun p => !p.2.samples.isEmpty).foldl (fun s p => takeHead s p.1) s
  if s.entries.isEmpty then s else settleEntries s

/-- One fabric cycle: 0.625 ns (R39). Log entry 2. -/
def fabCycle (s : State) : State :=
  let d := slewNow s
  let s := { s with fab := s.fab + 1, prevE := s.droneE, droneE := ((s.droneE : Int) + 5 + d).toNat, slew := s.slew - d }
  (s.cores.map (·.1)).foldl coreCycle (fabDue s)

/-- Some fabric cycles. Log entry 2. -/
def passTime (n : Nat) (s : State) : State := n.fold (fun _ _ s => fabCycle s) s

/-! ### What a step has made possible -/

/-- A flag of the group is held by this. -/
def sigIs (uid : Nat) (sg : Sig) : Bool := match sg with
  | .grp u _ => u == uid
  | .none => false

/-- Operations that a group has issued and that have not completed (R154). -/
def outstanding (s : State) (g : Nat) (x : Group) : Bool :=
  let c := coreAt s (slotCore g)
  let me := x.uid
  !x.storeq.isEmpty || !x.lent.isEmpty || x.cldOut != 0 || (x.q.any fun r => r.2.stream.isSome)
    || (s.results.any fun r => r.uid == me) || (s.blocks.any fun b => b.uid == me) || (s.preqs.any fun q => q.uid == me)
    || (s.ops.any fun o => o.2.uid == me) || (s.nmWait.any fun o => o.uid == me) || (s.waiters.any fun w => sigIs me w.sig)
    || (s.decs.any fun d => sigIs me d.sig) || (c.copies.any fun k => k.uid == me) || (c.mx.ops.any fun o => o.uid == me)
    || (c.bufs.any fun b => b.2.wait.any fun w => w.uid == me)
    || (s.hbm.any fun k => k.2.queues.any fun q => q.2.any fun o => o.uid == me)
    || s.flasks.any fun f => f.2.reqs.any fun r => r.uid == me

/-- What a group under way can do now; what reads or writes memory at home waits while a sub-block has a line there to itself (R175). -/
def sweepGroup (s : State) (g : Nat) : State :=
  match groupAt s g with
  | none => s
  | some x =>
    if x.done then s
    else if bit (sysVal s (sel 23 x.ctx)) 6 && !keptHome s then killGroup (dropOps s x.team) g
    else
      let s := if x.park.isSome then modGroup s g holdPaths else s
      let s := if x.stop.isSome then finishStop s g else s
      let s := if x.fence.isSome then fenceStep s g else s
      let s := if x.burst.isSome then burstStep s g else s
      if (phaseWords x).isEmpty || keptHome s then s else phaseStep s g

/-- PARKED of a context (R257): every group is saved, and so are its regions (R231). -/
def sweepCtx (s : State) (ctx : Nat) : State :=
  let x := sysVal s (sel 23 ctx)
  if bit x 0 && !bit x 1 && !keptHome s && !s.groups.any (fun p => p.2.ctx == ctx && !p.2.done) then
    saveFit (setSysFld s (sel 23 ctx) 1 1 1) ctx
  else s

/-- A flask that HALT has emptied is gated (R407); MIGREQ shows the migrations pending (R64); the governor learns that no group was
resident throughout (R59). -/
def sweepFlask (s : State) (fl : Nat) : State :=
  let f := flaskAt s fl
  let s := if f.busy && !groupHere s fl then modFlask s fl fun f => { f with busy := false } else s
  let still := fun (p : Nat × Core) => coreFlask p.1 == fl && (!p.2.copies.isEmpty || !p.2.mx.ops.isEmpty)
  let s := if f.halting && !f.gated && !s.groups.any (fun p => coreFlask (slotCore p.1) == fl) && !s.cores.any still then
      modFlask s fl fun f => { f with gated := true, halting := false }
    else s
  let live := f.migs.filter fun u => (teamOf s u).any fun t => !t.killed
  if sysFld s (sel 13 fl) 34 1 = 0 && f.migs.isEmpty then s else showMig (modFlask s fl fun f => { f with migs := live }) fl

/-- What a flag of a system instruction waits for has come about (R402, R403, R406, R407). Log entries 48 and 50. -/
def sweepWaiter (s : State) (w : Waiter) : State :=
  let met := { s with waiters := s.waiters.filter fun x => x != w }
  match w.what with
  | .parked ctx => if bit (sysVal s (sel 23 ctx)) 1 then fall met w.sig else s
  | .gated fl => if (flaskAt s fl).gated then fall met w.sig else s
  | .notBusy fl => if sysFld s (sel 1 fl) 8 1 = 0 then fall met w.sig else s
  | .slcfg _ => s
  | .subs ctx lo hi ids =>
    let t := flushPages s ctx lo hi
    if (s.subs.any fun b => ids.contains b.id) || pagesHeld t ctx lo hi then t
    else fall { t with waiters := t.waiters.filter fun x => x != w } w.sig

/-- A context has become resident (R41). Log entry 30. -/
def seeContext (s : State) : State :=
  if s.ctxSeen || !bit (sysVal s (sel 29 0)) 0 || !anyContext s then s else { s with ctxSeen := true }

/-- Groups whose lanes have exited free their slots once nothing of theirs is outstanding (R154). -/
def vacate (s : State) : State :=
  { s with cur := none, groups := s.groups.filter fun p => !p.2.done || outstanding s p.1 p.2 }

/-- After every step (R100, R154, R197, R241, R257): what can go on by itself does. -/
def sweep (s : State) : State :=
  let s := { s with cur := none }
  let s := if keptHome s then s else settleFit s
  let s := if s.entries.isEmpty then s else settleEntries s
  let s := if s.tasks.all (fun t => t.gang == 0) && s.gangAt.isEmpty then s else noteGangs s
  let s := (s.groups.map (·.1)).foldl sweepGroup s
  let s := ((s.sys.filter fun p => p.1 / 4096 == 23).map fun p => p.1 % 4096).foldl sweepCtx s
  let s := (s.flasks.map (·.1)).foldl sweepFlask s
  let s := ((s.grids.filter fun g => g.left = 0).map (·.uid)).foldl gridSettle s
  seeContext (vacate (s.waiters.foldl sweepWaiter s))

/-! ### The agenda (log entry 1) -/

/-- Bytes that the host, the peer or the Cupola writes (R71). Log entry 54. -/
def worldWrite (s : State) (key kid : Nat) (bytes : List Byte) : State :=
  if 2 ≤ keyTier key then { s with mem := memWrite s.mem key bytes }
  else if bytes.isEmpty || !frameOk s key || !frameOk s (key + bytes.length - 1) || !keyLive s kid || lockedRun s key bytes.length then s
  else homeWriteRun s 32 512 256 kid key bytes

/-- A message of the peer module arrives on a port that is up in peer mode and does not retrain, for then its flits are held: SRCKIND 1, SRCID the port (R36, R111).
Log entry 54. -/
def peerArrives (s : State) (port : Nat) (bytes : List Byte) : State :=
  if 12 ≤ port || bytes.length != 64 || !peerUp s port || (mget s.ports port {}).retrain then s
  else
    let bs := bytes.take 2 ++ natBytes 1 1 ++ (bytes.drop 3).take 1 ++ natBytes 2 port ++ bytes.drop 6
    { s with msgs := s.msgs ++ [{ bytes := bs, dest := bytesAt bs 6 2, src := 0x10000 + port }] }

/-- The agent that acts. Log entry 1. -/
def act (s : State) (t : Turn) : Outcome State Fault Refusal :=
  match t with
  | .event i => if mayAct s i then exec i s else .next s
  | .issue core quarter => issueTurn s core quarter
  | .pass n => .next (passTime n s)
  | .drain g => .next (drainOne s g)
  | .evict line =>
    .next (match (mget? s.lines line).bind (·.way) with
      | some w => if l2Full s (homeFlask (128 * line)) line w then leaveL2 s line else s
      | none => s)
  | .dropReplica fl line =>
    .next (match mget? (flaskAt s fl).replicas line with
      | some r => if l2Full s fl line r.way then modFlask s fl fun f => { f with replicas := mdel f.replicas line } else s
      | none => s)
  | .world key kid bytes => .next (worldWrite s key kid bytes)
  | .peerMsg port bytes => .next (peerArrives s port bytes)
  | .codeBase ctx base => .next { s with ctxs := mmod s.ctxs ctx {} fun c => { c with codeBase := base } }
  | .hostRead what => .next (hostRead s what)
  | .recoveryVerified => .next (recoveryVerified s)
  | .certificate => .next (certificate s)
  | .taskLink ctx handle link => .next (if (taskOf s ctx handle).isNone || keptHome s then s else putRec s ctx handle 0x38 8 link.toNat)
  | .timeSource => .next (timeSource s)
  | .stage unit page => .next { s with staging := match page with | some p => mput s.staging unit p | none => mdel s.staging unit }

/-- The next agent of the agenda acts; with none named, a fabric cycle passes. Log entries 1 and 2. -/
def turn (s : State) : Outcome State Fault Refusal :=
  let out : Outcome State Fault Refusal := match s.agenda with
    | [] => .next (passTime 1 { s with cur := none })
    | t :: rest => act { s with agenda := rest, cur := none } t
  match out with
  | .next t => .next (sweep t)
  | o => o

/-! ### A word placed where the next step fetches it (log entry 5) -/

/-- Bytes of a table entry. -/
def cell (pa : Nat) (x : Nat) : Nat × List Byte := (pkey 0 pa, natBytes 8 x)

/-- One resident group of a system team of a privileged context, context 1, in slot 0 of core 0, at word 0 of a code segment
at 0x100000. The context table stands at 0x8000, its root table at 0x10000, and a leaf of 16 GiB maps address 0.
Log entry 5. -/
def placeWord (s : State) (w : IWord) : State :=
  let leaf := 0xF + 11 * 16 + 2 ^ 50 + 2 ^ 51
  let put := fun (m : List Host.Cell) (p : Nat × List Byte) => memWrite m p.1 p.2
  let mem := [cell 0x8080 (1 + 0x10000), cell 0x8088 (1 + 2 ^ 16), cell 0x10000 (1 + 0x14000), cell 0x14000 leaf,
              (pkey 0 0x100000, bytesOfWord w)].foldl put s.mem
  let team : Team := { uid := s.nextUid, ctx := 1, sysT := true, core := some 0 }
  let x : Group := { uid := s.nextUid + 1, ctx := 1, sysT := true, noTask := true, team := s.nextUid, nlanes := 1, regs := 64,
                     paths := [{ pc := 0, lanes := 1 }] }
  { s with
    agenda := [.issue 0 0], cur := none, nextUid := s.nextUid + 2, mem := mem,
    sys := mput s.sys (sel 29 0) (BitVec.ofNat 64 0x8001), ctxs := mmod s.ctxs 1 {} fun c => { c with codeBase := 0x100000 },
    groups := [(0, x)], teams := s.teams ++ [team] }

end Sys2Proof.Machine
end

