-- ==== Sys2Proof/Safety.lean ====
section
/-! DEFINITION. The terms in which claims about the machine are stated: when a stream may issue, where lanes stand, what an
issue leaves as it was, and the invariant of every step. -/

namespace Sys2Proof.Machine

open Host

/-! ### Where lanes stand -/

/-- Lane `l` stands at word `pc` in wait state `w` (R136, R137). -/
def Placed (ps : List Path) (l : Nat) (pc : Pc) (w : Wait) : Prop :=
  ∃ p ∈ ps, inLanes p.lanes l = true ∧ p.pc = pc ∧ p.wait = w

/-! ### When a stream may issue -/

/-- The stream under way `c` of group `x` may issue an instruction that names `i`: nothing of R117, R151, R152 and R270 makes it
wait, and no check of R148, R244, R265, R270 and R275 traps. -/
structure MayIssue (s : State) (c : Cur) (x : Group) (i : Info) : Prop where
  cur    : s.cur = some c
  group  : groupAt s c.g = some x
  /-- DIST has passed since the path last issued, and no YIELD holds it (R151, R290). -/
  dist   : ∀ p, pathOf c x = some p →
             (∀ t, p.last = some t → t + i.h.dist.toNat ≤ (coreAt s (slotCore c.g)).cycle) ∧
               p.ready ≤ (coreAt s (slotCore c.g)).cycle
  /-- Every flag that WAIT names is 0 as the stream sees it (R138, R152). -/
  wait   : ∀ k, k < 12 → i.h.wait.getLsbD k = true → flagOf (c.flags x) k = 0
  /-- A privileged instruction in a system team of a privileged context (R275). -/
  priv   : i.priv = true → grpPriv s x = true
  /-- Every v register named lies in the allocation (R148). -/
  regs   : ∀ r, r ∈ i.reads x ++ i.vw → r < regCount x
  /-- Every queue named is configured (R126). -/
  queues : ∀ k, k ∈ i.queues → (ringOf x k).conf = true
  /-- No case that the description of the instruction names RESERVED_FIELD applies (R275). -/
  sound  : i.bad = false
  pairA  : oddPair x i.a = false
  pairB  : oddPair x i.b = false
  /-- SP: a LIVE word follows, can be fetched, and keeps R244. -/
  live   : i.h.sp = true → c.away = none ∧ isLive c.next = true ∧ liveOk c.next (regCount x) = true
  /-- No v destination lies in a ring (R126). -/
  ring   : ∀ r, r ∈ i.vw → inRing x r = none
  /-- No source register is empty, and no queue entry is one that stream A of the slot has popped (R126, R152). -/
  full   : ∀ r, r ∈ i.reads x → c.finds x (i.heads x) r = false
  /-- No destination is lent to an operation under way. -/
  lent   : ∀ r, r ∈ i.vw → r ∉ x.lent
  /-- A memory operation waits for a fence of its group (R360). -/
  fence  : i.mem = true → x.fence = none
  /-- The flag that SET names has room (R152). -/
  flag   : i.h.set.toNat < 12 → flagOf x i.h.set.toNat + i.sets ≤ 255

/-- A fixed-latency result has yet to reach register `r` of this kind (that of `Recent`) in lane `l` of the group `x` in slot `g`
(R151). -/
abbrev StillDue (s : State) (g : Nat) (x : Group) (kind r l : Nat) : Prop :=
  (x.recents.any fun q => q.kind == kind && q.reg == r && q.lane == l && decide ((coreAt s (slotCore g)).cycle < q.due)) = true

/-! ### What an issue leaves -/

/-- The machine `s` but for what an issue of slot `g` may change: its group, results under way, identities and draws. -/
def State.issuedAs (s t : State) : State :=
  { s with cur := none, groups := t.groups, results := t.results, nextUid := t.nextUid, free := t.free }

/-- The group `x` but for where its lanes stand, its ages, its flags and its queues' heads. -/
def Group.movedAs (x y : Group) : Group :=
  { x with paths := y.paths, last := y.last, age := y.age, stall := y.stall, park := y.park, f := y.f, q := y.q,
           empt := y.empt, recents := y.recents }

/-- No lane outside the stream has moved, and the lanes of the stream stand at the next word. -/
def Advanced (c : Cur) (h : Hdr) (x y : Group) : Prop :=
  ∀ l pc w, Placed y.paths l pc w ↔
    (Placed x.paths l pc w ∧ inLanes c.lanes l = false) ∨ (inLanes c.lanes l = true ∧ pc = nextPc c.pc h.sp ∧ w = .run)

/-- Every slot but `g` holds what it held. -/
def OthersKept (s t : State) (g : Nat) : Prop := ∀ k, k ≠ g → groupAt t k = groupAt s k

/-- The flag that SET names has counted up where the instruction acts, and no other flag has changed (R152). -/
def Counted (e : Env) (i : Info) (x y : Group) : Prop :=
  ∀ k, flagOf y k = flagOf x k + (if k = i.h.set.toNat ∧ k < 12 ∧ actsIn e i = true then i.sets else 0)

/-- Without a queue among the sources, queues and empty registers are as before. -/
def QueuesKept (i : Info) (x y : Group) : Prop := i.queues = [] → y.q = x.q ∧ y.empt = x.empt

/-- What a fixed-latency instruction computes: a number for each lane of D, a predicate for each lane, its FSTAT flags, and its
latency (R151, R267). -/
structure LaneForm where
  info : Info
  lat  : Nat
  d    : Option Reg := none
  wide : Bool := false
  val  : Env → Nat → Nat := fun _ _ => 0
  pd   : Option (BitVec 3) := none
  pval : Env → Nat → Bool := fun _ _ => false
  fl   : Env → Fl := fun _ => 0

/-- D is written. -/
def LaneForm.putD (φ : LaneForm) (e : Env) (s : State) : State :=
  match φ.d with
  | some d => writeD s e d φ.wide φ.lat (φ.val e)
  | none => s

/-- The predicate is written. -/
def LaneForm.putP (φ : LaneForm) (e : Env) (s : State) : State :=
  match φ.pd with
  | some p => writeP s e p.toNat φ.lat (φ.pval e)
  | none => s

/-- An instruction of this form. -/
def LaneForm.exec (φ : LaneForm) (s : State) : Outcome State Fault Refusal :=
  gate φ.info s fun e _ post => fixTail (φ.putP e (φ.putD e post)) e φ.info.h φ.lat (φ.fl e)

/-- The v register `r` is written, in lane `l`, with this half of the result. -/
def LaneForm.vAt (φ : LaneForm) (e : Env) (r l : Nat) : Option Word :=
  match φ.d with
  | some (.v n) =>
    if inLanes e.act l = false then none
    else if r = n.toNat then some (BitVec.ofNat 32 (φ.val e l))
    else if φ.wide && r == n.toNat + 1 then some ((BitVec.ofNat 64 (φ.val e l)).extractLsb' 32 32)
    else none
  | _ => none

/-- The s register `k` is written with this: once, if the guard is true in some lane (R265), unless stream A of the slot has
written it (R149). -/
def LaneForm.sAt (φ : LaneForm) (e : Env) (k : Nat) : Option DWord :=
  match φ.d with
  | some (.s n) => if k = n.toNat ∧ e.act ≠ 0 ∧ e.mayS k = true then some (BitVec.ofNat 64 (φ.val e oneLane)) else none
  | _ => none

/-- Lane `l` of predicate `k` is written with this; a write to p7 is dropped (R147). -/
def LaneForm.pAt (φ : LaneForm) (e : Env) (k l : Nat) : Option Bool :=
  match φ.pd with
  | some p => if k = p.toNat ∧ k ≠ 7 ∧ inLanes e.act l = true then some (φ.pval e l) else none
  | none => none

/-- A register or lane that the instruction writes reads its old value or the new one until the result is due (R151). -/
def LaneForm.writes (φ : LaneForm) (e : Env) (x : Group) (q : Recent) : Prop :=
  q.due = e.cyc + φ.lat ∧
    ((q.kind = 0 ∧ (φ.vAt e q.reg q.lane).isSome = true ∧ q.old = (vRaw x q.reg q.lane).setWidth 64) ∨
      (q.kind = 1 ∧ (φ.sAt e q.reg).isSome = true ∧ q.old = sRaw x q.reg) ∨
      (q.kind = 2 ∧ (φ.pAt e q.reg q.lane).isSome = true ∧ q.old = if inLanes (pRaw x q.reg) q.lane then 1 else 0))

/-- What is still to come of an issue when its result is written: its FSTAT flags and the fall of the flag of SET (R209, R271). -/
def LaneForm.later (φ : LaneForm) (s : State) (x : Group) (e : Env) : List Res :=
  if actsIn e φ.info = true ∧ (φ.fl e ≠ 0 ∨ φ.info.h.set.toNat < 12) then
    [{ id := s.nextUid, uid := x.uid, sig := sigOf x.uid φ.info.h.set, fl := (φ.fl e).setWidth 64, due := some (e.cyc + φ.lat) }]
  else []

/-- `t` is the machine `s` after the stream has issued a fixed-latency instruction of this form: D and the predicate hold the
results in the lanes whose guard is true; every other register, predicate, flag, slot, byte and control register is as before. -/
structure LaneDone (s t : State) (c : Cur) (x : Group) (φ : LaneForm) : Prop where
  machine : t = s.issuedAs t
  others  : OthersKept s t c.g
  group   : ∃ y, groupAt t c.g = some y ∧
    y = { x.movedAs y with v := y.v, s := y.s, p := y.p } ∧ Advanced c φ.info.h x y ∧
    Counted (issueEnv s c x φ.info.h) φ.info x y ∧ QueuesKept φ.info x y ∧
    (∀ q, q ∈ y.recents → q ∈ x.recents ∨ φ.writes (issueEnv s c x φ.info.h) x q) ∧
    (∀ r l, l < 128 → vRaw y r l = (φ.vAt (issueEnv s c x φ.info.h) r l).getD (vRaw x r l)) ∧
    (∀ k, sRaw y k = (φ.sAt (issueEnv s c x φ.info.h) k).getD (sRaw x k)) ∧
    (∀ k l, inLanes (pRaw y k) l = (φ.pAt (issueEnv s c x φ.info.h) k l).getD (inLanes (pRaw x k) l))
  later   : t.results = s.results ++ φ.later s x (issueEnv s c x φ.info.h)

/-- A variable-latency result (R152): the v registers that it makes empty, the values that it will bring, keyed
128 x register + lane, the s register, and the FSTAT flags. -/
structure VarForm where
  info  : Info
  vregs : List Nat := []
  vals  : Env → List (Nat × Word) := fun _ => []
  sreg  : Env → Option (Nat × DWord) := fun _ => none
  fl    : Env → Fl := fun _ => 0
  load  : Bool := false

/-- An instruction of this form. -/
def VarForm.exec (φ : VarForm) (s : State) : Outcome State Fault Refusal :=
  gate φ.info s fun e _ post => varResult post e φ.info.h φ.vregs (φ.vals e) (φ.sreg e) (φ.fl e) φ.load

/-- `t` is the machine `s` after the stream has issued a variable-latency instruction of this form: its v registers are empty
and the result is under way; every register, predicate, flag, slot, byte and control register is as before. -/
structure VarDone (s t : State) (c : Cur) (x : Group) (φ : VarForm) : Prop where
  machine : t = s.issuedAs t
  others  : OthersKept s t c.g
  group   : ∃ y, groupAt t c.g = some y ∧
    y = x.movedAs y ∧ Advanced c φ.info.h x y ∧ Counted (issueEnv s c x φ.info.h) φ.info x y ∧
    (φ.info.queues = [] → y.q = x.q) ∧ (∀ q, q ∈ y.recents → q ∈ x.recents) ∧
    (∀ r, r ∈ x.empt → r ∈ y.empt) ∧
    (actsIn (issueEnv s c x φ.info.h) φ.info = true → ∀ r, r ∈ φ.vregs → r ∈ y.empt) ∧
    (φ.info.queues = [] → ∀ r, r ∈ y.empt → r ∈ x.empt ∨ r ∈ φ.vregs)
  later   : t.results = s.results ++
    (if actsIn (issueEnv s c x φ.info.h) φ.info = true then
      [{ id := s.nextUid, uid := x.uid, vregs := φ.vregs, vals := φ.vals (issueEnv s c x φ.info.h),
         sreg := φ.sreg (issueEnv s c x φ.info.h), sig := sigOf x.uid φ.info.h.set, load := φ.load,
         fl := (φ.fl (issueEnv s c x φ.info.h)).setWidth 64 }]
    else [])

/-- `t` is the machine `s` after the stream has issued an instruction that is complete at issue (R271): lane `l` of the stream
stands at `tgt l`, no other lane has moved, and the group is `z` but for that; the flag that SET names has counted up and
fallen again; nothing else of the machine has changed. -/
structure Issued (s t : State) (c : Cur) (x z : Group) (i : Info) (tgt : Nat → Pc × Wait) : Prop where
  machine : t = { s with cur := none, groups := t.groups, free := t.free }
  others  : OthersKept s t c.g
  group   : ∃ y, groupAt t c.g = some y ∧ y = z.movedAs y ∧
    (∀ l pc w, Placed y.paths l pc w ↔
      (Placed x.paths l pc w ∧ inLanes c.lanes l = false) ∨ (inLanes c.lanes l = true ∧ tgt l = (pc, w))) ∧
    (∀ k, flagOf y k = flagOf x k) ∧ QueuesKept i x y ∧ (∀ q, q ∈ y.recents → q ∈ x.recents)

/-- Every lane goes on at the next word. -/
def onward (c : Cur) (h : Hdr) : Nat → Pc × Wait := fun _ => (nextPc c.pc h.sp, .run)

/-- The lanes whose guard is true go to one place, the others go on at the next word. -/
def parted (e : Env) (h : Hdr) (tgt : Nat → Pc × Wait) : Nat → Pc × Wait :=
  fun l => if inLanes e.act l = true then tgt l else (nextPc e.pc h.sp, .run)

/-! ### What the computing instructions give -/

/-- A form with one destination D. -/
def dForm (i : Info) (d : Reg) (wide : Bool) (lat : Nat) (val : Env → Nat → Nat) : LaneForm :=
  { info := i, lat := lat, d := some d, wide := wide, val := val }

/-- A form with one destination whose lanes raise FSTAT flags (R209). -/
def fForm (i : Info) (d : Reg) (wide : Bool) (lat : Nat) (f : Env → Nat → Nat × Fl) : LaneForm :=
  { info := i, lat := lat, d := some d, wide := wide, val := fun e l => (f e l).1,
    fl := fun e => orFl ((e.calc d).map fun l => (f e l).2) }

/-- A form that writes a predicate. -/
def pForm (i : Info) (pd : BitVec 3) (lat : Nat) (f : Env → Nat → Bool × Fl) : LaneForm :=
  { info := i, lat := lat, pd := some pd, pval := fun e l => (f e l).1,
    fl := fun e => orFl ((lanesOf e.act).map fun l => (f e l).2) }

/-- Class 0x1: results of 6 cycles, products of 10 (R151, R315 to R317, R319, R320). -/
def integerForm : Instr → Option LaneForm
  | .iadd h t sat d a b => some (dForm (info2 h t d a b) d t.wide 6 fun e l => fit t sat (e.int t a l + e.int t b l))
  | .isub h t sat d a b => some (dForm (info2 h t d a b) d t.wide 6 fun e l => fit t sat (e.int t a l - e.int t b l))
  | .imul h t sat d a b => some (dForm (info2 h t d a b) d t.wide 10 fun e l => fit t sat (e.int t a l * e.int t b l))
  | .imulh h t d a b =>
      some (dForm (info2 h t d a b) d t.wide 10 fun e l => fit t false (e.int t a l * e.int t b l / (2 ^ t.bits : Nat)))
  | .imad h t sat d a b c =>
      some (dForm (info3 h t d a b c) d t.wide 10 fun e l => fit t sat (e.int t a l * e.int t b l + e.cint t c l))
  | .imin h t d a b =>
      some (dForm (info2 h t d a b) d t.wide 6 fun e l => fit t false (if e.int t a l < e.int t b l then e.int t a l else e.int t b l))
  | .imax h t d a b =>
      some (dForm (info2 h t d a b) d t.wide 6 fun e l => fit t false (if e.int t b l < e.int t a l then e.int t a l else e.int t b l))
  | .iabs h t sat d a => some (dForm (info1 h t d a) d t.wide 6 fun e l => fit t sat ((e.int t a l).natAbs : Int))
  | .ineg h t sat d a => some (dForm (info1 h t d a) d t.wide 6 fun e l => fit t sat (-(e.int t a l)))
  | .idp4 h t sat d a b c =>
      some (dForm (infoOf h d false (some (a, false)) (some (b, false)) [c.toNat]) d false 10
        fun e l => fit (dotAcc t) sat (intOf (dotAcc t) (e.cnum false c l) + dotSum t 4 (e.num false a l) (e.num false b l)))
  | .idp2 h t sat d a b c =>
      some (dForm (infoOf h d false (some (a, false)) (some (b, false)) [c.toNat]) d false 10
        fun e l => fit (dotAcc t) sat (intOf (dotAcc t) (e.cnum false c l) + dotSum t 2 (e.num false a l) (e.num false b l)))
  | .iadd3 h t sat d a b c =>
      some (dForm (info3 h t d a b c) d t.wide 6 fun e l => fit t sat (e.int t a l + e.int t b l + e.cint t c l))
  | _ => none

/-- The high half of the exact product, signed for s types and unsigned for z types (R317). -/
def highHalf (t : Ty) (a b : Nat) : Nat :=
  (BitVec.ofInt (2 * t.bits) (intOf t a * intOf t b)).toNat / 2 ^ t.bits

/-- The carry chains (R316): D, and the carry out or the borrow in pk. -/
def carryForm : Instr → Option LaneForm
  | .iaddc h t d a b pk => some (form false h t d a b pk)
  | .isubb h t d a b pk => some (form true h t d a b pk)
  | _ => none
where
  /-- With an s destination the carry in is that of the lowest lane whose guard is true. -/
  res (sub : Bool) (t : Ty) (d : Reg) (a b : Src) (pk : BitVec 3) (e : Env) (l : Nat) : Nat × Bool :=
    match d with
    | .v _ => carryOp sub t (e.num t.wide a l) (e.num t.wide b l) (e.p pk.toNat l)
    | .s _ => carryOp sub t (e.num t.wide a oneLane) (e.num t.wide b oneLane) (e.p pk.toNat ((lowLane e.act).getD 0))
  form (sub : Bool) (h : Hdr) (t : Ty) (d : Reg) (a b : Src) (pk : BitVec 3) : LaneForm :=
    { info := info2 h t d a b, lat := 6, d := some d, wide := t.wide, pd := some pk,
      val := fun e l => (res sub t d a b pk e l).1, pval := fun e l => (res sub t d a b pk e l).2 }

/-- Class 0x2 (R322 to R327): `n` reads a source as a number of the type's width, `w` as 32 bits. -/
def bitForm : Instr → Option LaneForm
  | .and h t d a b => two h t d a b 6 fun x y => x &&& y
  | .or h t d a b => two h t d a b 6 fun x y => x ||| y
  | .xor h t d a b => two h t d a b 6 fun x y => x ^^^ y
  | .andn h t d a b => two h t d a b 6 fun x y => x &&& notBits t.bits y
  | .not h t d a => some (dForm (info1 h t d a) d t.wide 6 fun e l => notBits t.bits (e.num t.wide a l))
  | .bmix3 h t d a b c tbl =>
      some (dForm (info3 h t d a b c) d t.wide 6
        fun e l => mix3 t.bits tbl (e.num t.wide a l) (e.num t.wide b l) (e.cnum t.wide c l))
  | .shl h t d a b => shift h t d a b fun x n => if t.bits ≤ n then 0 else x * 2 ^ n % 2 ^ t.bits
  | .shr h t d a b => shift h t d a b fun x n => if t.bits ≤ n then 0 else x / 2 ^ n
  | .sar h t d a b => shift h t d a b fun x n => fit t false (intOf t x / (2 ^ min n t.bits : Nat))
  | .rotl h t d a b => shift h t d a b fun x n => rotRight t.bits x ((t.bits - n % t.bits) % t.bits)
  | .rotr h t d a b => shift h t d a b fun x n => rotRight t.bits x (n % t.bits)
  | .dshr h t d a b c =>
      some (dForm (infoOf h d t.wide (some (a, t.wide)) (some (b, t.wide)) [c.toNat]) d t.wide 6
        fun e l => (e.num t.wide a l * 2 ^ t.bits + e.num t.wide b l) / 2 ^ (e.cnum false c l % t.bits) % 2 ^ t.bits)
  | .ones h t d a => count h t d a (onesCount t.bits)
  | .clz h t d a => count h t d a fun x => t.bits - bitLen x
  | .ctz h t d a => count h t d a (ctzCount t.bits)
  | .brev h t d a => some (dForm (info1 h t d a) d t.wide 6 fun e l => revBits t.bits (e.num t.wide a l))
  | .fxtr h t d a b => shift h t d a b (fieldExtract t)
  | .fins h t d a b c =>
      some (dForm (infoOf h d t.wide (some (a, t.wide)) (some (b, false)) (pairRegs t.wide c)) d t.wide 6
        fun e l => fieldInsert t.bits (e.num t.wide a l) (e.cnum t.wide c l) (e.num false b l))
  | .clmul h t d a b => two h t d a b 10 (clProduct t.bits)
  | .clmulh h t d a b => two h t d a b 10 fun x y => clProduct t.bits x y / 2 ^ t.bits
  | .bsel h d a b c =>
      some (dForm (info3 h .z32 d a b c) d false 6 fun e l => byteSelect (e.num false a l) (e.num false b l) (e.cnum false c l))
  | _ => none
where
  two (h : Hdr) (t : Ty) (d : Reg) (a b : Src) (lat : Nat) (f : Nat → Nat → Nat) : Option LaneForm :=
    some (dForm (info2 h t d a b) d t.wide lat fun e l => f (e.num t.wide a l) (e.num t.wide b l) % 2 ^ t.bits)
  shift (h : Hdr) (t : Ty) (d : Reg) (a b : Src) (f : Nat → Nat → Nat) : Option LaneForm :=
    some (dForm (infoOf h d t.wide (some (a, t.wide)) (some (b, false)) []) d t.wide 6
      fun e l => f (e.num t.wide a l) (e.num false b l))
  count (h : Hdr) (t : Ty) (d : Reg) (a : Src) (f : Nat → Nat) : Option LaneForm :=
    some (dForm (infoOf h d false (some (a, t.wide)) none []) d false 6 fun e l => f (e.num t.wide a l))

/-- Class 0x3 (R329 to R333). -/
def floatForm : Instr → Option LaneForm
  | .fadd h r d a b => two h d a b (fAdd .f32 r)
  | .fsub h r d a b => two h d a b (fSub .f32 r)
  | .fmul h r d a b => two h d a b (fMul .f32 r)
  | .ffma h r d a b c =>
      some (fForm (info3 h .f32 d a b c) d false 8
        fun e l => fFma .f32 r e.ftz (e.fnum .f32 a l) (e.fnum .f32 b l) (e.cnum false c l))
  | .fmin h d a b => two h d a b (fMinMax .f32 true)
  | .fmax h d a b => two h d a b (fMinMax .f32 false)
  | .frnd h r d a => some (fForm (info1 h .f32 d a) d false 8 fun e l => fRnd r e.ftz (e.fnum .f32 a l))
  | .fscale h r d a b =>
      some (fForm (info2 h .f32 d a b) d false 8 fun e l => fScale r e.ftz (e.fnum .f32 a l) (e.int .s32 b l))
  | .fclass h d a => some (dForm (info1 h .f32 d a) d false 8 fun e l => fClass (e.fnum .f32 a l))
  | .fabs h d a => some (dForm (info1 h .f32 d a) d false 8 fun e l => e.fnum .f32 a l % 2 ^ 31)
  | .fneg h d a => some (dForm (info1 h .f32 d a) d false 8 fun e l => (e.fnum .f32 a l + 2 ^ 31) % 2 ^ 32)
  | .fcpys h d a b =>
      some (dForm (info2 h .f32 d a b) d false 8
        fun e l => e.fnum .f32 a l % 2 ^ 31 + e.fnum .f32 b l / 2 ^ 31 % 2 * 2 ^ 31)
  | _ => none
where
  two (h : Hdr) (d : Reg) (a b : Src) (f : Bool → Nat → Nat → Nat × Fl) : Option LaneForm :=
    some (fForm (info2 h .f32 d a b) d false 8 fun e l => f e.ftz (e.fnum .f32 a l) (e.fnum .f32 b l))

/-- Class 0x4 (R335 to R340). -/
def halfForm : Instr → Option LaneForm
  | .hadd2 h t r d a b => two h t d a b (fAdd t r)
  | .hmul2 h t r d a b => two h t d a b (fMul t r)
  | .hfma2 h t r d a b c =>
      some (fForm (info3 h .z32 d a b c) d false 8
        fun e l => both fun i => fFma t r e.ftz (half (e.hnum t a l) i) (half (e.hnum t b l) i) (half (e.cnum false c l) i))
  | .hmin2 h t d a b => two h t d a b (fMinMax t true)
  | .hmax2 h t d a b => two h t d a b (fMinMax t false)
  | .cvt h dt su r sat d a =>
      some (fForm (infoOf h d dt.wide (some (a, su.wide)) none []) d dt.wide 8
        fun e l => convert dt su r sat e.ftz (e.cvtSrc su a l))
  | .cvtpk h dt su r sat d a b =>
      some (fForm (infoOf h d false (some (a, su.wide)) (some (b, su.wide)) (if dt.bits = 16 then [] else dstRegs false d)) d
        false 8
        fun e l => (packPair dt (convert dt su r sat e.ftz (e.cvtSrc su a l)).1 (convert dt su r sat e.ftz (e.cvtSrc su b l)).1
            (e.old d l),
          (convert dt su r sat e.ftz (e.cvtSrc su a l)).2 ||| (convert dt su r sat e.ftz (e.cvtSrc su b l)).2))
  | .qblk h t d a b =>
      some (fForm (infoOf h (.v d) false (some (a, false)) (some (b, false)) []) (.v d) false 10
        fun e l => (qblkOut (e.blkOf t a b (l / 16)) (l % 16), (e.blkOf t a b (l / 16)).2.2))
  | .dqblk h d a =>
      some (dForm (infoOf h (.v d) false (some (a, false)) none []) (.v d) false 8
        fun e l => dqblkOut (fun m => (e.src32 a m).toNat) l)
  | _ => none
where
  two (h : Hdr) (t : Ty) (d : Reg) (a b : Src) (f : Bool → Nat → Nat → Nat × Fl) : Option LaneForm :=
    some (fForm (info2 h .z32 d a b) d false 8 fun e l => both fun i => f e.ftz (half (e.hnum t a l) i) (half (e.hnum t b l) i))

/-- Class 0x5 with one destination (R296 to R300). -/
def moveForm : Instr → Option LaneForm
  | .mov h t d a => some (dForm (info1 h t d a) d t.wide 6 fun e l => e.pat t a l)
  | .movi h d imm => some (dForm (infoOf h (.v d) false none none []) (.v d) false 6 fun _ _ => imm.toNat)
  | .movh h _ d a b =>
      some (dForm (infoOf h d true (some (a, false)) (some (b, false)) []) d true 6
        fun e l => e.num false a l * 2 ^ 32 + e.num false b l)
  | .sel h t d a b pk =>
      some (dForm (info2 h t d a b) d t.wide 6 fun e l =>
        if e.p pk.toNat (pickLane d e l) then e.pat t a l else e.pat t b l)
  | .icmp h t c pd a b => some (pForm (infoAB h t a b) pd 6 fun e l => (cmpInt c (e.int t a l) (e.int t b l), 0))
  | .fcmp h c pd a b =>
      some (pForm (infoAB h .f32 a b) pd 8 fun e l =>
        cmpFv c (ftzIn .f32 e.ftz (unpack .f32 (e.fnum .f32 a l))) (ftzIn .f32 e.ftz (unpack .f32 (e.fnum .f32 b l))))
  | .plog h .and pd pa pb => some (pForm { h := h } pd 6 fun e l => (e.p pa.toNat l && e.p pb.toNat l, 0))
  | .plog h .or pd pa pb => some (pForm { h := h } pd 6 fun e l => (e.p pa.toNat l || e.p pb.toNat l, 0))
  | .plog h .xor pd pa pb => some (pForm { h := h } pd 6 fun e l => (e.p pa.toNat l != e.p pb.toNat l, 0))
  | .pxfr h (.ps pd (.s n)) => some (pForm { h := h, a := some (.s n, false) } pd 6 fun e _ => (e.s n.toNat != 0, 0))
  | .pxfr h (.ps pd a) => some (pForm { h := h, a := some (a, false) } pd 6 fun e l => (e.src32 a l != 0, 0))
  | .pxfr h (.vp vd pa) =>
      some (dForm (infoOf h (.v vd) false none none []) (.v vd) false 6 fun e l => if e.p pa.toNat l then 1 else 0)
  | .pxfr h (.vs vd a) =>
      some (dForm (infoOf h (.v vd) false none none []) (.v vd) false 6 fun e _ => if e.simm a != 0 then 1 else 0)
  | .poll h .all (.p pd) pa => some (pForm { h := h } pd 6 fun e _ => (e.poll pa == e.act, 0))
  | .poll h .some (.p pd) pa => some (pForm { h := h } pd 6 fun e _ => (e.poll pa != 0, 0))
  | .poll h .same (.p pd) pa => some (pForm { h := h } pd 6 fun e _ => (e.poll pa == e.act || e.poll pa == 0, 0))
  | .peers h t (.lead v) a =>
      some (dForm (infoOf h (.v v) false (some (a, t.wide)) none []) (.v v) false 6
        fun e l => ((lanesOf e.act).find? fun m => e.num t.wide a m == e.num t.wide a l).getD l)
  | .peers h t (.one p) a =>
      some (pForm { h := h, a := some (a, t.wide) } p 6
        fun e l => ((lanesOf e.act).all fun m => e.num t.wide a m == e.num t.wide a l, 0))
  | _ => none

/-- SREC, CSTAT and BATON.query: what the group or its team keeps, in the 6-cycle class (R224, R362, R365). -/
def statusForm (s : State) : Instr → Option LaneForm
  | .srec h d => some (dForm (infoOf h (.v d) false none none []) (.v d) false 6 fun e l => (mget e.grp.srec l 0xF).toNat)
  | .cstat h d c =>
      some (dForm { h := h, once := true } (.s d) false 6 fun e _ => (mget (myTeam s e).cstat c.toNat 0).toNat)
  | .batonQuery h d => some (dForm (engInfo h) (.s d) false 6 fun e _ => (myTeam s e).baton.getD 0xFF)
  | _ => none

/-- A variable-latency form with one destination D. -/
def vForm (i : Info) (d : Reg) (wide : Bool) (f : Env → Nat → Nat × Fl) : VarForm :=
  { info := i, vregs := dstRegs wide d,
    vals := fun e => match d with
      | .v n => runVals wide n.toNat ((lanesOf e.act).map fun l => (l, (f e l).1))
      | .s _ => [],
    sreg := fun e => match d with
      | .v _ => none
      | .s n => if e.mayS n.toNat then some (n.toNat, BitVec.ofNat 64 (f e oneLane).1) else none,
    fl := fun e => orFl ((e.calc d).map fun l => (f e l).2) }

/-- Classes 0x1 and 0x2. -/
def wholeForm (i : Instr) : Option LaneForm := (integerForm i).or ((carryForm i).or (bitForm i))

/-- Classes 0x3 and 0x4, moves, compares and predicates. -/
def floatMoveForm (i : Instr) : Option LaneForm := (floatForm i).or ((halfForm i).or (moveForm i))

/-- Division, the special functions, the cross-lane instructions and RDSYS (R301, R302, R318, R342 to R346). -/
def lateForm (s : State) : Instr → Option VarForm
  | .idiv h t d a b =>
      some (vForm (info2 h t d a b) d t.wide fun e l => (fit t false (divRem t (e.int t a l) (e.int t b l)).1, 0))
  | .irem h t d a b =>
      some (vForm (info2 h t d a b) d t.wide fun e l => (fit t false (divRem t (e.int t a l) (e.int t b l)).2, 0))
  | .frcp h r d a => one h d a (fRcp r)
  | .frsq h d a => one h d a fRsq
  | .fsqrt h r d a => one h d a (fSqrt r)
  | .fexp2 h d a => one h d a (fSpecial 1)
  | .flog2 h d a => one h d a (fSpecial 2)
  | .fsin h d a => one h d a (fSpecial 3)
  | .fcos h d a => one h d a (fSpecial 4)
  | .ftanh h d a => one h d a (fSpecial 5)
  | .lxch h t m d a b =>
      some (vForm (infoOf h (.v d) t.wide (some (a, t.wide)) (some (b, false)) []) (.v d) t.wide fun e l =>
        (e.num t.wide a (if inLanes e.act (lxchSrc m l (e.num false b l)) then lxchSrc m l (e.num false b l) else l), 0))
  | .redux h t op r d a => some (vForm (redInfo h t d a) d t.wide fun e _ => e.runningLast t op r a)
  | .scan h t op r d a => some (vForm (redInfo h t (.v d) a) (.v d) t.wide fun e l => e.runningAt t op r a l)
  | .rdsys h d wide num axis =>
      some (vForm (infoOf h d (wide && Reg.isV d) none none []) d wide fun e l =>
        ((specialReg s e.g e.grp num.toNat axis.toNat l).toNat, 0))
  | _ => none
where
  one (h : Hdr) (d : Reg) (a : Src) (f : Bool → Nat → Nat × Fl) : Option VarForm :=
    some (vForm (info1 h .f32 d a) d false fun e l => f e.ftz (e.fnum .f32 a l))

/-! ### Instructions complete at issue -/

/-- An instruction that is complete at issue (R271): where each lane goes, what changes in the group, and what it asks of the
operands to have that effect. -/
structure PromptForm where
  info : Info
  dsts   : Env → Nat → Pc × Wait
  eff  : Env → Group → Group := fun _ x => x
  ok   : Env → Prop := fun _ => True

/-- Branches, NOP, WAITF, UIVEC and WRSYS (R287, R289, R291, R294, R303). -/
def promptForm : Instr → Option PromptForm
  | .nop h => if h.set = 15 then some { info := { h := h }, dsts := fun e _ => (nextPc e.pc h.sp, .run) } else none
  | .bra h off => some { info := { h := h }, dsts := fun e => parted e h fun _ => (e.pc + off, .run) }
  | .brx h a => some (indirect h a)
  | .ret h a => some (indirect h a)
  | .waitf h => some { info := { h := h, once := true }, dsts := fun e _ => (nextPc e.pc h.sp, .run) }
  | .uivec h a =>
      some { info := { h := h, once := true }, dsts := fun e _ => (nextPc e.pc h.sp, .run),
             eff := fun e x => { x with uiVec := (e.simm a).setWidth 16 }, ok := fun e => (e.simm a).toNat ≤ 0xFFFF }
  | .wrsys h num a =>
      some { info := { h := h, once := true }, dsts := fun e _ => (nextPc e.pc h.sp, .run),
             eff := fun e x =>
               if num.toNat = 16 then { x with prio := (e.simm a).setWidth 4 }
               else if num.toNat = 17 then { x with fstat := e.simm a &&& 0x11F }
               else if num.toNat = 18 then { x with mstat := e.simm a &&& 0xF }
               else { x with uiEn := bit (e.simm a) 0, uiOvf := bit (e.simm a) 1 } }
  | _ => none
where
  /-- Each lane goes to the word that its lane of A names, or all of them to the word that sA names. -/
  indirect (h : Hdr) (a : Reg) : PromptForm :=
    match a with
    | .v n => { info := { h := h, a := some (.v n, false) }, dsts := fun e => parted e h fun l => (e.v n.toNat l, .run) }
    | .s n => { info := { h := h, a := some (.s n, false) },
                dsts := fun e => parted e h fun _ => ((e.s n.toNat).setWidth 32, .run) }

/-! ### The stream issued, and then an effect -/

/-- Where the lanes of a stream go: on at the next word. -/
def nextWord (i : Info) (e : Env) : List Dest := [(nextPc e.pc i.h.sp, .run, e.lanes)]

/-- The stream under way `c` of group `x` may issue an instruction that names `i`; `e` is what it sees, and `post` the machine
with the stream issued and its lanes at `to`: what `post` is, the statement IssueMoves says. -/
structure Goes (s : State) (c : Cur) (x : Group) (i : Info) (dsts : Env → List Dest) (e : Env) (post : State) : Prop where
  may  : MayIssue s c x i
  env  : e = issueEnv s c x i.h
  post : post = afterIssue s c x i e (dsts e)

/-- The release at scope `sc` of the group in slot `g` is complete at once, and `u` is the issued machine `post` with it done
(R191, R201). -/
def ReleasedTo (pre post : State) (g : Nat) (sc : Scope) (u : State) : Prop :=
  ∃ v x y w, release pre g sc = (true, v) ∧ groupAt pre g = some x ∧ groupAt post g = some y ∧ groupAt v g = some w ∧
    u = { setGroup v g { y with
      storeq := w.storeq
      f := (List.range 12).map fun n => (n, flagOf y n - (flagOf x n - flagOf w n)) } with cur := none }

/-- RJSET, RJCLR and RJOIN (R292): the register, where the lanes go, and what the register becomes. -/
structure JoinForm where
  h   : Hdr
  k   : BitVec 3
  dsts  : Env → List Dest
  put : LaneMask → Join → Join
  /-- The join completes with no lane waiting: an RJOIN that finds MASK empty (R142, R145). -/
  ends : LaneMask → Join → Bool := fun _ _ => false

def joinForm : Instr → Option JoinForm
  | .rjset h k => some { h := h, k := k, dsts := nextWord { h := h }, put := fun m j => { j with mask := j.mask ||| m } }
  | .rjclr h k =>
      some { h := h, k := k, dsts := nextWord { h := h },
             put := fun m j => { mask := j.mask &&& ~~~ m, arrived := j.arrived &&& ~~~ m } }
  | .rjoin h k =>
      some { h := h, k := k,
             dsts := fun e =>
               [(nextPc e.pc h.sp, .join k, (mget e.grp.j k.toNat {}).mask &&& e.act),
                (nextPc e.pc h.sp, .run, e.lanes &&& ~~~ ((mget e.grp.j k.toNat {}).mask &&& e.act))],
             put := fun m j => { j with arrived := j.arrived ||| (j.mask &&& m) }, ends := fun m j => m != 0 && j.mask == 0 }
  | _ => none

/-- The group `z` is `w` after the join `k` has been tested (R142): where the pending set is empty while a lane waits, every lane
that waits runs on at its word and the register clears; otherwise nothing happens. -/
structure JoinTested (w z : Group) (k : Nat) : Prop where
  keeps   : z = { w with paths := z.paths, j := z.j, f := z.f, stall := z.stall }
  idle    : ¬ (waitsOn w k = true ∧ pending w (mget w.j k {}) = 0) → z.paths = w.paths ∧ z.j = w.j ∧ z.stall = w.stall
  opens   : (waitsOn w k = true ∧ pending w (mget w.j k {}) = 0) →
    (∀ n, mget z.j n {} = if n = k then {} else mget w.j n {}) ∧ z.stall = 0 ∧
    ∀ l pc wt, Placed z.paths l pc wt ↔
      (Placed w.paths l pc wt ∧ ∀ i : BitVec 3, i.toNat = k → wt ≠ .join i) ∨
        (wt = .run ∧ ∃ i : BitVec 3, i.toNat = k ∧ Placed w.paths l pc (.join i))

/-! ### The invariant of every step -/

/-- Between steps no issue is under way, and a group whose lanes have all exited keeps its slot only while an operation of its own
is outstanding (R154). -/
def Settled (s : State) : Prop :=
  s.cur = none ∧ ∀ p, p ∈ s.groups → p.2.done = true → outstanding s p.1 p.2 = true

end Sys2Proof.Machine

namespace Sys2Proof

/-- The machine goes on: a step has a next state. -/
def Machine.goesOn (s : Machine.State) : Prop := ∃ t, Machine.step s = .next t

end Sys2Proof
end

