-- ==== Sys2Proof/Certificates/Slice0/Obligations.lean ====
section
/-! DEFINITION. The statements for the provers. -/

open Host Sys2Proof Sys2Proof.Machine

/-- O1: Eight words written from the encoding tables decode to ICMP, MMA, BATON.pass, APXB, SINK, WRSYS, EXIT and a LIVE word
(R264, R266, R272, R276, R280). -/
def Obligations.DecodedWords : Prop :=
  decode 0x51080101_4648C000_0203000F#96
      = .ok (.icmp { guard := 2, fe := 0, sp := false, dist := 3, wait := 0, set := 15 } .s32 .lt 1 (.v 5) (.imm 100)) ∧
    decode 0xA11C0705_00090000_00000006#96
      = .ok (.mma { guard := 7, fe := 0, sp := false, dist := 0, wait := 0, set := 6 } false false 20 7) ∧
    decode 0xA21C0000_00000000_0100000F#96
      = .ok (.batonPass { guard := 7, fe := 0, sp := false, dist := 0, wait := 0, set := 15 }) ∧
    decode 0xC01C1805_0110C010_0400000F#96
      = .ok (.apxb { guard := 7, fe := 0, sp := false, dist := 0, wait := 0, set := 15 } (.imm 17) 20 1 24 0 4) ∧
    decode 0x801C0000_00000030_00000004#96
      = .ok (.sink { guard := 7, fe := 0, sp := false, dist := 0, wait := 0, set := 4 } 3) ∧
    decode 0x52DC1100_C00D0000_0000000F#96
      = .ok (.wrsys { guard := 7, fe := 0, sp := false, dist := 0, wait := 0, set := 15 } 17 (.s 3)) ∧
    decode 0x015C0000_00000000_0000000F#96
      = .ok (.exit { guard := 7, fe := 0, sp := false, dist := 0, wait := 0, set := 15 }) ∧
    decode 0xFF000000_00000000_00000000#96 = .ok (.liveExec 0xFF000000_00000000_00000000#96)

/-- O2: For every well-formed instruction that has a word, with every operand at every value its encoding admits, decoding the
word gives the instruction (R264, R266, R267, R269, R272, R273, R274, R276, R280). -/
def Obligations.DecodeEncode : Prop :=
  ∀ (i : Instr) (w : IWord), i.wf = true → encode i = some w → decode w = .ok i

/-- O3: A word that decodes is the word that its instruction encodes to: the decoder drops no bit of a word that it accepts
(R264, R266, R269, R275). -/
def Obligations.EncodeDecode : Prop :=
  ∀ (w : IWord) (i : Instr), decode w = .ok i → encode i = some w

/-- O4: In an issue turn of a quarter whose one group has one ready path, a word that is fetched and decodes to an instruction
is executed by exec, with the slot accounted for around it: the turn of the quarter is taken and the group's age starts anew, the
events of the word count for the controller of its cluster (log entry 28), a vector slot holds its pipe, and what an overrun of a park
request (log entries 23 and 29), the step of a debugger and the end of every step bring about follows (R117, R119, R138, R149, R275). -/
def Obligations.StepRunsDecoded : Prop :=
  ∀ (s s1 s2 u t : State) (core quarter g : Nat) (rest : List Turn) (x : Group) (p : Path) (w n : IWord) (away : Option (Option (Nat × DWord × DWord)))
    (i : Instr) (c : Cur),
    s.agenda = .issue core quarter :: rest →
    s1 = { s with agenda := rest, cur := none } →
    s2 = modGroup (modCore s1 core fun k => { k with qlast := mput k.qlast quarter k.cycle }) g
      (fun y => { y with age := 0, elig := (coreAt s1 core).cycle }) →
    core < 512 → quarter < 4 → (flaskAt s1 (coreFlask core)).gated = false →
    mget? (coreAt s1 core).qlast quarter ≠ some (coreAt s1 core).cycle →
    quarterGroups s1 core quarter = [g] → groupAt s1 g = some x →
    mayIssue x = true → x.stepPc = none → openPaths x = [p] → x.poison = none → uiPath x = none → x.causes = [] →
    fetchFor s1 g x p.pc = .ok w n away → decode w = .ok i → breaks s1 g x p w = false →
    (vecWord w = true → pipeFree s1 g x = true) →
    c = { g := g, pc := p.pc, lanes := p.lanes, word := w, next := n, away := away } →
    exec i { s1 with cur := some c } = .next u → u.cur = none →
    exec i { s2 with cur := some c } = .next t → t.cur = none →
    step s = .next (sweep (
      if atTrapped t g x.uid = true then t
      else let v := tallyWord (trapOver s2 t g x p w) g x p w
        stepStop (overrunStop (if vecWord w = true then takePipe v g p.lanes else v) g) g p.lanes))

/-- O5: After every step that has a next state no issue is under way, and a group whose lanes have all exited keeps its slot
only while an operation of its own is outstanding (R154). -/
def Obligations.StepSettles : Prop :=
  ∀ s t : State, Settled s → step s = .next t → Settled t

/-- O6: The machine right after reset meets the invariant of every step (R154). -/
def Obligations.ResetSettled : Prop :=
  Settled State.reset

/-- O7: After reset the device identifier, the power, clock, fabric and key registers read the values their tables give, memory
is empty, the drone is 0, and no group, team, task or operation exists; that the drone starts at 0 and that memory lists nothing is the
model's choice (log entries 3 and 6) (R4, R11, R28, R35, R38, R46, R58, R63, R120, R146). -/
def Obligations.ResetRegisters : Prop :=
  (∀ fl, fl < 32 →
      sysRead State.reset (sel 1 fl) = 0x4004 ∧ sysRead State.reset (sel 2 fl) = 0x888444222111 ∧
      sysFld State.reset (sel 3 fl) 0 8 = 32 ∧ sysFld State.reset (sel 13 fl) 0 4 = 15 ∧
      sysVal State.reset (sel 14 fl) = 65536 ∧ sysVal State.reset (sel 16 fl) = 1048576 ∧
      sysFld State.reset (sel 15 fl) 0 32 = 2048) ∧
    (∀ c, c < 128 → sysVal State.reset (sel 6 c) = 52500 ∧ sysFld State.reset (sel 9 c) 32 16 = 52500 ∧
      sysFld State.reset (sel 9 c) 0 10 = 48) ∧
    (∀ p, p < 12 → sysVal State.reset (sel 4 p) = 0xF00) ∧
    (∀ id, id < 4096 → sysFld State.reset (sel 18 id) 0 2 = if id = 0 then 1 else 0) ∧
    fld (sysVal State.reset (sel 0 0)) 48 16 = 0x4B4D ∧ fld (sysVal State.reset (sel 0 0)) 32 16 = 0x3251 ∧
    State.reset.droneE = 0 ∧ State.reset.mem = [] ∧ Memory.wf State.reset.mem = true ∧ State.reset.groups = [] ∧
    State.reset.teams = [] ∧ State.reset.tasks = [] ∧ State.reset.results = [] ∧ State.reset.cur = none

/-- O8: IADD, ISUB, IMUL, IMULH, IMAD, IMIN, IMAX, IABS, INEG, IDP4, IDP2 and IADD3 write the exact result wrapped, or saturated
under .sat, to D; IADDC and ISUBB the sum or difference with the carry in of pk, and the carry out or borrow to pk; AND, OR,
XOR, ANDN, NOT, BMIX3, the shifts and rotates, DSHR, ONES, CLZ, CTZ, BREV, FXTR, FINS, CLMUL, CLMULH and BSEL their result to D:
in the lanes whose guard is true; every other register, predicate, flag, slot, byte and control register is as before, and the
lanes of the stream stand at the next word; bits 63 to 32 of an s register that takes 32 bits are the model's choice (log entry 11)
(R151, R265, R267, R315, R316, R317, R319, R320, R322, R323, R324, R325). -/
def Obligations.IntegerResults : Prop :=
  ∀ (s : State) (c : Cur) (x : Group) (i : Instr) (φ : LaneForm), wholeForm i = some φ → MayIssue s c x φ.info →
    ∃ t, exec i s = .next t ∧ LaneDone s t c x φ

/-- O9: FADD, FSUB, FMUL, FFMA, FMIN, FMAX, FRND, FSCALE, FCLASS, FABS, FNEG, FCPYS, HADD2, HMUL2, HFMA2, HMIN2, HMAX2, CVT,
CVTPK, QBLK and DQBLK write the rounded result to D and the flags of FSTAT follow with it; MOV, MOVI, MOVH, SEL and PEERS write
D, and ICMP, FCMP, PLOG, PXFR and POLL their predicate: in the lanes whose guard is true; every other register, predicate, flag,
slot, byte and control register is as before, and the lanes of the stream stand at the next word; the flags of a saturated infinity and
bf16 immediates that are not exact (log entry 10), bits 63 to 32 of an s register (log entry 11) and QBLK of type code 00 (log entry 15)
are the model's choice (R151, R209, R265, R296, R297,
R298, R329, R330, R331, R335, R336, R337). -/
def Obligations.FloatResults : Prop :=
  ∀ (s : State) (c : Cur) (x : Group) (i : Instr) (φ : LaneForm), floatMoveForm i = some φ → MayIssue s c x φ.info →
    ∃ t, exec i s = .next t ∧ LaneDone s t c x φ

/-- O10: SREC writes the sink status of each lane, CSTAT the status of the latest CLD of the team, BATON.query the wave that
holds the baton or 0xFF; every other register, predicate, flag, slot, byte and control register is as before, and the lanes of
the stream stand at the next word (R151, R224, R265, R362, R365). -/
def Obligations.StatusResults : Prop :=
  ∀ (s : State) (c : Cur) (x : Group) (i : Instr) (φ : LaneForm), statusForm s i = some φ → MayIssue s c x φ.info →
    ∃ t, exec i s = .next t ∧ LaneDone s t c x φ

/-- O11: A variable-latency instruction whose stream may issue issues: the v registers of D are empty for the whole group, and
the result that will fill them is under way with the values of the lanes whose guard is true; every register, predicate, slot,
byte and control register is as before; special functions (log entry 22), FRCP beyond the largest number (log entry 10), bits 63 to 32
of an s register (log entry 11) and RDSYS of a group without a grid (log entry 15) are the model's choice (R152, R265, R301, R302, R318, R342, R343, R344, R345, R346). -/
def Obligations.LateResults : Prop :=
  ∀ (s : State) (c : Cur) (x : Group) (i : Instr) (φ : VarForm), lateForm s i = some φ → MayIssue s c x φ.info →
    ∃ t, exec i s = .next t ∧ VarDone s t c x φ

/-- O12: POLL.mask writes the set of lanes whose guard and predicate are true to an s pair, unless stream A of the slot has
written it, and the flag that SET names falls six cycles later; the machine is otherwise as the issue leaves it (R149, R299). -/
def Obligations.PollMask : Prop :=
  ∀ (s : State) (c : Cur) (x y : Group) (h : Hdr) (n : BitVec 6) (pa : BitVec 3) (e : Env) (post : State) (T : LaneMask),
    Goes s c x { h := h, once := true } (nextWord { h := h, once := true }) e post → groupAt post c.g = some y →
    (∀ l, inLanes T l = true ↔ (inLanes e.act l = true ∧ e.p pa.toNat l = true)) →
    ∃ t z, exec (.poll h .mask (.s n) pa) s = .next t ∧ t = { post with groups := t.groups, nextUid := t.nextUid, results := post.results ++
          if e.act ≠ 0 ∧ h.set.toNat < 12 then
            [{ id := post.nextUid, uid := e.grp.uid, sig := .grp e.grp.uid h.set.toNat, due := some (e.cyc + 6) }]
          else [] } ∧ OthersKept post t c.g ∧
      groupAt t c.g = some z ∧ z = { y with s := z.s, recents := z.recents } ∧
      (∀ k, sRaw z k = if e.act = 0 ∨ e.mayS k = false then sRaw y k
        else if k = n.toNat + 1 then T.extractLsb' 64 64 else if k = n.toNat then T.extractLsb' 0 64 else sRaw y k)

/-- O13: NOP, BRA, BRX, RET, WAITF, UIVEC and WRSYS are complete at issue: each lane of the stream stands where the instruction
sends it, the interrupt vector or the special register holds the value written, the flag that SET names is as before, and no
other lane, register, slot, byte or control register has changed (R271, R285, R287, R289, R291, R294, R303). -/
def Obligations.PromptResults : Prop :=
  ∀ (s : State) (c : Cur) (x : Group) (i : Instr) (φ : PromptForm) (e : Env), promptForm i = some φ → MayIssue s c x φ.info →
    e = issueEnv s c x φ.info.h → (actsIn e φ.info = true → φ.ok e) →
    ∃ t, exec i s = .next t ∧ Issued s t c x (if actsIn e φ.info = true then φ.eff e x else x) φ.info (φ.dsts e)

/-- O14: When a stream issues, the lanes of the stream stand where the instruction sends them, no other lane has moved, the flag
that SET names has counted up where the instruction acts, queues are popped only where it names one, and nothing else of the
machine has changed (R126, R137, R152, R265). -/
def Obligations.IssueMoves : Prop :=
  ∀ (s : State) (c : Cur) (x : Group) (i : Info) (dsts : Env → List Dest) (e : Env) (post : State), Goes s c x i dsts e post →
    post = { s with cur := none, groups := post.groups, free := s.free + 1 } ∧ OthersKept s post c.g ∧
    ∃ y, groupAt post c.g = some y ∧ y = x.movedAs y ∧ Counted e i x y ∧ QueuesKept i x y ∧
      (∀ q, q ∈ y.recents → q ∈ x.recents) ∧
      (∀ l pc w, Placed y.paths l pc w ↔
        (Placed x.paths l pc w ∧ inLanes c.lanes l = false) ∨ ∃ d, d ∈ dsts e ∧ inLanes d.2.2 l = true ∧ d.1 = pc ∧ d.2.1 = w)

/-- O15: The event VARIABLE_LATENCY_RESULT of a resident group writes the lane values and the s register, marks the v registers
full, counts down the flag that SET named and drops the result; a value for a place that a fixed-latency result has yet to reach
leaves that result standing, which comes later; registers that the result does not name are as before (R151, R152, R209). -/
def Obligations.ResultArrives : Prop :=
  ∀ (s : State) (id g : Nat) (r : Res) (x : Group),
    Rising s.groups → s.results.find? (fun q => q.id == id && q.due.isNone) = some r → r.pvals = [] →
    (∀ p, p ∈ s.parked → p.g.uid ≠ r.uid) → slotOf s r.uid = some g → groupAt s g = some x →
    (r.sig = .none ∨ ∃ k, r.sig = .grp r.uid k) → (r.vals.map (·.1)).Nodup →
    ∃ t y, exec (.variableLatencyResult id) s = .next t ∧ groupAt t g = some y ∧ OthersKept s t g ∧
      t = { s with results := s.results.filter (fun q => q.id != r.id), groups := t.groups } ∧
      y = { x with v := y.v, s := y.s, f := y.f, empt := x.empt.filter (fun k => !r.vregs.contains k), fstat := x.fstat ||| r.fl,
                   recents := y.recents } ∧
      (∀ p, p ∈ r.vals → vRaw y (p.1 / 128) (p.1 % 128) =
        if StillDue s g x 0 (p.1 / 128) (p.1 % 128) then vRaw x (p.1 / 128) (p.1 % 128) else p.2) ∧
      (∀ k l, l < 128 → 128 * k + l ∉ r.vals.map (·.1) → vRaw y k l = vRaw x k l) ∧
      (∀ k, sRaw y k = match r.sreg with
        | some q => if k = q.1 ∧ ¬ StillDue s g x 1 k 0 then q.2 else sRaw x k
        | none => sRaw x k) ∧
      (∀ q, q ∈ y.recents → ∃ p, p ∈ x.recents ∧ q = { p with old := q.old }) ∧
      (∀ k, flagOf y k = if r.sig = .grp r.uid k then flagOf x k - 1 else flagOf x k)

/-- O16: RJSET adds the lanes whose guard is true to the mask of its register, RJCLR takes them out of mask and arrivals, RJOIN
makes those of the mask arrive and wait at the next word, and one that finds the mask empty ends the watchdog's count; then the join is
tested, and the flag that SET names is as before (R141, R142, R145, R265, R292). -/
def Obligations.RejoinResults : Prop :=
  ∀ (s : State) (c : Cur) (x y : Group) (i : Instr) (φ : JoinForm) (e : Env) (post : State),
    joinForm i = some φ → Goes s c x { h := φ.h } φ.dsts e post → groupAt post c.g = some y →
    ∃ t z, exec i s = .next t ∧ t = { post with groups := t.groups } ∧ OthersKept post t c.g ∧ groupAt t c.g = some z ∧
      JoinTested { y with
        j := mput y.j φ.k.toNat (φ.put e.act (mget y.j φ.k.toNat {}))
        stall := if φ.ends e.act (mget y.j φ.k.toNat {}) = true then 0 else y.stall } z φ.k.toNat ∧
      (∀ k, flagOf z k = flagOf x k)

/-- O17: YIELD holds its path for n compute cycles after this one; CALL sends the lanes whose guard is true to PC + offset and
writes the next word to the link register of those lanes, every other register as before; that n cycles lie between is log entry 23
(R284, R287, R290). -/
def Obligations.YieldCallResults : Prop :=
  ∀ (s : State) (c : Cur) (x y : Group) (h : Hdr) (e : Env) (post : State), groupAt post c.g = some y →
    (∀ n : BitVec 10, Goes s c x { h := h, once := true } (nextWord { h := h }) e post →
      ∃ t z, exec (.yield h n) s = .next t ∧ t = { post with groups := t.groups } ∧ OthersKept post t c.g ∧
        groupAt t c.g = some z ∧ z = { y with paths := z.paths, f := z.f } ∧ (∀ k, flagOf z k = flagOf x k) ∧
        z.paths = y.paths.map (fun p =>
          if e.act ≠ 0 ∧ p.lanes &&& c.lanes ≠ 0 then { p with ready := e.cyc + n.toNat + 1 } else p)) ∧
    (∀ off : BitVec 32, Goes s c x { h := h, vw := [regCount x - 1] } (splitTo { h := h } (fun e => e.pc + off) fun _ => .run) e post →
      ∃ t z, exec (.call h off) s = .next t ∧ OthersKept post t c.g ∧ groupAt t c.g = some z ∧
        t = { post with groups := t.groups, nextUid := t.nextUid, results := post.results ++
          if h.set.toNat < 12 then
            [{ id := post.nextUid, uid := x.uid, sig := .grp x.uid h.set.toNat, due := some (e.cyc + 6) }] else [] } ∧
        z = { y with v := z.v, recents := z.recents } ∧
        (∀ r l, l < 128 → vRaw z r l = if r = regCount x - 1 ∧ inLanes e.act l = true then nextPc e.pc h.sp else vRaw y r l))

/-- O18: EXIT ends the lanes whose guard is true: they stand nowhere, their open regions are closed, they are in no rejoin mask, and lanes
of the group that run stay where they are, with every register as before; where only lanes that wait stay alive, a join or the team's
barrier that this completes lets them go on; where they are the last lanes, the group retires after its release at dev scope, which is
log entry 19 (R95, R143, R154, R288). -/
def Obligations.ExitEnds : Prop :=
  ∀ (s : State) (c : Cur) (x y : Group) (h : Hdr) (e : Env) (post : State),
    Goes s c x { h := h } (nextWord { h := h }) e post → groupAt post c.g = some y → y.done = false →
    (∀ l0 pc0, aliveLanes e.grp &&& ~~~ e.act ≠ 0 → Placed y.paths l0 pc0 .run → inLanes e.act l0 = false →
      ∃ t z, exec (.exit h) s = .next t ∧ t = { post with groups := t.groups } ∧ OthersKept post t c.g ∧
        groupAt t c.g = some z ∧ (∀ k, flagOf z k = flagOf x k) ∧
        z = { y with paths := z.paths, j := z.j, f := z.f, stall := z.stall, uiAct := z.uiAct, uiSet := z.uiSet,
                     apx := y.apx.filter (fun p => !inLanes e.act p.1) } ∧
        (∀ l pc w, inLanes e.act l = true → ¬ Placed z.paths l pc w) ∧ (∀ n, (mget z.j n {}).mask &&& e.act = 0) ∧
        (∀ l pc, inLanes e.act l = false → Placed y.paths l pc .run → Placed z.paths l pc .run)) ∧
    (e.act ≠ 0 → aliveLanes e.grp &&& ~~~ e.act ≠ 0 → exec (.exit h) s = .next (exitLanes (atOnce post e h) c.g e.act)) ∧
    (aliveLanes e.grp &&& ~~~ e.act = 0 →
      exec (.exit h) s = .next (afterRelease e { s with free := s.free + 1 } post .dev fun u => exitLanes (atOnce u e h) c.g e.act))

/-- O19: UIRET outside a handler traps with RESERVED_FIELD once its DIST and WAIT are met; in a handler its lanes whose guard is true park,
and once every lane of the handler set has parked or exited they stand at the saved word, running or, where the path that took the
tag waited there for the reply of an APXB, waiting for it (log entry 25), the other paths are no longer frozen and the handler is
over (R275, R295). -/
def Obligations.InterruptReturn : Prop :=
  ∀ (s : State) (c : Cur) (x y : Group) (h : Hdr) (e : Env) (post : State),
    (s.cur = some c → groupAt s c.g = some x → distMet s c x h.dist.toNat = true → waitMet (c.flags x) h.wait = true → x.uiAct = false →
      exec (.uiret h) s = .next (takeTrap s c.g
        { code := 0x02, lanes := (issueEnv s c x h).act, aux := c.word.extractLsb' 32 64 } c.pc)) ∧
    (Goes s c x { h := h } (splitTo { h := h } (fun e => e.pc) fun _ => .uiret) e post → groupAt post c.g = some y →
      x.uiAct = true → ∃ t z, exec (.uiret h) s = .next t ∧ t = { post with groups := t.groups } ∧ OthersKept post t c.g ∧
      groupAt t c.g = some z ∧ (∀ k, flagOf z k = flagOf x k) ∧
      z = { y with paths := z.paths, f := z.f, uiAct := z.uiAct, uiSet := z.uiSet } ∧
      ((∃ l, inLanes y.uiSet l = true ∧ (∃ pc w, Placed y.paths l pc w) ∧ ∀ pc, ¬ Placed y.paths l pc .uiret) →
        z.paths = y.paths ∧ z.uiAct = true ∧ z.uiSet = y.uiSet) ∧
      ((∀ l, inLanes y.uiSet l = true → (∃ pc w, Placed y.paths l pc w) → ∃ pc, Placed y.paths l pc .uiret) →
        z.uiAct = false ∧ z.uiSet = 0 ∧
        ∀ l pc w, Placed z.paths l pc w ↔
          (Placed y.paths l pc w ∧ w ≠ .uiret) ∨ (pc = y.uiPc ∧ w = y.uiWait ∧ ∃ pc', Placed y.paths l pc' .uiret)))

/-- O20: TRAP stops the group after it with SOFTWARE and its operand in AUX; BKPT stops it at the word with BREAKPOINT and 0xFF;
a word with an unassigned opcode stops it with ILLEGAL_OPCODE and word bits 95 to 32 in AUX once its DIST and WAIT are met (log entry
16, for the lanes that it names too); a LIVE word reached as an instruction stops it with LIVE_EXEC and the word that led there in AUX; a UIVEC value above 0xFFFF stops
it with ADDRESS_RANGE (R156, R244, R249, R275, R293, R294). -/
def Obligations.TrapInstructions : Prop :=
  ∀ (s : State) (c : Cur) (x y : Group) (h : Hdr) (e : Env) (post : State) (w : IWord),
    (Goes s c x { h := h, once := true } (nextWord { h := h }) e post → e.act ≠ 0 →
      (∀ a, exec (.trap h a) s = .next (takeTrap (atOnce post e h) c.g { code := 0x09, lanes := e.act, aux := e.simm a }
        (nextPc c.pc h.sp))) ∧
      exec (.bkpt h) s = .next (takeTrap (modGroup { s with free := s.free + 1 } c.g fun q => { q with bkptSp := h.sp }) c.g
        { code := 0x0A, lanes := e.act, aux := 0xFF } c.pc) ∧
      (∀ a, 0xFFFF < (e.simm a).toNat → exec (.uivec h a) s =
        .next (takeTrap { s with free := s.free + 1 } c.g { code := 0x18, lanes := e.act } c.pc))) ∧
    (s.cur = some c → groupAt s c.g = some y → distMet s c y (Fields.ofWord w).dist.toNat = true →
      waitMet (c.flags y) (Fields.ofWord w).wait = true →
      exec (.illegalOpcode w) s = .next (takeTrap s c.g
        { code := 0x01, lanes := refusedLanes s c y (Fields.ofWord w), aux := w.extractLsb' 32 64 } c.pc)) ∧
    (∀ p, s.cur = some c → groupAt s c.g = some y → isLive w = true → distMet s c y 0 = true →
      y.paths.find? (fun p => p.pc == c.pc && p.lanes &&& c.lanes != 0) = some p →
      exec (.liveExec w) s = .next (takeTrap s c.g { code := 0x03, lanes := c.lanes, aux := p.via.setWidth 64 } c.pc))

/-- O21: Taking a trap stops the group in the slot with a stop that holds the code, the word, the lanes, ADDR, AUX, WORD, ORIGIN
and the drone of its flask, with FLAGS[1] set where every path stands at a safe point; a park request and a debugger step are
absorbed; every other slot, byte, register and team is as before; then the stop is finished (R245, R247, R248, R251). -/
def Obligations.TrapStopsGroup : Prop :=
  ∀ (s : State) (g : Nat) (k : Cause) (pc : Pc) (x : Group), groupAt s g = some x →
    (∀ t, teamOf s x.team = some t → migPending s t = false ∧ t.moving = false) →
    ((k.code = 0x0A ∨ k.code = 0x0B) → sysFld s (sel 27 (slotCore g)) 3 1 = 0) →
    ∃ t, takeTrap s g k pc = finishStop t g ∧ t = { s with cur := none, groups := t.groups } ∧ OthersKept s t g ∧
      groupAt t g = some { x with
        park := none, stepPc := none, stepAll := false,
        stop := some { code := k.code, pc := pc, lanes := k.lanes, addr := k.addr, aux := k.aux, word := k.word,
                       origin := k.origin, drone := BitVec.ofNat 64 (flaskDrone s (coreFlask (slotCore g))),
                       flags := if grpSafe x then 2 else 0 } }

/-- O22: Once the release of a stopped group at dev scope is complete, nothing keeps it from being saved and the trap queue has
room, its image is written, its record goes to the trap queue of its context, its slot is free and it is parked with its code,
word and lanes; until the release is complete or the group can be saved, it stays stopped in its slot, which is log entry 18 (R197, R246, R247). -/
def Obligations.StopSavesGroup : Prop :=
  ∀ (s u v : State) (g : Nat) (x y : Group) (st : Stop) (ok : Bool), groupAt s g = some x → x.stop = some st →
    u = settleFixed (stopStreams (dropReplies (endBurst s g) g) g) x.uid → release u g .dev = (ok, v) → groupAt v g = some y →
    ((ok = false ∨ saveReady v y (st.flags / 2 % 2 == 1) = false) → finishStop s g = v) ∧
    (∀ (w z : State) (b : Bool), ok = true → saveReady v y (st.flags / 2 % 2 == 1) = true →
      writeImage v g { y with recents := [] } st (st.flags / 2 % 2 == 1) = (some b, w) →
      queuePut w (4 + y.ctx) (recordBytes v g { y with recents := [] } { st with flags := st.flags + if b then 1 else 0 }) = some z →
      finishStop s g = parkAs z g { y with recents := [] } b st none (st.flags / 2 % 2 == 1)) ∧
    (∀ (w : State) (b : Bool), ok = true → saveReady v y (st.flags / 2 % 2 == 1) = true →
      writeImage v g { y with recents := [] } st (st.flags / 2 % 2 == 1) = (some b, w) →
      queuePut w (4 + y.ctx) (recordBytes v g { y with recents := [] } { st with flags := st.flags + if b then 1 else 0 }) = none →
      finishStop s g = v)

/-- O23: The record has 64 bytes, and each field of the table stands at its offset (R248). -/
def Obligations.RecordLayout : Prop :=
  ∀ (s : State) (g : Nat) (x : Group) (st : Stop) (t : Team), teamOf s x.team = some t → g < 32768 → st.code < 256 → x.ctx < 256 →
    x.gid < 256 → st.flags < 256 → st.word < 256 → t.index < 2 ^ 32 → x.image < 2 ^ 32 →
    (recordBytes s g x st).length = 64 ∧
    bytesAt (recordBytes s g x st) 0x00 1 = st.code ∧ bytesAt (recordBytes s g x st) 0x01 1 = x.ctx ∧
    bytesAt (recordBytes s g x st) 0x02 2 = slotCore g ∧
    bytesAt (recordBytes s g x st) 0x04 1 = 16 * slotQuarter g + slotSlot g ∧
    bytesAt (recordBytes s g x st) 0x05 1 = x.gid ∧ bytesAt (recordBytes s g x st) 0x06 1 = st.flags ∧
    bytesAt (recordBytes s g x st) 0x07 1 = st.word ∧ bytesAt (recordBytes s g x st) 0x08 4 = st.pc.toNat ∧
    bytesAt (recordBytes s g x st) 0x0C 4 = t.index ∧ bytesAt (recordBytes s g x st) 0x10 16 = st.lanes.toNat ∧
    bytesAt (recordBytes s g x st) 0x20 8 = st.addr.toNat ∧ bytesAt (recordBytes s g x st) 0x28 8 = st.aux.toNat ∧
    bytesAt (recordBytes s g x st) 0x30 8 = st.drone.toNat ∧ bytesAt (recordBytes s g x st) 0x38 4 = x.image ∧
    bytesAt (recordBytes s g x st) 0x3C 4 = st.origin.toNat

/-- O24: With its DIST and WAIT met, a privileged instruction outside a system team of a privileged context traps with
PRIVILEGE, a v register outside the allocation, a case that its description names RESERVED_FIELD or an odd ring register under a 64-bit
queue source (log entry 15) with RESERVED_FIELD, an SP
instruction without a LIVE word with LIVE_MISSING, with one that breaks R244 with RESERVED_FIELD and with one that cannot be
fetched as the fetch says, then an unconfigured queue with QUEUE_CONFIG, an empty source under FE with EMPTY_READ; with DIST or
WAIT not met, a LIVE word on a page that is not resident (log entry 5), or an empty source without FE, the stream waits and the machine
is as before; LANES holds the lanes whose guard is true, or of an instruction of classes 0xA, 0xC and 0xD that acts once per stream
the lowest of them (R148, R151, R152, R244, R265, R270, R275). -/
def Obligations.GateStops : Prop :=
  ∀ (s : State) (c : Cur) (x : Group) (i : Info) (act : Env → State → State → State) (e : Env) (L : LaneMask),
    s.cur = some c → groupAt s c.g = some x → e = issueEnv s c x i.h →
    L = (if i.elect = true then e.act &&& (0 - e.act) else e.act) →
    ((distMet s c x i.h.dist.toNat = false ∨ waitMet (c.flags x) i.h.wait = false) → gate i s act = .next s) ∧
    (distMet s c x i.h.dist.toNat = true → waitMet (c.flags x) i.h.wait = true →
      ((i.priv = true ∧ grpPriv s x = false) →
        gate i s act = .next (takeTrap s c.g { code := 0x04, lanes := L } c.pc)) ∧
      ((i.priv = true → grpPriv s x = true) →
        ((∃ r, r ∈ i.reads x ++ i.vw ∧ regCount x ≤ r) →
          gate i s act = .next (takeTrap s c.g { code := 0x02, lanes := L, aux := c.word.extractLsb' 32 64 } c.pc)) ∧
        ((∀ r, r ∈ i.reads x ++ i.vw → r < regCount x) →
          ((i.bad = true ∨ oddPair x i.a = true ∨ oddPair x i.b = true) →
            gate i s act = .next (takeTrap s c.g { code := 0x02, lanes := L, aux := c.word.extractLsb' 32 64 } c.pc)) ∧
          (i.bad = false → oddPair x i.a = false → oddPair x i.b = false →
            (i.h.sp = true →
              (c.away = some none → gate i s act = .next s) ∧
              (∀ k ad ax, c.away = some (some (k, ad, ax)) →
                gate i s act = .next (takeTrap s c.g { code := k, lanes := c.lanes, addr := ad, aux := ax } c.pc)) ∧
              (c.away = none → isLive c.next = false →
                gate i s act = .next (takeTrap s c.g { code := 0x17, lanes := L, aux := c.next.extractLsb' 32 64 } c.pc)) ∧
              (c.away = none → isLive c.next = true → liveOk c.next (regCount x) = false →
                gate i s act = .next (takeTrap s c.g { code := 0x02, lanes := L, aux := c.word.extractLsb' 32 64 } c.pc))) ∧
            ((i.h.sp = true → c.away = none ∧ isLive c.next = true ∧ liveOk c.next (regCount x) = true) →
              (∀ k, i.queues = [k] → (ringOf x k).conf = false →
                gate i s act = .next (takeTrap s c.g { code := 0x15, lanes := L, aux := BitVec.ofNat 64 k } c.pc)) ∧
              (i.queues = [] → i.vw = [] → c.second = none →
                (∀ r, i.feReads x = [(r, true)] → r ∈ x.empt →
                  gate i s act = .next (takeTrap s c.g { code := 0x07, lanes := L, aux := BitVec.ofNat 64 r } c.pc)) ∧
                (∀ r, i.feReads x = [(r, false)] → r ∈ x.empt → gate i s act = .next s)))))))

/-- O25: Where every lane passes the checks of R350, no line is shadowed or poisoned and the older stores that a read at home
follows have drained, LD makes its D registers empty and has a result under way with the loaded value of each resident lane and
0 for each lane on a non-resident page, whose residency predicate is cleared; LDSC does the same once for its s register; an
acquire follows where the ordering asks for one (R152, R160, R170, R192, R350, R351, R352, R353). -/
def Obligations.LoadResults : Prop :=
  ∀ (s : State) (c : Cur) (x : Group) (h : Hdr) (t : Ty) (strong acq home : Bool) (sc : Scope) (e : Env) (post s1 s2 s3 : State)
    (accs : List LaneAcc) (vals : List (Nat × List Byte)),
    home = ((strong || acq) && sc != .core) → anyShadow s1 e.core (asidOf s1 x.ctx) home accs = false →
    ((home = true ∧ s2 = drainAll s1 c.g ∧ drained s2 c.g = true) ∨ (home = false ∧ s2 = s1)) →
    poisonedLanes s2 e.core (asidOf s2 x.ctx) home accs = [] →
    (∀ (d : BitVec 10) (m : MemRef), Goes s c x (memInfo h m.off [] (pairRegs t.wide d)) (nextWord { h := h }) e post →
      checkGlobal post e .read (strong || acq) home t.size (lanesOf e.act) (laneEa e m.base m.off m.disp t.size) = (.ok accs, s1) →
      readLanes s2 e home accs = (vals, s3) →
      exec (.ld h t strong acq sc d m) s = .next (acqIf (markPeer e home accs s2
        (varResult (clearRes s3 c.g m.pk.toNat (missing accs)) e h (pairRegs t.wide d)
          (laneVals t.wide d.toNat ((missing accs).map (fun l => (l, 0)) ++ vals.map fun v => (v.1, loadPat t v.2))) none 0 true
          (strong || acq))) e.core acq sc)) ∧
    (∀ (d base : BitVec 6) (disp : BitVec 10) (pk : BitVec 3), e.act ≠ 0 →
      Goes s c x (memInfo h 0 [] [] true) (nextWord { h := h }) e post →
      checkGlobal post e .read (strong || acq) home t.size (lanesOf e.act)
        (fun _ => e.s base.toNat + disp.signExtend 64 * BitVec.ofNat 64 t.size) = (.ok accs, s1) →
      readLanes s2 e home (accs.take 1) = (vals, s3) →
      exec (.ldsc h t strong acq sc d base disp pk) s = .next (acqIf (markPeer e home (accs.take 1) s2
        (varResult (if (missing accs).isEmpty then s3 else clearRes s3 c.g pk.toNat (lanesOf e.act)) e h [] []
          (some (d.toNat, (vals.head?.map fun v => loadPat64 t v.2).getD 0)) 0 true (strong || acq))) e.core acq sc))

/-- O26: Where every lane passes the checks of R350, ST queues the bytes of each resident lane, lane by lane, at the address
that R350 gives, in the L1 or at home by its ordering; lanes on non-resident pages store nothing and clear their residency
predicate; a releasing ST waits for its release, and what the release has done so far stands (R170, R190, R191, R198, R350,
R351, R352). -/
def Obligations.StoreResults : Prop :=
  ∀ (s : State) (c : Cur) (x : Group) (h : Hdr) (t : Ty) (strong rel : Bool) (sc : Scope) (r : BitVec 10) (m : MemRef) (e : Env)
    (post s1 : State) (accs : List LaneAcc) (put : State → State),
    Goes s c x (memInfo h m.off (pairRegs t.wide r) []) (nextWord { h := h }) e post →
    checkGlobal post e .write (strong || rel) ((strong || rel) && sc != .core) t.size (lanesOf e.act) (laneEa e m.base m.off m.disp t.size) = (.ok accs, s1) →
    put = (fun u => queueStores (clearRes u c.g m.pk.toNat (missing accs)) e h
      (storeParts u e ((strong || rel) && sc != .core) accs fun l =>
        natBytes t.size (if t.wide then (e.v64 r.toNat l).toNat else (e.v r.toNat l).toNat))) →
    exec (.st h t strong rel sc r m) s
      = .next (if rel then afterRelease e { s with free := s.free + 1 } s1 sc put else put s1)

/-- O27: Where every lane lies in the scratchpad of a team on its core, aligned where the access is strong, LDS has a result
under way with the bytes of the scratchpad as the group sees them, STS queues the bytes of each lane, and ATOMS, once older
stores have drained, performs the lanes in order and brings back the old values (R161, R189, R190, R350, R352, R354, R355). -/
def Obligations.ScratchpadResults : Prop :=
  ∀ (s : State) (c : Cur) (x : Group) (h : Hdr) (t : Ty) (strong b : Bool) (base : BitVec 6) (off disp : BitVec 10) (e : Env)
    (post : State) (accs : List LaneAcc) (pre : State), pre = { s with free := s.free + 1 } →
    (∀ d : BitVec 10, Goes s c x (memInfo h off [] (pairRegs t.wide d)) (nextWord { h := h }) e post →
      checkSpad post e (strong || b) t.size (lanesOf e.act) (laneEa e base off disp t.size) = .ok accs →
      exec (.lds h t strong b d base off disp) s = .next (varResult post e h (pairRegs t.wide d)
        (laneVals t.wide d.toNat (accs.map fun a => (a.lane, loadPat t (spadBytes post e a.ea.toNat t.size)))) none 0 true
          (strong || b))) ∧
    (∀ r : BitVec 10, Goes s c x (memInfo h off (pairRegs t.wide r) []) (nextWord { h := h }) e post →
      checkSpad post e (strong || b) t.size (lanesOf e.act) (laneEa e base off disp t.size) = .ok accs →
      exec (.sts h t strong b r base off disp) s = .next
        (let put := fun u => queueStores u e h (accs.map fun a => (a.lane, .scratch a.ea.toNat, storeBytes e t r a.lane))
         if b then afterRelease e pre post .core put else put post)) ∧
    (∀ (op : AtomOp) (o : Ord) (d r : BitVec 10), Goes s c x (memInfo h off (atomRegs op t r) (pairRegs t.wide d)) (nextWord { h := h }) e post →
      checkSpad post e true t.size (lanesOf e.act) (laneEa e base off 0 t.size) = .ok accs → Ord.rel o = false →
      drained (drainAll post c.g) c.g = true →
      ∃ vals u, exec (.atoms h op t o d base off r) s =
          .next (varResult u e h (pairRegs t.wide d) (laneVals t.wide d.toNat vals) none 0 true true) ∧
        (vals, u) = accs.foldl (fun (acc : List (Nat × Nat) × State) a =>
          let old := bytesNat (spadBytes acc.2 e a.ea.toNat t.size)
          (acc.1 ++ [(a.lane, old)], modTeam acc.2 x.team fun tm => spadWrite tm a.ea.toNat
            (natBytes t.size (atomicOp op t old (atomArgs e t r a.lane).1 (atomArgs e t r a.lane).2)))) ([], drainAll post c.g))

/-- O28: Where every lane passes the checks of R350, no line is shadowed and the older stores have drained, ATOM and RED perform the
lanes in order, at home for a scope wider than core and in the L1 else; ATOM, where no line is poisoned, has the old value of each
resident lane under way and 0 for the others, whose residency predicate is cleared; a lane whose line an earlier lane has put out of L1
and whose home takes it no more reads 0 and stops its group, as does a poisoned line that RED meets, by a deferred trap (R160, R170, R187, R192, R250, R350, R354, R355). -/
def Obligations.AtomicResults : Prop :=
  ∀ (s : State) (c : Cur) (x : Group) (h : Hdr) (op : AtomOp) (t : Ty) (sc : Scope) (e : Env) (post s1 s2 s3 : State)
    (accs : List LaneAcc) (vals : List (Nat × Nat)) (r : BitVec 10),
    anyShadow s1 e.core (asidOf s1 x.ctx) (sc != .core) accs = false → s2 = drainAll s1 c.g → drained s2 c.g = true →
    (vals, s3) = accs.foldl (fun (acc : List (Nat × Nat) × State) a =>
      match a.pieces with
      | some (p :: _) =>
        let q := atomOne e (sc != .core) op t a p (atomArgs e t r a.lane).1 (atomArgs e t r a.lane).2 acc.2
        (acc.1 ++ [(a.lane, q.1)], q.2)
      | _ => acc) ([], s2) →
    (∀ (o : Ord) (d off : BitVec 10) (base : BitVec 6) (pk : BitVec 3), Ord.rel o = false →
      Goes s c x (memInfo h off (atomRegs op t r) (pairRegs t.wide d)) (nextWord { h := h }) e post →
      checkGlobal post e .atomic true (sc != .core) t.size (lanesOf e.act) (laneEa e base off 0 t.size) = (.ok accs, s1) →
      poisonedLanes s2 e.core (asidOf s2 x.ctx) (sc != .core) accs = [] →
      exec (.atom h op t o sc d base off r pk) s = .next (acqIf (markPeer e (sc != .core) accs s2
        (varResult (clearRes s3 c.g pk.toNat (missing accs)) e h (pairRegs t.wide d)
          (laneVals t.wide d.toNat ((missing accs).map (fun l => (l, 0)) ++ vals)) none 0 true true)) e.core (Ord.acq o) sc)) ∧
    (∀ m : MemRef, Goes s c x (memInfo h m.off (atomRegs op t r) []) (nextWord { h := h }) e post →
      checkGlobal post e .atomic true (sc != .core) t.size (lanesOf e.act) (laneEa e m.base m.off m.disp t.size) = (.ok accs, s1) →
      exec (.red h op t false sc r m) s = .next (deferPoison (acqIf (markPeer e (sc != .core) accs s2
        (varResult (clearRes s3 c.g m.pk.toNat (missing accs)) e h [] [] none 0 true true)) e.core false sc) e
        (poisonedLanes s2 e.core (asidOf s2 x.ctx) (sc != .core) accs)))

/-- O29: PREQ asks for every page, of the size that its table gives, that its lanes name and that is not resident, with one notice for each, and is
complete at once where there is none; PREF fills the lines of its lanes and traps on nothing; CCTL writes back or invalidates
the tagged lines of its lanes after the older stores; PREQ and CCTL trap on an address that is not canonical (R170, R350, R356,
R357, R358). -/
def Obligations.PageAndCacheResults : Prop :=
  ∀ (s : State) (c : Cur) (x : Group) (h : Hdr) (t : Ty) (base : BitVec 6) (off disp : BitVec 10) (e : Env) (post s1 : State)
    (pages : List (Nat × DWord)) (ea : Nat → DWord),
    Goes s c x (memInfo h off [] []) (nextWord { h := h }) e post → ea = laneEa e base off disp t.size →
    ((∃ l, l ∈ lanesOf e.act ∧ canonical (ea l) = false) → ∃ l0, (lanesOf e.act).find? (fun l => !canonical (ea l)) = some l0 ∧
      ∀ i, i = Instr.preq h t base off disp ∨ (∃ op, i = Instr.cctl h op t base off disp) →
        exec i s = .next (takeTrap { s with free := s.free + 1 } c.g
          { code := 0x18, lanes := maskOf ((lanesOf e.act).filter fun l => !canonical (ea l)), addr := ea l0 } c.pc)) ∧
    ((∀ l, l ∈ lanesOf e.act → canonical (ea l) = true) → missingPages post e t.size ea = (pages, s1) →
      (pages = [] → exec (.preq h t base off disp) s = .next (atOnce s1 e h)) ∧
      (pages ≠ [] → ∃ u, u = pages.foldl (fun u p => residNotice u 1 0 x.ctx 0 e.core (c.g % 64) p.2) s1 ∧
        exec (.preq h t base off disp) s = .next { u with
          nextUid := u.nextUid + 1
          preqs := u.preqs ++ [{ id := u.nextUid, uid := x.uid, ctx := x.ctx, pages := pages.map (·.1), sig := sigOf x.uid h.set }] })) ∧
    exec (.pref h t base off disp) s = .next (varResult ((lanesOf e.act).foldl (fun u l =>
      (linePieces (ea l).toNat t.size).foldl (fun u p => prefetchByte e (ea l + BitVec.ofNat 64 p.1) p.2 u) u) post)
      e h [] [] none 0 false) ∧
    (∀ (op : CctlOp) (lines : List Nat), (∀ l, l ∈ lanesOf e.act → canonical (ea l) = true) →
      lines = dedup (((lanesOf e.act).map fun l => (linePieces (ea l).toNat t.size).map fun p =>
        (ea l + BitVec.ofNat 64 p.1).toNat % 2 ^ 56 / 128).flatten) →
      drained (drainAll post c.g) c.g = true → (drainAll post c.g).subs = [] →
      (∀ v q, v ∈ lines → l1Find (coreAt (drainAll post c.g) e.core) (asidOf (drainAll post c.g) x.ctx) v = some q →
        lineFree (drainAll post c.g) e.core q.line = true) →
      exec (.cctl h op t base off disp) s = .next (varResult (lines.foldl (fun u v =>
        cctlLine op e.core (asidOf (drainAll post c.g) x.ctx) v u) (drainAll post c.g)) e h [] [] none 0 false))

/-- O30: Where its words are fetched and pass the checks, its registers are full, older stores have drained and its anchor load
passes the checks of R350, a SINK forms its sub-blocks, one for each line that its lanes name, and sends them off, its stream
going on after the block; the first word of the block whose fetch or checks fail traps at the SINK with its index in WORD, and a fetch
that waits keeps the SINK waiting; a SINK with SP, or one without a flag whose block writes a predicate, is then refused with
RESERVED_FIELD; that the words after a LIVE word are judged, and the order of the checks of one word, are the model's reading (log entry 26)
(R172, R174, R175, R176, R177, R361). -/
def Obligations.SinkIssues : Prop :=
  ∀ (s : State) (c : Cur) (x : Group) (h : Hdr) (n : BitVec 4) (e : Env) (post pre u : State),
    Goes s c x { h := h, mem := true } (fun e => [(e.pc + 1 + n.setWidth 32, .run, e.lanes)]) e post →
    pre = { s with free := s.free + 1 } →
    (∀ k code addr aux, sinkWords pre e (nextPc e.pc h.sp) n.toNat 0 0 = .error (.trap k code addr aux) →
      exec (.sink h n) s = .next (takeTrap pre c.g { code := code, lanes := e.act, addr := addr, aux := aux, word := k } c.pc)) ∧
    (sinkWords pre e (nextPc e.pc h.sp) n.toNat 0 0 = .error .wait → exec (.sink h n) s = .next pre) ∧
    (∀ (is : List Instr) (k0 : Nat) (m : SinkMem) (b0 : Sub) (accs : List LaneAcc) (t : State),
      sinkWords pre e (nextPc e.pc h.sp) n.toNat 0 0 = .ok is → sinkRegs e.grp (blockUse is).1 (blockUse is).2.1 = .go →
      u = drainAll post c.g → drained u c.g = true → k0 = is.findIdx (fun i => (sinkMem i).isSome) →
      (is[k0]?).bind sinkMem = some m →
      b0 = (is.take k0).foldl subAlu (newSub e is k0 0 e.act ⟨0, 0, 0, 0⟩ (snapshot e)) →
      checkGlobal u e .read m.strong m.goesHome m.t.size (lanesOf (subAct b0 m.h)) (subEa b0 m) = (.ok accs, t) →
      ((h.sp = true ∨ ((blockUse is).2.2 ≠ [] ∧ 12 ≤ h.set.toNat)) → exec (.sink h n) s = .next (trapReserved pre e.act)) ∧
      (h.sp = false → ((blockUse is).2.2 = [] ∨ h.set.toNat < 12) → scopeOf is (·.rel) = none →
        exec (.sink h n) s = .next ((sinkRun e h is k0 (snapshot e) (dedup ((blockUse is).2.1.map (·.1))) (blockUse is).2.2 accs t).getD pre)))

/-- O31: A departed sub-block whose line no other sub-block keeps, and none of its core went before on, lands at its home with the
dirty bytes that it carries, or, where it carries none, on a replica of its flask if its anchor load is weak and a run there would write
nothing of the line (log entry 26); one trip of follow
accesses is performed at a time, unless a line of it is held; a sub-block that has run leaves, and its block is done with the last;
a consort timer completes an entry once its time has passed since the first request took it, and does nothing before (log entry 27); a fill that reaches a requester writes its bytes to the scratchpad of the team, stores the status
plus one if no later CLD of the team has named the consort, counts one CLD in, completes its flag and tag and leaves the entry
(R174, R175, R176, R177, R178, R181, R182, R364, R365). -/
def Obligations.SinkAndConsortEvents : Prop :=
  (∀ (s : State) (id : Nat) (b : Sub),
    (s.subs.find? (fun q => q.id == id) = some b → b.level = 8 → b.done = false →
      ((locked s b.line = true ∨ ∃ q, q ∈ s.subs ∧ q.core = b.core ∧ q.line = b.line ∧ q.id < b.id) →
        exec (.subBlockLand id) s = .next s) ∧
      (locked s b.line = false → (∀ q, q ∈ s.subs → q.core = b.core → q.line = b.line → b.id ≤ q.id) →
        (b.carried ≠ [] ∨ homeFlask (128 * b.line) = coreFlask b.core) → leafUsable s b.leaf (128 * b.line) = true →
        ∃ r, r = subGo 10 { s := remoteCount (homeWrite s (coreFlask b.core) b.core (leafKeyid b.leaf) b.line
              none b.carried) (coreFlask b.core) (128 * b.line), b := { b with level := homeLevel s b.line } } ∧
          exec (.subBlockLand id) s = .next { r.s with subs := updFirst (fun q => q.id == r.b.id) (fun _ => r.b) r.s.subs }) ∧
      (∀ d m near, locked s b.line = false → (∀ q, q ∈ s.subs → q.core = b.core → q.line = b.line → b.id ≤ q.id) →
        homeFlask (128 * b.line) ≠ coreFlask b.core → b.carried = [] →
        (mget? (flaskAt s (coreFlask b.core)).replicas b.line).map (·.data) = some d →
        ((mget (flaskAt s (homeFlask (128 * b.line))).dir (granuleOf (128 * b.line)) {}).rep = true ∨
          (mget (flaskAt s (homeFlask (128 * b.line))).dir (granuleOf (128 * b.line)) {}).sharers.getLsbD (coreFlask b.core) = true) →
        (b.words[b.anchor]?).bind sinkMem = some m → m.strong = false →
        near = subGo 10 { s := s, b := { b with level := 1, snap := some d } } → (subDry 200 near).wrote = false →
        exec (.subBlockLand id) s = .next { near.s with subs := updFirst (fun q => q.id == near.b.id) (fun _ => near.b) near.s.subs })) ∧
    (s.subs.find? (fun q => q.id == id && !q.sent.isEmpty) = some b →
      ∃ r, r = subTrip { s := s, b := b } ∧ exec (.followAccess id) s =
        .next (if r.shadow = true then s else { r.s with subs := updFirst (fun q => q.id == r.b.id) (fun _ => r.b) r.s.subs })) ∧
    (∀ k, s.subs.find? (fun q => q.id == id && q.done) = some b → s.blocks.find? (fun k => k.id == b.blk) = some k →
      ∃ k' u, k' = { blockTake k b with left := k.left - 1 } ∧
        u = { s with subs := s.subs.filter (fun q => q.id != id), blocks := updFirst (fun q => q.id == k'.id) (fun _ => k') s.blocks } ∧
        exec (.subBlockReturn id) s = .next (if k.left ≤ 1 then blockDone u k' else u))) ∧
  (∀ (s : State) (id team : Nat) (q : Entry) (k : Consort),
    (s.entries.find? (fun y => y.id == id) = some q → findConsort s (q.grid, q.cluster) q.c = some k → q.held = true → q.comp = false →
      k.timer ≠ 0 →
      (q.took + k.timer ≤ flaskDrone s (q.lead / 16) → exec (.consortTimer id) s = .next (settleEntries (completeEntry s q true))) ∧
      (flaskDrone s (q.lead / 16) < q.took + k.timer → exec (.consortTimer id) s = .next s)) ∧
    (∀ f : Fill, s.entries.find? (fun y => y.id == id && y.fills.any fun f => f.req.team == team) = some q →
      q.fills.find? (fun f => f.req.team == team) = some f → f.req.ob = false → f.poison = none → f.range = none →
      exec (.consortFillDone id team) s = .next (settleEntries (modEntry (complete (modUid
        (let v := spadStore s f.req.team f.req.off f.bytes
         if latestCld v f.req q.c = true then putCstat v f.req.team q.c (BitVec.ofNat 64 (f.status + 1)) else v) f.req.uid
        fun y => { y with cldOut := y.cldOut - 1 }) f.req.uid f.req.sig f.req.ui (BitVec.ofNat 64 f.req.tag)) id
        fun y => { y with fills := y.fills.filter fun z => z.req.team != team }))))

/-- O32: FENCE issues at once and keeps later memory instructions of its group waiting: its release comes first, its acquire
once every load and sink block before it has returned, and then the flag that SET names falls; that sink blocks are awaited too is the
model's reading (log entry 52) (R191, R192, R360). -/
def Obligations.FenceResults : Prop :=
  ∀ (s : State) (c : Cur) (x y : Group) (h : Hdr) (o : Ord) (sc : Scope) (e : Env) (post : State) (f : FenceS),
    (Goes s c x { h := h, once := true, mem := true } (nextWord { h := h }) e post → e.act ≠ 0 → groupAt post c.g = some y →
      f = { rel := if Ord.rel o then some sc else none, acq := if Ord.acq o then some sc else none, sig := sigOf x.uid h.set,
            waits := ((post.results.filter fun r => r.uid == x.uid && r.load).map (·.id)) ++
              (post.blocks.filter fun b => b.uid == x.uid).map (·.id) } →
      exec (.fence h o sc) s = .next (fenceStep (setGroup post c.g { y with fence := some f }) c.g)) ∧
    (∀ (u v : State) (z : Group) (g : Nat), groupAt u g = some z → z.fence = some f → v = (match f.rel with
        | some sc => (release u g sc).2
        | none => u) →
      ((∃ sc, f.rel = some sc ∧ (release u g sc).1 = false) → fenceStep u g = v) ∧
      ((∀ sc, f.rel = some sc → (release u g sc).1 = true) →
        ((f.acq ≠ none ∧ ∃ id, id ∈ f.waits ∧ ((∃ r, r ∈ v.results ∧ r.id = id) ∨ ∃ b, b ∈ v.blocks ∧ b.id = id)) →
          fenceStep u g = modGroup v g fun q => { q with fence := some { f with rel := none } }) ∧
        ((f.acq = none ∨ ∀ id, id ∈ f.waits → (∀ r, r ∈ v.results → r.id ≠ id) ∧ ∀ b, b ∈ v.blocks → b.id ≠ id) →
          fenceStep u g = fall (modGroup (match f.acq with
            | some sc => acquire v (slotCore g) sc
            | none => v) g fun q => { q with fence := none }) f.sig)))

/-- O33: CJOIN enrols the team of its stream under an index up to 11 in a consort of its cluster, a new one with its timer or
one with the same timer that holds neither the index nor the team, and traps otherwise; CLEAVE takes an enrolled team out and
traps otherwise; either leaves the team with no most recent CLD on that consort; a CLD of an enrolled team with a fitting destination and a readable source clears the status of the consort,
becomes the most recent CLD on it, counts one CLD out and asks the lead slice of its source (R179, R180, R363, R364, R365). -/
def Obligations.ConsortResults : Prop :=
  ∀ (s : State) (c : Cur) (x : Group) (h : Hdr) (n : BitVec 4) (e : Env) (post pre : State) (t : Team) (k : Nat × Nat),
    e.act ≠ 0 → pre = { s with free := s.free + 1 } → teamOf post x.team = some t → k = teamCluster post t →
    (Goes s c x { h := h, once := true } (nextWord { h := h }) e post →
      (∀ (idx timer : SImm) (i tm : Nat), i = (e.simm idx).toNat → tm = (e.simm timer).toNat % 2 ^ 32 →
        (11 < i → exec (.cjoin h n idx timer) s = .next (trapReserved pre e.act)) ∧
        (i ≤ 11 → findConsort post k n.toNat = none → exec (.cjoin h n idx timer) s = .next (atOnce (setCld (putCstat
          { post with consorts := post.consorts ++ [{ fl := coreFlask e.core, grid := k.1, cluster := k.2, c := n.toNat, members := [(i, t.uid)], timer := tm }] }
          t.uid n.toNat 0) t.uid n.toNat none) e h)) ∧
        (∀ q, i ≤ 11 → findConsort post k n.toNat = some q →
          ((q.timer ≠ tm ∨ ∃ m, m ∈ q.members ∧ (m.1 = i ∨ m.2 = t.uid)) → exec (.cjoin h n idx timer) s =
            .next (takeTrap pre c.g { code := 0x14, lanes := e.act, aux := n.setWidth 64 } c.pc)) ∧
          ((q.timer = tm ∧ ∀ m, m ∈ q.members → m.1 ≠ i ∧ m.2 ≠ t.uid) → exec (.cjoin h n idx timer) s = .next (atOnce (setCld (putCstat
            { post with consorts := post.consorts.map fun y => if y = q then { y with members := y.members ++ [(i, t.uid)] } else y }
            t.uid n.toNat 0) t.uid n.toNat none) e h)))) ∧
      (t.uid ∉ enrolled post k n.toNat → exec (.cleave h n) s =
        .next (takeTrap pre c.g { code := 0x14, lanes := e.act, aux := n.setWidth 64 } c.pc)) ∧
      (t.uid ∈ enrolled post k n.toNat → exec (.cleave h n) s =
        .next (atOnce (leaveConsort (setCld (putCstat post t.uid n.toNat 0) t.uid n.toNat none) k n.toNat t.uid) e h))) ∧
    (∀ (ui : Bool) (sa sb : BitVec 6) (va w : DWord) (u v z : State), Goes s c x { h := h, once := true, mem := true } (nextWord { h := h }) e post →
      va = e.s sa.toNat → w = e.s sb.toNat → fld w 42 6 = 0 → 1 ≤ fld w 20 17 → fld w 20 17 ≤ 65536 → bit w 37 = false →
      fld w 0 20 + fld w 20 17 ≤ t.scratch → lookRun post e .read va (fld w 20 17) = (none, u) → k = teamCluster u t →
      t.uid ∈ enrolled u k n.toNat → findEntry u k n.toNat (fld w 48 16) = none → v = drainAll u c.g → drained v c.g = true →
      z = modGroup (setCld (putCstat { v with nextUid := v.nextUid + 1 } t.uid n.toNat 0) t.uid n.toNat (some v.nextUid)) c.g
        (fun y => { y with cldOut := y.cldOut + 1 }) →
      exec (.cld h ui n sa sb) s = .next (cldRequest z k n.toNat (fld w 48 16) x.ctx va (fld w 20 17) (leadSlice z e va)
        { id := v.nextUid, team := t.uid, uid := x.uid, core := e.core, ob := false, off := fld w 0 20, hnd := fld w 38 4, sig := sigOf x.uid h.set,
          ui := ui, tag := fld w 48 16, word := e.pc, lanes := e.act }))

/-- O34: Once the older stores of their group have drained, CPY and CPYFILL read the records that their lanes name, in order:
the first check of R367 that some record fails, check by check over all records (log entry 32), traps and queues nothing; a record whose
line a sub-block has in shadow or to itself keeps the instruction waiting; otherwise every record that is there joins the queue of
the copy engine of the core, SET counts once for each, and lanes whose record lies on a non-resident page clear their residency
predicate (R175, R176, R366, R367). -/
def Obligations.CopyIssues : Prop :=
  ∀ (s : State) (c : Cur) (x : Group) (h : Hdr) (i : Info) (ui fill : Bool) (pk : BitVec 3) (a : Reg) (e : Env)
    (post pre u t : State) (xs : List (DWord × LaneMask × RecRead × Copy)),
    ((∃ n, a = .v n ∧ i = { h := { h with set := 15 }, a := some (.v n, true), mem := true }) ∨
      (∃ n, a = .s n ∧ i = { h := { h with set := 15 }, once := true, mem := true })) →
    Goes s c x i (nextWord i) e post → e.act ≠ 0 → pre = { s with free := s.free + 1 } → u = drainAll post c.g →
    drained u c.g = true → copyRecs e fill ui (sigOf x.uid h.set) (recNames e a) u = (xs, t) →
    (∀ code lanes addr aux, copyBad t e.core xs = some (code, lanes, addr, aux) →
      exec (if fill = true then .cpyfill h ui pk a else .cpy h ui pk a) s = .next (takeTrap pre c.g
        (if code = 0x02 then { code := 0x02, lanes := lanes, aux := c.word.extractLsb' 32 64 }
         else { code := code, lanes := lanes, addr := addr, aux := aux }) c.pc)) ∧
    (copyBad t e.core xs = none → (∃ y, y ∈ xs ∧ y.2.2.1 = .held) →
      exec (if fill = true then .cpyfill h ui pk a else .cpy h ui pk a) s = .next pre) ∧
    (copyBad t e.core xs = none → (∀ y, y ∈ xs → y.2.2.1 ≠ .held) → (12 ≤ h.set.toNat ∨ flagOf e.grp h.set.toNat + (copyGood xs).length ≤ 255) →
      exec (if fill = true then .cpyfill h ui pk a else .cpy h ui pk a) s = .next ((copyGood xs).foldl (fun v k =>
        modCore { v with nextUid := v.nextUid + 1 } e.core fun q => { q with copies := q.copies ++ [{ k with id := v.nextUid }] })
        (modGroup (clearRes t c.g pk.toNat (copyLost xs)) c.g fun y => countSet y h.set (copyGood xs).length)))

/-- O35: The copy at the head of the queue starts once its time has come, its slot of the buffer is claimed and its current is
live; a zero-byte copy needs no current; a copy under way moves its rows, and once its writes are at home it stores its status, or finds
that the word's line is kept from it and waits, counts a filled slot, completes its flag and tag, stops its group where a page failed or
its status word came to lie out of range, and hands its reservation on; a stream
whose current is live and whose ring has room, or whose group has been killed, reads one element for every lane at the address of R375: the next register of the
ring takes them and is full, the tail and the count rise, and the stream ends with its last element; a page that failed ends the
stream and stops the group with ADDRESS_RANGE for the lanes then alive (log entry 33), and one that is not resident halts it with a
notice; copy and stream wait for a line that a sub-block has to itself (R52, R54, R125, R155, R175, R183, R187, R196,
R368, R369, R374, R375, R376). -/
def Obligations.CopyAndStreamEvents : Prop :=
  (∀ (s : State) (core : Nat) (k : Copy) (rest : List Copy), core < 512 → (coreAt s core).copies = k :: rest →
    (k.going = false → flaskDrone s (coreFlask core) + 1000 < k.start.toNat → exec (.cpyStart core) s = .next s) ∧
    (k.going = false → k.start.toNat ≤ flaskDrone s (coreFlask core) → (k.dsp ≠ 2 ∨ k.claim ≠ none) →
      (k.none' = true ∨ (k.req ≠ 0 ∧ liveAt s (coreDomain core) k.req = true)) →
      exec (.cpyStart core) s = .next (modCore s core fun q => { q with copies := { k with going := true } :: rest })) ∧
    (k.going = false → k.start.toNat ≤ flaskDrone s (coreFlask core) + 1000 → k.dsp ≠ 2 → k.none' = false → k.req = 0 →
      ∃ id u, request s (coreDomain core) (copyNeed s core k) = (id, u) ∧
        exec (.cpyStart core) s = .next (copyGo (modHead u core fun q => { q with req := id }) core)) ∧
    (∀ (u v : State) (q : Copy) (r : List Copy), k.going = true → copyHeld s core k = false → u = (if k.moved = true then s else copyMove s core k) →
      (coreAt u core).copies = q :: r → (k.dsp ≠ 0 ∨ noInvs u core = true) →
      (statusHeld u core q = true → exec (.cpyComplete core) s = .next u) ∧
      (statusHeld u core q = false → v = complete (modCore (if q.claim.isSome = true then resave (modBuf (copyStatus u core q) core q.buf
          fun b => { b with filled := b.filled + 1, copying := b.copying - 1 }) q.team else copyStatus u core q) core
          fun m => { m with copies := m.copies.drop 1 }) q.uid q.sig q.ui (BitVec.ofNat 64 q.utag) →
        (copyFault u core q = none → exec (.cpyComplete core) s = .next (copyNext v core q.req)) ∧
        (∀ a, copyFault u core q = some a → exec (.cpyComplete core) s =
          .next (copyNext (deferCause v q.uid { code := 0x18, lanes := q.lanes, addr := a, origin := q.word }) core q.req))))) ∧
  (∀ (s u : State) (g : Nat) (q : BitVec 2) (x : Group) (r : Ring) (st : Stream) (vals : List (List EngB)) (m : Met),
    groupAt s g = some x → r = ringOf x q.toNat → r.stream = some st → liveAt s (coreDomain (slotCore g)) st.req = true →
    st.halted = none → (x.done = true ∨ r.tail - r.head < r.depth) →
    elementRead { core := slotCore g, ctx := x.ctx, sysT := x.sysT, slot := g % 64, no := st.no } st { s with free := s.free + 1 } =
      (vals, m, u) →
    (m.lock = true → exec (.bellowsElement g q) s = .next s) ∧
    (∀ a, m.lock = false → m.fault = some a → exec (.bellowsElement g q) s = .next (deferCause (endStream u g q.toNat false) x.uid
      { code := 0x18, lanes := aliveLanes x, addr := a, origin := st.word })) ∧
    (m.lock = false → m.fault = none → (∀ y, m.miss.find? (fun y => !st.refused.contains y.1) = some y → exec (.bellowsElement g q) s =
        .next (putRing (residNotice u 5 0 x.ctx 0 (slotCore g) (g % 64) y.2.1) g q.toNat
          fun k => { k with stream := some { st with halted := some y.1 } })) ∧
      (m.miss.find? (fun y => !st.refused.contains y.1) = none → m.poison = none →
        ∃ v, v = putRing (modGroup u g fun y => markFull [r.rbase + st.k % max 1 r.depth]
              (elementPut st vals s.free (r.rbase + st.k % max 1 r.depth) y)) g q.toNat
            (fun k => { k with tail := k.tail + 1, stream := some { st with k := st.k + 1 } }) ∧
          exec (.bellowsElement g q) s = .next (if st.k + 1 = st.n then endStream v g q.toNat true else v))))

/-- O36: CBINIT starts a buffer that is free or its own, idle, aligned, of a legal size and inside the scratchpad allocation,
with every slot free and the CBACQs of its team that wait kept (log entry 32); CBACQ waits in the queue of the buffer with its destination;
CBREL of the slot that is due, once its release at core scope is complete, frees the slot; each traps with CB_STATE and the
buffer number otherwise; the oldest CBACQ that waits takes the next filled slot and brings its address (R183, R201, R250, R370,
R371, R372). -/
def Obligations.BufferResults : Prop :=
  ∀ (s : State) (c : Cur) (x : Group) (h : Hdr) (b : BitVec 4) (e : Env) (post pre trap : State) (t : Team),
    e.act ≠ 0 → pre = { s with free := s.free + 1 } → teamOf post x.team = some t →
    trap = takeTrap pre c.g { code := 0x16, lanes := e.act, aux := b.setWidth 64 } c.pc →
    (Goes s c x { h := h, once := true, mem := true } (nextWord { h := h }) e post →
      (∀ (sa sb sc : BitVec 6) (base size n : Nat) (ok : Prop), base = (e.s sa.toNat).toNat % 2 ^ 32 →
        size = (e.s sb.toNat).toNat % 2 ^ 32 → n = (e.s sc.toNat).toNat % 2 ^ 32 →
        (ok ↔ (∀ y, mget? (coreAt post e.core).bufs b.toNat = some y →
            y.team = t.uid ∧ y.held = 0 ∧ ∀ k, k ∈ (coreAt post e.core).copies → ¬ (k.dsp = 2 ∧ k.buf = b.toNat)) ∧
          base % 128 = 0 ∧ size % 128 = 0 ∧ 128 ≤ size ∧ size ≤ 65536 ∧ 1 ≤ n ∧ n ≤ 256 ∧ base + size * n ≤ t.scratch) →
        (ok → exec (.cbinit h b sa sb sc) s = .next (atOnce (modCore post e.core fun k => { k with
          bufs := mput k.bufs b.toNat
            { team := t.uid, base := base, size := size, count := n, free := n, filled := 0,
              wait := ((mget? (coreAt post e.core).bufs b.toNat).map (·.wait)).getD [] } }) e h)) ∧
        (¬ ok → exec (.cbinit h b sa sb sc) s = .next trap)) ∧
      (∀ (sa : BitVec 6) (q : Buf), mget? (coreAt post e.core).bufs b.toNat = some q →
        ((q.team ≠ t.uid ∨ q.held = 0 ∨ (e.s sa.toNat).toNat % 2 ^ 32 ≠ q.base + q.ret * q.size) →
          exec (.cbrel h b sa) s = .next trap) ∧
        (q.team = t.uid → q.held ≠ 0 → (e.s sa.toNat).toNat % 2 ^ 32 = q.base + q.ret * q.size →
          (∀ u, ReleasedTo pre post c.g .core u → exec (.cbrel h b sa) s = .next (atOnce (modBuf u e.core b.toNat fun z =>
            { z with free := z.free + 1, ret := (z.ret + 1) % max 1 z.count, held := z.held - 1 }) e h)) ∧
          ((release pre c.g .core).1 = false → exec (.cbrel h b sa) s = .next (release pre c.g .core).2)))) ∧
    (∀ d, Goes s c x { h := h, once := true, vw := dstRegs false d, mem := true } (nextWord { h := h }) e post →
      ((∀ q, mget? (coreAt post e.core).bufs b.toNat = some q → q.team ≠ t.uid) → exec (.cbacq h d b) s = .next trap) ∧
      (∀ q, mget? (coreAt post e.core).bufs b.toNat = some q → q.team = t.uid → exec (.cbacq h d b) s =
        .next (modBuf (modGroup post c.g (markEmpty (dstRegs false d))) e.core b.toNat fun z => { z with
          wait := z.wait ++ [{ uid := x.uid, lanes := e.act, dst := d, sig := sigOf x.uid h.set }] }))) ∧
    (∀ (u v : State) (core : Nat) (q : Buf) (w : CbAcq) (r : List CbAcq), core < 512 → mget? (coreAt u core).bufs b.toNat = some q →
      q.wait = w :: r → (q.filled = 0 → exec (.cbacqServe core b) u = .next u) ∧
      (q.filled ≠ 0 → v = resave (modBuf u core b.toNat fun z => { z with
          filled := z.filled - 1, acq := (z.acq + 1) % max 1 z.count, held := z.held + 1, wait := r }) q.team →
        (∀ n, w.dst = .v n → exec (.cbacqServe core b) u = .next (finishRes v
          { id := 0, uid := w.uid, vregs := [n.toNat], sig := w.sig,
            vals := (lanesOf w.lanes).map fun l => (n.toNat * 128 + l, BitVec.ofNat 32 (q.base + q.acq * q.size)) })) ∧
        (∀ n, w.dst = .s n → exec (.cbacqServe core b) u = .next (finishRes v
          { id := 0, uid := w.uid, sreg := some (n.toNat, BitVec.ofNat 64 (q.base + q.acq * q.size)), sig := w.sig }))))

/-- O37: QCFG of a queue without a stream turns it off with depth 0, its registers full, or sets a ring that lies in the
allocation and meets no other ring, its registers empty; BLWS, where its record is there and the ring is empty and idle, starts
a stream that asks for its current, or completes with extent 0; BLWSTOP ends the stream of a configured queue and its flag
falls; each traps with QUEUE_CONFIG and the queue number otherwise; that BLWS judges the extent of its record before its ring is log entry
33, and that QCFG of depth 0 checks only the stream log entry 16 (R125, R126, R127, R250, R373, R374, R375, R376). -/
def Obligations.QueueResults : Prop :=
  ∀ (s : State) (c : Cur) (x : Group) (h : Hdr) (q : BitVec 2) (e : Env) (post pre trap : State) (r : Ring),
    e.act ≠ 0 → pre = { s with free := s.free + 1 } → r = ringOf e.grp q.toNat →
    trap = takeTrap pre c.g { code := 0x15, lanes := e.act, aux := q.setWidth 64 } c.pc →
    (Goes s c x { h := h, once := true, mem := true } (nextWord { h := h }) e post →
      (∀ (rbase depth : SImm) (b n : Nat), b = (e.simm rbase).toNat → n = (e.simm depth).toNat →
        ((r.stream ≠ none ∨ 256 < n) → exec (.qcfg h q rbase depth) s = .next trap) ∧
        (r.stream = none → n = 0 → exec (.qcfg h q rbase depth) s = .next (atOnce (modGroup post c.g fun y =>
          { markFull (if r.conf = true then ringSpan r.rbase r.depth else []) y with q := mput y.q q.toNat {} }) e h)) ∧
        (r.stream = none → 1 ≤ n → n ≤ 256 →
          ((regCount e.grp < b + n ∨ ∃ p, p ∈ e.grp.q ∧ p.1 ≠ q.toNat ∧ p.2.conf = true ∧ b < p.2.rbase + p.2.depth ∧ p.2.rbase < b + n) →
            exec (.qcfg h q rbase depth) s = .next trap) ∧
          (b + n ≤ regCount e.grp → (∀ p, p ∈ e.grp.q → p.1 ≠ q.toNat → p.2.conf = true → p.2.rbase + p.2.depth ≤ b ∨ b + n ≤ p.2.rbase) →
            exec (.qcfg h q rbase depth) s = .next (atOnce (modGroup post c.g fun y =>
              { markEmpty (ringSpan b n) y with q := mput y.q q.toNat { rbase := b, depth := n, conf := true } }) e h)))) ∧
      (r.conf = false → exec (.blwstop h q) s = .next trap) ∧
      (r.conf = true → exec (.blwstop h q) s = .next (atOnce (endStream post c.g q.toNat false) e h))) ∧
    (∀ (t : Ty) (sa : BitVec 6) (u v : State) (bs : List Byte) (st : Stream), Goes s c x { h := h, once := true, mem := true } (nextWord { h := h }) e post →
      u = drainAll post c.g → drained u c.g = true → readRec u e (e.s sa.toNat) 64 64 = (.ok bs, v) → st = streamOf e t (sigOf x.uid h.set) bs →
      (2 ^ 48 < st.n → exec (.blws h t q sa) s = .next (trapReserved pre e.act)) ∧
      (st.n ≤ 2 ^ 48 → (r.conf = false ∨ r.stream ≠ none ∨ r.head ≠ r.tail) → exec (.blws h t q sa) s = .next trap) ∧
      (st.n ≤ 2 ^ 48 → r.conf = true → r.stream = none → r.head = r.tail →
        (st.n = 0 → exec (.blws h t q sa) s = .next (atOnce (putRing v c.g q.toNat fun k => { k with head := 0, tail := 0 }) e h)) ∧
        (st.n ≠ 0 → ∃ id w, request v (coreDomain e.core) { kind := .stream x.uid q.toNat, ctx := x.ctx, team := (myTeam v e).uid, prio := x.prio.toNat, i15 := 2, dur := cycleTime v (coreFlask e.core) (st.n * 128 * t.size) 512, gang := (myTeam v e).gang != 0 } = (id, w) ∧
          exec (.blws h t q sa) s = .next (putRing w c.g q.toNat fun k => { k with head := 0, tail := 0, stream := some { st with req := id } }))))

/-- O38: NMCPY and NMZERO trap on an address that is no multiple of 1,024, on no row or more than 65,536, and on a range that is
not canonical, in that order, the first address of the range in ADDR (log entry 17); otherwise, once older stores have drained, the operation goes to the queue of the stack and
pseudo-channel of its first destination row, or waits for a non-resident page with a notice, or ends with ADDRESS_RANGE and its
flag falls (R184, R377, R378). -/
def Obligations.RowOpIssues : Prop :=
  ∀ (s : State) (c : Cur) (x : Group) (h : Hdr) (ui zero : Bool) (sd ss : BitVec 6) (n : SImm) (e : Env) (post pre u : State)
    (d src : DWord) (k : Nat) (i : Instr) (o : NmOp),
    Goes s c x { h := h, once := true, mem := true } (nextWord { h := h }) e post → e.act ≠ 0 → pre = { s with free := s.free + 1 } →
    i = (if zero = true then .nmzero h ui sd n else .nmcpy h ui sd ss n) →
    d = e.s sd.toNat → src = e.s (if zero = true then 0 else ss.toNat) → k = (e.simm n).toNat →
    (d.toNat % 1024 ≠ 0 → exec i s = .next (takeTrap pre c.g { code := 0x05, lanes := e.act, addr := d } c.pc)) ∧
    (d.toNat % 1024 = 0 → zero = false → src.toNat % 1024 ≠ 0 →
      exec i s = .next (takeTrap pre c.g { code := 0x05, lanes := e.act, addr := src } c.pc)) ∧
    (d.toNat % 1024 = 0 → (zero = true ∨ src.toNat % 1024 = 0) →
      ((k = 0 ∨ 65536 < k) → exec i s = .next (trapReserved pre e.act)) ∧
      (1 ≤ k → k ≤ 65536 →
        (rowsCanonical d k = false → exec i s = .next (takeTrap pre c.g { code := 0x18, lanes := e.act, addr := d } c.pc)) ∧
        (rowsCanonical d k = true → zero = false → rowsCanonical src k = false →
          exec i s = .next (takeTrap pre c.g { code := 0x18, lanes := e.act, addr := src } c.pc)) ∧
        (rowsCanonical d k = true → (zero = true ∨ rowsCanonical src k = true) → u = drainAll post c.g → drained u c.g = true →
          o = { id := u.nextUid, uid := x.uid, ctx := x.ctx, sysT := x.sysT, core := e.core, zero := zero, sd := d, ss := if zero = true then e.s 0 else src, n := k, sig := sigOf x.uid h.set, ui := ui, word := e.pc, lanes := e.act } →
          (∀ leaf key v, rowLook { u with nextUid := u.nextUid + 1 } o none .write d = (.ok leaf key, v) →
            exec i s = .next (modStack v (keyStack key) fun t => { t with queues := mmod t.queues (keyPch key) [] (· ++ [o]) })) ∧
          (∀ page v, rowLook { u with nextUid := u.nextUid + 1 } o none .write d = (.nonres page, v) →
            exec i s = .next { nmNotice v o 1 d with nmWait := v.nmWait ++ [{ o with halted := some page }] }) ∧
          (∀ v, rowLook { u with nextUid := u.nextUid + 1 } o none .write d = (.bad, v) →
            exec i s = .next (complete (deferCause v x.uid { code := 0x18, lanes := e.act, addr := d, origin := c.pc }) x.uid
              (sigOf x.uid h.set) ui d)))))

/-- O39: The operation at the head of a queue starts, its source lines clean and its destination lines dropped; each pair of
rows moves, and counts for the cluster of its issuer (log entry 28), once the pair before has ended, a refresh to which it yields has run, its
banks owe no refresh and no sub-block has its lines to itself, for 90 ns inside a subarray or from zeros and 240 ns
else; a destination page refused by the kernel is passed over and a source page refused gives zeros (log entry 35), a page of either side
that is not resident holds it up with a notice, and one that fails ends it with ADDRESS_RANGE; a refresh that a bank may owe takes 350 ns
after what the bank does, and an operation whose pair uses the bank yields to it; a complete operation leaves its
queue and its flag falls (R175, R185, R186, R377, R378, R420, R421). -/
def Obligations.RowOpEvents : Prop :=
  ∀ (s : State) (stack pch : Nat) (o : NmOp), stack < 16 → pch < 32 → nmHead s stack pch = some o →
    (o.going = false → ∃ u v clean, clean = (if o.zero = true then s else (rowsFound s o stack .read o.ss).foldl (fun s p =>
          (rowLines p.2).foldl cleanLine s) s) ∧
        u = (rowsFound s o stack .write o.sd).foldl (fun s p => (rowLines p.2).foldl (fun s l => dropLine s o l) s) clean ∧
        v = { u with free := u.free + 1 } ∧
        exec (.rowOpStart stack pch) s = .next (modNm v stack pch fun o => { o with going := true })) ∧
    (∀ (u w : State) (dst src : RowLook), o.going = true → o.past = false → o.halted = none → o.row < o.n → o.till ≤ drone s → o.yield ≤ drone s →
      rowLook s o (some stack) .write (rowVa o.sd o.row) = (dst, u) →
      (src, w) = (if o.zero = true then (.refused, u) else rowLook u o (some stack) .read (rowVa o.ss o.row)) →
      (∀ page, dst = .nonres page → exec (.rowPair stack pch) s =
        .next (modNm (nmNotice w o 1 (rowVa o.sd o.row)) stack pch fun o => { o with halted := some page })) ∧
      (dst = .refused → exec (.rowPair stack pch) s = .next (modNm w stack pch fun o => { o with row := o.row + 1 })) ∧
      (dst = .bad → exec (.rowPair stack pch) s =
        .next (modNm (nmCause w o (rowVa o.sd o.row)) stack pch fun o => { o with past := true })) ∧
      (∀ dl dk, dst = .ok dl dk →
        (∀ page, src = .nonres page → exec (.rowPair stack pch) s =
          .next (modNm (nmNotice w o 0 (rowVa o.ss o.row)) stack pch fun o => { o with halted := some page })) ∧
        (src = .bad → exec (.rowPair stack pch) s =
          .next (modNm (nmCause w o (rowVa o.ss o.row)) stack pch fun o => { o with past := true })) ∧
        (src = .refused → (∀ l, l ∈ rowLines dk → locked w l = false) → bankFree w stack (keyBank dk) = true →
          ∀ m v, rowMove (tally w (coreDomain o.core) 20 o.ctx 1) o dl dk none = (m, v) → exec (.rowPair stack pch) s =
            .next (modNm v stack pch fun o => { o with row := o.row + 1, till := drone v + 90, banks := [keyBank dk], wrote := m })) ∧
        (∀ sl sk, src = .ok sl sk → (∀ l, l ∈ rowLines dk ∨ l ∈ rowLines sk → locked w l = false) →
          ∀ m v, rowMove (tally w (coreDomain o.core) 20 o.ctx 1) o dl dk (some (sl, sk)) = (m, v) →
          ((keyBank sk = keyBank dk ∧ keySub sk = keySub dk) → bankFree w stack (keyBank dk) = true → exec (.rowPair stack pch) s =
            .next (modNm v stack pch fun o => { o with row := o.row + 1, till := drone v + 90, banks := [keyBank dk], wrote := m })) ∧
          (¬ (keyBank sk = keyBank dk ∧ keySub sk = keySub dk) → bankFree w stack (keyBank dk) = true → bankFree w stack (keyBank sk) = true →
            exec (.rowPair stack pch) s =
            .next (modNm v stack pch fun o => { o with row := o.row + 1, till := drone v + 240, banks := [keyBank dk, keyBank sk], wrote := m }))))) ∧
    (∀ bank ends busy, bank < 64 → ends = pairEnds s stack (64 * pch + bank) →
      busy = max ends (mget (stackAt s stack).fresh (64 * pch + bank) 0) → busy + 350 ≤ ends + 4 * 350 →
      exec (.refreshDue stack pch bank) s = .next (modStack s stack fun t => { t with
        fresh := mput t.fresh (64 * pch + bank) (busy + 350)
        queues := t.queues.map fun q => (q.1, q.2.map fun o =>
          if drone s < o.till && o.banks.contains (64 * pch + bank) then { o with yield := max o.yield (busy + 350) } else o) })) ∧
    (∀ u, o.going = true → o.halted = none → o.till ≤ drone s → (o.past = true ∨ o.row = o.n) →
      u = (o.wrote.map (·.1)).foldl (fun s l => dropLine s o l) s → noInvs u o.core = true →
      exec (.rowOpComplete stack pch) s = .next (complete (modStack u stack fun t =>
        { t with queues := mmod t.queues pch [] (·.drop 1) }) o.uid o.sig o.ui o.sd))

/-- O40: OBRES of a unit that is free or its own team’s takes it and the slot where the record keeps R217, and the unit is
zeroed where another context used it last; it waits while another team holds the unit or has an operation there that is not complete
(log entry 34); OBREL of a live slot of its team that nothing under way names gives the slot up, and
the unit with the last one; both trap with OB_RANGE otherwise; BATON.take takes a free baton, waits for one that another wave
holds, and BATON.pass hands it to the next wave of the team or traps (R84, R215, R217, R224, R250, R384, R385, R393). -/
def Obligations.ReservationResults : Prop :=
  ∀ (s : State) (c : Cur) (x : Group) (h : Hdr) (k : BitVec 4) (sa : BitVec 6) (e : Env) (post pre : State) (t : Team) (mx : Matrix),
    Goes s c x (engInfo h) (nextWord (engInfo h)) e post → e.act ≠ 0 → pre = { s with free := s.free + 1 } →
    teamOf post x.team = some t → mx = mxAt post e.core →
    (((mx.holder ≠ none ∧ mx.holder ≠ some t.uid) ∨ (∃ o, o ∈ mx.ops ∧ o.team ≠ t.uid) → exec (.obres h k sa) s = .next pre) ∧
      ((mx.holder = none ∨ mx.holder = some t.uid) → (∀ o, o ∈ mx.ops → o.team = t.uid) →
        (recOk mx.recs k.toNat (e.s sa.toNat) (ceilDiv t.ngroups 4) = false → exec (.obres h k sa) s =
          .next (takeTrap pre c.g { code := 0x12, lanes := e.elect, aux := BitVec.ofNat 64 k.toNat } c.pc)) ∧
        (recOk mx.recs k.toNat (e.s sa.toNat) (ceilDiv t.ngroups 4) = true →
          (mx.last = some x.ctx → exec (.obres h k sa) s = .next (atOnce (modMx post e.core fun m =>
            { m with holder := some t.uid, last := some x.ctx, recs := mput m.recs k.toNat (e.s sa.toNat) }) e h)) ∧
          (mx.last ≠ some x.ctx → exec (.obres h k sa) s = .next (atOnce (modMx post e.core fun m =>
            { m with ob := [], acc := [], scale := [], table := [], poison := [], holder := some t.uid, last := some x.ctx, recs := mput m.recs k.toNat (e.s sa.toNat) }) e h))))) ∧
    ((mx.holder ≠ some t.uid ∨ mget? mx.recs k.toNat = none) → exec (.obrel h k) s =
        .next (takeTrap pre c.g { code := 0x12, lanes := e.elect, aux := BitVec.ofNat 64 k.toNat } c.pc)) ∧
    (mx.holder = some t.uid → mget? mx.recs k.toNat ≠ none →
      (slotBusy post e.core t.uid k.toNat = true → exec (.obrel h k) s = .next pre) ∧
      (slotBusy post e.core t.uid k.toNat = false → exec (.obrel h k) s = .next (atOnce (modMx post e.core fun m =>
        { m with recs := mdel m.recs k.toNat, holder := if (mdel m.recs k.toNat).isEmpty then none else m.holder }) e h))) ∧
    (t.baton = none → exec (.batonTake h) s = .next (atOnce (modTeam post t.uid fun t => { t with baton := some (waveOf e.grp) }) e h)) ∧
    (t.baton = some (waveOf e.grp) → exec (.batonTake h) s = .next (atOnce post e h) ∧
      exec (.batonPass h) s = .next (atOnce (modTeam post t.uid fun t => { t with baton := nextWave t (waveOf e.grp) }) e h)) ∧
    (∀ w, t.baton = some w → w ≠ waveOf e.grp → exec (.batonTake h) s = .next pre) ∧
    (t.baton ≠ some (waveOf e.grp) → exec (.batonPass h) s =
      .next (takeTrap pre c.g { code := 0x11, lanes := e.elect, aux := BitVec.ofNat 64 (t.baton.getD 0xFF) } c.pc))

/-- O41: Where its team holds the matrix unit, its wave the baton if it needs it, the queue has room and older stores have
drained, an operation with legal fields is accepted; fields out of range trap with RESERVED_FIELD or OB_RANGE, and a scratchpad
range that leaves the allocation with ADDRESS_RANGE; an operation of a team that does not hold the unit traps with OB_RANGE, whose AUX
is 0 where no slot is named (log entry 34) (R224, R250, R380, R382, R386, R387, R391, R392). -/
def Obligations.MatrixIssues : Prop :=
  ∀ (s : State) (c : Cur) (x : Group) (h : Hdr) (e : Env) (post pre u : State),
    Goes s c x (engInfo h) (nextWord (engInfo h)) e post → e.act ≠ 0 → pre = { s with free := s.free + 1 } →
    ((mxAt post e.core).holder ≠ some x.team → ∀ ui sa sb t, (∀ i, i = Instr.scpy h ui sa sb ∨ i = Instr.ptld h ui t sa → exec i s =
      .next (takeTrap pre c.g { code := 0x12, lanes := e.elect } c.pc))) ∧
    ((mxAt post e.core).holder = some x.team → (mxAt post e.core).ops.length < 8 → u = drainAll post c.g → drained u c.g = true →
      (∀ (ui : Bool) (t : BitVec 3) (sa : BitVec 6), exec (.ptld h ui t sa) s = .next (mxAccept u e h ui 0 (.ptld t.toNat (e.s sa.toNat)))) ∧
      (∀ (ui : Bool) (sa sb : BitVec 6) (w : DWord), w = e.s sb.toNat →
        ((fld w 15 7 < 1 ∨ 64 < fld w 15 7 ∨ fld w 22 10 < 1 ∨ 512 < fld w 22 10) →
          exec (.scpy h ui sa sb) s = .next (trapReserved pre e.elect)) ∧
        (1 ≤ fld w 15 7 → fld w 15 7 ≤ 64 → 1 ≤ fld w 22 10 → fld w 22 10 ≤ 512 →
          ((64 < fld w 0 6 + fld w 15 7 ∨ 512 < fld w 6 9 + fld w 22 10) →
            exec (.scpy h ui sa sb) s = .next (takeTrap pre c.g { code := 0x12, lanes := e.elect } c.pc)) ∧
          (fld w 0 6 + fld w 15 7 ≤ 64 → fld w 6 9 + fld w 22 10 ≤ 512 → exec (.scpy h ui sa sb) s = .next (mxAccept u e h ui 0
            (.scpy (e.s sa.toNat) (ofInt64 (sextNat 32 (fld w 32 32))) (fld w 22 10) (fld w 15 7) (fld w 6 9) (fld w 0 6)))))) ∧
      (hasBaton post e = true →
        (∀ (a b : SImm) (row n : Nat), row = (e.simm a).toNat → n = (e.simm b).toNat →
          (n = 0 → exec (.accz h a b) s = .next (trapReserved pre e.elect)) ∧
          (n ≠ 0 → 2048 < row + n → exec (.accz h a b) s = .next (takeTrap pre c.g { code := 0x12, lanes := e.elect } c.pc)) ∧
          (n ≠ 0 → row + n ≤ 2048 → exec (.accz h a b) s = .next (mxAccept u e h false 0 (.accz row n)))) ∧
        (∀ (i : Instr) (ui : Bool) (t : Ty) (r : Rnd) (sa sb : BitVec 6) (w a stride : DWord) (scr : Bool) (k : MxKind) (size : Nat),
          w = e.s sb.toNat → a = e.s sa.toNat → stride = ofInt64 (sextNat 32 (fld w 32 32)) → scr = bit w 23 →
          ((i = .accld h t ui sa sb ∧ k = .accld a stride scr (fld w 11 12) (fld w 0 11) ∧ size = t.size) ∨
            (i = .accst h t r ui sa sb ∧ k = .accst t r e.ftz a stride scr (fld w 11 12) (fld w 0 11) ∧ size = t.size)) →
          ((fld w 24 8 ≠ 0 ∨ fld w 11 12 < 1 ∨ 2048 < fld w 11 12) → exec i s = .next (trapReserved pre e.elect)) ∧
          (fld w 24 8 = 0 → 1 ≤ fld w 11 12 → fld w 11 12 ≤ 2048 →
            (2048 < fld w 0 11 + fld w 11 12 → exec i s = .next (takeTrap pre c.g { code := 0x12, lanes := e.elect } c.pc)) ∧
            (fld w 0 11 + fld w 11 12 ≤ 2048 →
              (scr = true → spanIn a stride (32 * size) (fld w 11 12) (myTeam u e).scratch = false →
                exec i s = .next (takeTrap pre c.g { code := 0x18, lanes := e.elect } c.pc)) ∧
              ((scr = false ∨ spanIn a stride (32 * size) (fld w 11 12) (myTeam u e).scratch = true) →
                exec i s = .next (mxAccept u e h ui 0 k)))))))

/-- O42: Where its team holds the unit, its wave the baton, the queue has room and older stores have drained, an MMA whose
record lies on a non-resident page is complete at once and clears its residency predicate; one whose record, reservation, types,
bytes, scales and registers keep the rules is accepted and lends its B registers of every group of its wave; a record whose
fields are reserved traps with RESERVED_FIELD, and a slot that is not live or of another wave with OB_RANGE (R216, R217, R218,
R219, R220, R223, R382, R388, R389). -/
def Obligations.MmaIssues : Prop :=
  ∀ (s : State) (c : Cur) (x : Group) (h : Hdr) (sat ui : Bool) (sa : BitVec 6) (pk : BitVec 3) (e : Env) (post pre u v : State),
    Goes s c x (engInfo h true) (nextWord (engInfo h true)) e post → e.act ≠ 0 → pre = { s with free := s.free + 1 } →
    (mxAt post e.core).holder = some x.team → (mxAt post e.core).ops.length < 8 → u = drainAll post c.g → drained u c.g = true →
    hasBaton post e = true →
    (∀ code a aux, readRec u e (e.s sa.toNat) 64 64 = (.bad code a aux, v) →
      exec (.mma h sat ui sa pk) s = .next (takeTrap pre c.g { code := code, lanes := e.elect, addr := a, aux := aux } c.pc)) ∧
    (readRec u e (e.s sa.toNat) 64 64 = (.nonres, v) → exec (.mma h sat ui sa pk) s =
      .next (clearRes (modGroup v c.g fun y => if h.set.toNat < 12 then setFlag y h.set.toNat (flagOf y h.set.toNat - 1) else y)
        c.g pk.toNat (lanesOf e.act))) ∧
    (∀ (bs : List Byte) (f : Nat → Nat → Nat) (m k ah acc bscol vb : Nat) (legal : Prop), readRec u e (e.s sa.toNat) 64 64 = (.ok bs, v) →
      f = recNat bs → m = f 0 1 → k = f 2 2 → ah = f 4 1 → vb = f 6 2 → acc = f 8 2 → bscol = f 0xA 2 →
      (legal ↔ f 0xC 1 / 2 = 0 ∧ f 0xD 3 = 0 ∧ f 0x1A 38 = 0 ∧ (m = 16 ∨ m = 32) ∧ f 1 1 = 32 ∧ 32 ≤ k ∧ k ≤ 512 ∧ k % 32 = 0 ∧ bscol ≤ 511) →
      (¬ legal → exec (.mma h sat ui sa pk) s = .next (trapReserved pre e.elect)) ∧
      (legal → (mget? (mxAt v e.core).recs ah = none ∨ ∃ r, mget? (mxAt v e.core).recs ah = some r ∧ fld r 46 2 ≠ waveOf e.grp) →
        exec (.mma h sat ui sa pk) s = .next (takeTrap pre c.g { code := 0x12, lanes := e.elect, aux := BitVec.ofNat 64 ah } c.pc)) ∧
      (∀ r aty bty, legal → mget? (mxAt v e.core).recs ah = some r → fld r 46 2 = waveOf e.grp →
        tablePending (mxAt v e.core) r = false → Ty.ofCode (BitVec.ofNat 4 (recFmt r)) = some aty → f 5 1 < 16 →
        Ty.ofCode (BitVec.ofNat 4 (f 5 1)) = some bty → mmaTypes aty bty sat = true → mmaBytesOk (mxAt v e.core) r aty m k = true →
        (aty = .b4 → fld r 37 9 + ceilDiv k (mmaBl r) ≤ 512 ∧ bscol + ceilDiv k (mmaBl r) ≤ 512) → acc + m ≤ 2048 →
        vb + mmaNb bty k ≤ regCount e.grp →
        exec (.mma h sat ui sa pk) s = .next (mxAccept
          (lendWave v x.team (waveOf e.grp) ((List.range (mmaNb bty k)).map (· + vb))) e h ui (f 0x18 2)
          (.mma m k ah r bty vb acc bscol (f 0xC 1 % 2 == 1) sat (recD bs 0x10) (waveOf e.grp)))))

/-- O43: The operation at the head presents its request and starts once its grant is live; an MMA completes once every member that its
wave had at its issue is there and its lent registers are full: the registers return, the accumulator tile takes the products, MSTAT their
flags, the count at DONETASK falls, and the next operation takes over; another operation runs once its current is live and no sub-block has
a line of it to itself, and completes once its bytes are at home; the members awaited are log entry 34, and the events counted, products of
an MMA and one for another operation, log entry 28 (R52, R175, R220, R225, R227, R382, R390, R391, R392). -/
def Obligations.MatrixEvents : Prop :=
  ∀ (s u : State) (core : Nat) (o : MxOp) (r : List MxOp), core < 512 →
    (u = mxPresent s core → (mxAt u core).ops = o :: r → exec (.mmaStart core) s =
      .next (if liveAt u (coreDomain core) o.req = true then modOp u core fun o => { o with going := true } else u)) ∧
    (u = mxStart s core → (mxAt u core).ops = o :: r →
      (∀ m k ah rc b vb acc bs z sat d w, o.kind ≠ .mma m k ah rc b vb acc bs z sat d w) → o.dead = false →
      (o.req = 0 ∨ o.going = true) → (o.moved = true ∨ mxHeld u core o = false) →
      ∃ v, v = (if o.moved = true then u else modOp (mxTally (runMx u core o) core o) core fun o => { o with moved := true }) ∧
        (noInvs v core = true → exec (.matrixOpComplete core) s = .next (mxDone v core o)) ∧
        (noInvs v core = false → exec (.matrixOpComplete core) s = .next v)) ∧
    (∀ (m k ah : Nat) (rc : DWord) (aty bty : Ty) (vb acc bs : Nat) (z sat : Bool) (done : DWord) (w : Nat) (ms : List (Option Group)),
      (mxAt s core).ops = o :: r → o.kind = .mma m k ah rc bty vb acc bs z sat done w → o.dead = false → o.going = true →
      waveMembers s o w = some ms → (∀ y, some y ∈ ms → ∀ i, i < mmaNb bty k → isEmpty y (i + vb) = false) →
      Ty.ofCode (BitVec.ofNat 4 (recFmt rc)) = some aty → mmaPoison (mxAt s core) rc aty m k = none →
      ∃ tile fl v, mmaTile (mxAt s core) ms aty bty rc m k vb acc bs z sat = (tile, fl) ∧
        v = orMstat (modMx (returnWave (mxTally s core o) o w ((List.range (mmaNb bty k)).map (· + vb))) core fun q => { q with acc := tile }) o.uid fl ∧
        exec (.mmaComplete core) s = .next (mxDone (if done = 0 then v else sendDec v o.ctx done 0 false core) core o))

/-- O44: Once its release at its scope is complete, BAR parks the lanes whose guard is true at the next word, and the barrier
completes when every group of the team that has not retired stands there, a saved one counting as not arrived (log entry 19); TNOW gives the drone time plus its source, never less
than the group has read; TWAIT parks its stream until its time, which may have come; GWNOTE traps on an address that is no
multiple of 8 and otherwise, after a release at dev scope, enters the address in the note table of every walker that holds a
live graph of the context, waiting, its release done, while one is full (R39, R40, R108, R304, R309, R310, R311). -/
def Obligations.BarrierAndTimeResults : Prop :=
  ∀ (s : State) (c : Cur) (x : Group) (h : Hdr) (e : Env) (post pre u : State),
    pre = { s with free := s.free + 1 } →
    (∀ sc : Scope, Goes s c x { h := h, once := true } (splitTo { h := h, once := true } (fun e => nextPc e.pc h.sp) fun _ => .bar sc) e post →
      e.act ≠ 0 →
      (ReleasedTo pre post c.g sc u → exec (.bar h sc) s = .next (barStep (atOnce u e h) x.team)) ∧
      ((release pre c.g sc).1 = false → exec (.bar h sc) s = .next (release pre c.g sc).2)) ∧
    (∀ (t : Team) (gs : List (Nat × Group)), teamOf u x.team = some t → gs = u.groups.filter (fun p => p.2.team == x.team && !p.2.done) →
      ((gs.length ≠ t.left ∨ ∃ p, p ∈ gs ∧ atBar p.2 = false) → barStep u x.team = u) ∧
      (gs ≠ [] → gs.length = t.left → (∀ p, p ∈ gs → atBar p.2 = true) → barStep u x.team = gs.foldl (fun v p =>
        modGroup (p.2.paths.foldl (fun v q => match q.wait with
          | .bar sc => acquire v (slotCore p.1) sc
          | _ => v) v) p.1 leaveBar) u)) ∧
    (∀ (d : Reg) (a : SImm) (n : Nat), Goes s c x (infoOf h d true none none []) (nextWord { h := h }) e post →
      actsIn e (infoOf h d true none none []) = true → n = max x.tnow (flaskDrone post (coreFlask e.core)) →
      exec (.tnow h d a) s = .next (fixTail (writeD (modGroup post c.g fun y => { y with tnow := n }) e d true 6
        fun _ => (BitVec.ofNat 64 n + e.simm a).toNat) e h 6 0)) ∧
    (∀ sa : BitVec 6, Goes s c x { h := h, once := true }
        (fun e => [(nextPc e.pc h.sp, if e.act = 0 then .run else .time (e.s sa.toNat), e.lanes)]) e post → e.act ≠ 0 →
      exec (.twait h sa) s = .next (wakeTimes (atOnce post e h) c.g)) ∧
    (∀ (sa : BitVec 6) (va : DWord), Goes s c x { h := h, once := true, mem := true } (nextWord { h := h }) e post → e.act ≠ 0 →
      va = e.s sa.toNat →
      (va.toNat % 8 ≠ 0 → exec (.gwnote h sa) s = .next (takeTrap pre c.g { code := 0x05, lanes := e.act, addr := va } c.pc)) ∧
      (va.toNat % 8 = 0 →
        (∀ v, release pre c.g .dev = (true, v) → (∃ fl, fl ∈ noteFlasks v x.ctx ∧ va ∉ (flaskAt v fl).notes ∧ 64 ≤ (flaskAt v fl).notes.length) →
          exec (.gwnote h sa) s = .next v) ∧
        (ReleasedTo pre post c.g .dev u →
          (∀ fl, fl ∈ noteFlasks u x.ctx → va ∉ (flaskAt u fl).notes → (flaskAt u fl).notes.length < 64) →
          exec (.gwnote h sa) s = .next (atOnce (((noteFlasks u x.ctx).filter fun fl => !(flaskAt u fl).notes.contains va).foldl (fun v fl =>
            modFlask v fl fun f => { f with notes := f.notes ++ [va] }) u) e h))))

/-- O45: PHASE of a task without a grid traps; otherwise its lanes stand at it with its extra count, and a second word or a
count above 65,535 traps; once every lane stands there, nothing is lent or fenced, what is carried is full, the record slots are
resident and the release at dev scope is complete, the phase ends, a wait for a fence under way being log entry 37; SIGNAL of a successor that the task does not have traps, of
one that has been delivered counts nothing, and otherwise, after a release at dev scope, marks it sent and sends its decrement,
whose arrival lets the flag fall (R95, R98, R99, R100, R305, R306). -/
def Obligations.PhaseAndSignalResults : Prop :=
  ∀ (s : State) (c : Cur) (x : Group) (h : Hdr) (e : Env) (post pre : State),
    pre = { s with free := s.free + 1 } → e.act ≠ 0 →
    (∀ (n : SImm) (extra : Env → Nat) (v : State) (y : Group), extra = (fun e => match n with
        | .imm k => k.toNat
        | .s k => (e.s k.toNat).toNat % 65536) →
      Goes s c x { h := h, once := true } (splitTo { h := h, once := true } (fun e => e.pc) fun e => .phase (extra e)) e post →
      (launchFor post e.grp = none → exec (.phase h n) s = .next (trapReserved pre e.act)) ∧
      (launchFor post e.grp ≠ none → v = modGroup (atOnce post e h) c.g (joinPhase c.pc (extra e) e.act (c.word.extractLsb' 32 64)) → groupAt v c.g = some y →
        (phaseBad v y = true → exec (.phase h n) s = .next (trapReserved pre e.act)) ∧
        (phaseBad v y = false → exec (.phase h n) s = .next (phaseStep v c.g)))) ∧
    (∀ (u : State) (g : Nat) (y z : Group) (l : Launch) (t : Nat) (w : Nat) (r : List Nat), groupAt u g = some y → launchFor u y = some (l, t) →
      (phaseWords y = [] → phaseStep u g = u) ∧
      (phaseWords y = w :: r → phaseBad u y = false →
        ((y.lent ≠ [] ∨ y.fence ≠ none ∨ ∃ v, v ∈ carriedV l.carry ∧ isEmpty y v = true) → phaseStep u g = u) ∧
        (y.lent = [] → y.fence = none → (∀ v, v ∈ carriedV l.carry → isEmpty y v = false) → phaseMissing u l t y = none →
          ∀ ok v, release (stopStreams (endBurst u g) g) g .dev = (ok, v) → groupAt v g = some z →
            phaseStep u g = if ok = true then endPhase v g z l t (BitVec.ofNat 32 w) else v))) ∧
    (∀ (i : SImm) (k : Nat), Goes s c x { h := h, once := true, mem := true } (nextWord { h := h }) e post → k = (match i with
        | .imm k => k.toNat
        | .s k => (e.s k.toNat).toNat % 16) →
      (taskSucc post e.grp ≤ k → exec (.signal h i) s = .next (trapReserved pre e.act)) ∧
      (k < taskSucc post e.grp →
        (sentBit post x.ctx e.grp.handle k = true → exec (.signal h i) s =
          .next (if h.set.toNat < 12 then modGroup post c.g fun x => setFlag x h.set.toNat (flagOf x h.set.toNat - 1) else post)) ∧
        (∀ u, sentBit post x.ctx e.grp.handle k = false → ReleasedTo pre post c.g .dev u → sentBit u x.ctx e.grp.handle k = false →
          ∃ v, v = putRec u x.ctx e.grp.handle 0x0C 2 (recField u x.ctx e.grp.handle 0x0C 2 + 2 ^ k) ∧
            exec (.signal h i) s = .next { v with decs := v.decs ++ [{ ctx := x.ctx, handle := successor u x.ctx e.grp.handle k, bySrc := e.grp.handle, poison := false, sig := sigOf x.uid h.set, src := ((taskOf v x.ctx e.grp.handle).map fun t => t.core).getD 0xFFFF }] })))

/-- O46: A SPAWN whose record lies on a non-resident page counts nothing and clears its residency predicate; a record that
breaks its rules traps; otherwise, after a release at dev scope, a task is published as a team of one group, a grid is launched
unless a record slot is not resident, which parks the SPAWN at its word with a notice, and a graph starts on the walker of the
flask, waiting while that is full; AMSG traps on another context or a target that does not exist, waits while the destination is
full, messages on their way counted in (log entry 38), and sends one message for each lane (R92, R103, R106, R111, R113, R307, R308, R425). -/
def Obligations.SpawnResults : Prop :=
  ∀ (s : State) (c : Cur) (x : Group) (h : Hdr) (sa : BitVec 6) (e : Env) (post pre v : State),
    pre = { s with free := s.free + 1 } → e.act ≠ 0 →
    (∀ pk : BitVec 3, Goes s c x { h := h, once := true, mem := true } (nextWord { h := h }) e post →
      (∀ i n, (i = Instr.spawnTask h sa pk ∧ n = 64) ∨ (i = Instr.spawnGrid h sa pk ∧ n = 256) ∨ (i = Instr.spawnGraph h sa pk ∧ n = 32) →
        (∀ code a aux, readRec post e (e.s sa.toNat) 1 n = (.bad code a aux, v) →
          exec i s = .next (takeTrap pre c.g { code := code, lanes := e.act, addr := a, aux := aux } c.pc)) ∧
        (readRec post e (e.s sa.toNat) 1 n = (.nonres, v) → exec i s = .next (clearRes (uncount v e h) c.g pk.toNat (lanesOf e.act)))) ∧
      (∀ bs, readRec post e (e.s sa.toNat) 1 64 = (.ok bs, v) →
        (taskOk bs (e.s sa.toNat) x.ctx e.grp.sysT = false → exec (.spawnTask h sa pk) s = .next (trapReserved pre e.act)) ∧
        (∀ u, taskOk bs (e.s sa.toNat) x.ctx e.grp.sysT = true → ReleasedTo pre v c.g .dev u →
          exec (.spawnTask h sa pk) s = .next (publishTask (atOnce u e h) e.core x.ctx (e.s sa.toNat) (recD bs 0)))) ∧
      (∀ bs l, readRec post e (e.s sa.toNat) 1 256 = (.ok bs, v) → l = launchOf bs (e.s sa.toNat) →
        (launchOk v bs l x.ctx e.grp.sysT = false → exec (.spawnGrid h sa pk) s = .next (trapReserved pre e.act)) ∧
        (launchOk v bs l x.ctx e.grp.sysT = true →
          (∀ a u, slotMissing v l = some a → u = residNotice pre 3 0 x.ctx 1 e.core (c.g % 64) a →
            exec (.spawnGrid h sa pk) s = .next (modGroup { u with cur := none } c.g fun x => holdPaths (mapWait x fun p =>
              if p.lanes &&& e.lanes != 0 then { p with wait := .resid (a.toNat % 2 ^ 56 / 4096), live := [], whole := true } else p))) ∧
          (∀ u, slotMissing v l = none → ReleasedTo pre v c.g .dev u →
            exec (.spawnGrid h sa pk) s = .next (launchGrid (atOnce u e h) l e.grp.sysT (.core e.core)).2))) ∧
      (∀ (bs : List Byte) (fl : Nat) (legal : Prop), readRec post e (e.s sa.toNat) 1 32 = (.ok bs, v) → fl = coreFlask e.core →
        (legal ↔ (recD bs 0).toNat % 32 = 0 ∧ recNat bs 0x0C 4 < recNat bs 8 4 ∧ (recD bs 0x10).toNat % 8 = 0 ∧ recNat bs 0x18 8 = 0) →
        (¬ legal → exec (.spawnGraph h sa pk) s = .next (trapReserved pre e.act)) ∧
        (legal → (64 ≤ (flaskAt v fl).insts.length ∨ 256 ≤ threadCount (flaskAt v fl)) → exec (.spawnGraph h sa pk) s = .next pre) ∧
        (∀ u, legal → (flaskAt v fl).insts.length < 64 → threadCount (flaskAt v fl) < 256 → ReleasedTo pre v c.g .dev u →
          exec (.spawnGraph h sa pk) s = .next (modFlask (atOnce u e h) fl fun f => { f with
            insts := f.insts ++ [{ num := f.inst, ctx := x.ctx, sysT := e.grp.sysT, nodes := recD bs 0, ncount := recNat bs 8 4, gdone := recD bs 0x10, threads := [{ id := 0, node := recNat bs 0x0C 4 }] }],
            inst := f.inst + 1 })))) ∧
    (∀ (vb : BitVec 10) (w : DWord) (d : Nat) (port : Option Nat) (msg : Nat → Nat → Msg),
      Goes s c x { h := h, cB := (List.range 12).map (· + vb.toNat), mem := true } (nextWord { h := h }) e post → w = e.s sa.toNat → d = fld w 48 16 →
      port = (if 0x1000 ≤ d ∧ d < 0x1000 + 512 * 12 then some ((d - 0x1000) / 512) else none) →
      msg = (fun op l =>
        { bytes := messageBytes (fld w 0 8) (fld w 8 8) 0 (fld w 24 8) e.core (if port.isSome then d % 512 else d) 0 ((List.range 12).map fun k => natBytes 4 (e.v (vb.toNat + k) l).toNat).flatten, dest := (if port.isSome then d % 512 else d), op := op, src := e.core, port := port }) →
      (fld w 8 8 ≠ x.ctx → exec (.amsg h sa vb) s = .next (takeTrap pre c.g { code := 0x06, lanes := e.act } c.pc)) ∧
      (fld w 8 8 = x.ctx →
        (512 ≤ d → d ≠ 0xFFFF → (∀ p, port = some p → peerUp post p = false) →
          exec (.amsg h sa vb) s = .next (takeTrap pre c.g { code := 0x18, lanes := e.act } c.pc)) ∧
        ((d < 512 ∨ d = 0xFFFF) → 64 ≤ msgLoad post (msgCore post (msg 0 0).bytes) → exec (.amsg h sa vb) s = .next pre) ∧
        ((d < 512 ∨ d = 0xFFFF) → msgLoad post (msgCore post (msg 0 0).bytes) < 64 →
          ∃ id u, newOp post x.uid (sigOf x.uid h.set) (lanesOf e.act).length = (id, u) ∧
            exec (.amsg h sa vb) s = .next { u with msgs := u.msgs ++ (lanesOf e.act).map (msg id) }) ∧
        (∀ p, port = some p → peerUp post p = true →
          (64 ≤ portLoad post p → exec (.amsg h sa vb) s = .next pre) ∧
          (portLoad post p < 64 → ∃ id u, newOp post x.uid (sigOf x.uid h.set) (lanesOf e.act).length = (id, u) ∧
            exec (.amsg h sa vb) s = .next { u with msgs := u.msgs ++ (lanesOf e.act).map (msg id) }))))

/-- O47: APXB sends the inputs of its lanes to the engine of the flask, and its lanes wait at the word with their regions open
and its outputs empty; APXE closes the regions of its lanes and sends a sample for each that was open, up to 256 in the queue, those of
different groups in the order of their APXEs (log entry 36);
FTCFG writes a legal record and sets the region to IDLE in every engine, its failures kept; FTINV makes it INVALID in every engine; FTSTAT reads
its status; a region above 255 traps (R229, R231, R233, R234, R241, R394, R395, R396, R397, R398). -/
def Obligations.FitResults : Prop :=
  ∀ (s : State) (c : Cur) (x : Group) (h : Hdr) (e : Env) (post pre u : State),
    pre = { s with free := s.free + 1 } → e.act ≠ 0 →
    (∀ (id : SImm) (vin vout : BitVec 10) (nin : BitVec 3) (nout : BitVec 2) (fin : BitVec 12) (ins outs : List Nat) (i : Info),
      ins = (List.range (nin.toNat + 1)).map (· + vin.toNat) → outs = (List.range (nout.toNat + 1)).map (· + vout.toNat) →
      i = { h := h, cA := ins, vw := outs } → Goes s c x i (splitTo i (fun e => e.pc) fun _ => .apx 0) e post →
      (e.region id = none → exec (.apxb h id vin nin vout nout fin) s = .next (trapReserved pre e.act)) ∧
      (∀ rid lanes, e.region id = some rid → lanes = (lanesOf e.act).map (fun l => (l, ins.map fun r => e.v r l)) →
        u = modGroup { post with nextUid := post.nextUid + 1 } c.g (openRegion post.nextUid rid vout.toNat outs c.pc lanes) →
        exec (.apxb h id vin nin vout nout fin) s = .next (modFlask u (coreFlask e.core) fun f => { f with
          reqs := f.reqs ++ [{ id := post.nextUid, uid := x.uid, ctx := x.ctx, rid := rid, lanes := lanes, nout := outs.length, vout := vout.toNat, fin := fin.toNat, pc := c.pc, granule := codeGranule u x.ctx c.pc, sig := sigOf x.uid h.set }] }))) ∧
    (∀ (opens : List (Nat × Open)) (qs : List Sample), Goes s c x { h := h } (nextWord { h := h }) e post →
      opens = (lanesOf e.act).filterMap (fun l => (mget? e.grp.apx l).map fun o => (l, o)) →
      qs = opens.map (fun p => ({ ctx := x.ctx, id := p.2.id, xs := p.2.input, ys := ((List.range p.2.nout).map (· + p.2.vout)).map fun r => e.v r p.1 } : Sample)) →
      ((∃ p, p ∈ opens ∧ ∃ k, k < p.2.nout ∧ isEmpty e.grp (k + p.2.vout) = true) → exec (.apxe h) s = .next pre) ∧
      ((∀ p, p ∈ opens → ∀ k, k < p.2.nout → isEmpty e.grp (k + p.2.vout) = false) → exec (.apxe h) s = .next (atOnce (modGroup
        (modFlask post (coreFlask e.core) fun f => { f with samples := f.samples ++ qs.take (256 - f.samples.length) }) c.g fun y =>
          { y with apx := y.apx.filter fun p => !inLanes e.act p.1 }) e h))) ∧
    (∀ (id : SImm) (sa : BitVec 6) (v : State), Goes s c x (engInfo h true) (nextWord (engInfo h true)) e post →
      u = drainAll post c.g → drained u c.g = true →
      (e.region id = none → exec (.ftcfg h id sa) s = .next (trapReserved pre e.elect)) ∧
      (∀ rid, e.region id = some rid →
        (∀ code a aux, readRec u e (e.s sa.toNat) 1 32 = (.bad code a aux, v) → exec (.ftcfg h id sa) s =
          .next (takeTrap pre c.g { code := code, lanes := e.elect, addr := a, aux := aux } c.pc)) ∧
        (readRec u e (e.s sa.toNat) 1 32 = (.nonres, v) → exec (.ftcfg h id sa) s =
          .next (atOnce (residNotice v 5 0 x.ctx 0 e.core (c.g % 64) (e.s sa.toNat)) e h)) ∧
        (∀ bs, readRec u e (e.s sa.toNat) 1 32 = (.ok bs, v) →
          (((e.s sa.toNat).toNat % 32 ≠ 0 ∨ regionOk bs = false) → exec (.ftcfg h id sa) s = .next (trapReserved pre e.elect)) ∧
          ((e.s sa.toNat).toNat % 32 = 0 → regionOk bs = true → exec (.ftcfg h id sa) s = .next (atOnce (idleEverywhere
            (ctxWrite (settleFit v) x.ctx (regionVa v x.ctx rid) bs) x.ctx rid (regionOf bs)) e h))))) ∧
    (∀ (id : SImm) (d : BitVec 6), Goes s c x (engInfo h) (nextWord (engInfo h)) e post →
      (e.region id = none → exec (.ftstat h d id) s = .next (trapReserved pre e.elect) ∧
        (u = drainAll post c.g → drained u c.g = true → exec (.ftinv h id) s = .next (trapReserved pre e.elect))) ∧
      (∀ rid, e.region id = some rid →
        (u = drainAll post c.g → drained u c.g = true → exec (.ftinv h id) s = .next (atOnce (invalidate (settleFit u) x.ctx rid) e h)) ∧
        (∀ v, v = settleFit post → exec (.ftstat h d id) s = .next (varResult v e h [] [] (some (d.toNat, fitStat v.free
          ((fitSlot v (coreFlask e.core) x.ctx rid).or (loadSlot v (coreFlask e.core) x.ctx rid 0)))) 0 false))))

/-- O48: The engine answers its oldest request, which occupies it for 8 fabric cycles: with nothing for a region that has not been
configured or is not in SUBST, and with the outputs of the pattern in SUBST; a reply writes the outputs, splits the path and lets
the flag fall; the sample at the head of the queue stays while a request occupies the engine or the last sample lies too near,
and leaves it then, and the slot of its region, allocated and used for it, takes it, one that completes a training batch holding the next
back for 64 cycles more; a reply whose lanes run a handler waits for them (log entry 25), and what a sample does to the slots is log entry
36 (R230, R232, R234, R235, R236, R237, R240, R394). -/
def Obligations.FitEvents : Prop :=
  ∀ (s u o : State) (fl : Nat), fl < 32 → u = settleFit s → o = occupy u fl →
    (∀ q r v, (flaskAt u fl).reqs.find? (fun q => q.reply.isNone) = some q →
      (regionRec o q.ctx q.rid = none → exec (.fitRequest fl) s = .next (answerReq o fl q.id [] true)) ∧
      (regionRec o q.ctx q.rid = some r → v = requestSlot o fl q r → ∀ y, fitSlot v fl q.ctx q.rid = some y →
        (y.st ≠ 4 → exec (.fitRequest fl) s = .next (answerReq v fl q.id [] false)) ∧
        (y.st = 4 → ∀ ls lec, substitute r y q = (ls, lec) → exec (.fitRequest fl) s =
          .next (answerReq (modSlot v fl q.ctx q.rid fun y => { y with lec := lec }) fl q.id ls false)))) ∧
    (∀ id q, (s.flasks.map fun p => p.2.reqs).flatten.find? (fun q => q.id == id && q.reply.isSome) = some q →
      (∀ g x, slotOf s q.uid = some g → groupAt s g = some x → ¬ (x.uiAct = true ∧ x.uiWait = .apx id)) →
      exec (.apxbReply id) s = .next (fall (modUid { s with
        flasks := s.flasks.map fun p => (p.1, { p.2 with reqs := p.2.reqs.filter fun y => y.id != id }) } q.uid (replyTo (((slotOf s q.uid).map fun g =>
          (coreAt s (slotCore g)).cycle).getD 0) q)) q.sig)) ∧
    ((u.fab < (flaskAt u fl).fitBusy ∨ u.fab < (flaskAt u fl).fitNext) → exec (.fitSample fl) s = .next u) ∧
    (∀ q rest v, (flaskAt u fl).samples = q :: rest → (flaskAt u fl).fitBusy ≤ u.fab → (flaskAt u fl).fitNext ≤ u.fab →
      v = modFlask u fl (fun f => { f with samples := rest, fitNext := u.fab + 8 }) →
      (regionRec v q.ctx q.id = none → exec (.fitSample fl) s = .next v) ∧
      (∀ r w y z, regionRec v q.ctx q.id = some r → w = useSlot v fl q.ctx q.id r → fitSlot w fl q.ctx q.id = some y →
        z = takeSample r y q → exec (.fitSample fl) s = .next (modFlask (modSlot w fl q.ctx q.id fun _ => z) fl fun f => { f with
          fitNext := w.fab + (if (y.st = 2 ∨ y.st = 5) ∧ y.batch.length = 31 ∧ z.batch = [] then 72 else 8) })))

/-- O49: In a system team of a privileged context, SYSRD brings the register that its selector names and SYSWR, after a release
at dev scope, writes it, both trapping on a selector that names none; SLCFG, once older stores have drained, of a flask that repartitions waits,
of one whose partition stands is complete at once, and of another starts a repartition, which limits L2; TLBINV, after a release
at dev scope, drops the covered entries and lines, and the slots of a whole context that is no longer resident (log entry 36), and waits for the
sub-blocks that run under them and for the lines and stores that a sub-block holds back; a flask above 31, a context above 255, or a size
that does not exist traps, and so does an address that is no multiple of its page (R12, R13, R168, R241, R275, R399, R400, R401, R402,
R403). -/
def Obligations.SystemResults : Prop :=
  ∀ (s : State) (c : Cur) (x : Group) (h : Hdr) (e : Env) (post pre : State),
    Goes s c x (sysInfo h) (nextWord (sysInfo h)) e post → e.act ≠ 0 → pre = { s with free := s.free + 1 } →
    (∀ (d sa sb : BitVec 6) (k : Nat), k = (e.s sa.toNat).toNat →
      ((2 ^ 17 ≤ k ∨ selOk k = false) → ∀ i, i = Instr.sysrd h d sa ∨ i = Instr.syswr h sa sb → exec i s = .next (trapReserved pre e.elect)) ∧
      (k < 2 ^ 17 → selOk k = true →
        exec (.sysrd h d sa) s = .next (varResult post e h [] [] (some (d.toNat, sysRead post k)) 0 false) ∧
        (∀ u, ReleasedTo pre post c.g .dev u → exec (.syswr h sa sb) s = .next (atOnce (regWrite u e.core k (e.s sb.toNat)) e h)) ∧
        ((release pre c.g .dev).1 = false → exec (.syswr h sa sb) s = .next (release pre c.g .dev).2))) ∧
    (∀ (a : SImm) (fl n : Nat) (p : State), fl = (e.simm a).toNat → p = drainAll post c.g → n = sysFld p (sel 1 fl) 0 4 →
      (32 ≤ fl → exec (.slcfg h a) s = .next (trapReserved pre e.elect)) ∧
      (fl < 32 → drained p c.g = false → exec (.slcfg h a) s = .next pre) ∧
      (fl < 32 → drained p c.g = true → sysFld p (sel 1 fl) 8 1 = 1 →
        exec (.slcfg h a) s = .next { p with waiters := p.waiters ++ [{ what := .slcfg fl, sig := sigOf x.uid h.set }] }) ∧
      (fl < 32 → drained p c.g = true → sysFld p (sel 1 fl) 8 1 ≠ 1 →
        (n = curL2 p fl → exec (.slcfg h a) s = .next (fall p (sigOf x.uid h.set))) ∧
        (n ≠ curL2 p fl → ∃ t u, t = setSysFld p (sel 1 fl) 8 1 1 ∧
          u = modFlask (limitL2 (cutFor t fl n) fl n) fl (fun f => { f with repart := some n }) ∧
          exec (.slcfg h a) s = .next { u with waiters := u.waiters ++ [{ what := .notBusy fl, sig := sigOf x.uid h.set }] }))) ∧
    (∀ (ctx : SImm) (sa : BitVec 6) (size : BitVec 4) (k bits lo : Nat) (va : DWord) (legal : Prop), k = (e.simm ctx).toNat →
      va = e.s sa.toNat → bits = (pageBits size.toNat).getD 56 → lo = va.toNat % 2 ^ 56 →
      (legal ↔ k < 256 ∧ (size.toNat ≤ 11 ∨ size = 15) ∧ (size = 15 → va = 0)) →
      (¬ legal → exec (.tlbinv h ctx sa size) s = .next (trapReserved pre e.elect)) ∧
      (legal → size ≠ 15 → va.toNat % 2 ^ bits ≠ 0 → exec (.tlbinv h ctx sa size) s =
        .next (takeTrap pre c.g { code := 0x05, lanes := e.elect, addr := va } c.pc)) ∧
      (∀ u w v ids, legal → (size = 15 ∨ va.toNat % 2 ^ bits = 0) → ReleasedTo pre post c.g .dev u →
        w = flushPages (dropEntries u k lo (lo + 2 ^ bits)) k lo (lo + 2 ^ bits) →
        v = (if size = 15 ∧ ctxResident w k = false then dropFit w k else w) → ids = coveredSubs v k lo (lo + 2 ^ bits) →
        exec (.tlbinv h ctx sa size) s = .next (if ids = [] ∧ pagesHeld v k lo (lo + 2 ^ bits) = false then fall v (sigOf x.uid h.set)
          else { v with waiters := v.waiters ++ [{ what := .subs k lo (lo + 2 ^ bits) ids, sig := sigOf x.uid h.set }] })))

/-- O50: CRES asks for the current of its duration, 6 units for a vector burst or those it names where its team is privileged,
and traps on a duration or a current out of range and with PRIVILEGE elsewhere, the checks of an immediate coming with those of the word
(log entry 15); CRREL ends the burst of the group; once older stores have drained, QUIESCE parks or resumes another
context and is complete at once for one that is not resident, HALT parks and gates or releases another flask and is complete at once for
one that is there already; a target that does not exist or is the own traps (R48, R49, R257, R275, R404, R405, R406, R407). -/
def Obligations.CurrentAndHaltResults : Prop :=
  ∀ (s : State) (c : Cur) (x : Group) (h : Hdr) (e : Env) (post pre : State),
    e.act ≠ 0 → pre = { s with free := s.free + 1 } →
    (Goes s c x { h := h, once := true, elect := true } (nextWord { h := h }) e post →
      exec (.crrel h) s = .next (atOnce (endBurst post c.g) e h) ∧
      (∀ (a : SImm) (ns : Nat), ns = (e.simm a).toNat →
        ((ns = 0 ∨ 1048575 < ns) → exec (.cres h a) s = .next (trapReserved pre e.elect)) ∧
        (1 ≤ ns → ns ≤ 1048575 → exec (.cres h a) s = .next (startBurst post e h ns 6 false)) ∧
        (∀ (b : SImm) (u : Nat), u = (e.simm b).toNat → u ≠ 0 →
          ((∃ n, b = .imm n) → grpPriv s x = false →
            exec (.cresHold h a b) s = .next (takeTrap s c.g { code := 0x04, lanes := e.act &&& (0 - e.act) } c.pc)) ∧
          ((∃ n, b = .s n) → grpPriv post e.grp = false →
            exec (.cresHold h a b) s = .next (takeTrap pre c.g { code := 0x04, lanes := e.elect } c.pc)) ∧
          (grpPriv s x = true → grpPriv post e.grp = true →
            ((ns = 0 ∨ 1048575 < ns ∨ 1023 < u) → exec (.cresHold h a b) s = .next (trapReserved pre e.elect)) ∧
            (1 ≤ ns → ns ≤ 1048575 → u ≤ 1023 → exec (.cresHold h a b) s = .next (startBurst post e h ns u true)))))) ∧
    (∀ (u v : State) (r ns units : Nat) (hold : Bool) (t : Team), u = endBurst post e.g → teamOf u e.grp.team = some t →
      request u (coreDomain e.core) { kind := .burst e.grp.uid, ctx := e.grp.ctx, team := t.uid, prio := e.grp.prio.toNat, i15 := units, dur := ns, gang := t.gang != 0 } = (r, v) →
      startBurst post e h ns units hold = modGroup v e.g fun y =>
        { y with burst := some { req := r, ns := ns, hold := hold, sig := sigOf e.grp.uid h.set } }) ∧
    (∀ (a : SImm) (k : Nat) (p bad : State), Goes s c x (sysInfo h) (nextWord (sysInfo h)) e post → k = (e.simm a).toNat →
      p = drainAll post c.g → bad = takeTrap s c.g { code := 0x02, lanes := e.act &&& (0 - e.act), aux := c.word.extractLsb' 32 64 } c.pc →
      (∀ i, i = Instr.quiesce h a ∨ i = Instr.quiesceResume h a →
        ((∃ n, a = .imm n ∧ n.toNat = x.ctx) → exec i s = .next bad) ∧
        ((∀ n, a = .imm n → n.toNat ≠ x.ctx) → (256 ≤ k ∨ k = x.ctx) → exec i s = .next (trapReserved pre e.elect))) ∧
      (k < 256 → k ≠ x.ctx → drained p c.g = true →
        (ctxResident p k = false → ∀ i, i = Instr.quiesce h a ∨ i = Instr.quiesceResume h a → exec i s = .next (atOnce p e h)) ∧
        (ctxResident p k = true → exec (.quiesceResume h a) s = .next (fall (resumeCtx p k) (sigOf x.uid h.set)) ∧
          ∀ u, u = parkCtx p k → exec (.quiesce h a) s =
            .next { u with waiters := u.waiters ++ [{ what := .parked k, sig := sigOf x.uid h.set }] })) ∧
      (∀ i, i = Instr.halt h a ∨ i = Instr.haltRelease h a →
        ((∃ n, a = .imm n ∧ n.toNat = coreFlask e.core) → exec i s = .next bad) ∧
        ((∀ n, a = .imm n → n.toNat ≠ coreFlask e.core) → (32 ≤ k ∨ k = coreFlask e.core) → exec i s = .next (trapReserved pre e.elect))) ∧
      (k < 32 → k ≠ coreFlask e.core → drained p c.g = true →
        ((flaskAt p k).gated = true → exec (.halt h a) s = .next (fall p (sigOf x.uid h.set)) ∧
          exec (.haltRelease h a) s = .next (fall ((List.range 16).foldl (fun u q => bringBack (settleTeams u (16 * k + q)) .halt (16 * k + q))
            (openFlask p k)) (sigOf x.uid h.set))) ∧
        ((flaskAt p k).gated = false → exec (.haltRelease h a) s = .next (fall p (sigOf x.uid h.set)) ∧
          ∀ u, u = parkCores (modFlask p k fun f => { f with halting := true }) (fun q => coreFlask q == k) .halt →
            exec (.halt h a) s = .next { u with waiters := u.waiters ++ [{ what := .gated k, sig := sigOf x.uid h.set }] })))

/-- O51: The oldest deferred cause stops a group that may issue; a debug register that matches the word under way, or a
word of the sink block that it heads, stops it there; a step resumes the group that DBGCTL selects; the join watchdog stops a group whose
lanes wait for lanes that are parked, at the waiting RJOIN (log entry 17);
an age that has come to 4,095 becomes 4,096; a user interrupt redirects the most populous path that is not parked, one that waits for a reply among them (log entry
25), and freezes the others; a group
in a long wait moves out when space is wanted, comes back when it waits for nothing or its lent registers are to be read,
those ahead of every other of the core, then the higher GPRIO, then the older wait, and a move that is done frees the place it leaves, the
moment of a move being the scheduler's (log entry 24); lanes at TWAIT go on at their time
(R119, R121, R122, R123, R139, R145, R156, R157, R158, R249, R258, R310, R418). -/
def Obligations.SchedulingEvents : Prop :=
  ∀ (s : State) (g : Nat) (x : Group), groupAt s g = some x →
    (∀ c rest pc l, x.causes = c :: rest → nextPath s g x = some (pc, l) → mayIssue x = true →
      exec (.deferredTrap g) s = .next (takeTrap (setGroup s g { x with causes := rest }) g c pc)) ∧
    (∀ c n, s.cur = some c → c.g = g → breakReg s (slotCore g) x.ctx c.pc c.word = some n → isLive c.word = false →
      (∀ p, p ∈ x.paths → p.pc = c.pc → p.lanes &&& c.lanes ≠ 0 → p.skipBp = false) →
      exec (.breakpoint g) s = .next (takeTrap s g { code := 0x0A, lanes := c.lanes, aux := BitVec.ofNat 64 n } c.pc)) ∧
    (∀ core i p t, core < 512 → bit (sysVal s (sel 27 core)) 1 = true → stepPick s core = some i → s.parked[i]? = some p →
      putBack s i core p.quarter (stepEdit s core) = some t →
      exec (.debugStep core) s = .next (setSysFld t (sel 27 core) 1 1 0)) ∧
    (∀ (k : BitVec 3) (ws : List Path), ws = x.paths.filter (fun p => p.wait == .join k) →
      sysFld s (sel 16 (coreFlask (slotCore g))) 0 32 ≠ 0 → sysFld s (sel 16 (coreFlask (slotCore g))) 0 32 ≤ x.stall →
      watchdogOn x = true → stuckOn x k.toNat = true → exec (.joinStall g k) s = .next (takeTrap s g
        { code := 0x08, lanes := ws.foldl (fun (m : LaneMask) p => m ||| p.lanes) 0, aux := k.setWidth 64 } ((ws.head?.map (·.via)).getD 0))) ∧
    (4095 ≤ x.age → exec (.ageBoost g) s = .next (setGroup s g { x with age := 4096 })) ∧
    (∀ pc, exec (.pathAgeBoost g pc) s = .next (setGroup s g { x with paths := x.paths.map fun p =>
      if p.pc == pc && p.wait == .run && !p.frozen && 4095 ≤ p.age then { p with age := 4096 } else p })) ∧
    (∀ p tag rest, uiPath x = some p → x.uiTags = tag :: rest → exec (.uiDeliver g) s = .next (setGroup s g (putS { x with
      paths := x.paths.map fun q => if q == p then { q with pc := x.uiVec.setWidth 32, wait := .run, live := [], whole := false, via := p.pc, skipBp := false } else { q with frozen := true }
      uiPc := p.pc, uiSet := p.lanes, uiWait := p.wait, uiAct := true, uiTags := rest } 63 tag))) ∧
    (tierCand s g x = true → (sysFld s (sel 15 (coreFlask (slotCore g))) 32 1 ≠ 1 ∨ spaceWanted s (slotCore g) = true) →
      backUsed s (slotCore g) + regCount x ≤ 32768 → exec (.tierOut g) s = .next (placeRegs (setGroup s g { x with tier := .movingOut }) g .movingOut)) ∧
    (recallReady s g x = true → fileUsed s (slotCore g) (slotQuarter g) + regCount x ≤ 2048 →
      (∀ p, p ∈ s.groups → p.1 ≠ g → recallReady s p.1 p.2 = true → recalledBefore s p (g, x) = false) →
      exec (.tierRecall g) s = .next (placeRegs (setGroup s g { x with tier := .movingIn }) g .movingIn)) ∧
    (∀ p : Nat × Group, slotCore p.1 = slotCore g →
      (p.2.lent ≠ [] → x.lent = [] → recalledBefore s p (g, x) = true) ∧
      ((p.2.lent = [] ↔ x.lent = []) → (slotQuarter p.1 = slotQuarter g ∨ fileUsed s (slotCore p.1) (slotQuarter p.1) + regCount p.2 ≤ 2048) →
        (x.prio.toNat < p.2.prio.toNat ∨ (x.prio = p.2.prio ∧ p.2.elig < x.elig)) → recalledBefore s p (g, x) = true)) ∧
    (x.tier = .movingOut → exec (.tierMoveDone g) s =
      .next (setGroup s g { x with tier := .tiered, units := x.units.filter fun u => 2048 ≤ u })) ∧
    (x.tier = .movingIn → exec (.tierMoveDone g) s =
      .next (setGroup s g { x with tier := .resident, units := x.units.filter fun u => u < 2048 })) ∧
    (exec (.twaitRelease g) s = .next (setGroup s g (mapWait x fun p => match p.wait with
      | .time t => if reached s (coreFlask (slotCore g)) t = true then { p with wait := .run } else p
      | _ => p)))

/-- O52: A READY task is admitted where it is wanted and fits; a quarter that steals takes the first candidate of the nearest
level; a decrement that arrives, after those that the end of its task sent before it and those that took the same way, lets its flag fall,
counts DEPS down or is dropped with a notice that names no core (log entry 37), sets poison, and keeps the first source for a record that no
task has yet (log entry 37); a task whose
DEPS is 0 and whose time has come is READY; a complete gang that fits is placed with its currents asked for, at GPRIO 15, and released once
they are live, a member that cannot start at its tick waiting for a later one, while members that the entry no longer admits leave it (log
entry 41); a message that none before it on its way keeps back (log entry 38) reaches its core, its flue link in peer mode, or is dropped with a notice, and its handler group starts where it fits and its
context is not overdrawn; a drone time reached starts what waits for it (R24, R37, R40, R57, R93, R94, R95, R96, R97, R110, R111,
R113, R115, R128, R129, R130). -/
def Obligations.TaskEvents : Prop :=
  ∀ s : State,
    (∀ core quarter ctx handle t x g tier, core < 512 → quarter < 4 → taskOf s ctx handle = some t → teamOf s t.team = some x →
      ((x.pin = true ∧ x.core = some core) ∨ ((x.pin = false ∨ x.core = none) ∧ t.core = core)) → mayAdmit s t core quarter = true →
      pickSlot s core quarter = some g → fitTier s core quarter (taskRegs s t) = some tier →
      exec (.taskAdmit core quarter ctx handle) s = .next (startTask s t g tier)) ∧
    (∀ core quarter level t ts g tier best, core < 512 → quarter < 4 → level < 3 → (∀ k, k < level → ∀ t, t ∈ s.tasks →
        stealLevel core t.core = some k → mayStealTask s t core quarter k = false) →
      s.tasks.filter (fun t => stealLevel core t.core == some level && mayStealTask s t core quarter level) = t :: ts →
      best = ts.foldl (fun a b => if stealsBefore s core b a then b else a) t → pickSlot s core quarter = some g →
      fitTier s core quarter (taskRegs s best) = some tier → exec (.steal core quarter) s = .next (startTask s best g tier)) ∧
    (∀ (i : Nat) (d : DecS), s.decs[i]? = some d → ((∃ y, y ∈ s.decs.take i ∧ decBefore s y d = true) ∨ ctxLocked s d.ctx d.handle 64 = true) →
      exec (.poisonedDecrement i) s = .next s ∧ exec (.depsDecrement i) s = .next s) ∧
    (∀ (y d : DecS), (d.batch ≠ 0 → y.batch = d.batch → decBefore s y d = true) ∧
      (d.src < 512 → y.src / 2 = d.src / 2 → recRouter s d.ctx d.handle ≠ none → recRouter s y.ctx y.handle = recRouter s d.ctx d.handle →
        decBefore s y d = true)) ∧
    (∀ (i : Nat) (d : DecS) (u : State) (deps fl : Nat), s.decs[i]? = some d → u = { s with decs := s.decs.eraseIdx i } → deps = recField u d.ctx d.handle 8 2 →
      fl = recField u d.ctx d.handle 0x0A 1 → (∀ y, y ∈ s.decs.take i → decBefore s y d = false) → ctxLocked s d.ctx d.handle 64 = false →
      ∀ e, e = (if d.poison = true then Instr.poisonedDecrement i else .depsDecrement i) →
      ((deps = 0 ∨ fl / 2 % 2 = 1) → exec e s = .next (taskNotice (fall u d.sig) 1 d.ctx 0xFFFF 0xFF d.handle d.bySrc)) ∧
      (deps ≠ 0 → fl / 2 % 2 ≠ 1 → ∀ v w, v = putRec (fall u d.sig) d.ctx d.handle 8 2 (deps - 1) →
        w = putRec v d.ctx d.handle 0x0A 1 (fl / 2 * 2 + 1) →
        (d.poison = false → exec e s = .next (tryReady v d.ctx d.handle)) ∧
        (d.poison = true → taskOf w d.ctx d.handle ≠ none → exec e s = .next (tryReady (modTask w d.ctx d.handle
          fun t => { t with poison := if t.poison = none then some d.bySrc else t.poison }) d.ctx d.handle)) ∧
        (d.poison = true → taskOf w d.ctx d.handle = none → exec e s =
          .next (tryReady { w with early := w.early ++ [(d.ctx, d.handle, d.bySrc)] } d.ctx d.handle)))) ∧
    (∀ ctx handle t, taskOf s ctx handle = some t → t.running = false → t.ready = none → recField s ctx handle 8 2 = 0 →
      recField s ctx handle 0x0A 1 % 2 = 0 → recField s ctx handle 0x20 8 ≤ flaskDrone s (coreFlask t.core) →
      ∀ e, e = Instr.taskReleaseTime ctx handle ∨ e = .droneTimedStart (.task ctx handle) → exec e s = .next (gangCount
        (modTask { s with nextUid := s.nextUid + 1 } ctx handle fun t => { t with ready := some s.nextUid }) t)) ∧
    (∀ gang places, 1 ≤ gang → gang < 256 → gangComplete s gang = true → gangBehind s gang = false →
      (∃ t, t ∈ gangWaiting s gang ∧ gangShut s gang t.ctx = true) → exec (.gangPlace gang places) s = .next (dropForeign s gang)) ∧
    (∀ gang places ts ps u v rs w, 1 ≤ gang → gang < 256 → gangComplete s gang = true → gangBehind s gang = false →
      (∀ t, t ∈ gangWaiting s gang → gangShut s gang t.ctx = false) → ts = gangTasks s gang → ts ≠ [] → gangTooBig s ts = false → places.length = ts.length → ps = ts.zip places → placesAgree s ps = true →
      placeAll ps { s with free := s.free + 1 } = some u →
      v = setSysFld u (sel 21 gang) 0 12 (gangReady u gang - gangMembers u gang) →
      (rs, w) = (dedup (ts.map fun t => t.team)).foldl (fun (acc : List (Nat × Nat) × State) k =>
        let q := gangRequest acc.2 gang k (((ps.find? fun p => p.1.team == k).map fun p => p.2.1).getD 0)
        (acc.1 ++ [(k, q.1)], q.2)) ([], v) →
      exec (.gangPlace gang places) s = .next { w with
        gangs := w.gangs ++ [{ gang := gang, members := ts.map fun t => (t.ctx, t.handle), teams := rs }]
        gangStuck := w.gangStuck.filter fun k => k != gang
        gangAt := mdel w.gangAt gang }) ∧
    (∀ (gang p : Nat) (u : State), 1 ≤ gang → gang < 256 → p = 2 ^ (fld (gangVal s gang) 44 4 + 6) →
      u = { s with gangs := s.gangs.map fun q => if q.gang == gang && q.tick.isNone && gangLive s q then { q with tick := some (ceilDiv (drone s) p * p) } else q } →
      ∀ e, e = Instr.gangRelease gang ∨ e = .droneTimedStart (.gang gang) →
        exec e s = .next ((u.gangs.filter fun q => q.gang == gang).foldl gangStart u)) ∧
    (∀ core, core < 512 → exec (.droneTimedStart (.copy core)) s = exec (.cpyStart core) s) ∧
    (∀ g, exec (.droneTimedStart (.twait g)) s = exec (.twaitRelease g) s) ∧
    (∀ (i : Nat) (m : Msg) (u : State), s.msgs[i]? = some m → u = { s with msgs := s.msgs.eraseIdx i } → (∀ y, y ∈ s.msgs.take i → msgBefore s y m = false) →
      (∀ p, m.port = some p → sysFld s (sel 4 p) 4 4 ≠ 1 → exec (.messageArrival i) s = .next s) ∧
      (∀ p, m.port = some p → sysFld s (sel 4 p) 4 4 = 1 → (mget s.ports p {}).retrain = false →
        exec (.messageArrival i) s = .next (opPart { u with ports := mmod u.ports p {} fun x => { x with seq := x.seq + 1 } } m.op)) ∧
      (∀ cause, m.port = none → msgBad s m.bytes = some cause →
        exec (.messageArrival i) s = .next (opPart (badMsg u (msgCore s m.bytes) m.bytes cause) m.op)) ∧
      (m.port = none → msgBad s m.bytes = none → (coreAt s (msgCore s m.bytes)).msgs.length < 64 → exec (.messageArrival i) s =
        .next (opPart (modCore u (msgCore s m.bytes) fun c => { c with msgs := c.msgs ++ [m] }) m.op))) ∧
    (∀ core m rest u t, core < 512 → (coreAt s core).msgs = m :: rest → u = modCore s core (fun c => { c with msgs := c.msgs.drop 1 }) →
      (isOver s (bytesAt m.bytes 1 1) = true → exec (.handlerSpawn core none) s = .next s) ∧
      (∀ cause, isOver s (bytesAt m.bytes 1 1) = false → msgBad s m.bytes = some cause → exec (.handlerSpawn core none) s = .next (badMsg u core m.bytes cause)) ∧
      (isOver s (bytesAt m.bytes 1 1) = false → msgBad s m.bytes = none → quietStart s (bytesAt m.bytes 1 1) core = true → spawnHandler u core m.bytes = some t →
        exec (.handlerSpawn core none) s = .next t))

/-- O53: A thread at a TASK node launches the grid of its record and starts a thread at ALSO; when the grid has completed it
goes on; a COND node takes one of two ways by its condition word; a WHILE node repeats up to its CAP and reports when that ends
it; a JOIN node lets the last of INCOUNT threads go on and ends the others; an END node ends its thread; a node that the walker
cannot act on ends the thread, stops the instance and is reported; the last thread writes 1 or 2 to the done word (R103, R106,
R107, R108, R109). -/
def Obligations.WalkerEvents : Prop :=
  ∀ (s : State) (fl inst th : Nat) (i : Inst) (t : Thread), fl < 32 → instOf s fl inst = some i → i.threads.find? (fun t => t.id == th) = some t →
    (i.stopped = false → t.grid = none →
      (findNode s i t = .bad → ∀ e, e = Instr.walkerTask fl inst th ∨ e = .walkerCond fl inst th ∨ e = .walkerWhile fl inst th ∨
        e = .walkerJoin fl inst th ∨ e = .walkerEnd fl inst th → exec e s = .next (badNode s fl i t)) ∧
      (∀ n, findNode s i t = .node n →
        (∀ bs l, n.kind = 0 → ctxRead s i.ctx n.addr 256 = some bs → l = launchOf bs n.addr →
          (launchOk s bs l i.ctx i.sysT = false → exec (.walkerTask fl inst th) s = .next (badNode s fl i t)) ∧
          (∀ g u v, launchOk s bs l i.ctx i.sysT = true → (n.also = none ∨ threadCount (flaskAt s fl) < 256) → slotMissing s l = none →
            launchGrid s l i.sysT (.walker fl inst th) = (g, u) →
            v = modThread u fl inst th (fun t => { t with grid := some g, told := false }) →
            (n.also = none → exec (.walkerTask fl inst th) s = .next v) ∧
            (∀ k, n.also = some k → exec (.walkerTask fl inst th) s = .next (modInst v fl inst fun i =>
              { i with threads := i.threads ++ [{ id := i.nextTh, node := k }], nextTh := i.nextTh + 1 })))) ∧
        (∀ w u, n.kind = 1 → condWord s fl i n = some (w, u) →
          exec (.walkerCond fl inst th) s = .next (goNode u fl inst th (if w &&& n.mask = 0 then n.alt else n.next))) ∧
        (∀ w u k, n.kind = 2 → condWord s fl i n = some (w, u) → k = mget i.counts t.node 0 →
          (w &&& n.mask = 0 → exec (.walkerWhile fl inst th) s =
            .next (goNode (modInst u fl inst fun i => { i with counts := mput i.counts t.node 0 }) fl inst th n.next)) ∧
          (w &&& n.mask ≠ 0 → k < n.cap → exec (.walkerWhile fl inst th) s =
            .next (goNode (modInst u fl inst fun i => { i with counts := mput i.counts t.node (k + 1) }) fl inst th n.alt)) ∧
          (w &&& n.mask ≠ 0 → n.cap ≤ k → exec (.walkerWhile fl inst th) s = .next (goNode (taskNotice
            (modInst u fl inst fun i => { i with counts := mput i.counts t.node 0 }) 2 i.ctx 0xFFFF fl i.nodes (nodeArg inst t.node)) fl inst th n.next))) ∧
        (∀ k, n.kind = 3 → k = mget i.counts t.node 0 + 1 → exec (.walkerJoin fl inst th) s = .next (if k = n.incount
          then goNode (modInst s fl inst fun i => { i with counts := mput i.counts t.node 0 }) fl inst th n.next
          else endThread (modInst s fl inst fun i => { i with counts := mput i.counts t.node k }) fl inst th)) ∧
        (n.kind = 4 → exec (.walkerEnd fl inst th) s = .next (endThread s fl inst th)))) ∧
    (∀ v n u, t.ended = some v → i.stopped = false → u = (if v = 2 then modInst s fl inst (fun i => { i with bad := true }) else s) →
      findNode u i t = .node n → exec (.walkerTaskDone fl inst th) s = .next (goNode u fl inst th n.next)) ∧
    (∀ (k : Nat) (j : Inst) (u : State), instOf s fl k = some j → j.threads = [] →
      u = modFlask s fl (fun f => { f with insts := f.insts.filter fun x => x.num != k }) → exec (.instanceEnd fl k) s =
        .next (if j.gdone = 0 then u else ctxWrite u j.ctx j.gdone (natBytes 8 (if j.bad = true then 2 else 1))))

/-- O54: A group that has parked stops for a deferred cause, or for its quota with the lanes alive at the path of most lanes in its record
(log entry 17), or is saved for its reason, where it migrates or its core
or flask goes out of service only once its whole team has parked and its engine operations are over; the kernel resumes a saved group on a core that
may have it, redirects it to the trap handler of its context, or kills it; a context is asked to park or resumed; a page that
the kernel has mapped lets its lanes or its unit go on; a notice goes to its queue; a region that overruns starts again or is
killed with a record, a team that has parked to migrate goes on on the flask chosen; an error that cannot be corrected kills,
drops or poisons, and one that was is counted, with a notice for every 256th whose CTX is none and whose CORE and FLASK are for storage
outside a core (log entry 43) (R64, R72, R86, R170, R187, R246, R250, R251, R252,
R255, R256, R257, R356, R375, R407). -/
def Obligations.ParkEvents : Prop :=
  ∀ (s : State) (g : Nat) (x : Group), groupAt s g = some x →
    (∀ r, x.park = some r → grpParked x = true →
      (∀ c rest, x.causes = c :: rest → exec (.groupParked g) s = .next (takeTrap (setGroup s g { x with causes := rest }) g c (mainPath x).1)) ∧
      (x.causes = [] → r.why = .quota → exec (.groupParked g) s = .next (takeTrap s g
        { code := 0x0C, lanes := aliveLanes x, aux := sysVal s (sel 10 x.ctx) } (mainPath x).1)) ∧
      (x.causes = [] → r.why ≠ .quota → exec (.groupParked g) s = .next (saveParked s g r.why))) ∧
    (∀ why, (why = .migrate ∨ why = .retire ∨ why = .halt) →
      (engineIdle s x.team = false ∨ ∃ p, p ∈ s.groups ∧ p.2.team = x.team ∧ p.2.done = false ∧ grpParked p.2 = false) →
      saveParked s g why = s) ∧
    (∀ u v y ok b t, u = settleFixed (stopStreams (endBurst s g) g) x.uid → release u g .dev = (ok, v) → groupAt v g = some y →
      ∀ why, ((why ≠ .migrate ∧ why ≠ .retire ∧ why ≠ .halt) ∨ (engineIdle s x.team = true ∧
          ∀ p, p ∈ s.groups → p.2.team = x.team → p.2.done = false → grpParked p.2 = true)) →
        (ok = false → saveParked s g why = v) ∧
        (ok = true → saveReady v y (why != .debug && grpSafe y) = true →
          writeImage v g { y with recents := [] } { code := 0, pc := (mainPath y).1, lanes := 0, addr := 0, aux := 0, word := 0, origin := 0, drone := BitVec.ofNat 64 (flaskDrone v (coreFlask (slotCore g))), flags := if (why != .debug && grpSafe y) = true then 2 else 0 } (why != .debug && grpSafe y) = (some b, t) →
          saveParked s g why = parkAs t g { y with recents := [] } b { code := 0, pc := (mainPath y).1, lanes := 0, addr := 0, aux := 0, word := 0, origin := 0, drone := BitVec.ofNat 64 (flaskDrone v (coreFlask (slotCore g))), flags := if (why != .debug && grpSafe y) = true then 2 else 0 } (some why) (why != .debug && grpSafe y))) ∧
    (∀ (i core quarter : Nat) (p : Parked) (u v : State), s.parked[i]? = some p →
      exec (.groupKill i) s = .next (killParked s p.g.uid) ∧
      (mayResume s p core = true →
        u = modTeam (if ((teamOf s p.g.team).map fun t => t.saved).getD false = true then moveTeam s p.g.team core else s) p.g.team
          (fun t => { t with moving := false }) →
        (putBack u i core quarter passBreak = some v → exec (.groupResume i core quarter) s = .next v) ∧
        (descField s p.g.ctx 0x30 4 ≠ 0xFFFFFFFF → putBack u i core quarter (redirect (BitVec.ofNat 32 (descField s p.g.ctx 0x30 4))) = some v →
          exec (.groupRedirect i core quarter) s = .next v))) ∧
    (∀ ctx, ctx < 256 →
      exec (.ctxctlPark ctx) s = .next (modGroups (setSysFld s (sel 23 ctx) 0 1 1) (fun y => y.ctx == ctx) (askPark .preempt)) ∧
      exec (.ctxctlResume ctx) s = .next (dropParks (setSysFld s (sel 23 ctx) 0 2 0) (fun y => y.ctx == ctx) .preempt)) ∧
    (∀ mapped, exec (.residencyResolved (.group g) mapped) s = .next (setGroup s g (holdPaths { x with paths := regang (x.paths.map fun p => match p.wait with
      | .resid page => if mapped && pageMapped s x.ctx page then { p with wait := .run, whole := p.held } else p
      | _ => p) }))) ∧
    (∀ q t page, (ringOf x q).stream = some t → t.halted = some page → pageMapped s x.ctx page = true →
      exec (.residencyResolved (.stream g q) true) s = .next (putRing s g q fun r => { r with stream := some { t with halted := none } })) ∧
    (∀ (i : Nat) (n : NoticeS) (u v : State), s.notices[i]? = some n → u = { s with notices := s.notices.eraseIdx i } →
      queuePut u n.queue n.bytes = some v → exec (.noticeWrite i) s = .next v) ∧
    (∀ (id page : Nat) (q : Preq) (rest : List Nat), s.preqs.find? (fun q => q.id == id) = some q → page ∈ q.pages → pageMapped s q.ctx page = true →
      rest = q.pages.filter (fun p => p != page) →
      (rest = [] → exec (.preqComplete id page true) s = .next (fall { s with preqs := s.preqs.filter fun r => r.id != id } q.sig)) ∧
      (rest ≠ [] → exec (.preqComplete id page true) s =
        .next { s with preqs := updFirst (fun r => r.id == id) (fun r => { r with pages := rest }) s.preqs })) ∧
    (∀ r t, x.park = some r → teamOf s x.team = some t → overran s g x r = true →
      (t.idem = true → exec (.regionOverrun g) s = .next (relaunchTeam (dropMig s t.uid) t.uid (match t.migTo with
        | some fl => 16 * fl + (t.core.getD (slotCore g)) % 16
        | none => t.core.getD (slotCore g)))) ∧
      (t.idem = false → exec (.regionOverrun g) s = .next (killTeam (killRecord (withdrawMig s x 0x0D) g x 0x0D (BitVec.ofNat 64 r.issued) false) t.uid))) ∧
    (∀ team fl t u, fl < 32 → teamOf s team = some t → t.migTo = some fl → engineIdle s team = true →
      (∃ p, p ∈ s.parked ∧ p.g.team = team) →
      (∀ p, p ∈ s.groups → p.2.team = team → p.2.done = true) →
      (((List.range 16).map fun k => 16 * fl + (k + Config.freeNat s.free 0) % 16).findSome? fun c =>
        if coreOpen s c && mxFollows s t c then moveAll { s with free := s.free + 1 } team c else none) = some u →
      exec (.migrated team fl) s = .next (powerNotice (dropMig u team) 2 t.ctx (((teamOf u team).bind fun t => t.core).getD 0) fl
        (BitVec.ofNat 64 t.index) (BitVec.ofNat 64 ((t.core.map coreFlask).getD 0 + 256 * fl)))) ∧
    (∀ uid gid kind, exec (.uncorrectableError (.team uid gid kind)) s = .next (killByError s uid gid kind)) ∧
    (∀ uid kind, exec (.uncorrectableError (.restore uid kind)) s = .next (killByRestore s uid kind)) ∧
    (∀ line, keyTier (128 * line) < 2 → (lineFor s 0 line).clear = false →
      exec (.uncorrectableError (.line line)) s = .next (poisonLine s 0 line)) ∧
    (∀ kind unit line n u, kind < 5 → n = mget s.corrected (kind * 2 ^ 32 + unit) 0 + 1 →
      u = { s with corrected := mput s.corrected (kind * 2 ^ 32 + unit) n } →
      exec (.corrected kind unit line) s = .next (if n % 256 = 0
        then serviceNotice u 1 0xFF (unit % 512) (unit % 512 / 16) (BitVec.ofNat 64 kind) (BitVec.ofNat 64 0) else u))

/-- O55: At the microsecond, and once, the controller of a cluster takes the estimate of the one that has ended, sets its integral and
ceiling and shows the current granted, and standing grants are trued up and made anew; the arbiter, once in a fabric cycle, grants
in rank order what is presented while the ceiling allows, and granted current becomes live by at most 8 units in 100 ns; a burst
ends after its duration and passes its current on; the governor, once in 50 us, takes the temperature, asks teams to migrate and
starts a change of point, which the switch and the voltage complete; a droop is counted and stretches the clock until it clears;
a synchronisation message sets the offset to be slewed, or steps the time forward at the first lock where no context has been created, and
without one for a second the drone holds over; that holdover clears LOCKED, the sign of OFFSET and the forward step are log entry 30. An
event that names another figure than the state gives changes nothing (the model's choice, log entry 7) (R40, R41, R42, R46, R47, R50, R51, R52, R53, R56, R59, R60). -/
def Obligations.PowerEvents : Prop :=
  ∀ s : State,
    (∀ c, c < 128 →
      (passes s (c / 4) 1000 = true → (clusAt s c).piAt ≠ s.fab + 1 →
        ∀ est integ ceil u, est = estOf s c → piStep (sysFld s (sel 6 c) 0 16) (sysFld s (sel 7 c) 0 16) (sysFld s (sel 8 c) 0 16) (sysFld s (sel 9 c) 32 16)
            est (vmv s (c / 4)) = (integ, ceil) →
          u = modClus s c (fun k => { k with piAt := s.fab + 1, events := [], ests := (est :: k.ests).take 50 }) →
          exec (.piControllerStep c est) s = .next (setSysFld (setSysFld (setSysFld (setSysFld u (sel 9 c) 48 16 est) (sel 9 c) 32 16 integ)
            (sel 9 c) 16 10 (grantedOf u c)) (sel 9 c) 0 10 ceil)) ∧
      (passes s (c / 4) 1000 = true → (clusAt s c).stdAt ≠ s.fab + 1 →
        exec (.standingGrant c (standUsed s c)) s = .next (standNow (modClus (trueUp s c) c fun k => { k with stdAt := s.fab + 1 }) c)) ∧
      (∀ est, (passes s (c / 4) 1000 = false ∨ (clusAt s c).piAt = s.fab + 1 ∨ est ≠ estOf s c) → exec (.piControllerStep c est) s = .next s) ∧
      (∀ used, (passes s (c / 4) 1000 = false ∨ (clusAt s c).stdAt = s.fab + 1 ∨ used ≠ standUsed s c) →
        exec (.standingGrant c used) s = .next s) ∧
      ((clusAt s c).arbAt = s.fab + 1 → exec (.arbiterGrant c) s = .next s) ∧
      ((clusAt s c).arbAt ≠ s.fab + 1 → ∀ u, u = present (modClus s c fun k => { k with arbAt := s.fab + 1 }) c →
        exec (.arbiterGrant c) s = .next (grantRun c (presented u c) u)) ∧
      exec (.currentRamp c) s = .next (ramp s c)) ∧
    (∀ g x b t, groupAt s g = some x → x.burst = some b → b.live = some t →
      (∀ used, (drone s < t + b.ns ∨ used ≠ burstUsed s g) → exec (.burstEnd g used) s = .next s) ∧
      (t + b.ns ≤ drone s → exec (.burstEnd g (burstUsed s g)) s = .next (passOn (setGroup s g { x with burst := none }) (coreDomain (slotCore g)) b.req))) ∧
    (∀ fl, fl < 32 →
      (∀ temp hot u v, passes s fl 50000 = true → (flaskAt s fl).govAt ≠ s.fab + 1 → u = setSysFld s (sel 13 fl) 40 8 (min temp 255) →
        v = migStep u fl (hot && decide (warnTemp u fl ≤ min temp 255)) →
        exec (.governorStep fl temp (flaskSums s fl) hot (flaskAt s fl).busy) s = .next (startHop (modFlask v fl fun f => { f with govAt := v.fab + 1, busy := groupHere v fl }) fl
          (targetPt v fl))) ∧
      (∀ temp sums hot busy, (passes s fl 50000 = false ∨ (flaskAt s fl).govAt = s.fab + 1 ∨ sums ≠ flaskSums s fl ∨ busy ≠ (flaskAt s fl).busy) →
        exec (.governorStep fl temp sums hot busy) s = .next s) ∧
      (∀ p, (flaskAt s fl).hop = some p →
        (p.switched = false → exec (.pointChangeSwitch fl) s = .next (if p.up = true
          then endHop (setSysFld s (sel 13 fl) 0 4 p.target) fl p.target
          else modFlask (setSysFld s (sel 13 fl) 0 4 p.target) fl fun f => { f with hop := some { p with switched := true } })) ∧
        (p.switched = true → exec (.pointChangeComplete fl) s = .next (endHop s fl p.target))) ∧
      (∀ u v, u = setSysFld s (sel 13 fl) 48 16 (min 65535 (sysFld s (sel 13 fl) 48 16 + 1)) →
        (sysFld u (sel 13 fl) 32 1 = 1 → exec (.droopDetect fl) s = .next u) ∧
        (sysFld u (sel 13 fl) 32 1 ≠ 1 → v = setSysFld u (sel 13 fl) 32 1 1 → exec (.droopDetect fl) s =
          .next { v with cores := v.cores.map fun p => if coreFlask p.1 == fl then (p.1, { p.2 with skip := 0 }) else p })) ∧
      exec (.droopClear fl) s = .next (setSysFld s (sel 13 fl) 32 1 0)) ∧
    (∀ port (offset : Int) u, port < 12 → sysFld s (sel 4 port) 16 1 = 1 →
      u = setSysFld (setSysFld (setSysFld (setSysFld s (sel 5 0) 48 8 port) (sel 5 0) 0 32 (BitVec.ofInt 32 offset).toNat) (sel 5 0) 62 1 0)
        (sel 5 0) 61 1 0 →
      ((u.firstLock = true ∨ offset ≤ 10000 ∨ u.ctxSeen = true ∨ anyContext u = true) → ∃ v, v = { u with slew := offset * 8, lastSync := u.droneE, firstLock := true } ∧
        exec (.syncMessage port offset) s = .next (setSysFld v (sel 5 0) 63 1 (if offset.natAbs ≤ 20 then 1 else 0))) ∧
      (u.firstLock = false → 10000 < offset → u.ctxSeen = false → anyContext u = false → ∃ v, v = { u with droneE := u.droneE + offset.toNat * 8, slew := 0, lastSync := u.droneE + offset.toNat * 8, firstLock := true } ∧
        exec (.syncMessage port offset) s = .next (setSysFld v (sel 5 0) 63 1 1))) ∧
    (s.lastSync + 8 * 10 ^ 9 ≤ s.droneE → exec .holdover s =
      .next { setSysFld (setSysFld s (sel 5 0) 62 1 1) (sel 5 0) 63 1 0 with slew := 0 })

/-- O56: A replication window, as it begins, clears the counts of a flask; a remote read is served and counted; a fill installs its replica,
where its context has a way for it, and its sharer, an invalidation, once no fill of its granule is on its way, drops both; a write to a replicated granule and a
write-back reach their home; a port that has trained is up and, in peer mode, sends what it held, and a replayed flit changes nothing; a peer
refuses a result, in lanes that share no byte they have changed with others, a store, or a line of a copy, a matrix operation, a stream, a
fill, a sub-block or a write-back, and its own accesses are performed where they lie in the tier and its port does not retrain; CTX and CORE
of the notice of a dropped write-back are log entry 43, and the key of a peer access and what a refusal names log entry 45 (R32, R33, R34, R36, R37, R159, R175, R359, R423, R424). -/
def Obligations.FabricEvents : Prop :=
  ∀ s : State,
    (∀ fl, fl < 32 →
      (passes s fl (2 ^ sysFld s (sel 3 fl) 28 4 * 1000) = true → (flaskAt s fl).winAt ≠ s.fab + 1 → exec (.replicationWindow fl) s =
        .next (modFlask s fl fun f => { f with
          dir := f.dir.map (fun p => (p.1, { p.2 with count := 0, w := false })), winAt := s.fab + 1 })) ∧
      ((passes s fl (2 ^ sysFld s (sel 3 fl) 28 4 * 1000) = false ∨ (flaskAt s fl).winAt = s.fab + 1) →
        exec (.replicationWindow fl) s = .next s) ∧
      (∀ pa, frameOk s pa = true → homeFlask pa ≠ fl →
        exec (.remoteRead fl pa) s = .next (serveWeak s fl 256 (lineFor s 0 (keyLine pa)).key (keyLine pa)).2) ∧
      (∀ pa bytes, (mget (flaskAt s (homeFlask pa)).dir (granuleOf pa) {}).rep = true → bytes ≠ [] →
        (∀ c x, (((List.range 16).map fun k => 16 * fl + k).findSome? fun c =>
            ((coreAt s c).l1.find? fun x => x.line == keyLine pa && dirtyAs x (pa % 128) bytes).map fun x => (c, x)) = some (c, x) →
          exec (.repWrite fl pa bytes) s = .next (if locked s x.line = true then s else writeBack s c x)) ∧
        (∀ g y, (((List.range 16).map fun k => 16 * fl + k).findSome? fun c =>
            ((coreAt s c).l1.find? fun x => x.line == keyLine pa && dirtyAs x (pa % 128) bytes).map fun x => (c, x)) = none →
          s.groups.find? (fun p => coreFlask (slotCore p.1) == fl && headIs p.2 pa bytes) = some (g, y) →
          exec (.repWrite fl pa bytes) s = .next (drainOne s g)))) ∧
    (∀ (i : Nat) (f : FillS) (e : DirE) (u v w : State) (n : Nat), s.fills[i]? = some f → mget? (flaskAt s (homeFlask (128 * f.line))).dir (granuleOf (128 * f.line)) = some e →
      u = { s with fills := s.fills.eraseIdx i } →
      v = modFlask u (homeFlask (128 * f.line)) (fun k =>
        { k with dir := mput k.dir (granuleOf (128 * f.line)) { e with sharers := e.sharers ||| BitVec.ofNat 32 (2 ^ f.fl) } }) →
      (l2Place v f.fl f.ctx f.line = (some n, w) → exec (.replicaFill i) s =
        .next (modFlask w f.fl fun k => { k with replicas := mput k.replicas f.line { data := f.data, way := n } })) ∧
      (l2Place v f.fl f.ctx f.line = (none, w) → exec (.replicaFill i) s = .next w)) ∧
    (∀ (i : Nat) (v : InvS) (u : State), s.invs[i]? = some v →
      ((∃ f, f ∈ s.fills ∧ granuleOf (128 * f.line) = v.granule) → exec (.replicaInvalidate i) s = .next s) ∧
      ((∀ f, f ∈ s.fills → granuleOf (128 * f.line) ≠ v.granule) →
        u = modFlask { s with invs := s.invs.eraseIdx i } v.fl (fun k => { k with replicas := k.replicas.filter fun p => granuleOf (128 * p.1) != v.granule }) →
        (mget? (flaskAt u (homeFlask (v.granule * 4096))).dir v.granule = none → exec (.replicaInvalidate i) s = .next u) ∧
        (∀ e, mget? (flaskAt u (homeFlask (v.granule * 4096))).dir v.granule = some e → exec (.replicaInvalidate i) s =
          .next (modFlask u (homeFlask (v.granule * 4096)) fun k =>
            { k with dir := mput k.dir v.granule { e with sharers := e.sharers &&& ~~~ (BitVec.ofNat 32 (2 ^ v.fl)) } })))) ∧
    (∀ core asid line x, core < 512 → l1Find (coreAt s core) asid line = some x → lineFree s core x.line = true →
      exec (.homeWriteback core asid line) s = .next (writeBack s core x)) ∧
    (∀ port, port < 12 → exec (.flitReplay port) s = .next s ∧
      (∀ p u, mget s.ports port {} = p → p.retrain = true → s.svc = none →
        (sysFld s (sel 4 port) 4 4 = 1 →
          u = setSysFld { s with ports := mput s.ports port { p with retrain := false, held := [], seq := p.seq + p.held.length } } (sel 4 port) 16 1 1 →
          u.svc = none → exec (.flueRetrainDone port) s = .next u) ∧
        (sysFld s (sel 4 port) 4 4 ≠ 1 →
          u = setSysFld { s with ports := mput s.ports port { p with retrain := false } } (sel 4 port) 16 1 1 →
          u.svc = none → exec (.flueRetrainDone port) s = .next u)) ∧
      (∀ sram addr n, peerUp s port = true → (mget s.ports port {}).retrain = false → addr + n ≤ 2 ^ 42 → 1 ≤ n → frameOk s (pkey (if sram = true then 1 else 0) addr) = true →
        frameOk s (pkey (if sram = true then 1 else 0) (addr + n - 1)) = true → ∀ k, k = pkey (if sram = true then 1 else 0) addr → lockedRun s k n = false →
        exec (.peerAccessArrival port (.load sram addr n)) s = .next (touchL2 s 256 (ownKey s k) (keyLine k)) ∧
        (∀ bs, bs.length = n → exec (.peerAccessArrival port (.store sram addr bs)) s = .next (homeWriteRun s 32 512 256 (ownKey s k) k bs)))) ∧
    (∀ uid g x e r, slotOf s uid = some g → groupAt s g = some x → x.storeq = e :: r → peerStore x = some e → canDrain s (slotCore g) e = true →
      ∀ lanes, exec (.peerRefusal (.store uid) lanes) s = .next (refuseStore (setGroup s g { x with storeq := r }) g e)) ∧
    (∀ line, atPeer line = true →
      (∀ id lanes, exec (.peerRefusal (.copy id line) lanes) s = .next (refuseCopy s id line)) ∧
      (∀ core i lanes, exec (.peerRefusal (.matrix core i line) lanes) s = .next (refuseMx s core i line)) ∧
      (∀ uid q lanes, exec (.peerRefusal (.stream uid q line) lanes) s = .next (refuseStream s uid q line)) ∧
      (∀ id lanes, exec (.peerRefusal (.fills id line) lanes) s = .next (refuseFills s id line)) ∧
      (∀ id lanes, exec (.peerRefusal (.subBlock id line) lanes) s = .next { s with subs := updFirst (fun b => b.id == id) (fun b => { b with no := line :: b.no }) s.subs })) ∧
    (∀ core asid vline x, l1Find (coreAt s core) asid vline = some x → x.dirty ≠ 0 → atPeer x.line = true → lineFree s core x.line = true →
      ∀ lanes, exec (.peerRefusal (.writeBack core asid vline) lanes) s = .next (serviceNotice (modCore s core fun c => l1Put c { x with dirty := 0 })
        3 0xFF core (coreFlask core) (BitVec.ofNat 64 (keyPa (128 * x.line))) 1)) ∧
    (∀ id lanes r, s.results.find? (fun r => r.id == id) = some r → lanes ≠ 0 → lanes &&& ~~~ maskOf (r.peer.map (·.1)) = 0 →
      (∀ u, u ∈ r.undo → inLanes lanes u.1 = true → memByte s.mem u.2.1 = u.2.2.2 ∧ ∀ v, v ∈ r.undo → v.2.1 = u.2.1 → inLanes lanes v.1 = true) →
      exec (.peerRefusal (.access id) lanes) s = .next (refuseRes s r lanes))

/-- O57: A write from outside the cores acts as its register says: L2UNITS is refused or taken, and the repartition zeroes the
lines that change hands and applies what waits; masks stand until the reset; a threshold of 0 ends replication; a change of mode
drops the link; a quiet partition that does not fit is refused; a quota is charged against and may end OVER; a key is issued
with the next generation, retired, and destroyed once its lines are swept; that CURMODE changes at once and that the present mode may be
written are log entry 48, and that QUOTA stops are withdrawn as OVER clears log entry 42 (R12, R13, R28, R35, R38, R57, R82, R83, R131,
R401). -/
def Obligations.RegisterAndKeyEvents : Prop :=
  ∀ s : State,
    (∀ fl x t, fl < 32 → t = setSys s (sel 1 fl) (plainWrite (sel 1 fl) (sysVal s (sel 1 fl)) x) →
      ((fld x 0 4 = 0 ∨ 12 < fld x 0 4 ∨ sysFld t (sel 1 fl) 8 1 = 1) → exec (.slicecfgWrite fl x) s = .next (setSysFld t (sel 1 fl) 9 1 1)) ∧
      (1 ≤ fld x 0 4 → fld x 0 4 ≤ 12 → sysFld t (sel 1 fl) 8 1 ≠ 1 → exec (.slicecfgWrite fl x) s = .next (setSysFld t (sel 1 fl) 0 4 (fld x 0 4)))) ∧
    (∀ fl n u v w, fl < 32 → (flaskAt s fl).repart = some n → u = zeroUnits s fl (min n (curL2 s fl)) (max n (curL2 s fl)) (decide (n < curL2 s fl)) →
      v = fallFor (cutQuiet (modFlask (setSysFld (setSysFld u (sel 1 fl) 12 4 n) (sel 1 fl) 8 1 0) fl fun f => { f with repart := none })) (.notBusy fl) →
      w = { v with waiters := v.waiters.filter fun x => x.what != .slcfg fl } →
      exec (.repartitionDone fl) s = .next ((v.waiters.filter fun x => x.what == .slcfg fl).foldl (fun s x => applySlicecfg s fl x.sig) w)) ∧
    (∀ fl x, fl < 32 → exec (.hashmaskWrite fl x) s = .next (setSys s (sel 2 fl) (plainWrite (sel 2 fl) (sysVal s (sel 2 fl)) x))) ∧
    (∀ fl x t, fl < 32 → t = setSys s (sel 3 fl) (plainWrite (sel 3 fl) (sysVal s (sel 3 fl)) x) →
      (fld x 0 8 ≠ 0 → exec (.rthreshWrite fl x) s = .next t) ∧
      (fld x 0 8 = 0 → exec (.rthreshWrite fl x) s =
        .next (((flaskAt t fl).dir.filter fun p => p.2.rep).foldl (fun u p => toMs u p.1 p.2 none 512 p.2.w) t))) ∧
    (∀ port x t m, port < 12 → t = setSys s (sel 4 port) (plainWrite (sel 4 port) (sysVal s (sel 4 port)) x) → m = fld x 0 4 →
      ((3 ≤ m ∨ (m = 2 ∧ port ≠ 5 ∧ port ≠ 11)) → exec (.fluectlModeWrite port x) s = .next (setSysFld t (sel 4 port) 17 1 1)) ∧
      (m < 3 → (m = 2 → port = 5 ∨ port = 11) → m = sysFld t (sel 4 port) 4 4 → exec (.fluectlModeWrite port x) s = .next (setSysFld t (sel 4 port) 0 4 m)) ∧
      (m < 3 → (m = 2 → port = 5 ∨ port = 11) → m ≠ sysFld t (sel 4 port) 4 4 →
        ∃ u, u = setSysFld (setSysFld (setSysFld t (sel 4 port) 0 4 m) (sel 4 port) 4 4 m) (sel 4 port) 16 1 0 ∧
          exec (.fluectlModeWrite port x) s = .next { u with ports := mmod u.ports port {} fun (p : Port) => { p with retrain := m != 0 } })) ∧
    (∀ ctx x t, ctx < 256 → t = setSys s (sel 22 ctx) (plainWrite (sel 22 ctx) (sysVal s (sel 22 ctx)) x) →
      (quietWays t < quietUse t → exec (.quietctlWrite ctx x) s = .next (setSysFld s (sel 22 ctx) 1 1 1)) ∧
      (quietUse t ≤ quietWays t → exec (.quietctlWrite ctx x) s = .next t)) ∧
    (∀ ctx x, ctx < 256 →
      (x.toInt < 0 → exec (.quotaWrite ctx x) s = .next (setCount s ctx x.toInt)) ∧
      (0 ≤ x.toInt → exec (.quotaWrite ctx x) s =
        .next (dropParks (setSysFld (setCount s ctx x.toInt) (sel 11 ctx) 1 1 0) (fun y => y.ctx == ctx) .quota))) ∧
    (∀ (k : BitVec 17) x, selOk k.toNat = true → exec (.registerWrite k x) s = .next (regWrite s 512 k.toNat x)) ∧
    (∀ id, id < 4096 →
      (sysFld s (sel 18 id) 0 2 = 0 → exec (.keyIssue id) s =
        .next (setSysFld (setSysFld s (sel 18 id) 16 8 (sysFld s (sel 18 id) 16 8 + 1)) (sel 18 id) 0 2 1)) ∧
      (sysFld s (sel 18 id) 0 2 ≠ 0 → exec (.keyIssue id) s = .next s) ∧
      (id ≠ 0 → sysFld s (sel 18 id) 0 2 = 1 → exec (.keyRetire id) s = .next (setSysFld s (sel 18 id) 0 2 2)) ∧
      ((id = 0 ∨ sysFld s (sel 18 id) 0 2 ≠ 1) → exec (.keyRetire id) s = .next s) ∧
      (sysFld s (sel 18 id) 0 2 = 2 → exec (.keyRetireDone id) s = .next (setSysFld (sweepKey s id) (sel 18 id) 0 2 0)))

/-- O58: A retirement in service parks what runs on a core and swaps the spare in once it is empty, or swaps a slice, channel or
lane at once, and is reported when done; a message of the host of one aligned block joins the queue of its context or is counted
as bad, refused or full; staging writes go to the pages mapped there; the management port answers with a register or a signed
quote; the link trains again where the boot allows it; a boot runs its stages in order and stops at the stage whose image is absent, badly
signed or too old, a recovery image, once verified, goes on from there, a version only rises, and a module reset keeps what it must; that
a message is counted as bad before residency is asked and keeps its MCTX byte is log entry 45, that lines are readable under no key after a
reset log entry 46, the host link from stage 3 on log entry 48, and the order of the checks of an image log entry 49 (R66, R67, R68, R75, R76, R77, R80, R85, R86, R87, R88,
R89). -/
def Obligations.ServiceAndHostEvents : Prop :=
  ∀ s : State,
    (∀ fl c, fl < 32 → c < 16 → svcRuns s 1 fl c = true →
      ((coreAt s (16 * fl + c)).noAdmit = false → exec (.svcRetireCore fl c) s =
        .next (parkCores (modCore s (16 * fl + c) fun k => { k with noAdmit := true }) (fun x => x == 16 * fl + c) .retire)) ∧
      ((coreAt s (16 * fl + c)).noAdmit = true → coreEmpty s (16 * fl + c) = true → exec (.svcRetireCore fl c) s = .next (bringBack
        (settleTeams (svcWorked (applyRetired (modCore (cleanCore s (16 * fl + c)) (16 * fl + c) fun k => { k with noAdmit := false, l1 := [], lastBy := [] }) (s.svc.getD 0)))
          (16 * fl + c)) .retire (16 * fl + c)))) ∧
    (∀ fl k, fl < 32 → k < 16 → svcRuns s 2 fl k = true → exec (.svcRetireSlice fl k) s = .next (svcWorked (applyRetired { s with lines := s.lines.map (fun p =>
      if homeFlask (128 * p.1) == fl && homeSlice s (128 * p.1) == k then (p.1, { p.2 with dirty := false }) else p) } (s.svc.getD 0)))) ∧
    (∀ stack p, stack < 16 → p < 32 → svcRuns s 3 stack p = true →
      exec (.svcRetirePseudoChannel stack p) s = .next (svcWorked (applyRetired s (s.svc.getD 0)))) ∧
    (∀ port lane u, port < 12 → lane < 8 → svcRuns s 4 port lane = true → (mget s.ports port {}).spare = false → u = applyRetired s (s.svc.getD 0) →
      (sysFld u (sel 4 port) 4 4 = 0 → exec (.svcRetireFlueLane port lane) s = .next (svcWorked u)) ∧
      (sysFld u (sel 4 port) 4 4 ≠ 0 → exec (.svcRetireFlueLane port lane) s =
        .next { u with ports := mmod u.ports port {} fun (p : Port) => { p with retrain := true } })) ∧
    (∀ fl edge md lane, fl < 32 → edge < 4 → md < 4 → lane < 64 → svcRuns s 5 fl (64 * edge + 16 * md) = true →
      (s.svc.map fun v => fld v 16 6) = some lane → exec (.svcRetireUcieLane fl edge md lane) s = .next (svcWorked (applyRetired s (s.svc.getD 0)))) ∧
    (∀ v, s.svc = some v → (s.svcFin = true → exec .svcDone s = .next (svcEnd s v 0)) ∧ (s.svcFin = false → exec .svcDone s = .next s)) ∧
    (∀ ctx off bytes, ctx < 256 → off < 4096 → s.boot.linkUp = true → bytes ≠ [] →
      ((bytes.length ≠ 64 ∨ off % 64 ≠ 0 ∨ 0xFC0 < off + bytes.length) → exec (.hostMessage ctx off bytes) s = .next (hmCount s ctx 16)) ∧
      (bytes.length = 64 → off % 64 = 0 → off + 64 ≤ 0xFC0 →
        (ctxResident s ctx = false → exec (.hostMessage ctx off bytes) s = .next (hmCount s 0 48)) ∧
        (ctxResident s ctx = true → 32 ≤ (mget s.ctxs ctx {}).hostq.length → exec (.hostMessage ctx off bytes) s = .next (hmCount s ctx 32)) ∧
        (ctxResident s ctx = true → (mget s.ctxs ctx {}).hostq.length < 32 → exec (.hostMessage ctx off bytes) s =
          .next (setSysFld { s with ctxs := mmod s.ctxs ctx {} (fun (x : CtxS) => { x with hostq := x.hostq ++ [bytes.take 2 ++ natBytes 1 2 ++ (bytes.drop 3).take 1 ++ natBytes 2 0xFFFF ++ bytes.drop 6] }) }
            (sel 17 ctx) 0 6 (32 - ((mget s.ctxs ctx {}).hostq.length + 1)))))) ∧
    (∀ off b, off < 2 ^ 36 → s.boot.linkUp = true → stagingHeld s off 1 = false →
      (mget? s.staging (off / 2 ^ 21) = none → exec (.hostStagingWrite off [b]) s = .next s) ∧
      (∀ k kid, mget? s.staging (off / 2 ^ 21) = some (k, kid) → frameOk s (k + off % 2 ^ 21) = true →
        (2 ≤ keyTier (k + off % 2 ^ 21) ∨ keyLive s kid = true) →
        exec (.hostStagingWrite off [b]) s = .next (homeWriteRun s 32 512 256 kid (k + off % 2 ^ 21) [b]))) ∧
    (∀ k : BitVec 17, selOk k.toNat = true → exec (.mgmtReadRegister k) s = .next { s with mgmtOut := natBytes 8 (sysRead s k.toNat).toNat }) ∧
    (∀ nonce, nonce.length = 32 → exec (.attestationQuote nonce) s = .next { s with mgmtOut := Config.mlDsaSign (quoteMessage s nonce) }) ∧
    exec .hostLinkReset s = .next { s with boot := { s.boot with linkUp := decide (3 ≤ bootStat 16 4 s) && bootStat 0 1 s == 0 } } ∧
    (∀ a b c d, bootStat 16 4 s = 0 → bootStat 0 1 s ≠ 1 → exec (.powerOn [a, b, c, d]) s = .next (bootFrom 1 [a, b, c, d] (extend s 0 Config.stage0Rom))) ∧
    (∀ img, bootStat 0 1 s = 1 → s.boot.recov = none →
      exec (.recoveryImage img) s = .next (setBoot { s with boot := { s.boot with recov := some img } } 1 1 1)) ∧
    (∀ img u, s.boot.recov = some img → u = setBoot (setBoot (setBoot { s with boot := { s.boot with recov := none } } 1 1 0) 8 4 0) 0 1 0 →
      recoveryVerified s = bootFrom (bootStat 16 4 u) (img :: s.boot.images) u) ∧
    (∀ k x, (x.present = false → bootStage s k x = bootStop s k 4) ∧
      (x.present = true → signed s k x = false → bootStage s k x = bootStop s k 1) ∧
      (x.present = true → signed s k x = true → x.version.toNat < (svnOf s).toNat → bootStage s k x = bootStop s k 2)) ∧
    (∀ k cause, k < 16 → cause < 16 → bootStat 16 4 (bootStop s k cause) = k ∧ bootStat 8 4 (bootStop s k cause) = cause ∧
      bootStat 0 1 (bootStop s k cause) = 1) ∧

    (∀ v : BitVec 32, (v.toNat ≤ (svnOf s).toNat → exec (.antiRollbackAdvance v) s = .next s) ∧
      ((svnOf s).toNat < v.toNat → exec (.antiRollbackAdvance v) s = .next { s with boot := { s.boot with svn := some v } })) ∧
    (∃ t, exec .moduleReset s = .next ((List.range 32).foldl (resetMasks s) t) ∧
      t = { State.reset with
        agenda := s.agenda, free := s.free, nextUid := s.nextUid, mem := s.mem, retired := s.retired, boot := { svn := s.boot.svn },
        lines := s.lines.map fun p => (p.1, ({ key := noKey } : LineS)) })

/-- O59: IMULH writes to D, in the lanes whose guard is true, a number whose low w bits are the high half of the exact 2w-bit
product of its sources, taken as signed numbers for s types and as unsigned numbers for z types, and which is due after 10
cycles; IMULH.s32 of -2 and 3 gives 0xFFFFFFFF, and IMULH.z32 of the same patterns gives 2 (R317). -/
def Obligations.ImulhHighHalf : Prop :=
  (∀ (s : State) (c : Cur) (x : Group) (h : Hdr) (t : Ty) (d : Reg) (a b : Src),
    (t = .s32 ∨ t = .z32 ∨ t = .s64 ∨ t = .z64) →
    ∃ f : Env → Nat → Nat, (∀ e l, f e l % 2 ^ t.bits = highHalf t (e.num t.wide a l) (e.num t.wide b l)) ∧
      ∀ φ : LaneForm, φ = { info := info2 h t d a b, lat := 10, d := some d, wide := t.wide, val := f } →
        MayIssue s c x φ.info → ∃ u, exec (.imulh h t d a b) s = .next u ∧ LaneDone s u c x φ) ∧
  highHalf .s32 0xFFFFFFFE 3 = 0xFFFFFFFF ∧ highHalf .z32 0xFFFFFFFE 3 = 2

/-- O60: Router k of the flask at row y and column x, which serves the cores 2k and 2k + 1 of that flask, stands at mesh column
4x + (k & 3) and mesh row 2y + (k >> 2), so that inside one flask the routers stand 4 wide and 2 tall, and the routers fill one
mesh of 16 by 16, each place once (R21). -/
def Obligations.RouterPlaces : Prop :=
  (∀ x y k i, x < 4 → y < 8 → k < 8 → i < 2 →
    routerOf (16 * (4 * y + x) + 2 * k + i) = (4 * x + (k &&& 3), 2 * y + (k >>> 2))) ∧
  (∀ X Y, X < 16 → Y < 16 → ∃ c, c < 512 ∧ routerOf c = (X, Y) ∧ ∀ d, d < 512 → routerOf d = (X, Y) → d / 2 = c / 2)
end

