-- ==== Sys2Proof/Laws/Bytes.lean ====
section
/-! SUPPORT. Bytes and the numbers that they spell (R1). -/

namespace Sys2Proof.Machine

theorem natBytes_length (n x : Nat) : (natBytes n x).length = n := by
  induction n generalizing x with
  | zero => rfl
  | succ n ih => simp [natBytes, ih]

/-- Bytes of a number spell it, as far as they reach. -/
theorem bytesNat_natBytes (n x : Nat) : bytesNat (natBytes n x) = x % 256 ^ n := by
  induction n generalizing x with
  | zero => simp [natBytes, bytesNat, Nat.mod_one]
  | succ n ih =>
    simp only [natBytes, bytesNat, ih, BitVec.toNat_ofNat]
    have h : 256 ^ (n + 1) = 256 * 256 ^ n := by rw [Nat.pow_succ, Nat.mul_comm]
    rw [h, Nat.mod_mul]

/-- A slice that begins past the first part. -/
theorem bytesAt_skip (a b : List (BitVec 8)) (off n : Nat) (h : a.length ≤ off) :
    bytesAt (a ++ b) off n = bytesAt b (off - a.length) n := by
  unfold bytesAt
  rw [List.drop_append, List.drop_eq_nil_of_le h, List.nil_append]

/-- A slice that is the first part. -/
theorem bytesAt_first (n x : Nat) (b : List (BitVec 8)) : bytesAt (natBytes n x ++ b) 0 n = x % 256 ^ n := by
  unfold bytesAt
  rw [List.drop_zero, List.take_left' (natBytes_length n x), bytesNat_natBytes]

/-- A slice that is all of them. -/
theorem bytesAt_all (n x : Nat) : bytesAt (natBytes n x) 0 n = x % 256 ^ n := by
  have := bytesAt_first n x []
  rwa [List.append_nil] at this

end Sys2Proof.Machine
end

