-- ==== Sys2Proof/Laws/Exec.lean ====
section
/-! SUPPORT. The meaning of each constructor: one equation per arm, so that no proof unfolds the dispatch. -/

namespace Sys2Proof.Machine

theorem exec_nop (h : Hdr) (s : State) : exec (.nop h) s = execNop h s := rfl
theorem exec_bra (h : Hdr) (off : BitVec 32) (s : State) : exec (.bra h off) s = execBra h off s := rfl
theorem exec_brx (h : Hdr) (a : Reg) (s : State) : exec (.brx h a) s = execBrx h a s := rfl
theorem exec_call (h : Hdr) (off : BitVec 32) (s : State) : exec (.call h off) s = execCall h off s := rfl
theorem exec_ret (h : Hdr) (a : Reg) (s : State) : exec (.ret h a) s = execRet h a s := rfl
theorem exec_exit (h : Hdr) (s : State) : exec (.exit h) s = execExit h s := rfl
theorem exec_rjset (h : Hdr) (k : BitVec 3) (s : State) : exec (.rjset h k) s = execRjset h k s := rfl
theorem exec_rjoin (h : Hdr) (k : BitVec 3) (s : State) : exec (.rjoin h k) s = execRjoin h k s := rfl
theorem exec_rjclr (h : Hdr) (k : BitVec 3) (s : State) : exec (.rjclr h k) s = execRjclr h k s := rfl
theorem exec_yield (h : Hdr) (n : BitVec 10) (s : State) : exec (.yield h n) s = execYield h n s := rfl
theorem exec_waitf (h : Hdr) (s : State) : exec (.waitf h) s = execWaitf h s := rfl
theorem exec_trap (h : Hdr) (a : SImm) (s : State) : exec (.trap h a) s = execTrap h a s := rfl
theorem exec_bkpt (h : Hdr) (s : State) : exec (.bkpt h) s = execBkpt h s := rfl
theorem exec_uivec (h : Hdr) (a : SImm) (s : State) : exec (.uivec h a) s = execUivec h a s := rfl
theorem exec_uiret (h : Hdr) (s : State) : exec (.uiret h) s = execUiret h s := rfl
theorem exec_iadd (h : Hdr) (t : Ty) (sat : Bool) (d : Reg) (a b : Src) (s : State) :
    exec (.iadd h t sat d a b) s = execIadd h t sat d a b s := rfl
theorem exec_isub (h : Hdr) (t : Ty) (sat : Bool) (d : Reg) (a b : Src) (s : State) :
    exec (.isub h t sat d a b) s = execIsub h t sat d a b s := rfl
theorem exec_iaddc (h : Hdr) (t : Ty) (d : Reg) (a b : Src) (pk : BitVec 3) (s : State) :
    exec (.iaddc h t d a b pk) s = execIaddc h t d a b pk s := rfl
theorem exec_isubb (h : Hdr) (t : Ty) (d : Reg) (a b : Src) (pk : BitVec 3) (s : State) :
    exec (.isubb h t d a b pk) s = execIsubb h t d a b pk s := rfl
theorem exec_imul (h : Hdr) (t : Ty) (sat : Bool) (d : Reg) (a b : Src) (s : State) :
    exec (.imul h t sat d a b) s = execImul h t sat d a b s := rfl
theorem exec_imulh (h : Hdr) (t : Ty) (d : Reg) (a b : Src) (s : State) :
    exec (.imulh h t d a b) s = execImulh h t d a b s := rfl
theorem exec_imad (h : Hdr) (t : Ty) (sat : Bool) (d : Reg) (a b : Src) (c : BitVec 10) (s : State) :
    exec (.imad h t sat d a b c) s = execImad h t sat d a b c s := rfl
theorem exec_idiv (h : Hdr) (t : Ty) (d : Reg) (a b : Src) (s : State) : exec (.idiv h t d a b) s = execIdiv h t d a b s := rfl
theorem exec_irem (h : Hdr) (t : Ty) (d : Reg) (a b : Src) (s : State) : exec (.irem h t d a b) s = execIrem h t d a b s := rfl
theorem exec_imin (h : Hdr) (t : Ty) (d : Reg) (a b : Src) (s : State) : exec (.imin h t d a b) s = execImin h t d a b s := rfl
theorem exec_imax (h : Hdr) (t : Ty) (d : Reg) (a b : Src) (s : State) : exec (.imax h t d a b) s = execImax h t d a b s := rfl
theorem exec_iabs (h : Hdr) (t : Ty) (sat : Bool) (d : Reg) (a : Src) (s : State) :
    exec (.iabs h t sat d a) s = execIabs h t sat d a s := rfl
theorem exec_ineg (h : Hdr) (t : Ty) (sat : Bool) (d : Reg) (a : Src) (s : State) :
    exec (.ineg h t sat d a) s = execIneg h t sat d a s := rfl
theorem exec_idp4 (h : Hdr) (t : Ty) (sat : Bool) (d : Reg) (a b : Src) (c : BitVec 10) (s : State) :
    exec (.idp4 h t sat d a b c) s = execIdp4 h t sat d a b c s := rfl
theorem exec_idp2 (h : Hdr) (t : Ty) (sat : Bool) (d : Reg) (a b : Src) (c : BitVec 10) (s : State) :
    exec (.idp2 h t sat d a b c) s = execIdp2 h t sat d a b c s := rfl
theorem exec_iadd3 (h : Hdr) (t : Ty) (sat : Bool) (d : Reg) (a b : Src) (c : BitVec 10) (s : State) :
    exec (.iadd3 h t sat d a b c) s = execIadd3 h t sat d a b c s := rfl
theorem exec_and (h : Hdr) (t : Ty) (d : Reg) (a b : Src) (s : State) : exec (.and h t d a b) s = execAnd h t d a b s := rfl
theorem exec_or (h : Hdr) (t : Ty) (d : Reg) (a b : Src) (s : State) : exec (.or h t d a b) s = execOr h t d a b s := rfl
theorem exec_xor (h : Hdr) (t : Ty) (d : Reg) (a b : Src) (s : State) : exec (.xor h t d a b) s = execXor h t d a b s := rfl
theorem exec_andn (h : Hdr) (t : Ty) (d : Reg) (a b : Src) (s : State) : exec (.andn h t d a b) s = execAndn h t d a b s := rfl
theorem exec_not (h : Hdr) (t : Ty) (d : Reg) (a : Src) (s : State) : exec (.not h t d a) s = execNot h t d a s := rfl
theorem exec_bmix3 (h : Hdr) (t : Ty) (d : Reg) (a b : Src) (c : BitVec 10) (tbl : BitVec 8) (s : State) :
    exec (.bmix3 h t d a b c tbl) s = execBmix3 h t d a b c tbl s := rfl
theorem exec_shl (h : Hdr) (t : Ty) (d : Reg) (a b : Src) (s : State) : exec (.shl h t d a b) s = execShl h t d a b s := rfl
theorem exec_shr (h : Hdr) (t : Ty) (d : Reg) (a b : Src) (s : State) : exec (.shr h t d a b) s = execShr h t d a b s := rfl
theorem exec_sar (h : Hdr) (t : Ty) (d : Reg) (a b : Src) (s : State) : exec (.sar h t d a b) s = execSar h t d a b s := rfl
theorem exec_rotl (h : Hdr) (t : Ty) (d : Reg) (a b : Src) (s : State) : exec (.rotl h t d a b) s = execRotl h t d a b s := rfl
theorem exec_rotr (h : Hdr) (t : Ty) (d : Reg) (a b : Src) (s : State) : exec (.rotr h t d a b) s = execRotr h t d a b s := rfl
theorem exec_dshr (h : Hdr) (t : Ty) (d : Reg) (a b : Src) (c : BitVec 10) (s : State) :
    exec (.dshr h t d a b c) s = execDshr h t d a b c s := rfl
theorem exec_ones (h : Hdr) (t : Ty) (d : Reg) (a : Src) (s : State) : exec (.ones h t d a) s = execOnes h t d a s := rfl
theorem exec_clz (h : Hdr) (t : Ty) (d : Reg) (a : Src) (s : State) : exec (.clz h t d a) s = execClz h t d a s := rfl
theorem exec_ctz (h : Hdr) (t : Ty) (d : Reg) (a : Src) (s : State) : exec (.ctz h t d a) s = execCtz h t d a s := rfl
theorem exec_brev (h : Hdr) (t : Ty) (d : Reg) (a : Src) (s : State) : exec (.brev h t d a) s = execBrev h t d a s := rfl
theorem exec_fxtr (h : Hdr) (t : Ty) (d : Reg) (a b : Src) (s : State) : exec (.fxtr h t d a b) s = execFxtr h t d a b s := rfl
theorem exec_fins (h : Hdr) (t : Ty) (d : Reg) (a b : Src) (c : BitVec 10) (s : State) :
    exec (.fins h t d a b c) s = execFins h t d a b c s := rfl
theorem exec_clmul (h : Hdr) (t : Ty) (d : Reg) (a b : Src) (s : State) :
    exec (.clmul h t d a b) s = execClmul h t d a b s := rfl
theorem exec_clmulh (h : Hdr) (t : Ty) (d : Reg) (a b : Src) (s : State) :
    exec (.clmulh h t d a b) s = execClmulh h t d a b s := rfl
theorem exec_bsel (h : Hdr) (d : Reg) (a b : Src) (c : BitVec 10) (s : State) :
    exec (.bsel h d a b c) s = execBsel h d a b c s := rfl
theorem exec_fadd (h : Hdr) (r : Rnd) (d : Reg) (a b : Src) (s : State) : exec (.fadd h r d a b) s = execFadd h r d a b s := rfl
theorem exec_fsub (h : Hdr) (r : Rnd) (d : Reg) (a b : Src) (s : State) : exec (.fsub h r d a b) s = execFsub h r d a b s := rfl
theorem exec_fmul (h : Hdr) (r : Rnd) (d : Reg) (a b : Src) (s : State) : exec (.fmul h r d a b) s = execFmul h r d a b s := rfl
theorem exec_ffma (h : Hdr) (r : Rnd) (d : Reg) (a b : Src) (c : BitVec 10) (s : State) :
    exec (.ffma h r d a b c) s = execFfma h r d a b c s := rfl
theorem exec_fmin (h : Hdr) (d : Reg) (a b : Src) (s : State) : exec (.fmin h d a b) s = execFmin h d a b s := rfl
theorem exec_fmax (h : Hdr) (d : Reg) (a b : Src) (s : State) : exec (.fmax h d a b) s = execFmax h d a b s := rfl
theorem exec_frnd (h : Hdr) (r : Rnd) (d : Reg) (a : Src) (s : State) : exec (.frnd h r d a) s = execFrnd h r d a s := rfl
theorem exec_fscale (h : Hdr) (r : Rnd) (d : Reg) (a b : Src) (s : State) :
    exec (.fscale h r d a b) s = execFscale h r d a b s := rfl
theorem exec_fclass (h : Hdr) (d : Reg) (a : Src) (s : State) : exec (.fclass h d a) s = execFclass h d a s := rfl
theorem exec_fabs (h : Hdr) (d : Reg) (a : Src) (s : State) : exec (.fabs h d a) s = execFabs h d a s := rfl
theorem exec_fneg (h : Hdr) (d : Reg) (a : Src) (s : State) : exec (.fneg h d a) s = execFneg h d a s := rfl
theorem exec_fcpys (h : Hdr) (d : Reg) (a b : Src) (s : State) : exec (.fcpys h d a b) s = execFcpys h d a b s := rfl
theorem exec_hadd2 (h : Hdr) (t : Ty) (r : Rnd) (d : Reg) (a b : Src) (s : State) :
    exec (.hadd2 h t r d a b) s = execHadd2 h t r d a b s := rfl
theorem exec_hmul2 (h : Hdr) (t : Ty) (r : Rnd) (d : Reg) (a b : Src) (s : State) :
    exec (.hmul2 h t r d a b) s = execHmul2 h t r d a b s := rfl
theorem exec_hfma2 (h : Hdr) (t : Ty) (r : Rnd) (d : Reg) (a b : Src) (c : BitVec 10) (s : State) :
    exec (.hfma2 h t r d a b c) s = execHfma2 h t r d a b c s := rfl
theorem exec_hmin2 (h : Hdr) (t : Ty) (d : Reg) (a b : Src) (s : State) :
    exec (.hmin2 h t d a b) s = execHmin2 h t d a b s := rfl
theorem exec_hmax2 (h : Hdr) (t : Ty) (d : Reg) (a b : Src) (s : State) :
    exec (.hmax2 h t d a b) s = execHmax2 h t d a b s := rfl
theorem exec_cvt (h : Hdr) (dt st : Ty) (r : Rnd) (sat : Bool) (d : Reg) (a : Src) (s : State) :
    exec (.cvt h dt st r sat d a) s = execCvt h dt st r sat d a s := rfl
theorem exec_cvtpk (h : Hdr) (dt st : Ty) (r : Rnd) (sat : Bool) (d : Reg) (a b : Src) (s : State) :
    exec (.cvtpk h dt st r sat d a b) s = execCvtpk h dt st r sat d a b s := rfl
theorem exec_qblk (h : Hdr) (t : BlkTy) (d : BitVec 10) (a b : Src) (s : State) :
    exec (.qblk h t d a b) s = execQblk h t d a b s := rfl
theorem exec_dqblk (h : Hdr) (d : BitVec 10) (a : Src) (s : State) : exec (.dqblk h d a) s = execDqblk h d a s := rfl
theorem exec_mov (h : Hdr) (t : Ty) (d : Reg) (a : Src) (s : State) : exec (.mov h t d a) s = execMov h t d a s := rfl
theorem exec_movi (h : Hdr) (d : BitVec 10) (imm : BitVec 32) (s : State) : exec (.movi h d imm) s = execMovi h d imm s := rfl
theorem exec_movh (h : Hdr) (t : Ty) (d : Reg) (a b : Src) (s : State) : exec (.movh h t d a b) s = execMovh h t d a b s := rfl
theorem exec_sel (h : Hdr) (t : Ty) (d : Reg) (a b : Src) (pk : BitVec 3) (s : State) :
    exec (.sel h t d a b pk) s = execSel h t d a b pk s := rfl
theorem exec_icmp (h : Hdr) (t : Ty) (c : Cmp) (pd : BitVec 3) (a b : Src) (s : State) :
    exec (.icmp h t c pd a b) s = execIcmp h t c pd a b s := rfl
theorem exec_fcmp (h : Hdr) (c : Cmp) (pd : BitVec 3) (a b : Src) (s : State) :
    exec (.fcmp h c pd a b) s = execFcmp h c pd a b s := rfl
theorem exec_plog (h : Hdr) (op : PlogOp) (pd pa pb : BitVec 3) (s : State) :
    exec (.plog h op pd pa pb) s = execPlog h op pd pa pb s := rfl
theorem exec_pxfr (h : Hdr) (x : PxArgs) (s : State) : exec (.pxfr h x) s = execPxfr h x s := rfl
theorem exec_poll (h : Hdr) (m : PollMode) (d : PollDst) (pa : BitVec 3) (s : State) :
    exec (.poll h m d pa) s = execPoll h m d pa s := rfl
theorem exec_peers (h : Hdr) (t : Ty) (d : PeerDst) (a : Src) (s : State) : exec (.peers h t d a) s = execPeers h t d a s := rfl
theorem exec_rdsys (h : Hdr) (d : Reg) (wide : Bool) (num axis : BitVec 10) (s : State) :
    exec (.rdsys h d wide num axis) s = execRdsys h d wide num axis s := rfl
theorem exec_wrsys (h : Hdr) (num : BitVec 10) (a : SImm) (s : State) : exec (.wrsys h num a) s = execWrsys h num a s := rfl
theorem exec_frcp (h : Hdr) (r : Rnd) (d : Reg) (a : Src) (s : State) : exec (.frcp h r d a) s = execFrcp h r d a s := rfl
theorem exec_frsq (h : Hdr) (d : Reg) (a : Src) (s : State) : exec (.frsq h d a) s = execFrsq h d a s := rfl
theorem exec_fsqrt (h : Hdr) (r : Rnd) (d : Reg) (a : Src) (s : State) : exec (.fsqrt h r d a) s = execFsqrt h r d a s := rfl
theorem exec_fexp2 (h : Hdr) (d : Reg) (a : Src) (s : State) : exec (.fexp2 h d a) s = execFexp2 h d a s := rfl
theorem exec_flog2 (h : Hdr) (d : Reg) (a : Src) (s : State) : exec (.flog2 h d a) s = execFlog2 h d a s := rfl
theorem exec_fsin (h : Hdr) (d : Reg) (a : Src) (s : State) : exec (.fsin h d a) s = execFsin h d a s := rfl
theorem exec_fcos (h : Hdr) (d : Reg) (a : Src) (s : State) : exec (.fcos h d a) s = execFcos h d a s := rfl
theorem exec_ftanh (h : Hdr) (d : Reg) (a : Src) (s : State) : exec (.ftanh h d a) s = execFtanh h d a s := rfl
theorem exec_lxch (h : Hdr) (t : Ty) (m : LxMode) (d : BitVec 10) (a b : Src) (s : State) :
    exec (.lxch h t m d a b) s = execLxch h t m d a b s := rfl
theorem exec_redux (h : Hdr) (t : Ty) (op : RedOp) (r : Rnd) (d : Reg) (a : Src) (s : State) :
    exec (.redux h t op r d a) s = execRedux h t op r d a s := rfl
theorem exec_scan (h : Hdr) (t : Ty) (op : RedOp) (r : Rnd) (d : BitVec 10) (a : Src) (s : State) :
    exec (.scan h t op r d a) s = execScan h t op r d a s := rfl
theorem exec_ld (h : Hdr) (t : Ty) (strong acq : Bool) (sc : Scope) (d : BitVec 10) (m : MemRef) (s : State) :
    exec (.ld h t strong acq sc d m) s = execLd h t strong acq sc d m s := rfl
theorem exec_st (h : Hdr) (t : Ty) (strong rel : Bool) (sc : Scope) (x : BitVec 10) (m : MemRef) (s : State) :
    exec (.st h t strong rel sc x m) s = execSt h t strong rel sc x m s := rfl
theorem exec_lds (h : Hdr) (t : Ty) (strong acq : Bool) (d : BitVec 10) (base : BitVec 6) (off disp : BitVec 10) (s : State) :
    exec (.lds h t strong acq d base off disp) s = execLds h t strong acq d base off disp s := rfl
theorem exec_sts (h : Hdr) (t : Ty) (strong rel : Bool) (x : BitVec 10) (base : BitVec 6) (off disp : BitVec 10) (s : State) :
    exec (.sts h t strong rel x base off disp) s = execSts h t strong rel x base off disp s := rfl
theorem exec_atom (h : Hdr) (op : AtomOp) (t : Ty) (o : Ord) (sc : Scope) (d : BitVec 10) (base : BitVec 6) (off x : BitVec 10) (pk : BitVec 3) (s : State) :
    exec (.atom h op t o sc d base off x pk) s = execAtom h op t o sc d base off x pk s := rfl
theorem exec_atoms (h : Hdr) (op : AtomOp) (t : Ty) (o : Ord) (d : BitVec 10) (base : BitVec 6) (off x : BitVec 10) (s : State) :
    exec (.atoms h op t o d base off x) s = execAtoms h op t o d base off x s := rfl
theorem exec_red (h : Hdr) (op : AtomOp) (t : Ty) (rel : Bool) (sc : Scope) (x : BitVec 10) (m : MemRef) (s : State) :
    exec (.red h op t rel sc x m) s = execRed h op t rel sc x m s := rfl
theorem exec_ldsc (h : Hdr) (t : Ty) (strong acq : Bool) (sc : Scope) (d : BitVec 6) (base : BitVec 6) (disp : BitVec 10) (pk : BitVec 3) (s : State) :
    exec (.ldsc h t strong acq sc d base disp pk) s = execLdsc h t strong acq sc d base disp pk s := rfl
theorem exec_preq (h : Hdr) (t : Ty) (base : BitVec 6) (off disp : BitVec 10) (s : State) :
    exec (.preq h t base off disp) s = execPreq h t base off disp s := rfl
theorem exec_pref (h : Hdr) (t : Ty) (base : BitVec 6) (off disp : BitVec 10) (s : State) :
    exec (.pref h t base off disp) s = execPref h t base off disp s := rfl
theorem exec_cctl (h : Hdr) (op : CctlOp) (t : Ty) (base : BitVec 6) (off disp : BitVec 10) (s : State) :
    exec (.cctl h op t base off disp) s = execCctl h op t base off disp s := rfl
theorem exec_sink (h : Hdr) (n : BitVec 4) (s : State) : exec (.sink h n) s = execSink h n s := rfl
theorem exec_srec (h : Hdr) (d : BitVec 10) (s : State) : exec (.srec h d) s = execSrec h d s := rfl
theorem exec_fence (h : Hdr) (o : Ord) (sc : Scope) (s : State) : exec (.fence h o sc) s = execFence h o sc s := rfl
theorem exec_cjoin (h : Hdr) (c : BitVec 4) (idx timer : SImm) (s : State) :
    exec (.cjoin h c idx timer) s = execCjoin h c idx timer s := rfl
theorem exec_cleave (h : Hdr) (c : BitVec 4) (s : State) : exec (.cleave h c) s = execCleave h c s := rfl
theorem exec_cld (h : Hdr) (ui : Bool) (c : BitVec 4) (sa sb : BitVec 6) (s : State) :
    exec (.cld h ui c sa sb) s = execCld h ui c sa sb s := rfl
theorem exec_cstat (h : Hdr) (d : BitVec 6) (c : BitVec 4) (s : State) : exec (.cstat h d c) s = execCstat h d c s := rfl
theorem exec_cpy (h : Hdr) (ui : Bool) (pk : BitVec 3) (a : Reg) (s : State) :
    exec (.cpy h ui pk a) s = execCpy h ui pk a s := rfl
theorem exec_cpyfill (h : Hdr) (ui : Bool) (pk : BitVec 3) (a : Reg) (s : State) :
    exec (.cpyfill h ui pk a) s = execCpyfill h ui pk a s := rfl
theorem exec_cbinit (h : Hdr) (b : BitVec 4) (sa sb sc : BitVec 6) (s : State) :
    exec (.cbinit h b sa sb sc) s = execCbinit h b sa sb sc s := rfl
theorem exec_cbacq (h : Hdr) (d : Reg) (b : BitVec 4) (s : State) : exec (.cbacq h d b) s = execCbacq h d b s := rfl
theorem exec_cbrel (h : Hdr) (b : BitVec 4) (sa : BitVec 6) (s : State) : exec (.cbrel h b sa) s = execCbrel h b sa s := rfl
theorem exec_blws (h : Hdr) (t : Ty) (q : BitVec 2) (sa : BitVec 6) (s : State) :
    exec (.blws h t q sa) s = execBlws h t q sa s := rfl
theorem exec_blwstop (h : Hdr) (q : BitVec 2) (s : State) : exec (.blwstop h q) s = execBlwstop h q s := rfl
theorem exec_qcfg (h : Hdr) (q : BitVec 2) (rbase depth : SImm) (s : State) :
    exec (.qcfg h q rbase depth) s = execQcfg h q rbase depth s := rfl
theorem exec_nmcpy (h : Hdr) (ui : Bool) (sd ss : BitVec 6) (n : SImm) (s : State) :
    exec (.nmcpy h ui sd ss n) s = execNmcpy h ui sd ss n s := rfl
theorem exec_nmzero (h : Hdr) (ui : Bool) (sd : BitVec 6) (n : SImm) (s : State) :
    exec (.nmzero h ui sd n) s = execNmzero h ui sd n s := rfl
theorem exec_obres (h : Hdr) (k : BitVec 4) (sa : BitVec 6) (s : State) : exec (.obres h k sa) s = execObres h k sa s := rfl
theorem exec_obrel (h : Hdr) (k : BitVec 4) (s : State) : exec (.obrel h k) s = execObrel h k s := rfl
theorem exec_scpy (h : Hdr) (ui : Bool) (sa sb : BitVec 6) (s : State) :
    exec (.scpy h ui sa sb) s = execScpy h ui sa sb s := rfl
theorem exec_ptld (h : Hdr) (ui : Bool) (t : BitVec 3) (sa : BitVec 6) (s : State) :
    exec (.ptld h ui t sa) s = execPtld h ui t sa s := rfl
theorem exec_mma (h : Hdr) (sat ui : Bool) (sa : BitVec 6) (pk : BitVec 3) (s : State) :
    exec (.mma h sat ui sa pk) s = execMma h sat ui sa pk s := rfl
theorem exec_accz (h : Hdr) (a b : SImm) (s : State) : exec (.accz h a b) s = execAccz h a b s := rfl
theorem exec_accld (h : Hdr) (t : Ty) (ui : Bool) (sa sb : BitVec 6) (s : State) :
    exec (.accld h t ui sa sb) s = execAccld h t ui sa sb s := rfl
theorem exec_accst (h : Hdr) (t : Ty) (r : Rnd) (ui : Bool) (sa sb : BitVec 6) (s : State) :
    exec (.accst h t r ui sa sb) s = execAccst h t r ui sa sb s := rfl
theorem exec_batonTake (h : Hdr) (s : State) : exec (.batonTake h) s = execBatonTake h s := rfl
theorem exec_batonPass (h : Hdr) (s : State) : exec (.batonPass h) s = execBatonPass h s := rfl
theorem exec_batonQuery (h : Hdr) (d : BitVec 6) (s : State) : exec (.batonQuery h d) s = execBatonQuery h d s := rfl
theorem exec_bar (h : Hdr) (sc : Scope) (s : State) : exec (.bar h sc) s = execBar h sc s := rfl
theorem exec_phase (h : Hdr) (n : SImm) (s : State) : exec (.phase h n) s = execPhase h n s := rfl
theorem exec_signal (h : Hdr) (i : SImm) (s : State) : exec (.signal h i) s = execSignal h i s := rfl
theorem exec_spawnTask (h : Hdr) (sa : BitVec 6) (pk : BitVec 3) (s : State) :
    exec (.spawnTask h sa pk) s = execSpawnTask h sa pk s := rfl
theorem exec_spawnGrid (h : Hdr) (sa : BitVec 6) (pk : BitVec 3) (s : State) :
    exec (.spawnGrid h sa pk) s = execSpawnGrid h sa pk s := rfl
theorem exec_spawnGraph (h : Hdr) (sa : BitVec 6) (pk : BitVec 3) (s : State) :
    exec (.spawnGraph h sa pk) s = execSpawnGraph h sa pk s := rfl
theorem exec_amsg (h : Hdr) (sa : BitVec 6) (vb : BitVec 10) (s : State) : exec (.amsg h sa vb) s = execAmsg h sa vb s := rfl
theorem exec_tnow (h : Hdr) (d : Reg) (a : SImm) (s : State) : exec (.tnow h d a) s = execTnow h d a s := rfl
theorem exec_twait (h : Hdr) (sa : BitVec 6) (s : State) : exec (.twait h sa) s = execTwait h sa s := rfl
theorem exec_gwnote (h : Hdr) (sa : BitVec 6) (s : State) : exec (.gwnote h sa) s = execGwnote h sa s := rfl
theorem exec_apxb (h : Hdr) (id : SImm) (vin : BitVec 10) (nin : BitVec 3) (vout : BitVec 10) (nout : BitVec 2) (fin : BitVec 12) (s : State) :
    exec (.apxb h id vin nin vout nout fin) s = execApxb h id vin nin vout nout fin s := rfl
theorem exec_apxe (h : Hdr) (s : State) : exec (.apxe h) s = execApxe h s := rfl
theorem exec_ftcfg (h : Hdr) (id : SImm) (sa : BitVec 6) (s : State) : exec (.ftcfg h id sa) s = execFtcfg h id sa s := rfl
theorem exec_ftinv (h : Hdr) (id : SImm) (s : State) : exec (.ftinv h id) s = execFtinv h id s := rfl
theorem exec_ftstat (h : Hdr) (d : BitVec 6) (id : SImm) (s : State) : exec (.ftstat h d id) s = execFtstat h d id s := rfl
theorem exec_sysrd (h : Hdr) (d sa : BitVec 6) (s : State) : exec (.sysrd h d sa) s = execSysrd h d sa s := rfl
theorem exec_syswr (h : Hdr) (sa sb : BitVec 6) (s : State) : exec (.syswr h sa sb) s = execSyswr h sa sb s := rfl
theorem exec_slcfg (h : Hdr) (a : SImm) (s : State) : exec (.slcfg h a) s = execSlcfg h a s := rfl
theorem exec_tlbinv (h : Hdr) (ctx : SImm) (sa : BitVec 6) (size : BitVec 4) (s : State) :
    exec (.tlbinv h ctx sa size) s = execTlbinv h ctx sa size s := rfl
theorem exec_cres (h : Hdr) (a : SImm) (s : State) : exec (.cres h a) s = execCres h a s := rfl
theorem exec_cresHold (h : Hdr) (a b : SImm) (s : State) : exec (.cresHold h a b) s = execCresHold h a b s := rfl
theorem exec_crrel (h : Hdr) (s : State) : exec (.crrel h) s = execCrrel h s := rfl
theorem exec_quiesce (h : Hdr) (a : SImm) (s : State) : exec (.quiesce h a) s = execQuiesce h a s := rfl
theorem exec_quiesceResume (h : Hdr) (a : SImm) (s : State) : exec (.quiesceResume h a) s = execQuiesceResume h a s := rfl
theorem exec_halt (h : Hdr) (a : SImm) (s : State) : exec (.halt h a) s = execHalt h a s := rfl
theorem exec_haltRelease (h : Hdr) (a : SImm) (s : State) : exec (.haltRelease h a) s = execHaltRelease h a s := rfl
theorem exec_illegalOpcode (w : IWord) (s : State) : exec (.illegalOpcode w) s = execIllegalOpcode w s := rfl
theorem exec_liveExec (w : IWord) (s : State) : exec (.liveExec w) s = execLiveExec w s := rfl
theorem exec_deferredTrap (g : Nat) (s : State) : exec (.deferredTrap g) s = execDeferredTrap g s := rfl
theorem exec_breakpoint (g : Nat) (s : State) : exec (.breakpoint g) s = execBreakpoint g s := rfl
theorem exec_debugStep (core : Nat) (s : State) : exec (.debugStep core) s = execDebugStep core s := rfl
theorem exec_joinStall (g : Nat) (k : BitVec 3) (s : State) : exec (.joinStall g k) s = execJoinStall g k s := rfl
theorem exec_ageBoost (g : Nat) (s : State) : exec (.ageBoost g) s = execAgeBoost g s := rfl
theorem exec_pathAgeBoost (g : Nat) (pc : Pc) (s : State) : exec (.pathAgeBoost g pc) s = execPathAgeBoost g pc s := rfl
theorem exec_uiDeliver (g : Nat) (s : State) : exec (.uiDeliver g) s = execUiDeliver g s := rfl
theorem exec_taskAdmit (core quarter ctx : Nat) (handle : DWord) (s : State) :
    exec (.taskAdmit core quarter ctx handle) s = execTaskAdmit core quarter ctx handle s := rfl
theorem exec_steal (core quarter : Nat) (s : State) : exec (.steal core quarter) s = execSteal core quarter s := rfl
theorem exec_depsDecrement (i : Nat) (s : State) : exec (.depsDecrement i) s = execDepsDecrement i s := rfl
theorem exec_poisonedDecrement (i : Nat) (s : State) : exec (.poisonedDecrement i) s = execPoisonedDecrement i s := rfl
theorem exec_taskReleaseTime (ctx : Nat) (handle : DWord) (s : State) :
    exec (.taskReleaseTime ctx handle) s = execTaskReleaseTime ctx handle s := rfl
theorem exec_gangPlace (gang : Nat) (places : List (Nat × Nat)) (s : State) :
    exec (.gangPlace gang places) s = execGangPlace gang places s := rfl
theorem exec_gangRelease (gang : Nat) (s : State) : exec (.gangRelease gang) s = execGangRelease gang s := rfl
theorem exec_handlerSpawn (core : Nat) (hostCtx : Option Nat) (s : State) :
    exec (.handlerSpawn core hostCtx) s = execHandlerSpawn core hostCtx s := rfl
theorem exec_messageArrival (i : Nat) (s : State) : exec (.messageArrival i) s = execMessageArrival i s := rfl
theorem exec_walkerTask (fl inst th : Nat) (s : State) : exec (.walkerTask fl inst th) s = execWalkerTask fl inst th s := rfl
theorem exec_walkerTaskDone (fl inst th : Nat) (s : State) :
    exec (.walkerTaskDone fl inst th) s = execWalkerTaskDone fl inst th s := rfl
theorem exec_walkerCond (fl inst th : Nat) (s : State) : exec (.walkerCond fl inst th) s = execWalkerCond fl inst th s := rfl
theorem exec_walkerWhile (fl inst th : Nat) (s : State) : exec (.walkerWhile fl inst th) s = execWalkerWhile fl inst th s := rfl
theorem exec_walkerJoin (fl inst th : Nat) (s : State) : exec (.walkerJoin fl inst th) s = execWalkerJoin fl inst th s := rfl
theorem exec_walkerEnd (fl inst th : Nat) (s : State) : exec (.walkerEnd fl inst th) s = execWalkerEnd fl inst th s := rfl
theorem exec_instanceEnd (fl inst : Nat) (s : State) : exec (.instanceEnd fl inst) s = execInstanceEnd fl inst s := rfl
theorem exec_tierOut (g : Nat) (s : State) : exec (.tierOut g) s = execTierOut g s := rfl
theorem exec_tierRecall (g : Nat) (s : State) : exec (.tierRecall g) s = execTierRecall g s := rfl
theorem exec_tierMoveDone (g : Nat) (s : State) : exec (.tierMoveDone g) s = execTierMoveDone g s := rfl
theorem exec_bellowsElement (g : Nat) (q : BitVec 2) (s : State) :
    exec (.bellowsElement g q) s = execBellowsElement g q s := rfl
theorem exec_subBlockLand (id : Nat) (s : State) : exec (.subBlockLand id) s = execSubBlockLand id s := rfl
theorem exec_followAccess (id : Nat) (s : State) : exec (.followAccess id) s = execFollowAccess id s := rfl
theorem exec_subBlockReturn (id : Nat) (s : State) : exec (.subBlockReturn id) s = execSubBlockReturn id s := rfl
theorem exec_consortTimer (id : Nat) (s : State) : exec (.consortTimer id) s = execConsortTimer id s := rfl
theorem exec_consortFillDone (id team : Nat) (s : State) :
    exec (.consortFillDone id team) s = execConsortFillDone id team s := rfl
theorem exec_cpyStart (core : Nat) (s : State) : exec (.cpyStart core) s = execCpyStart core s := rfl
theorem exec_cpyComplete (core : Nat) (s : State) : exec (.cpyComplete core) s = execCpyComplete core s := rfl
theorem exec_cbacqServe (core : Nat) (b : BitVec 4) (s : State) : exec (.cbacqServe core b) s = execCbacqServe core b s := rfl
theorem exec_mmaStart (core : Nat) (s : State) : exec (.mmaStart core) s = execMmaStart core s := rfl
theorem exec_mmaComplete (core : Nat) (s : State) : exec (.mmaComplete core) s = execMmaComplete core s := rfl
theorem exec_matrixOpComplete (core : Nat) (s : State) : exec (.matrixOpComplete core) s = execMatrixOpComplete core s := rfl
theorem exec_rowOpStart (stack pch : Nat) (s : State) : exec (.rowOpStart stack pch) s = execRowOpStart stack pch s := rfl
theorem exec_rowPair (stack pch : Nat) (s : State) : exec (.rowPair stack pch) s = execRowPair stack pch s := rfl
theorem exec_refreshDue (stack pch bank : Nat) (s : State) :
    exec (.refreshDue stack pch bank) s = execRefreshDue stack pch bank s := rfl
theorem exec_rowOpComplete (stack pch : Nat) (s : State) :
    exec (.rowOpComplete stack pch) s = execRowOpComplete stack pch s := rfl
theorem exec_preqComplete (id page : Nat) (mapped : Bool) (s : State) :
    exec (.preqComplete id page mapped) s = execPreqComplete id page mapped s := rfl
theorem exec_noticeWrite (i : Nat) (s : State) : exec (.noticeWrite i) s = execNoticeWrite i s := rfl
theorem exec_groupParked (g : Nat) (s : State) : exec (.groupParked g) s = execGroupParked g s := rfl
theorem exec_groupResume (i core quarter : Nat) (s : State) :
    exec (.groupResume i core quarter) s = execGroupResume i core quarter s := rfl
theorem exec_groupRedirect (i core quarter : Nat) (s : State) :
    exec (.groupRedirect i core quarter) s = execGroupRedirect i core quarter s := rfl
theorem exec_groupKill (i : Nat) (s : State) : exec (.groupKill i) s = execGroupKill i s := rfl
theorem exec_ctxctlPark (ctx : Nat) (s : State) : exec (.ctxctlPark ctx) s = execCtxctlPark ctx s := rfl
theorem exec_ctxctlResume (ctx : Nat) (s : State) : exec (.ctxctlResume ctx) s = execCtxctlResume ctx s := rfl
theorem exec_uncorrectableError (site : ErrSite) (s : State) :
    exec (.uncorrectableError site) s = execUncorrectableError site s := rfl
theorem exec_corrected (kind unit line : Nat) (s : State) :
    exec (.corrected kind unit line) s = execCorrected kind unit line s := rfl
theorem exec_hostMessage (ctx off : Nat) (bytes : List Byte) (s : State) :
    exec (.hostMessage ctx off bytes) s = execHostMessage ctx off bytes s := rfl
theorem exec_mgmtReadRegister (sel : BitVec 17) (s : State) : exec (.mgmtReadRegister sel) s = execMgmtReadRegister sel s := rfl
theorem exec_hostLinkReset (s : State) : exec .hostLinkReset s = execHostLinkReset s := rfl
theorem exec_moduleReset (s : State) : exec .moduleReset s = execModuleReset s := rfl
theorem exec_powerOn (images : List BootImage) (s : State) : exec (.powerOn images) s = execPowerOn images s := rfl
theorem exec_recoveryImage (img : BootImage) (s : State) : exec (.recoveryImage img) s = execRecoveryImage img s := rfl
theorem exec_attestationQuote (nonce : List Byte) (s : State) :
    exec (.attestationQuote nonce) s = execAttestationQuote nonce s := rfl
theorem exec_antiRollbackAdvance (v : BitVec 32) (s : State) :
    exec (.antiRollbackAdvance v) s = execAntiRollbackAdvance v s := rfl
theorem exec_piControllerStep (c est : Nat) (s : State) : exec (.piControllerStep c est) s = execPiControllerStep c est s := rfl
theorem exec_standingGrant (c : Nat) (used : List (Nat × Nat)) (s : State) :
    exec (.standingGrant c used) s = execStandingGrant c used s := rfl
theorem exec_arbiterGrant (c : Nat) (s : State) : exec (.arbiterGrant c) s = execArbiterGrant c s := rfl
theorem exec_currentRamp (c : Nat) (s : State) : exec (.currentRamp c) s = execCurrentRamp c s := rfl
theorem exec_burstEnd (g used : Nat) (s : State) : exec (.burstEnd g used) s = execBurstEnd g used s := rfl
theorem exec_quotaWrite (ctx : Nat) (x : DWord) (s : State) : exec (.quotaWrite ctx x) s = execQuotaWrite ctx x s := rfl
theorem exec_governorStep (fl temp : Nat) (sums : List Nat) (hot busy : Bool) (s : State) :
    exec (.governorStep fl temp sums hot busy) s = execGovernorStep fl temp sums hot busy s := rfl
theorem exec_migrated (team fl : Nat) (s : State) : exec (.migrated team fl) s = execMigrated team fl s := rfl
theorem exec_regionOverrun (g : Nat) (s : State) : exec (.regionOverrun g) s = execRegionOverrun g s := rfl
theorem exec_pointChangeSwitch (fl : Nat) (s : State) : exec (.pointChangeSwitch fl) s = execPointChangeSwitch fl s := rfl
theorem exec_droopDetect (fl : Nat) (s : State) : exec (.droopDetect fl) s = execDroopDetect fl s := rfl
theorem exec_droopClear (fl : Nat) (s : State) : exec (.droopClear fl) s = execDroopClear fl s := rfl
theorem exec_droneTimedStart (u : TimedUnit) (s : State) : exec (.droneTimedStart u) s = execDroneTimedStart u s := rfl
theorem exec_twaitRelease (g : Nat) (s : State) : exec (.twaitRelease g) s = execTwaitRelease g s := rfl
theorem exec_syncMessage (port : Nat) (offset : Int) (s : State) :
    exec (.syncMessage port offset) s = execSyncMessage port offset s := rfl
theorem exec_holdover (s : State) : exec .holdover s = execHoldover s := rfl
theorem exec_replicationWindow (fl : Nat) (s : State) : exec (.replicationWindow fl) s = execReplicationWindow fl s := rfl
theorem exec_remoteRead (fl pa : Nat) (s : State) : exec (.remoteRead fl pa) s = execRemoteRead fl pa s := rfl
theorem exec_replicaFill (i : Nat) (s : State) : exec (.replicaFill i) s = execReplicaFill i s := rfl
theorem exec_repWrite (fl pa : Nat) (bytes : List Byte) (s : State) :
    exec (.repWrite fl pa bytes) s = execRepWrite fl pa bytes s := rfl
theorem exec_replicaInvalidate (i : Nat) (s : State) : exec (.replicaInvalidate i) s = execReplicaInvalidate i s := rfl
theorem exec_rthreshWrite (fl : Nat) (x : DWord) (s : State) : exec (.rthreshWrite fl x) s = execRthreshWrite fl x s := rfl
theorem exec_homeWriteback (core asid line : Nat) (s : State) :
    exec (.homeWriteback core asid line) s = execHomeWriteback core asid line s := rfl
theorem exec_slicecfgWrite (fl : Nat) (x : DWord) (s : State) : exec (.slicecfgWrite fl x) s = execSlicecfgWrite fl x s := rfl
theorem exec_repartitionDone (fl : Nat) (s : State) : exec (.repartitionDone fl) s = execRepartitionDone fl s := rfl
theorem exec_hashmaskWrite (fl : Nat) (x : DWord) (s : State) : exec (.hashmaskWrite fl x) s = execHashmaskWrite fl x s := rfl
theorem exec_fluectlModeWrite (port : Nat) (x : DWord) (s : State) :
    exec (.fluectlModeWrite port x) s = execFluectlModeWrite port x s := rfl
theorem exec_flueRetrainDone (port : Nat) (s : State) : exec (.flueRetrainDone port) s = execFlueRetrainDone port s := rfl
theorem exec_flitReplay (port : Nat) (s : State) : exec (.flitReplay port) s = execFlitReplay port s := rfl
theorem exec_peerRefusal (what : PeerItem) (lanes : LaneMask) (s : State) :
    exec (.peerRefusal what lanes) s = execPeerRefusal what lanes s := rfl
theorem exec_quietctlWrite (ctx : Nat) (x : DWord) (s : State) :
    exec (.quietctlWrite ctx x) s = execQuietctlWrite ctx x s := rfl
theorem exec_keyIssue (id : Nat) (s : State) : exec (.keyIssue id) s = execKeyIssue id s := rfl
theorem exec_keyRetire (id : Nat) (s : State) : exec (.keyRetire id) s = execKeyRetire id s := rfl
theorem exec_keyRetireDone (id : Nat) (s : State) : exec (.keyRetireDone id) s = execKeyRetireDone id s := rfl
theorem exec_svcRetireCore (fl c : Nat) (s : State) : exec (.svcRetireCore fl c) s = execSvcRetireCore fl c s := rfl
theorem exec_svcRetireSlice (fl k : Nat) (s : State) : exec (.svcRetireSlice fl k) s = execSvcRetireSlice fl k s := rfl
theorem exec_svcRetirePseudoChannel (stack p : Nat) (s : State) :
    exec (.svcRetirePseudoChannel stack p) s = execSvcRetirePseudoChannel stack p s := rfl
theorem exec_svcRetireFlueLane (port lane : Nat) (s : State) :
    exec (.svcRetireFlueLane port lane) s = execSvcRetireFlueLane port lane s := rfl
theorem exec_svcRetireUcieLane (fl edge mod lane : Nat) (s : State) :
    exec (.svcRetireUcieLane fl edge mod lane) s = execSvcRetireUcieLane fl edge mod lane s := rfl
theorem exec_svcDone (s : State) : exec .svcDone s = execSvcDone s := rfl
theorem exec_fitRequest (fl : Nat) (s : State) : exec (.fitRequest fl) s = execFitRequest fl s := rfl
theorem exec_apxbReply (id : Nat) (s : State) : exec (.apxbReply id) s = execApxbReply id s := rfl
theorem exec_fitSample (fl : Nat) (s : State) : exec (.fitSample fl) s = execFitSample fl s := rfl
theorem exec_registerWrite (sel : BitVec 17) (x : DWord) (s : State) :
    exec (.registerWrite sel x) s = execRegisterWrite sel x s := rfl
theorem exec_pointChangeComplete (fl : Nat) (s : State) : exec (.pointChangeComplete fl) s = execPointChangeComplete fl s := rfl
theorem exec_peerAccessArrival (port : Nat) (a : PeerAccess) (s : State) :
    exec (.peerAccessArrival port a) s = execPeerAccessArrival port a s := rfl
theorem exec_hostStagingWrite (off : Nat) (bytes : List Byte) (s : State) :
    exec (.hostStagingWrite off bytes) s = execHostStagingWrite off bytes s := rfl
theorem exec_residencyResolved (u : Resolved) (mapped : Bool) (s : State) :
    exec (.residencyResolved u mapped) s = execResidencyResolved u mapped s := rfl
theorem exec_variableLatencyResult (id : Nat) (s : State) :
    exec (.variableLatencyResult id) s = execVariableLatencyResult id s := rfl

end Sys2Proof.Machine
end

