-- ==== Sys2Proof/Laws/Maps.lean ====
section
/-! SUPPORT. Sparse maps and bit fields: a read after a write, and what a write leaves. -/

namespace Sys2Proof.Machine

theorem mput_self {α : Type} (m : SMap α) (k : Nat) (x : α) (h : mget? m k = some x) : mput m k x = m := by
  induction m with
  | nil => simp [mget?] at h
  | cons p r ih =>
    obtain ⟨a, y⟩ := p
    simp only [mget?] at h
    split at h
    · rename_i e
      simp only [Option.some.injEq] at h
      simp [mput, e, h]
    · rename_i e
      split at h
      · cases h
      · rename_i e'
        simp [mput, e, e', ih h]

theorem mget?_mput_same {α : Type} (m : SMap α) (k : Nat) (x : α) : mget? (mput m k x) k = some x := by
  induction m with
  | nil => simp [mput, mget?]
  | cons p r ih =>
    obtain ⟨a, y⟩ := p
    simp only [mput]
    split
    · simp [mget?]
    · split
      · simp [mget?]
      · simp only [mget?]
        rw [if_neg ‹_›, if_neg ‹_›, ih]

theorem mget?_mput_ne {α : Type} (m : SMap α) (k k' : Nat) (x : α) (h : k' ≠ k) :
    mget? (mput m k x) k' = mget? m k' := by
  induction m with
  | nil => simp [mput, mget?]; omega
  | cons p r ih =>
    obtain ⟨a, y⟩ := p
    simp only [mput]
    split
    · subst a
      simp only [mget?]
      rw [if_neg (Ne.symm h), if_neg (Ne.symm h)]
    · split
      · simp only [mget?]
        rw [if_neg (by omega : ¬ k = k')]
        split
        · rw [if_neg (by omega), if_pos (by omega)]
        · rfl
      · simp only [mget?]
        rw [ih]

theorem mget_mput_same {α : Type} (m : SMap α) (k : Nat) (x d : α) : mget (mput m k x) k d = x := by
  simp [mget, mget?_mput_same]

theorem mget_mput_ne {α : Type} (m : SMap α) (k k' : Nat) (x d : α) (h : k' ≠ k) :
    mget (mput m k x) k' d = mget m k' d := by
  simp [mget, mget?_mput_ne m k k' x h]

theorem mget?_of_mem {α : Type} {m : SMap α} {k : Nat} {x : α} (hr : Rising m) (h : (k, x) ∈ m) : mget? m k = some x := by
  induction m with
  | nil => cases h
  | cons p r ih =>
    obtain ⟨a, y⟩ := p
    simp only [mget?]
    rcases List.mem_cons.mp h with h | h
    · cases h; simp
    · have hlt : a < k := List.rel_of_pairwise_cons hr h
      rw [if_neg (by omega), if_neg (by omega)]
      exact ih (List.Pairwise.of_cons hr) h

theorem mem_mput {α : Type} (m : SMap α) (k : Nat) (x : α) (p : Nat × α) (h : p ∈ mput m k x) :
    p = (k, x) ∨ p ∈ m := by
  induction m with
  | nil => simpa [mput] using h
  | cons q r ih =>
    obtain ⟨a, y⟩ := q
    simp only [mput] at h
    split at h
    · rcases List.mem_cons.mp h with h | h
      · exact .inl h
      · exact .inr (List.mem_cons_of_mem _ h)
    · split at h
      · rcases List.mem_cons.mp h with h | h
        · exact .inl h
        · exact .inr h
      · rcases List.mem_cons.mp h with h | h
        · exact .inr (by simp [h])
        · rcases ih h with h | h
          · exact .inl h
          · exact .inr (List.mem_cons_of_mem _ h)

theorem rising_mput {α : Type} (m : SMap α) (k : Nat) (x : α) (h : Rising m) : Rising (mput m k x) := by
  induction m with
  | nil => simp [mput, Rising]
  | cons q r ih =>
    obtain ⟨a, y⟩ := q
    simp only [Rising, List.pairwise_cons] at h
    simp only [mput]
    split
    · subst a
      simp only [Rising, List.pairwise_cons]
      exact h
    · split
      · simp only [Rising, List.pairwise_cons]
        refine ⟨?_, h⟩
        intro p hp
        rcases List.mem_cons.mp hp with hp | hp
        · subst hp; assumption
        · exact Nat.lt_trans ‹k < a› (h.1 p hp)
      · simp only [Rising, List.pairwise_cons]
        refine ⟨?_, ih h.2⟩
        intro p hp
        rcases mem_mput r k x p hp with hp | hp
        · subst hp; simp only; omega
        · exact h.1 p hp

/-! ### Bit fields -/

theorem split_nat (a lo n : Nat) :
    a = a / 2 ^ (lo + n) * 2 ^ (lo + n) + a / 2 ^ lo % 2 ^ n * 2 ^ lo + a % 2 ^ lo := by
  have h1 := Nat.div_add_mod a (2 ^ lo)
  have h2 := Nat.div_add_mod (a / 2 ^ lo) (2 ^ n)
  have h3 : a / 2 ^ lo / 2 ^ n = a / 2 ^ (lo + n) := by rw [Nat.div_div_eq_div_mul, ← Nat.pow_add]
  rw [h3] at h2
  have h4 : 2 ^ lo * (2 ^ n * (a / 2 ^ (lo + n)) + a / 2 ^ lo % 2 ^ n)
      = a / 2 ^ (lo + n) * 2 ^ (lo + n) + a / 2 ^ lo % 2 ^ n * 2 ^ lo := by
    rw [Nat.mul_add, ← Nat.mul_assoc, ← Nat.pow_add]
    simp only [Nat.mul_comm]
  rw [h2] at h4
  omega

theorem setFld_toNat (x : DWord) (lo n v : Nat) (h : lo + n ≤ 64) :
    (setFld x lo n v).toNat
      = x.toNat / 2 ^ (lo + n) * 2 ^ (lo + n) + v % 2 ^ n * 2 ^ lo + x.toNat % 2 ^ lo := by
  have hs := split_nat x.toNat lo n
  have hx : x.toNat < 2 ^ 64 := x.isLt
  have hv : v % 2 ^ n < 2 ^ n := Nat.mod_lt _ (Nat.two_pow_pos n)
  have hl : x.toNat % 2 ^ lo < 2 ^ lo := Nat.mod_lt _ (Nat.two_pow_pos lo)
  have hm : v % 2 ^ n * 2 ^ lo + 2 ^ lo ≤ 2 ^ (lo + n) := by
    have : (v % 2 ^ n + 1) * 2 ^ lo ≤ 2 ^ n * 2 ^ lo := Nat.mul_le_mul_right _ hv
    rw [Nat.add_mul, Nat.one_mul, ← Nat.pow_add, Nat.add_comm n lo] at this
    exact this
  have hh : x.toNat / 2 ^ (lo + n) * 2 ^ (lo + n) + 2 ^ (lo + n) ≤ 2 ^ 64 := by
    have hlt : x.toNat / 2 ^ (lo + n) < 2 ^ (64 - (lo + n)) := by
      apply Nat.div_lt_of_lt_mul
      rw [← Nat.pow_add]
      have : lo + n + (64 - (lo + n)) = 64 := by omega
      rw [this]; exact hx
    have := Nat.mul_le_mul_right (2 ^ (lo + n)) hlt
    rw [Nat.succ_eq_add_one, Nat.add_mul, Nat.one_mul, ← Nat.pow_add] at this
    have e : 64 - (lo + n) + (lo + n) = 64 := by omega
    rw [e] at this
    exact this
  unfold setFld fld
  simp only [BitVec.toNat_ofNat]
  have hsub : x.toNat - x.toNat / 2 ^ lo % 2 ^ n * 2 ^ lo
      = x.toNat / 2 ^ (lo + n) * 2 ^ (lo + n) + x.toNat % 2 ^ lo := by omega
  rw [hsub, Nat.mod_eq_of_lt (by omega)]
  omega

theorem fld_setFld_same (x : DWord) (lo n v : Nat) (h : lo + n ≤ 64) : fld (setFld x lo n v) lo n = v % 2 ^ n := by
  have hl : x.toNat % 2 ^ lo < 2 ^ lo := Nat.mod_lt _ (Nat.two_pow_pos lo)
  have hv : v % 2 ^ n < 2 ^ n := Nat.mod_lt _ (Nat.two_pow_pos n)
  rw [fld, setFld_toNat x lo n v h, Nat.pow_add]
  have : x.toNat / (2 ^ lo * 2 ^ n) * (2 ^ lo * 2 ^ n) + v % 2 ^ n * 2 ^ lo + x.toNat % 2 ^ lo
      = x.toNat % 2 ^ lo + 2 ^ lo * (v % 2 ^ n + 2 ^ n * (x.toNat / (2 ^ lo * 2 ^ n))) := by
    rw [Nat.mul_add, ← Nat.mul_assoc]
    simp only [Nat.mul_comm, Nat.mul_left_comm]
    omega
  rw [this, Nat.add_mul_div_left _ _ (Nat.two_pow_pos lo), Nat.div_eq_of_lt hl, Nat.zero_add, Nat.add_mul_mod_self_left,
    Nat.mod_eq_of_lt hv]

theorem fld_setFld_below (x : DWord) (lo n v lo' n' : Nat) (h : lo + n ≤ 64) (hb : lo' + n' ≤ lo) :
    fld (setFld x lo n v) lo' n' = fld x lo' n' := by
  have key : ∀ a b : Nat, a % 2 ^ lo = b % 2 ^ lo → a / 2 ^ lo' % 2 ^ n' = b / 2 ^ lo' % 2 ^ n' := by
    intro a b hab
    have e : ∀ c : Nat, c / 2 ^ lo' % 2 ^ n' = c % 2 ^ lo / 2 ^ lo' % 2 ^ n' := by
      intro c
      have h1 : c / 2 ^ lo' % 2 ^ n' = c % 2 ^ (lo' + n') / 2 ^ lo' := by
        rw [Nat.pow_add, Nat.mod_mul_right_div_self]
      have h2 : c % 2 ^ lo / 2 ^ lo' % 2 ^ n' = c % 2 ^ lo % 2 ^ (lo' + n') / 2 ^ lo' := by
        rw [Nat.pow_add, Nat.mod_mul_right_div_self]
      have h3 : c % 2 ^ lo % 2 ^ (lo' + n') = c % 2 ^ (lo' + n') := by
        apply Nat.mod_mod_of_dvd
        exact Nat.pow_dvd_pow 2 hb
      rw [h1, h2, h3]
    rw [e a, e b, hab]
  apply key
  rw [setFld_toNat x lo n v h, Nat.pow_add]
  have : x.toNat / (2 ^ lo * 2 ^ n) * (2 ^ lo * 2 ^ n) + v % 2 ^ n * 2 ^ lo + x.toNat % 2 ^ lo
      = x.toNat % 2 ^ lo + 2 ^ lo * (v % 2 ^ n + 2 ^ n * (x.toNat / (2 ^ lo * 2 ^ n))) := by
    rw [Nat.mul_add, ← Nat.mul_assoc]
    simp only [Nat.mul_comm, Nat.mul_left_comm]
    omega
  rw [this, Nat.add_mul_mod_self_left, Nat.mod_mod]

theorem fld_setFld_above (x : DWord) (lo n v lo' n' : Nat) (h : lo + n ≤ 64) (hb : lo + n ≤ lo') :
    fld (setFld x lo n v) lo' n' = fld x lo' n' := by
  have hl : x.toNat % 2 ^ lo < 2 ^ lo := Nat.mod_lt _ (Nat.two_pow_pos lo)
  have hv : v % 2 ^ n < 2 ^ n := Nat.mod_lt _ (Nat.two_pow_pos n)
  have hm : v % 2 ^ n * 2 ^ lo + 2 ^ lo ≤ 2 ^ (lo + n) := by
    have : (v % 2 ^ n + 1) * 2 ^ lo ≤ 2 ^ n * 2 ^ lo := Nat.mul_le_mul_right _ hv
    rw [Nat.add_mul, Nat.one_mul, ← Nat.pow_add, Nat.add_comm n lo] at this
    exact this
  have e : (setFld x lo n v).toNat / 2 ^ (lo + n) = x.toNat / 2 ^ (lo + n) := by
    rw [setFld_toNat x lo n v h, Nat.add_assoc, Nat.add_comm, Nat.mul_comm (x.toNat / 2 ^ (lo + n)),
      Nat.add_mul_div_left _ _ (Nat.two_pow_pos _), Nat.div_eq_of_lt (by omega), Nat.zero_add]
  have s : ∀ a : Nat, a / 2 ^ lo' = a / 2 ^ (lo + n) / 2 ^ (lo' - (lo + n)) := by
    intro a
    rw [Nat.div_div_eq_div_mul, ← Nat.pow_add]
    congr 2
    omega
  rw [fld, fld, s, e, ← s]

/-- A field written leaves every field beside it. -/
theorem fld_setFld_ne (x : DWord) (lo n v lo' n' : Nat) (h : lo + n ≤ 64) (hb : lo' + n' ≤ lo ∨ lo + n ≤ lo') :
    fld (setFld x lo n v) lo' n' = fld x lo' n' := by
  rcases hb with hb | hb
  · exact fld_setFld_below x lo n v lo' n' h hb
  · exact fld_setFld_above x lo n v lo' n' h hb

/-! ### System registers -/

@[simp] theorem sysVal_setSys_same (s : State) (x : Nat) (v : DWord) : sysVal (setSys s x v) x = v := by
  simp [sysVal, setSys, mget_mput_same]

theorem sysVal_setSys_ne (s : State) (x y : Nat) (v : DWord) (h : y ≠ x) : sysVal (setSys s x v) y = sysVal s y := by
  simp [sysVal, setSys, mget_mput_ne _ _ _ _ _ h]

theorem sysFld_setSysFld_same (s : State) (x lo n v : Nat) (h : lo + n ≤ 64) :
    sysFld (setSysFld s x lo n v) x lo n = v % 2 ^ n := by
  simp [sysFld, setSysFld, fld_setFld_same _ _ _ _ h]

theorem sysFld_setSysFld_ne (s : State) (x lo n v lo' n' : Nat) (h : lo + n ≤ 64) (hb : lo' + n' ≤ lo ∨ lo + n ≤ lo') :
    sysFld (setSysFld s x lo n v) x lo' n' = sysFld s x lo' n' := by
  simp [sysFld, setSysFld, fld_setFld_ne _ _ _ _ _ _ h hb]

theorem sysVal_setSysFld_ne (s : State) (x y lo n v : Nat) (h : y ≠ x) : sysVal (setSysFld s x lo n v) y = sysVal s y :=
  sysVal_setSys_ne s x y _ h

theorem sysFld_setSysFld_reg (s : State) (x y lo n v lo' n' : Nat) (h : y ≠ x) :
    sysFld (setSysFld s x lo n v) y lo' n' = sysFld s y lo' n' := by
  simp [sysFld, sysVal_setSysFld_ne s x y lo n v h]

end Sys2Proof.Machine
end

