-- ==== Sys2Proof/Laws/Paths.lean ====
section
/-! SUPPORT. Where lanes stand after paths merge and part (R137). -/

namespace Sys2Proof.Machine

theorem inLanes_or (a b : LaneMask) (l : Nat) : inLanes (a ||| b) l = (inLanes a l || inLanes b l) := by
  simp [inLanes]

theorem inLanes_and (a b : LaneMask) (l : Nat) : inLanes (a &&& b) l = (inLanes a l && inLanes b l) := by
  simp [inLanes]

theorem inLanes_lt (a : LaneMask) (l : Nat) (h : inLanes a l = true) : l < 128 := by
  by_cases hl : l < 128
  · exact hl
  · simp [inLanes, BitVec.getLsbD_of_ge a l (by omega)] at h

theorem inLanes_without (a b : LaneMask) (l : Nat) : inLanes (a &&& ~~~ b) l = (inLanes a l && !inLanes b l) := by
  by_cases hl : l < 128
  · simp [inLanes, hl]
  · have : inLanes a l = false := by simp [inLanes, BitVec.getLsbD_of_ge a l (by omega)]
    rw [inLanes_and, this]; simp

theorem inLanes_zero (l : Nat) : inLanes 0 l = false := by simp [inLanes]

theorem placed_nil (l : Nat) (pc : Pc) (w : Wait) : Placed [] l pc w ↔ False := by simp [Placed]

theorem placed_cons (p : Path) (ps : List Path) (l : Nat) (pc : Pc) (w : Wait) :
    Placed (p :: ps) l pc w ↔ (inLanes p.lanes l = true ∧ p.pc = pc ∧ p.wait = w) ∨ Placed ps l pc w := by
  simp [Placed]

theorem placed_append (ps qs : List Path) (l : Nat) (pc : Pc) (w : Wait) :
    Placed (ps ++ qs) l pc w ↔ Placed ps l pc w ∨ Placed qs l pc w := by
  simp [Placed, or_and_right, exists_or]

/-- Merging a path into a list moves no lane. -/
theorem placed_mergeInto (p : Path) (l : Nat) (pc : Pc) (w : Wait) :
    ∀ ps, Placed (mergeInto p ps) l pc w ↔ (inLanes p.lanes l = true ∧ p.pc = pc ∧ p.wait = w) ∨ Placed ps l pc w
  | [] => by simp [mergeInto, Placed]
  | q :: r => by
    simp only [mergeInto]
    split
    · rename_i h
      simp only [samePath, Bool.and_eq_true, beq_iff_eq] at h
      obtain ⟨⟨⟨⟨h1, h2⟩, _⟩, _⟩, _⟩ := h
      rw [placed_cons, placed_cons, inLanes_or, Bool.or_eq_true]
      rw [← h1, ← h2]
      constructor
      · rintro (⟨h | h, e⟩ | h)
        · exact .inr (.inl ⟨h, e⟩)
        · exact .inl ⟨h, e⟩
        · exact .inr (.inr h)
      · rintro (⟨h, e⟩ | ⟨h, e⟩ | h)
        · exact .inl ⟨.inr h, e⟩
        · exact .inl ⟨.inl h, e⟩
        · exact .inr h
    · rw [placed_cons, placed_cons, placed_mergeInto p l pc w r]
      constructor
      · rintro (h | h | h)
        · exact .inr (.inl h)
        · exact .inl h
        · exact .inr (.inr h)
      · rintro (h | h | h)
        · exact .inr (.inl h)
        · exact .inl h
        · exact .inr (.inr h)

/-- Merging entries moves no lane (R137). -/
theorem placed_regang (ps : List Path) (l : Nat) (pc : Pc) (w : Wait) : Placed (regang ps) l pc w ↔ Placed ps l pc w := by
  have fold : ∀ (qs acc : List Path),
      Placed (qs.foldl (fun acc p => mergeInto p acc) acc) l pc w ↔ Placed acc l pc w ∨ Placed qs l pc w := by
    intro qs
    induction qs with
    | nil => intro acc; simp [Placed]
    | cons q r ih =>
      intro acc
      rw [List.foldl_cons, ih, placed_mergeInto, placed_cons]
      constructor
      · rintro ((h | h) | h)
        · exact .inr (.inl h)
        · exact .inl h
        · exact .inr (.inr h)
      · rintro (h | h | h)
        · exact .inl (.inr h)
        · exact .inl (.inl h)
        · exact .inr h
  rw [regang, fold, placed_nil, false_or]
  simp only [Placed, List.mem_filter]
  constructor
  · rintro ⟨p, ⟨hp, _⟩, h⟩; exact ⟨p, hp, h⟩
  · rintro ⟨p, hp, h⟩
    refine ⟨p, ⟨hp, ?_⟩, h⟩
    simp only [bne_iff_ne]
    intro h0
    rw [h0, inLanes_zero] at h
    exact absurd h.1 (by decide)

/-- Taking lanes away leaves the others where they are. -/
theorem placed_removeLanes (ps : List Path) (m : LaneMask) (l : Nat) (pc : Pc) (w : Wait) :
    Placed (removeLanes ps m) l pc w ↔ Placed ps l pc w ∧ inLanes m l = false := by
  simp only [removeLanes, Placed, List.mem_filter, List.mem_map]
  constructor
  · rintro ⟨p, ⟨⟨q, hq, rfl⟩, _⟩, h1, h2, h3⟩
    rw [inLanes_without, Bool.and_eq_true] at h1
    exact ⟨⟨q, hq, h1.1, h2, h3⟩, by simpa using h1.2⟩
  · rintro ⟨⟨q, hq, h1, h2, h3⟩, h4⟩
    have h : inLanes (q.lanes &&& ~~~ m) l = true := by rw [inLanes_without, h1, h4]; rfl
    refine ⟨{ q with lanes := q.lanes &&& ~~~ m }, ⟨⟨q, hq, rfl⟩, ?_⟩, h, h2, h3⟩
    simp only [bne_iff_ne]
    intro h0
    rw [h0, inLanes_zero] at h
    exact absurd h (by decide)

end Sys2Proof.Machine
end

