-- ==== Sys2Proof/Laws/Gate.lean ====
section
/-! SUPPORT. The gate of every instruction: when a stream issues, and what an issue leaves (R117, R137, R152, R265). -/

namespace Sys2Proof.Machine

open Host

theorem regCount_retire (cyc : Nat) (x : Group) : regCount (retire cyc x) = regCount x := rfl
theorem flagOf_retire (cyc : Nat) (x : Group) (k : Nat) : flagOf (retire cyc x) k = flagOf x k := rfl
theorem ringOf_retire (cyc : Nat) (x : Group) (k : Nat) : ringOf (retire cyc x) k = ringOf x k := rfl
theorem inRing_retire (cyc : Nat) (x : Group) (r : Nat) : inRing (retire cyc x) r = inRing x r := rfl
theorem grpPriv_retire (s : State) (cyc : Nat) (x : Group) : grpPriv s (retire cyc x) = grpPriv s x := rfl

theorem srcReg_retire (cyc : Nat) (x : Group) (a : Src) : srcReg (retire cyc x) a = srcReg x a := by
  cases a <;> rfl

theorem srcRegs_retire (cyc : Nat) (x : Group) (a : Option (Src × Bool)) : srcRegs (retire cyc x) a = srcRegs x a := by
  cases a <;> simp [srcRegs, srcReg_retire]

theorem oddPair_retire (cyc : Nat) (x : Group) (a : Option (Src × Bool)) : oddPair (retire cyc x) a = oddPair x a := rfl

theorem heads_retire (cyc : Nat) (i : Info) (x : Group) : i.heads (retire cyc x) = i.heads x := by
  simp only [Info.heads, srcRegs_retire]

/-- A path that has let DIST pass, and no YIELD holds. -/
theorem distMet_of {s : State} {c : Cur} {x : Group} {n : Nat}
    (h : ∀ p, pathOf c x = some p → (∀ t, p.last = some t → t + n ≤ (coreAt s (slotCore c.g)).cycle) ∧
      p.ready ≤ (coreAt s (slotCore c.g)).cycle) : distMet s c x n = true := by
  unfold distMet
  split
  · rfl
  · rename_i p hp
    have := h p hp
    split
    · simpa using this.2
    · rename_i t ht
      simp [this.1 t ht, this.2]

theorem waitMet_of {x : Group} {w : BitVec 12} (h : ∀ k, k < 12 → w.getLsbD k = true → flagOf x k = 0) :
    waitMet x w = true := by
  unfold waitMet
  rw [List.all_eq_true]
  intro k hk
  have hk := List.mem_range.mp hk
  by_cases hb : w.getLsbD k = true
  · simp [h k hk hb]
  · simp [hb]

/-- The registers that FE governs are those that are read. -/
theorem mem_feReads {i : Info} {x : Group} {p : Nat × Bool} (h : p ∈ i.feReads x) : p.1 ∈ i.reads x := by
  simp only [Info.feReads, List.mem_append, List.mem_map] at h
  simp only [Info.reads, List.mem_append]
  rcases h with (((⟨a, ha, rfl⟩ | ⟨a, ha, rfl⟩) | ⟨a, ha, rfl⟩) | ⟨a, ha, rfl⟩) | ⟨a, ha, rfl⟩ <;> simp [ha]

/-- A stream that may issue passes every check. -/
theorem verdict_go {s : State} {c : Cur} {x : Group} {i : Info} (h : MayIssue s c x i) (cyc : Nat) :
    verdict s c (retire cyc x) i = .go := by
  have hd : distMet s c (retire cyc x) i.h.dist.toNat = true := distMet_of h.dist
  have hw : waitMet (c.flags (retire cyc x)) i.h.wait = true := by
    have e : ∀ k, flagOf (c.flags (retire cyc x)) k = flagOf (c.flags x) k := fun k => by unfold Cur.flags; split <;> rfl
    exact waitMet_of fun k hk hb => (e k).trans (h.wait k hk hb)
  have hr : i.reads (retire cyc x) = i.reads x := by simp [Info.reads, srcRegs_retire]
  have hreg : ((i.reads x ++ i.vw).any fun r => decide (regCount (retire cyc x) ≤ r)) = false := by
    rw [List.any_eq_false]
    intro r hr
    have := h.regs r hr
    rw [regCount_retire]
    simpa using this
  have hq : (i.queues.any fun k => !(ringOf (retire cyc x) k).conf) = false := by
    rw [List.any_eq_false]
    intro k hk
    rw [ringOf_retire, h.queues k hk]
    simp
  have hvw : (i.vw.find? fun r => (inRing (retire cyc x) r).isSome) = none := by
    rw [List.find?_eq_none]
    intro r hr
    rw [inRing_retire, h.ring r hr]
    simp
  have hl : (i.vw.filter fun r => (retire cyc x).lent.contains r) = [] := by
    rw [List.filter_eq_nil_iff]
    intro r hr
    have e : (retire cyc x).lent = x.lent := rfl
    rw [e]
    simpa using h.lent r hr
  have hempt : ((i.feReads (retire cyc x)).filter fun p => c.finds (retire cyc x) (i.heads (retire cyc x)) p.1) = [] := by
    rw [List.filter_eq_nil_iff]
    intro p hp
    have hm := mem_feReads hp
    rw [hr] at hm
    have e : c.finds (retire cyc x) (i.heads (retire cyc x)) p.1 = c.finds x (i.heads x) p.1 := by
      rw [heads_retire]; rfl
    rw [e, h.full p.1 hm]
    exact Bool.false_ne_true
  have hp : (i.priv && !grpPriv s (retire cyc x)) = false := by
    rw [grpPriv_retire]
    by_cases hp : i.priv = true
    · simp [h.priv hp]
    · simp [hp]
  have hs1 : (i.h.sp && !isLive c.next) = false := by
    by_cases hp : i.h.sp = true
    · simp [(h.live hp).2.1]
    · simp [hp]
  have haw : (i.h.sp && c.away.isSome) = false := by
    by_cases hp : i.h.sp = true
    · simp [(h.live hp).1]
    · simp [hp]
  have hs2 : (i.h.sp && !liveOk c.next (regCount (retire cyc x))) = false := by
    rw [regCount_retire]
    by_cases hp : i.h.sp = true
    · simp [(h.live hp).2.2]
    · simp [hp]
  have hf : (i.mem && (retire cyc x).fence.isSome) = false := by
    by_cases hp : i.mem = true
    · have e : (retire cyc x).fence = x.fence := rfl
      rw [e, h.fence hp]
      simp
    · simp [hp]
  have hset : (decide (i.h.set.toNat < 12) && decide (255 < flagOf (retire cyc x) i.h.set.toNat + i.sets)) = false := by
    rw [flagOf_retire]
    by_cases h1 : i.h.set.toNat < 12
    · have := h.flag h1
      simp only [Bool.and_eq_false_iff, decide_eq_false_iff_not]
      omega
    · simp [h1]
  have ha : oddPair (retire cyc x) i.a = false := h.pairA
  have hb : oddPair (retire cyc x) i.b = false := h.pairB
  simp only [verdict, hempt, hl, hd, hw, hr, hp, hreg, hq, h.sound, ha, hb, haw, hs1, hs2, hvw, hf, hset]
  rfl

/-- Where a stream may issue, the gate issues it: the lanes go where `to` says, and the effect follows where the instruction
acts. -/
theorem gateTo_go {s : State} {c : Cur} {x : Group} {i : Info} (h : MayIssue s c x i) (dsts : Env → List Dest)
    (act : Env → State → State → State) :
    gateTo i s dsts act =
      (let e := issueEnv s c x i.h
       .next (if actsIn e i then act e { s with free := s.free + 1 } (afterIssue s c x i e (dsts e))
         else afterIssue s c x i e (dsts e))) := by
  simp only [gateTo, h.cur, h.group]
  have : (issueEnv s c x i.h).grp = retire (coreAt s (slotCore c.g)).cycle x := rfl
  rw [this, verdict_go h]

/-! ### What an issue leaves -/

theorem popQueues_frame (qs : List Nat) (g : Group) : ∃ q e, popQueues qs g = { g with q := q, empt := e } := by
  unfold popQueues
  generalize dedup qs = ks
  induction ks generalizing g with
  | nil => exact ⟨g.q, g.empt, rfl⟩
  | cons k r ih =>
    rw [List.foldl_cons]
    obtain ⟨q, e, h⟩ := ih _
    refine ⟨q, e, h.trans ?_⟩
    simp only [markEmpty]

theorem popQueues_nil (g : Group) : popQueues [] g = g := rfl

theorem flagOf_setFlag (g : Group) (k j n : Nat) : flagOf (setFlag g k n) j = if j = k then n else flagOf g j := by
  by_cases h : j = k
  · subst h; simp [flagOf, setFlag, mget_mput_same]
  · simp [flagOf, setFlag, mget_mput_ne _ _ _ _ _ h, h]

theorem flagOf_countSet (g : Group) (set : BitVec 4) (n k : Nat) :
    flagOf (countSet g set n) k = flagOf g k + (if k = set.toNat ∧ k < 12 then n else 0) := by
  unfold countSet
  split
  · rw [flagOf_setFlag]
    by_cases h : k = set.toNat
    · subst h; simp [*]
    · simp [h]
  · by_cases h : k = set.toNat
    · subst h; simp [*]
    · simp [h]

/-- An issue keeps every register, predicate and join of its group, and whatever is not named in `movedAs`. -/
theorem issued_frame (c : Cur) (cyc : Nat) (i : Info) (count : Bool) (qs : List Nat) (dsts : List Dest) (x : Group) :
    issued c cyc i count qs dsts x = x.movedAs (issued c cyc i count qs dsts x) := by
  unfold issued
  obtain ⟨q, e, h⟩ := popQueues_frame qs { x with paths := regang (removeLanes x.paths c.lanes ++ dsts.map (sendTo c cyc i x)) }
  rw [h]
  cases count
  · rfl
  · simp only [if_true]
    unfold countSet
    split <;> rfl

theorem issued_flags (c : Cur) (cyc : Nat) (i : Info) (count : Bool) (qs : List Nat) (dsts : List Dest) (x : Group) (k : Nat) :
    flagOf (issued c cyc i count qs dsts x) k
      = flagOf x k + (if k = i.h.set.toNat ∧ k < 12 ∧ count = true then i.sets else 0) := by
  unfold issued
  obtain ⟨q, e, h⟩ := popQueues_frame qs { x with paths := regang (removeLanes x.paths c.lanes ++ dsts.map (sendTo c cyc i x)) }
  rw [h]
  cases count
  · simp [flagOf]
  · simp only [if_true, and_true]
    exact flagOf_countSet _ _ _ _

theorem issued_paths (c : Cur) (cyc : Nat) (i : Info) (count : Bool) (qs : List Nat) (dsts : List Dest) (x : Group) :
    (issued c cyc i count qs dsts x).paths = regang (removeLanes x.paths c.lanes ++ dsts.map (sendTo c cyc i x)) := by
  unfold issued
  obtain ⟨q, e, h⟩ := popQueues_frame qs { x with paths := regang (removeLanes x.paths c.lanes ++ dsts.map (sendTo c cyc i x)) }
  rw [h]
  cases count
  · rfl
  · simp only [if_true]
    unfold countSet
    split <;> rfl

/-- The lanes of the stream stand where `to` sends them; no other lane moves. -/
theorem issued_placed (c : Cur) (cyc : Nat) (i : Info) (count : Bool) (qs : List Nat) (dsts : List Dest) (x : Group) (l : Nat)
    (pc : Pc) (w : Wait) :
    Placed (issued c cyc i count qs dsts x).paths l pc w ↔
      (Placed x.paths l pc w ∧ inLanes c.lanes l = false) ∨ ∃ d ∈ dsts, inLanes d.2.2 l = true ∧ d.1 = pc ∧ d.2.1 = w := by
  rw [issued_paths, placed_regang, placed_append, placed_removeLanes]
  refine or_congr Iff.rfl ?_
  simp only [Placed, List.mem_map]
  constructor
  · rintro ⟨p, ⟨d, hd, rfl⟩, h1, h2, h3⟩
    exact ⟨d, hd, h1, h2, h3⟩
  · rintro ⟨d, hd, h1, h2, h3⟩
    exact ⟨sendTo c cyc i x d, ⟨d, hd, rfl⟩, h1, h2, h3⟩

theorem issued_queues (c : Cur) (cyc : Nat) (i : Info) (count : Bool) (dsts : List Dest) (x : Group) :
    (issued c cyc i count [] dsts x).q = x.q ∧ (issued c cyc i count [] dsts x).empt = x.empt := by
  unfold issued
  rw [popQueues_nil]
  cases count
  · exact ⟨rfl, rfl⟩
  · simp only [if_true]
    unfold countSet
    split <;> exact ⟨rfl, rfl⟩

theorem mem_markEmpty (rs : List Nat) (g : Group) (r : Nat) : r ∈ (markEmpty rs g).empt ↔ r ∈ rs ∨ r ∈ g.empt := by
  have key : ∀ (rs acc : List Nat),
      r ∈ rs.foldl (fun acc r => if acc.contains r then acc else r :: acc) acc ↔ r ∈ rs ∨ r ∈ acc := by
    intro rs
    induction rs with
    | nil => intro acc; simp
    | cons a rs ih =>
      intro acc
      rw [List.foldl_cons, ih]
      by_cases h : acc.contains a = true
      · have h' : a ∈ acc := by simpa using h
        rw [if_pos h]
        constructor
        · rintro (h | h)
          · exact .inl (by simp [h])
          · exact .inr h
        · rintro (h | h)
          · rcases List.mem_cons.mp h with h | h
            · exact .inr (h ▸ h')
            · exact .inl h
          · exact .inr h
      · rw [if_neg h]
        simp only [List.mem_cons]
        constructor
        · rintro (h | h | h)
          · exact .inl (.inr h)
          · exact .inl (.inl h)
          · exact .inr h
        · rintro ((h | h) | h)
          · exact .inr (.inl h)
          · exact .inl h
          · exact .inr (.inr h)
  exact key rs g.empt

/-- A queue popped makes no register full. -/
theorem popQueues_empt (qs : List Nat) (g : Group) (r : Nat) (h : r ∈ g.empt) : r ∈ (popQueues qs g).empt := by
  unfold popQueues
  generalize dedup qs = ks
  induction ks generalizing g with
  | nil => exact h
  | cons k ks ih =>
    rw [List.foldl_cons]
    apply ih
    rw [mem_markEmpty]
    exact .inr h

theorem issued_empt (c : Cur) (cyc : Nat) (i : Info) (count : Bool) (qs : List Nat) (dsts : List Dest) (x : Group) (r : Nat)
    (h : r ∈ x.empt) : r ∈ (issued c cyc i count qs dsts x).empt := by
  have hp : r ∈ (popQueues qs { x with paths := regang (removeLanes x.paths c.lanes ++ dsts.map (sendTo c cyc i x)) }).empt :=
    popQueues_empt qs _ r h
  unfold issued
  cases count
  · exact hp
  · simp only [if_true]
    unfold countSet
    split <;> exact hp

theorem issued_recents (c : Cur) (cyc : Nat) (i : Info) (count : Bool) (qs : List Nat) (dsts : List Dest) (x : Group) :
    (issued c cyc i count qs dsts x).recents = x.recents := by
  unfold issued
  obtain ⟨q, e, h⟩ := popQueues_frame qs { x with paths := regang (removeLanes x.paths c.lanes ++ dsts.map (sendTo c cyc i x)) }
  rw [h]
  cases count
  · rfl
  · simp only [if_true]
    unfold countSet
    split <;> rfl

theorem mem_retireDue (cyc : Nat) (q : Recent) : ∀ xs : List Recent, q ∈ retireDue cyc xs → q ∈ xs
  | [], h => h
  | x :: xs, h => by
    simp only [retireDue] at h
    split at h
    · exact (List.mem_cons.mp h).elim (fun e => e ▸ .head _) fun m => .tail _ (mem_retireDue cyc q xs m)
    · exact .tail _ (mem_retireDue cyc q xs (List.mem_filter.mp h).1)

theorem mem_retire (cyc : Nat) (x : Group) (q : Recent) (h : q ∈ (retire cyc x).recents) : q ∈ x.recents :=
  mem_retireDue cyc q x.recents h

/-! ### Slots -/

@[simp] theorem groupAt_setGroup_same (s : State) (g : Nat) (x : Group) : groupAt (setGroup s g x) g = some x := by
  simp [groupAt, setGroup, mget?_mput_same]

theorem groupAt_setGroup_ne (s : State) (g k : Nat) (x : Group) (h : k ≠ g) : groupAt (setGroup s g x) k = groupAt s k := by
  simp [groupAt, setGroup, mget?_mput_ne _ _ _ _ h]

theorem modGroup_eq {s : State} {g : Nat} {x : Group} (h : groupAt s g = some x) (f : Group → Group) :
    modGroup s g f = setGroup s g (f x) := by
  unfold groupAt at h
  simp [modGroup, h]

theorem modGroup_same (s : State) (g : Nat) : modGroup s g (fun y => y) = s := by
  unfold modGroup
  split
  · rename_i x h
    simp only [setGroup, mput_self _ _ _ h]
  · rfl

theorem groupAt_modGroup_ne (s : State) (g k : Nat) (f : Group → Group) (h : k ≠ g) :
    groupAt (modGroup s g f) k = groupAt s k := by
  unfold modGroup
  split
  · exact groupAt_setGroup_ne _ _ _ _ h
  · rfl

/-- The group of the slot after the issue. -/
theorem afterIssue_group (s : State) (c : Cur) (x : Group) (i : Info) (e : Env) (dsts : List Dest) :
    groupAt (afterIssue s c x i e dsts) c.g
      = some (issued c e.cyc i (actsIn e i) i.queues dsts (retire e.cyc x)) := by
  show groupAt (setGroup _ c.g _) c.g = _
  exact groupAt_setGroup_same _ _ _

/-- Other slots are as they were. -/
theorem afterIssue_others (s : State) (c : Cur) (x : Group) (i : Info) (e : Env) (dsts : List Dest) (k : Nat) (h : k ≠ c.g) :
    groupAt (afterIssue s c x i e dsts) k = groupAt s k := by
  show groupAt (setGroup { s with free := s.free + 1 } c.g _) k = _
  rw [groupAt_setGroup_ne _ _ _ _ h]
  rfl

end Sys2Proof.Machine
end

