-- ==== Sys2Proof/Laws/Lanes.lean ====
section
/-! SUPPORT. Registers written lane by lane, and what every fixed-latency instruction with one destination leaves. -/

namespace Sys2Proof.Machine

open Host

theorem mem_lanesOf (m : LaneMask) (l : Nat) : l ∈ lanesOf m ↔ inLanes m l = true := by
  simp only [lanesOf, List.mem_filter, List.mem_range]
  constructor
  · intro h; exact h.2
  · intro h; exact ⟨inLanes_lt m l h, h⟩

theorem lanesOf_lt (m : LaneMask) (l : Nat) (h : l ∈ lanesOf m) : l < 128 := inLanes_lt m l ((mem_lanesOf m l).mp h)

/-- One lane of a register written. -/
theorem vRaw_fixV (due r l : Nat) (w : Word) (g : Group) (r' l' : Nat) (hl : l < 128) (hl' : l' < 128) :
    vRaw (fixV due r l w g) r' l' = if r' = r ∧ l' = l then w else vRaw g r' l' := by
  by_cases h : r' * 128 + l' = r * 128 + l
  · have h1 : r' = r ∧ l' = l := by omega
    rw [if_pos h1]
    simp [vRaw, fixV, putV, h, mget?_mput_same]
  · have h1 : ¬ (r' = r ∧ l' = l) := by omega
    rw [if_neg h1]
    simp [vRaw, fixV, putV, mget?_mput_ne _ _ _ _ h]

theorem fixV_frame (due r l : Nat) (w : Word) (g : Group) :
    ∃ v rs, fixV due r l w g = { g with v := v, recents := rs } := ⟨_, _, rfl⟩

theorem fixLanes_frame (due r : Nat) (f : Nat → Word) (ls : List Nat) (g : Group) :
    ∃ v rs, fixLanes due r f ls g = { g with v := v, recents := rs } := by
  unfold fixLanes
  induction ls generalizing g with
  | nil => exact ⟨g.v, g.recents, rfl⟩
  | cons l ls ih =>
    rw [List.foldl_cons]
    obtain ⟨v, rs, h⟩ := ih (fixV due r l (f l) g)
    exact ⟨v, rs, h.trans rfl⟩

theorem fixV64_frame (due r l : Nat) (x : DWord) (g : Group) :
    ∃ v rs, fixV64 due r l x g = { g with v := v, recents := rs } := by
  unfold fixV64
  obtain ⟨v, rs, h⟩ := fixV_frame due r l (x.setWidth 32) g
  rw [h]
  exact fixV_frame due (r + 1) l (x.extractLsb' 32 32) _

theorem fixLanes64_frame (due r : Nat) (f : Nat → DWord) (ls : List Nat) (g : Group) :
    ∃ v rs, fixLanes64 due r f ls g = { g with v := v, recents := rs } := by
  unfold fixLanes64
  induction ls generalizing g with
  | nil => exact ⟨g.v, g.recents, rfl⟩
  | cons l ls ih =>
    rw [List.foldl_cons]
    obtain ⟨v', rs', h'⟩ := fixV64_frame due r l (f l) g
    rw [h']
    obtain ⟨v, rs, h⟩ := ih { g with v := v', recents := rs' }
    exact ⟨v, rs, h⟩

/-- Lanes of one register written. -/
theorem vRaw_fixLanes (due r : Nat) (f : Nat → Word) (r' l' : Nat) (hl' : l' < 128) :
    ∀ (ls : List Nat) (g : Group), (∀ l ∈ ls, l < 128) →
      vRaw (fixLanes due r f ls g) r' l' = if r' = r ∧ l' ∈ ls then f l' else vRaw g r' l'
  | [], g, _ => by simp [fixLanes]
  | l :: ls, g, hb => by
    have ih := vRaw_fixLanes due r f r' l' hl' ls (fixV due r l (f l) g) fun k hk => hb k (by simp [hk])
    have : fixLanes due r f (l :: ls) g = fixLanes due r f ls (fixV due r l (f l) g) := rfl
    rw [this, ih, vRaw_fixV _ _ _ _ _ _ _ (hb l (by simp)) hl']
    by_cases h1 : r' = r
    · by_cases h2 : l' ∈ ls
      · simp [h1, h2]
      · by_cases h3 : l' = l
        · subst h3; simp [h1, h2]
        · simp [h1, h2, h3]
    · simp [h1]

/-- Lanes of a pair of registers written. -/
theorem vRaw_fixLanes64 (due r : Nat) (f : Nat → DWord) (r' l' : Nat) (hl' : l' < 128) :
    ∀ (ls : List Nat) (g : Group), (∀ l ∈ ls, l < 128) →
      vRaw (fixLanes64 due r f ls g) r' l'
        = if l' ∈ ls then (if r' = r then (f l').setWidth 32 else if r' = r + 1 then (f l').extractLsb' 32 32 else vRaw g r' l')
          else vRaw g r' l'
  | [], g, _ => by simp [fixLanes64]
  | l :: ls, g, hb => by
    have hl : l < 128 := hb l (by simp)
    have ih := vRaw_fixLanes64 due r f r' l' hl' ls (fixV64 due r l (f l) g) fun k hk => hb k (by simp [hk])
    have : fixLanes64 due r f (l :: ls) g = fixLanes64 due r f ls (fixV64 due r l (f l) g) := rfl
    rw [this, ih, fixV64, vRaw_fixV _ _ _ _ _ _ _ hl hl', vRaw_fixV _ _ _ _ _ _ _ hl hl']
    by_cases h2 : l' ∈ ls
    · simp only [h2, if_true, List.mem_cons, or_true]
      split
      · rfl
      · split
        · rfl
        · rw [if_neg (by omega), if_neg (by omega)]
    · simp only [h2, if_false, List.mem_cons, or_false]
      by_cases h3 : l' = l
      · subst h3
        simp only [and_true, if_true]
        by_cases h4 : r' = r
        · rw [if_neg (by omega), if_pos h4, if_pos h4]
        · by_cases h5 : r' = r + 1
          · rw [if_pos h5, if_neg h4, if_pos h5]
          · rw [if_neg h5, if_neg h4, if_neg h4, if_neg h5]
      · simp [h3]

theorem sRaw_fixS (due k : Nat) (x : DWord) (g : Group) (k' : Nat) :
    sRaw (fixS due k x g) k' = if k' = k then x else sRaw g k' := by
  by_cases h : k' = k
  · subst h; simp [sRaw, fixS, putS, mget?_mput_same]
  · simp [sRaw, fixS, putS, mget?_mput_ne _ _ _ _ h, h]

theorem lanesOf_nodup (m : LaneMask) : (lanesOf m).Nodup := List.Nodup.sublist List.filter_sublist List.nodup_range

/-- What lanes written early read as until the result is due. -/
theorem recents_fixLanes (due r : Nat) (f : Nat → Word) (q : Recent) :
    ∀ (ls : List Nat) (g : Group), (∀ l ∈ ls, l < 128) → ls.Nodup → q ∈ (fixLanes due r f ls g).recents →
      q ∈ g.recents ∨
        (q.kind = 0 ∧ q.due = due ∧ q.reg = r ∧ q.lane ∈ ls ∧ q.old = (vRaw g r q.lane).setWidth 64)
  | [], g, _, _, h => .inl h
  | l :: ls, g, hb, hn, h => by
    have hl : l < 128 := hb l (by simp)
    rw [List.nodup_cons] at hn
    have h' : q ∈ (fixLanes due r f ls (fixV due r l (f l) g)).recents := h
    rcases recents_fixLanes due r f q ls _ (fun k hk => hb k (by simp [hk])) hn.2 h' with h | ⟨h1, h2, h3, h4, h5⟩
    · have : q = { kind := 0, reg := r, lane := l, old := (vRaw g r l).setWidth 64, due := due } ∨ q ∈ g.recents := by
        simpa [fixV, putV] using h
      rcases this with rfl | h
      · exact .inr ⟨rfl, rfl, rfl, by simp, rfl⟩
      · exact .inl h
    · refine .inr ⟨h1, h2, h3, by simp [h4], ?_⟩
      rw [h5, vRaw_fixV _ _ _ _ _ _ _ hl (hb _ (by simp [h4])), if_neg]
      rintro ⟨_, e⟩
      rw [e] at h4
      exact hn.1 h4

theorem recents_fixLanes64 (due r : Nat) (f : Nat → DWord) (q : Recent) :
    ∀ (ls : List Nat) (g : Group), (∀ l ∈ ls, l < 128) → ls.Nodup → q ∈ (fixLanes64 due r f ls g).recents →
      q ∈ g.recents ∨
        (q.kind = 0 ∧ q.due = due ∧ (q.reg = r ∨ q.reg = r + 1) ∧ q.lane ∈ ls ∧ q.old = (vRaw g q.reg q.lane).setWidth 64)
  | [], g, _, _, h => .inl h
  | l :: ls, g, hb, hn, h => by
    have hl : l < 128 := hb l (by simp)
    rw [List.nodup_cons] at hn
    have h' : q ∈ (fixLanes64 due r f ls (fixV64 due r l (f l) g)).recents := h
    rcases recents_fixLanes64 due r f q ls _ (fun k hk => hb k (by simp [hk])) hn.2 h' with h | ⟨h1, h2, h3, h4, h5⟩
    · rw [fixV64] at h
      have : q = { kind := 0, reg := r + 1, lane := l,
                   old := (vRaw (fixV due r l ((f l).setWidth 32) g) (r + 1) l).setWidth 64, due := due } ∨
          q ∈ (fixV due r l ((f l).setWidth 32) g).recents := by
        simpa [fixV, putV] using h
      rcases this with rfl | h
      · refine .inr ⟨rfl, rfl, .inr rfl, by simp, ?_⟩
        simp only
        rw [vRaw_fixV _ _ _ _ _ _ _ hl hl, if_neg (by omega)]
      · have : q = { kind := 0, reg := r, lane := l, old := (vRaw g r l).setWidth 64, due := due } ∨ q ∈ g.recents := by
          simpa [fixV, putV] using h
        rcases this with rfl | h
        · exact .inr ⟨rfl, rfl, .inl rfl, by simp, rfl⟩
        · exact .inl h
    · have hq : q.lane < 128 := hb _ (by simp [h4])
      have hne : q.lane ≠ l := by
        intro e
        rw [e] at h4
        exact hn.1 h4
      refine .inr ⟨h1, h2, h3, by simp [h4], ?_⟩
      rw [h5, fixV64, vRaw_fixV _ _ _ _ _ _ _ hl hq, if_neg (by simp [hne]), vRaw_fixV _ _ _ _ _ _ _ hl hq, if_neg (by simp [hne])]

/-! ### The end of an issue -/

theorem fixTail_eq (s : State) (e : Env) (h : Hdr) (lat : Nat) (fl : Fl) :
    fixTail s e h lat fl =
      if fl = 0 ∧ 12 ≤ h.set.toNat then s
      else { s with
        nextUid := s.nextUid + 1,
        results := s.results ++ [{ id := s.nextUid, uid := e.grp.uid, sig := sigOf e.grp.uid h.set, fl := fl.setWidth 64,
                                   due := some (e.cyc + lat) }] } := by
  unfold fixTail freshUid
  by_cases h1 : fl = 0 ∧ 12 ≤ h.set.toNat
  · simp [h1]
  · rw [if_neg h1, if_neg]
    simpa [and_comm] using h1

/-- The group of the slot, once D has been written. -/
theorem writeD_group {s : State} {e : Env} {y : Group} (h : groupAt s e.g = some y) (d : Reg) (wide : Bool) (lat : Nat)
    (f : Nat → Nat) :
    (∃ z, writeD s e d wide lat f = setGroup s e.g z ∧
      z = { y with v := z.v, s := z.s, recents := z.recents } ∧
      (∀ r l, l < 128 → vRaw z r l =
        match d with
        | .s _ => vRaw y r l
        | .v n =>
          if inLanes e.act l = false then vRaw y r l
          else if r = n.toNat then BitVec.ofNat 32 (f l)
          else if wide && r == n.toNat + 1 then (BitVec.ofNat 64 (f l)).extractLsb' 32 32
          else vRaw y r l) ∧
      (∀ k, sRaw z k =
        match d with
        | .v _ => sRaw y k
        | .s n => if k = n.toNat ∧ e.mayS k = true then BitVec.ofNat 64 (f oneLane) else sRaw y k) ∧
      (∀ q, q ∈ z.recents → q ∈ y.recents ∨ (q.due = e.cyc + lat ∧
        match d with
        | .v n => q.kind = 0 ∧ (q.reg = n.toNat ∨ (wide = true ∧ q.reg = n.toNat + 1)) ∧ inLanes e.act q.lane = true ∧
            q.old = (vRaw y q.reg q.lane).setWidth 64
        | .s n => q.kind = 1 ∧ q.reg = n.toNat ∧ e.mayS n.toNat = true ∧ q.old = sRaw y q.reg))) ∨
    (writeD s e d wide lat f = s ∧ ∃ n, d = .s n ∧ e.mayS n.toNat = false) := by
  cases d with
  | v n =>
    refine Or.inl ?_
    cases wide with
    | false =>
      refine ⟨fixLanes (e.cyc + lat) n.toNat (fun l => BitVec.ofNat 32 (f l)) (lanesOf e.act) y, ?_, ?_, ?_, ?_, ?_⟩
      · simp [writeD, modGroup_eq h]
      · obtain ⟨v, rs, h⟩ := fixLanes_frame (e.cyc + lat) n.toNat (fun l => BitVec.ofNat 32 (f l)) (lanesOf e.act) y
        rw [h]
      · intro r l hl
        rw [vRaw_fixLanes _ _ _ _ _ hl _ _ (fun k hk => lanesOf_lt _ k hk)]
        simp only [mem_lanesOf, Bool.false_and, Bool.false_eq_true, if_false]
        by_cases h1 : inLanes e.act l = true <;> by_cases h2 : r = n.toNat <;> simp [h1, h2]
      · intro k
        obtain ⟨v, rs, h⟩ := fixLanes_frame (e.cyc + lat) n.toNat (fun l => BitVec.ofNat 32 (f l)) (lanesOf e.act) y
        rw [h]; rfl
      · intro q hq
        rcases recents_fixLanes _ _ _ q _ _ (fun k hk => lanesOf_lt _ k hk) (lanesOf_nodup _) hq with h | ⟨h1, h2, h3, h4, h5⟩
        · exact .inl h
        · exact .inr ⟨h2, h1, .inl h3, (mem_lanesOf _ _).mp h4, by rw [h5, h3]⟩
    | true =>
      refine ⟨fixLanes64 (e.cyc + lat) n.toNat (fun l => BitVec.ofNat 64 (f l)) (lanesOf e.act) y, ?_, ?_, ?_, ?_, ?_⟩
      · simp [writeD, modGroup_eq h]
      · obtain ⟨v, rs, h⟩ := fixLanes64_frame (e.cyc + lat) n.toNat (fun l => BitVec.ofNat 64 (f l)) (lanesOf e.act) y
        rw [h]
      · intro r l hl
        rw [vRaw_fixLanes64 _ _ _ _ _ hl _ _ (fun k hk => lanesOf_lt _ k hk)]
        simp only [mem_lanesOf, Bool.true_and, beq_iff_eq]
        by_cases h1 : inLanes e.act l = true
        · simp only [h1, if_true, Bool.true_eq_false, if_false]
          split
          · rw [BitVec.setWidth_ofNat_of_le (by decide)]
          · rfl
        · simp only [h1]
          simp
      · intro k
        obtain ⟨v, rs, h⟩ := fixLanes64_frame (e.cyc + lat) n.toNat (fun l => BitVec.ofNat 64 (f l)) (lanesOf e.act) y
        rw [h]; rfl
      · intro q hq
        rcases recents_fixLanes64 _ _ _ q _ _ (fun k hk => lanesOf_lt _ k hk) (lanesOf_nodup _) hq with h | ⟨h1, h2, h3, h4, h5⟩
        · exact .inl h
        · exact .inr ⟨h2, h1, h3.imp id (fun h => ⟨rfl, h⟩), (mem_lanesOf _ _).mp h4, h5⟩
  | s n =>
    by_cases hm : e.mayS n.toNat = true
    · refine Or.inl ⟨fixS (e.cyc + lat) n.toNat (BitVec.ofNat 64 (f oneLane)) y, ?_, ?_, ?_, ?_, ?_⟩
      · simp [writeD, hm, modGroup_eq h]
      · rfl
      · intro r l _; rfl
      · intro k
        rw [sRaw_fixS]
        by_cases hk : k = n.toNat
        · subst hk; simp [hm]
        · simp [hk]
      · intro q hq
        have : q = { kind := 1, reg := n.toNat, lane := 0, old := sRaw y n.toNat, due := e.cyc + lat } ∨ q ∈ y.recents := by
          simpa [fixS, putS] using hq
        rcases this with rfl | h
        · exact .inr ⟨rfl, rfl, rfl, hm, rfl⟩
        · exact .inl h
    · refine Or.inr ⟨by simp [writeD, hm], n, rfl, by simpa using hm⟩

theorem mput_mput_same {α : Type} (m : SMap α) (k : Nat) (x y : α) : mput (mput m k x) k y = mput m k y := by
  induction m with
  | nil => simp [mput]
  | cons p r ih =>
    obtain ⟨a, z⟩ := p
    simp only [mput]
    split
    · simp [mput]
    · split
      · simp [mput]
      · simp only [mput]
        rw [if_neg ‹_›, if_neg ‹_›, ih]

/-- The slot holds what the issue has put there. -/
theorem setGroup_self (s : State) (c : Cur) (x : Group) (i : Info) (e : Env) (dsts : List Dest) :
    setGroup (afterIssue s c x i e dsts) c.g (issued c e.cyc i (actsIn e i) i.queues dsts (retire e.cyc x))
      = afterIssue s c x i e dsts := by
  simp only [afterIssue, setGroup, mput_mput_same]

/-! ### Predicates -/

theorem inLanes_laneBit (m l : Nat) (hm : m < 128) : inLanes (laneBit m) l = decide (l = m) := by
  simp only [inLanes, laneBit, BitVec.getLsbD_ofNat]
  by_cases h : l = m
  · subst h; simp [hm, Nat.testBit_two_pow_self]
  · simp [Nat.testBit_two_pow_of_ne (Ne.symm h), h]

theorem inLanes_setLane (a : LaneMask) (m l : Nat) (b : Bool) (hm : m < 128) :
    inLanes (setLane a m b) l = if l = m then b else inLanes a l := by
  unfold setLane
  cases b
  · simp only [Bool.false_eq_true, if_false]
    rw [inLanes_without, inLanes_laneBit m l hm]
    by_cases h : l = m <;> simp [h]
  · simp only [if_true]
    rw [inLanes_or, inLanes_laneBit m l hm]
    by_cases h : l = m <;> simp [h]

theorem pRaw_fixP (due k l : Nat) (b : Bool) (g : Group) (k' l' : Nat) (hl : l < 128) :
    inLanes (pRaw (fixP due k l b g) k') l' = if k' = k ∧ k' ≠ 7 ∧ l' = l then b else inLanes (pRaw g k') l' := by
  unfold fixP
  by_cases h7 : k = 7
  · rw [if_pos h7, if_neg (by omega)]
  · rw [if_neg h7]
    by_cases hk : k' = k
    · subst hk
      simp only [putP, if_neg h7]
      have : pRaw { g with
          p := mput g.p k' (setLane (pRaw g k') l b),
          recents := { kind := 2, reg := k', lane := l, old := if inLanes (pRaw g k') l then 1 else 0, due := due } :: g.recents } k'
          = setLane (pRaw g k') l b := by
        simp [pRaw, h7, mget?_mput_same]
      rw [this, inLanes_setLane _ _ _ _ hl]
      simp [h7]
    · have hc : ¬ (k' = k ∧ k' ≠ 7 ∧ l' = l) := fun h => hk h.1
      rw [if_neg hc]
      simp [putP, h7, pRaw, mget?_mput_ne _ _ _ _ hk]

theorem fixP_frame (due k l : Nat) (b : Bool) (g : Group) :
    ∃ p rs, fixP due k l b g = { g with p := p, recents := rs } := by
  unfold fixP
  by_cases h : k = 7
  · exact ⟨g.p, g.recents, by rw [if_pos h]⟩
  · rw [if_neg h]
    unfold putP
    rw [if_neg h]
    exact ⟨_, _, rfl⟩

/-- A predicate written in some lanes. -/
def fixPs (due k : Nat) (f : Nat → Bool) (ls : List Nat) (g : Group) : Group := ls.foldl (fun x l => fixP due k l (f l) x) g

theorem fixPs_frame (due k : Nat) (f : Nat → Bool) (ls : List Nat) (g : Group) :
    ∃ p rs, fixPs due k f ls g = { g with p := p, recents := rs } := by
  unfold fixPs
  induction ls generalizing g with
  | nil => exact ⟨g.p, g.recents, rfl⟩
  | cons l ls ih =>
    rw [List.foldl_cons]
    obtain ⟨p', rs', h'⟩ := fixP_frame due k l (f l) g
    rw [h']
    obtain ⟨p, rs, h⟩ := ih { g with p := p', recents := rs' }
    exact ⟨p, rs, h⟩

theorem pRaw_fixPs (due k : Nat) (f : Nat → Bool) (k' l' : Nat) :
    ∀ (ls : List Nat) (g : Group), (∀ l ∈ ls, l < 128) →
      inLanes (pRaw (fixPs due k f ls g) k') l' = if k' = k ∧ k' ≠ 7 ∧ l' ∈ ls then f l' else inLanes (pRaw g k') l'
  | [], g, _ => by simp [fixPs]
  | l :: ls, g, hb => by
    have ih := pRaw_fixPs due k f k' l' ls (fixP due k l (f l) g) fun m hm => hb m (by simp [hm])
    have : fixPs due k f (l :: ls) g = fixPs due k f ls (fixP due k l (f l) g) := rfl
    rw [this, ih, pRaw_fixP _ _ _ _ _ _ _ (hb l (by simp))]
    by_cases h1 : k' = k ∧ k' ≠ 7
    · by_cases h2 : l' ∈ ls
      · rw [if_pos ⟨h1.1, h1.2, h2⟩, if_pos ⟨h1.1, h1.2, by simp [h2]⟩]
      · by_cases h3 : l' = l
        · subst h3
          rw [if_neg (by simp [h2]), if_pos ⟨h1.1, h1.2, rfl⟩, if_pos ⟨h1.1, h1.2, by simp⟩]
        · rw [if_neg (by simp [h2]), if_neg (by simp [h3]), if_neg (by simp [h2, h3])]
    · rw [if_neg (fun h => h1 ⟨h.1, h.2.1⟩), if_neg (fun h => h1 ⟨h.1, h.2.1⟩), if_neg (fun h => h1 ⟨h.1, h.2.1⟩)]

theorem recents_fixPs (due k : Nat) (f : Nat → Bool) (q : Recent) :
    ∀ (ls : List Nat) (g : Group), (∀ l ∈ ls, l < 128) → ls.Nodup → q ∈ (fixPs due k f ls g).recents →
      q ∈ g.recents ∨
        (q.kind = 2 ∧ q.due = due ∧ q.reg = k ∧ k ≠ 7 ∧ q.lane ∈ ls ∧ q.old = if inLanes (pRaw g k) q.lane then 1 else 0)
  | [], g, _, _, h => .inl h
  | l :: ls, g, hb, hn, h => by
    have hl : l < 128 := hb l (by simp)
    rw [List.nodup_cons] at hn
    have h' : q ∈ (fixPs due k f ls (fixP due k l (f l) g)).recents := h
    rcases recents_fixPs due k f q ls _ (fun m hm => hb m (by simp [hm])) hn.2 h' with h | ⟨h1, h2, h3, h4, h5, h6⟩
    · by_cases h7 : k = 7
      · have : fixP due k l (f l) g = g := by simp [fixP, h7]
        rw [this] at h
        exact .inl h
      · have e : (fixP due k l (f l) g).recents
            = { kind := 2, reg := k, lane := l, old := if inLanes (pRaw g k) l then 1 else 0, due := due } :: g.recents := by
          simp only [fixP, if_neg h7]
        rw [e] at h
        rcases List.mem_cons.mp h with rfl | h
        · exact .inr ⟨rfl, rfl, rfl, h7, by simp, rfl⟩
        · exact .inl h
    · refine .inr ⟨h1, h2, h3, h4, by simp [h5], ?_⟩
      have hc : ¬ (k = k ∧ k ≠ 7 ∧ q.lane = l) := by
        rintro ⟨_, _, e⟩
        rw [e] at h5
        exact hn.1 h5
      rw [h6, pRaw_fixP _ _ _ _ _ _ _ hl, if_neg hc]

/-- Everything a fixed-latency instruction does where its stream may issue. -/
theorem laneForm_done {s : State} {c : Cur} {x : Group} (φ : LaneForm)
    (hd : ∀ n, φ.d = some (.s n) → φ.info.once = true) (h : MayIssue s c x φ.info) :
    ∃ t, φ.exec s = .next t ∧ LaneDone s t c x φ := by
  unfold LaneForm.exec gate
  rw [gateTo_go h]
  simp only
  generalize he : issueEnv s c x φ.info.h = e
  have heg : e.g = c.g := by rw [← he]; rfl
  have hel : e.lanes = c.lanes := by rw [← he]; rfl
  have hpc : e.pc = c.pc := by rw [← he]; rfl
  have hgrp : e.grp.uid = x.uid := by rw [← he]; rfl
  generalize hto : [(nextPc e.pc φ.info.h.sp, Wait.run, e.lanes)] = dsts
  generalize hx : issued c e.cyc φ.info (actsIn e φ.info) φ.info.queues dsts (retire e.cyc x) = x1
  have hag : groupAt (afterIssue s c x φ.info e dsts) c.g = some x1 := by rw [afterIssue_group, hx]
  have hself : setGroup (afterIssue s c x φ.info e dsts) c.g x1 = afterIssue s c x φ.info e dsts := by
    rw [← hx]; exact setGroup_self s c x φ.info e dsts
  have hfr : x1 = x.movedAs x1 := by
    rw [← hx, issued_frame]
    rfl
  have hpl : Advanced c φ.info.h x x1 := by
    intro l pc w
    rw [← hx, issued_placed, ← hto]
    show (Placed x.paths l pc w ∧ _) ∨ _ ↔ _
    simp only [List.mem_singleton, exists_eq_left, hel, hpc]
    refine or_congr Iff.rfl ?_
    constructor
    · rintro ⟨h1, h2, h3⟩; exact ⟨h1, h2.symm, h3.symm⟩
    · rintro ⟨h1, h2, h3⟩; exact ⟨h1, h2.symm, h3.symm⟩
  have hcn : Counted e φ.info x x1 := by
    intro k
    rw [← hx, issued_flags, flagOf_retire]
  have hqk : QueuesKept φ.info x x1 := by
    intro hq
    rw [← hx, hq]
    exact issued_queues _ _ _ _ _ _
  have hrc : ∀ q, q ∈ x1.recents → q ∈ x.recents := by
    intro q hq
    rw [← hx, issued_recents] at hq
    exact mem_retire _ _ _ hq
  have hv1 : ∀ r l, vRaw x1 r l = vRaw x r l := by intro r l; rw [hfr]; rfl
  have hs1 : ∀ k, sRaw x1 k = sRaw x k := by intro k; rw [hfr]; rfl
  have hp1 : ∀ k, pRaw x1 k = pRaw x k := by intro k; rw [hfr]; rfl
  -- where it does not act, nothing but the issue remains
  by_cases hna : actsIn e φ.info = false
  · rw [hna]
    simp only [Bool.false_eq_true, if_false]
    have hact : e.act = 0 := by
      simp only [actsIn, Bool.or_eq_false_iff] at hna
      simpa using hna.2
    have hno : ∀ l, inLanes e.act l = false := by intro l; rw [hact]; exact inLanes_zero l
    refine ⟨_, rfl, rfl, fun k hk => afterIssue_others _ _ _ _ _ _ _ hk, ⟨x1, hag, ?_, hpl, by rw [he]; exact hcn, hqk,
      fun q hq => .inl (hrc q hq), ?_, ?_, ?_⟩, ?_⟩
    · rw [hfr]; rfl
    · intro r l hl
      rw [hv1, he, LaneForm.vAt]
      split
      · simp [hno]
      · rfl
    · intro k
      rw [hs1, he, LaneForm.sAt]
      split
      · rw [if_neg (fun h => h.2.1 hact)]; rfl
      · rfl
    · intro k l
      rw [hp1, he, LaneForm.pAt]
      split
      · simp [hno]
      · rfl
    · show s.results = _
      rw [he, LaneForm.later, hna]
      simp
  have ha : actsIn e φ.info = true := by simpa using hna
  rw [ha]
  simp only [if_true]
  refine ⟨_, rfl, ?_⟩
  -- D
  have stepD : ∃ z, φ.putD e (afterIssue s c x φ.info e dsts) = setGroup (afterIssue s c x φ.info e dsts) c.g z ∧
      z = { x1 with v := z.v, s := z.s, recents := z.recents } ∧
      (∀ r l, l < 128 → vRaw z r l = (φ.vAt e r l).getD (vRaw x r l)) ∧
      (∀ k, sRaw z k = (φ.sAt e k).getD (sRaw x k)) ∧
      (∀ q, q ∈ z.recents → q ∈ x.recents ∨ φ.writes e x q) := by
    unfold LaneForm.putD
    cases hdd : φ.d with
    | none =>
      refine ⟨x1, hself.symm, rfl, ?_, ?_, fun q hq => .inl (hrc q hq)⟩
      · intro r l _
        rw [hv1, LaneForm.vAt, hdd]; rfl
      · intro k
        rw [hs1, LaneForm.sAt, hdd]; rfl
    | some d =>
      simp only
      have hw := writeD_group (s := afterIssue s c x φ.info e dsts) (e := e) (by rw [heg]; exact hag) d φ.wide φ.lat (φ.val e)
      rw [heg] at hw
      rcases hw with ⟨z, hz1, hz2, hz3, hz4, hz5⟩ | ⟨hw, n, hn, hm⟩
      · refine ⟨z, hz1, hz2, ?_, ?_, ?_⟩
        · intro r l hl
          rw [hz3 r l hl, LaneForm.vAt, hdd]
          cases d with
          | s n => simp [hv1]
          | v n =>
            simp only
            split
            · simp [hv1]
            · split
              · rfl
              · split
                · rfl
                · simp [hv1]
        · intro k
          rw [hz4 k, LaneForm.sAt, hdd]
          cases d with
          | v n => simp [hs1]
          | s n =>
            have hact : e.act ≠ 0 := by simpa [actsIn, hd n hdd] using ha
            simp only [hact, ne_eq, not_false_eq_true, true_and]
            split
            · rfl
            · simp [hs1]
        · intro q hq
          rcases hz5 q hq with h | ⟨hdue, h⟩
          · exact .inl (hrc q h)
          · refine .inr ⟨hdue, ?_⟩
            cases d with
            | v n =>
              obtain ⟨h1, h2, h3, h4⟩ := h
              refine .inl ⟨h1, ?_, by rw [h4, hv1]⟩
              rw [LaneForm.vAt, hdd]
              simp only [h3, Bool.true_eq_false, if_false]
              rcases h2 with h2 | ⟨h2, h5⟩
              · simp [h2]
              · rw [if_neg (by omega)]
                simp [h2, h5]
            | s n =>
              obtain ⟨h1, h2, h3, h4⟩ := h
              have hact : e.act ≠ 0 := by simpa [actsIn, hd n hdd] using ha
              refine .inr (.inl ⟨h1, ?_, by rw [h4, hs1]⟩)
              rw [LaneForm.sAt, hdd]
              simp only
              rw [if_pos ⟨h2, hact, by rw [h2]; exact h3⟩]
              rfl
      · refine ⟨x1, by rw [hw, hself], rfl, ?_, ?_, fun q hq => .inl (hrc q hq)⟩
        · intro r l hl
          rw [hv1, LaneForm.vAt, hdd, hn]; rfl
        · intro k
          rw [hs1, LaneForm.sAt, hdd, hn]
          by_cases hk : k = n.toNat
          · subst hk; simp [hm]
          · simp [hk]
  obtain ⟨z, hz1, hz2, hz3, hz4, hz5⟩ := stepD
  have hpz : ∀ k, pRaw z k = pRaw x k := by
    intro k
    rw [← hp1, hz2]; rfl
  -- the predicate
  have stepP : ∃ w, φ.putP e (setGroup (afterIssue s c x φ.info e dsts) c.g z) = setGroup (afterIssue s c x φ.info e dsts) c.g w ∧
      w = { z with p := w.p, recents := w.recents } ∧
      (∀ k l, inLanes (pRaw w k) l = (φ.pAt e k l).getD (inLanes (pRaw x k) l)) ∧
      (∀ q, q ∈ w.recents → q ∈ x.recents ∨ φ.writes e x q) := by
    unfold LaneForm.putP
    cases hpp : φ.pd with
    | none =>
      refine ⟨z, rfl, rfl, ?_, hz5⟩
      intro k l
      rw [hpz, LaneForm.pAt, hpp]; rfl
    | some p =>
      refine ⟨fixPs (e.cyc + φ.lat) p.toNat (φ.pval e) (lanesOf e.act) z, ?_, ?_, ?_, ?_⟩
      · simp only [writeP]
        rw [heg, modGroup_eq (groupAt_setGroup_same _ _ _)]
        simp only [setGroup, mput_mput_same]
        rfl
      · obtain ⟨p', rs, h⟩ := fixPs_frame (e.cyc + φ.lat) p.toNat (φ.pval e) (lanesOf e.act) z
        rw [h]
      · intro k l
        rw [pRaw_fixPs _ _ _ _ _ _ _ (fun k hk => lanesOf_lt _ k hk), LaneForm.pAt, hpp, hpz]
        simp only [mem_lanesOf]
        split <;> rfl
      · intro q hq
        rcases recents_fixPs _ _ _ q _ _ (fun k hk => lanesOf_lt _ k hk) (lanesOf_nodup _) hq with h | ⟨h1, h2, h3, h4, h5, h6⟩
        · exact hz5 q h
        · refine .inr ⟨h2, .inr (.inr ⟨h1, ?_, by rw [h6, hpz, h3]⟩)⟩
          rw [LaneForm.pAt, hpp]
          simp only
          rw [if_pos ⟨h3, by rw [h3]; exact h4, (mem_lanesOf _ _).mp h5⟩]
          rfl
  obtain ⟨w, hw1, hw2, hw3, hw4⟩ := stepP
  rw [hz1, hw1, fixTail_eq]
  generalize hu : setGroup (afterIssue s c x φ.info e dsts) c.g w = u
  have hug : groupAt u c.g = some w := by rw [← hu]; exact groupAt_setGroup_same _ _ _
  have huo : ∀ k, k ≠ c.g → groupAt u k = groupAt s k := by
    intro k hk
    rw [← hu, groupAt_setGroup_ne _ _ _ _ hk, afterIssue_others _ _ _ _ _ _ _ hk]
  have hum : u = s.issuedAs u := by rw [← hu]; rfl
  have hur : u.results = s.results := by rw [← hu]; rfl
  have hun : u.nextUid = s.nextUid := by rw [← hu]; rfl
  have hw : w = { x1 with v := w.v, s := w.s, p := w.p, recents := w.recents } := by rw [hw2, hz2]
  have hf : ∀ k, flagOf w k = flagOf x1 k := by intro k; rw [hw]; rfl
  have hvw : ∀ r l, vRaw w r l = vRaw z r l := by intro r l; rw [hw2]; rfl
  have hsw : ∀ k, sRaw w k = sRaw z k := by intro k; rw [hw2]; rfl
  have grp : w = { x.movedAs w with v := w.v, s := w.s, p := w.p } ∧ Advanced c φ.info.h x w ∧ Counted e φ.info x w ∧
      QueuesKept φ.info x w := by
    refine ⟨?_, ?_, ?_, ?_⟩
    · rw [hw, hfr]; rfl
    · intro l pc v
      have hp : w.paths = x1.paths := by rw [hw]
      rw [hp]
      exact hpl l pc v
    · intro k
      rw [hf]
      exact hcn k
    · intro hq
      rw [hw]
      exact hqk hq
  have vals : (∀ r l, l < 128 → vRaw w r l = (φ.vAt e r l).getD (vRaw x r l)) ∧
      (∀ k, sRaw w k = (φ.sAt e k).getD (sRaw x k)) ∧
      (∀ k l, inLanes (pRaw w k) l = (φ.pAt e k l).getD (inLanes (pRaw x k) l)) :=
    ⟨fun r l hl => by rw [hvw]; exact hz3 r l hl, fun k => by rw [hsw]; exact hz4 k, hw3⟩
  split
  · rename_i h0
    refine ⟨hum, huo, ⟨w, hug, grp.1, grp.2.1, by rw [he]; exact grp.2.2.1, grp.2.2.2, by rw [he]; exact hw4,
      by rw [he]; exact vals⟩, ?_⟩
    rw [hur, he, LaneForm.later, if_neg, List.append_nil]
    rintro ⟨_, h1 | h1⟩
    · exact h1 h0.1
    · omega
  · rename_i h0
    refine ⟨?_, huo, ⟨w, hug, grp.1, grp.2.1, by rw [he]; exact grp.2.2.1, grp.2.2.2, by rw [he]; exact hw4,
      by rw [he]; exact vals⟩, ?_⟩
    · rw [← hu]; rfl
    · show u.results ++ _ = _
      rw [hur, hun, he, LaneForm.later, if_pos, hgrp]
      refine ⟨ha, ?_⟩
      by_cases h1 : φ.fl e = 0
      · refine Or.inr ?_
        by_cases h2 : 12 ≤ φ.info.h.set.toNat
        · exact absurd ⟨h1, h2⟩ h0
        · omega
      · exact Or.inl h1

/-- Everything a variable-latency instruction does where its stream may issue (R152). -/
theorem varForm_done {s : State} {c : Cur} {x : Group} (φ : VarForm) (h : MayIssue s c x φ.info) :
    ∃ t, φ.exec s = .next t ∧ VarDone s t c x φ := by
  unfold VarForm.exec gate
  rw [gateTo_go h]
  simp only
  generalize he : issueEnv s c x φ.info.h = e
  have heg : e.g = c.g := by rw [← he]; rfl
  have hel : e.lanes = c.lanes := by rw [← he]; rfl
  have hpc : e.pc = c.pc := by rw [← he]; rfl
  have hgrp : e.grp.uid = x.uid := by rw [← he]; rfl
  generalize hto : [(nextPc e.pc φ.info.h.sp, Wait.run, e.lanes)] = dsts
  generalize hx : issued c e.cyc φ.info (actsIn e φ.info) φ.info.queues dsts (retire e.cyc x) = x1
  have hag : groupAt (afterIssue s c x φ.info e dsts) c.g = some x1 := by rw [afterIssue_group, hx]
  have hfr : x1 = x.movedAs x1 := by
    rw [← hx, issued_frame]
    rfl
  have hpl : Advanced c φ.info.h x x1 := by
    intro l pc w
    rw [← hx, issued_placed, ← hto]
    show (Placed x.paths l pc w ∧ _) ∨ _ ↔ _
    simp only [List.mem_singleton, exists_eq_left, hel, hpc]
    refine or_congr Iff.rfl ?_
    constructor
    · rintro ⟨h1, h2, h3⟩; exact ⟨h1, h2.symm, h3.symm⟩
    · rintro ⟨h1, h2, h3⟩; exact ⟨h1, h2.symm, h3.symm⟩
  have hcn : Counted e φ.info x x1 := by
    intro k
    rw [← hx, issued_flags, flagOf_retire]
  have hqk : φ.info.queues = [] → x1.q = x.q ∧ x1.empt = x.empt := by
    intro hq
    rw [← hx, hq]
    exact issued_queues _ _ _ _ _ _
  have hrc : ∀ q, q ∈ x1.recents → q ∈ x.recents := by
    intro q hq
    rw [← hx, issued_recents] at hq
    exact mem_retire _ _ _ hq
  have hem : ∀ r, r ∈ x.empt → r ∈ x1.empt := by
    intro r hr
    rw [← hx]
    exact issued_empt _ _ _ _ _ _ _ _ hr
  by_cases hna : actsIn e φ.info = false
  · rw [hna]
    simp only [Bool.false_eq_true, if_false]
    refine ⟨_, rfl, rfl, fun k hk => afterIssue_others _ _ _ _ _ _ _ hk, ⟨x1, hag, hfr, hpl, by rw [he]; exact hcn,
      fun hq => (hqk hq).1, hrc, hem, ?_, fun hq r hr => .inl ?_⟩, ?_⟩
    · rw [he, hna]; intro h; exact absurd h (by decide)
    · rw [(hqk hq).2] at hr; exact hr
    · rw [he, hna]
      show s.results = _
      simp
  · have ha : actsIn e φ.info = true := by simpa using hna
    rw [ha]
    simp only [if_true]
    have hag2 : mget? (afterIssue s c x φ.info e dsts).groups c.g = some x1 := hag
    refine ⟨_, rfl, ?_, ?_, ⟨markEmpty φ.vregs x1, ?_, ?_, ?_, by rw [he]; exact hcn, ?_, hrc, ?_, ?_, ?_⟩, ?_⟩
    · simp only [varResult, freshUid, modGroup, heg, hag2]
      rfl
    · intro k hk
      simp only [varResult, freshUid, heg]
      have := groupAt_modGroup_ne { afterIssue s c x φ.info e dsts with nextUid := s.nextUid + 1 } c.g k (markEmpty φ.vregs) hk
      exact this.trans (afterIssue_others _ _ _ _ _ _ _ hk)
    · simp only [varResult, freshUid, heg, modGroup, hag2]
      exact groupAt_setGroup_same _ _ _
    · rw [hfr]; rfl
    · exact hpl
    · intro hq; exact (hqk hq).1
    · intro r hr
      rw [mem_markEmpty]
      exact .inr (hem r hr)
    · intro _ r hr
      rw [mem_markEmpty]
      exact .inl hr
    · intro hq r hr
      rw [mem_markEmpty, (hqk hq).2] at hr
      exact hr.symm
    · rw [he, ha]
      simp only [varResult, freshUid, heg, modGroup, hag2, hgrp]
      rfl

end Sys2Proof.Machine
end

