-- ==== Sys2Proof/Laws/Simple.lean ====
section
/-! SUPPORT. Instructions that are complete at issue: what they leave (R271). -/

namespace Sys2Proof.Machine

open Host

/-- The lanes that go to a word are those that name it. -/
theorem byTarget_mem (f : Nat → Pc) (ls : List Nat) (hb : ∀ m, m ∈ ls → m < 128) (l : Nat) (pc : Pc) :
    (∃ p ∈ byTarget f ls, inLanes p.2 l = true ∧ p.1 = pc) ↔ (l ∈ ls ∧ f l = pc) := by
  have key : ∀ (ls : List Nat) (acc : List (Pc × LaneMask)), (∀ m, m ∈ ls → m < 128) →
      ((∃ p ∈ ls.foldl (fun acc l =>
          let t := f l
          if acc.any (fun p => p.1 == t) then acc.map fun p => if p.1 == t then (t, p.2 ||| laneBit l) else p
          else acc ++ [(t, laneBit l)]) acc, inLanes p.2 l = true ∧ p.1 = pc)
        ↔ (∃ p ∈ acc, inLanes p.2 l = true ∧ p.1 = pc) ∨ (l ∈ ls ∧ f l = pc)) := by
    intro ls
    induction ls with
    | nil => intro acc _; simp
    | cons a r ih =>
      intro acc hb
      rw [List.foldl_cons, ih _ (fun m hm => hb m (by simp [hm]))]
      have ha : a < 128 := hb a (by simp)
      have step : (∃ p ∈ (if acc.any (fun p => p.1 == f a) then acc.map fun p => if p.1 == f a then (f a, p.2 ||| laneBit a) else p
          else acc ++ [(f a, laneBit a)]), inLanes p.2 l = true ∧ p.1 = pc)
          ↔ (∃ p ∈ acc, inLanes p.2 l = true ∧ p.1 = pc) ∨ (l = a ∧ f l = pc) := by
        split
        · rename_i hany
          obtain ⟨p0, hp0, h0⟩ := List.any_eq_true.mp hany
          have h0' : p0.1 = f a := by simpa using h0
          constructor
          · rintro ⟨q, hq, hl, hpc⟩
            obtain ⟨p, hp, rfl⟩ := List.mem_map.mp hq
            by_cases hpe : p.1 = f a
            · simp only [hpe, beq_self_eq_true, if_true] at hl hpc
              rw [inLanes_or, inLanes_laneBit a l ha, Bool.or_eq_true, decide_eq_true_eq] at hl
              rcases hl with hl | hl
              · exact .inl ⟨p, hp, hl, hpe.trans hpc⟩
              · subst hl; exact .inr ⟨rfl, hpc⟩
            · have : (p.1 == f a) = false := by simpa using hpe
              simp only [this, Bool.false_eq_true, if_false] at hl hpc
              exact .inl ⟨p, hp, hl, hpc⟩
          · rintro (⟨p, hp, hl, hpc⟩ | ⟨rfl, hpc⟩)
            · refine ⟨_, List.mem_map.mpr ⟨p, hp, rfl⟩, ?_⟩
              by_cases hpe : p.1 = f a
              · simp only [hpe, beq_self_eq_true, if_true]
                rw [inLanes_or, hl]
                exact ⟨rfl, hpe ▸ hpc⟩
              · have : (p.1 == f a) = false := by simpa using hpe
                simp only [this, Bool.false_eq_true, if_false]
                exact ⟨hl, hpc⟩
            · refine ⟨_, List.mem_map.mpr ⟨p0, hp0, rfl⟩, ?_⟩
              simp only [h0', beq_self_eq_true, if_true]
              rw [inLanes_or, inLanes_laneBit _ _ ha]
              simp [hpc]
        · simp only [List.mem_append, List.mem_singleton]
          constructor
          · rintro ⟨q, hq | rfl, hl, hpc⟩
            · exact .inl ⟨q, hq, hl, hpc⟩
            · rw [inLanes_laneBit a l ha, decide_eq_true_eq] at hl
              subst hl
              exact .inr ⟨rfl, hpc⟩
          · rintro (⟨p, hp, hl, hpc⟩ | ⟨rfl, hpc⟩)
            · exact ⟨p, .inl hp, hl, hpc⟩
            · refine ⟨_, .inr rfl, ?_, hpc⟩
              rw [inLanes_laneBit _ _ ha]
              simp
      show (∃ p ∈ (if acc.any (fun p => p.1 == f a) then acc.map fun p => if p.1 == f a then (f a, p.2 ||| laneBit a) else p
          else acc ++ [(f a, laneBit a)]), inLanes p.2 l = true ∧ p.1 = pc) ∨ _ ↔ _
      rw [step]
      simp only [List.mem_cons]
      constructor
      · rintro ((h | ⟨h1, h2⟩) | ⟨h1, h2⟩)
        · exact .inl h
        · exact .inr ⟨.inl h1, h2⟩
        · exact .inr ⟨.inr h1, h2⟩
      · rintro (h | ⟨h1 | h1, h2⟩)
        · exact .inl (.inl h)
        · exact .inl (.inr ⟨h1, h2⟩)
        · exact .inr ⟨h1, h2⟩
  unfold byTarget
  rw [key ls [] hb]
  simp

theorem inLanes_maskOf (ls : List Nat) (l : Nat) (h : ∀ m, m ∈ ls → m < 128) : inLanes (maskOf ls) l = true ↔ l ∈ ls := by
  have key : ∀ (ls : List Nat) (acc : LaneMask), (∀ m, m ∈ ls → m < 128) →
      (inLanes (ls.foldl (fun acc l => acc ||| laneBit l) acc) l = true ↔ inLanes acc l = true ∨ l ∈ ls) := by
    intro ls
    induction ls with
    | nil => intro acc _; simp
    | cons a r ih =>
      intro acc hb
      rw [List.foldl_cons, ih _ (fun m hm => hb m (by simp [hm])), inLanes_or, inLanes_laneBit a l (hb a (by simp)),
        Bool.or_eq_true, decide_eq_true_eq, List.mem_cons, or_assoc]
  show inLanes (ls.foldl (fun acc l => acc ||| laneBit l) 0) l = true ↔ _
  rw [key ls 0 h, inLanes_zero]
  simp

/-- Lanes whose guard is true are lanes of the stream. -/
theorem guardMask_sub (e : Env) (h : Hdr) (l : Nat) (hl : inLanes (guardMask e h) l = true) : inLanes e.lanes l = true := by
  unfold guardMask at hl
  split at hl
  · exact hl
  · rw [inLanes_maskOf _ _ (fun m hm => lanesOf_lt e.lanes m (List.mem_filter.mp hm).1), List.mem_filter, mem_lanesOf] at hl
    exact hl.1

theorem act_sub (s : State) (c : Cur) (x : Group) (h : Hdr) (l : Nat) (hl : inLanes (issueEnv s c x h).act l = true) :
    inLanes c.lanes l = true :=
  guardMask_sub _ h l hl

theorem dropFlag_countSet (x y : Group) (set : BitVec 4)
    (h : ∀ k, flagOf y k = flagOf x k + (if k = set.toNat ∧ k < 12 then 1 else 0)) (k : Nat) :
    flagOf (dropFlag set y) k = flagOf x k := by
  unfold dropFlag
  split
  · rw [flagOf_setFlag]
    by_cases hk : k = set.toNat
    · subst hk
      rw [if_pos rfl, h]
      simp [*]
    · rw [if_neg hk, h, if_neg (by simp [hk])]
      rfl
  · rw [h, if_neg]
    · rfl
    · rintro ⟨h1, h2⟩
      omega

theorem dropFlag_frame (set : BitVec 4) (y : Group) : ∃ f, dropFlag set y = { y with f := f } := by
  unfold dropFlag
  split
  · exact ⟨_, rfl⟩
  · exact ⟨y.f, rfl⟩

/-- Everything an instruction that is complete at issue does where its stream may issue: `f` is its effect in the group. -/
theorem issued_done {s : State} {c : Cur} {x : Group} (i : Info) (hs : i.sets = 1) (h : MayIssue s c x i)
    (dsts : Env → List Dest) (tgt : Nat → Pc × Wait) (f : Env → Group → Group)
    (hto : ∀ l pc w, (∃ d ∈ dsts (issueEnv s c x i.h), inLanes d.2.2 l = true ∧ d.1 = pc ∧ d.2.1 = w) ↔
      (inLanes c.lanes l = true ∧ tgt l = (pc, w)))
    (hf : ∀ y, f (issueEnv s c x i.h) (x.movedAs y) = (f (issueEnv s c x i.h) x).movedAs y) :
    ∃ t, gateTo i s dsts (fun e _ post => atOnce (modGroup post e.g (f e)) e i.h) = .next t ∧
      Issued s t c x (if actsIn (issueEnv s c x i.h) i = true then f (issueEnv s c x i.h) x else x) i tgt := by
  rw [gateTo_go h]
  simp only
  generalize he : issueEnv s c x i.h = e
  rw [he] at hto hf
  have heg : e.g = c.g := by rw [← he]; rfl
  generalize hx : issued c e.cyc i (actsIn e i) i.queues (dsts e) (retire e.cyc x) = x1
  have hag : groupAt (afterIssue s c x i e (dsts e)) c.g = some x1 := by rw [afterIssue_group, hx]
  have hfr : x1 = x.movedAs x1 := by
    rw [← hx, issued_frame]
    rfl
  have hpl : ∀ l pc w, Placed x1.paths l pc w ↔
      (Placed x.paths l pc w ∧ inLanes c.lanes l = false) ∨ (inLanes c.lanes l = true ∧ tgt l = (pc, w)) := by
    intro l pc w
    rw [← hx, issued_placed, hto]
    rfl
  have hcn : ∀ k, flagOf x1 k = flagOf x k + (if k = i.h.set.toNat ∧ k < 12 ∧ actsIn e i = true then 1 else 0) := by
    intro k
    rw [← hx, issued_flags, flagOf_retire, hs]
  have hqk : QueuesKept i x x1 := by
    intro hq
    rw [← hx, hq]
    exact issued_queues _ _ _ _ _ _
  have hrc : ∀ q, q ∈ x1.recents → q ∈ x.recents := by
    intro q hq
    rw [← hx, issued_recents] at hq
    exact mem_retire _ _ _ hq
  by_cases hna : actsIn e i = false
  · rw [hna]
    simp only [Bool.false_eq_true, if_false]
    refine ⟨_, rfl, rfl, fun k hk => afterIssue_others _ _ _ _ _ _ _ hk, x1, hag, hfr, hpl, ?_, hqk, hrc⟩
    intro k
    rw [hcn, hna]
    simp
  · have ha : actsIn e i = true := by simpa using hna
    rw [ha]
    simp only [if_true]
    have h1 : modGroup (afterIssue s c x i e (dsts e)) e.g (f e) = setGroup (afterIssue s c x i e (dsts e)) c.g (f e x1) := by
      rw [heg]; exact modGroup_eq hag _
    have h2 : atOnce (modGroup (afterIssue s c x i e (dsts e)) e.g (f e)) e i.h
        = setGroup (afterIssue s c x i e (dsts e)) c.g (dropFlag i.h.set (f e x1)) := by
      unfold atOnce
      rw [h1, heg, modGroup_eq (groupAt_setGroup_same _ _ _)]
      simp only [setGroup, mput_mput_same]
    have hf1 : f e x1 = (f e x).movedAs x1 := by
      have := hf x1
      rw [← hfr] at this
      exact this
    obtain ⟨fl, hfl⟩ := dropFlag_frame i.h.set (f e x1)
    rw [h2]
    refine ⟨_, rfl, rfl, ?_, dropFlag i.h.set (f e x1), groupAt_setGroup_same _ _ _, ?_, ?_, ?_, ?_, ?_⟩
    · intro k hk
      rw [groupAt_setGroup_ne _ _ _ _ hk]
      exact afterIssue_others _ _ _ _ _ _ _ hk
    · rw [hfl, hf1]; rfl
    · intro l pc w
      have : (dropFlag i.h.set (f e x1)).paths = x1.paths := by rw [hfl, hf1]; rfl
      rw [this]
      exact hpl l pc w
    · apply dropFlag_countSet x (f e x1) i.h.set
      intro k
      have : flagOf (f e x1) k = flagOf x1 k := by rw [hf1]; rfl
      rw [this, hcn, ha]
      simp
    · intro hq
      have := hqk hq
      have e1 : (dropFlag i.h.set (f e x1)).q = x1.q := by rw [hfl, hf1]; rfl
      have e2 : (dropFlag i.h.set (f e x1)).empt = x1.empt := by rw [hfl, hf1]; rfl
      rw [e1, e2]
      exact this
    · intro q hq
      have e1 : (dropFlag i.h.set (f e x1)).recents = x1.recents := by rw [hfl, hf1]; rfl
      rw [e1] at hq
      exact hrc q hq

/-- An instruction that is complete at issue, whatever it does in the group. -/
theorem prompt_done {s : State} {c : Cur} {x : Group} {e : Env} (i : Info) (hs : i.sets = 1) (h : MayIssue s c x i)
    (he : e = issueEnv s c x i.h)     (dsts : Env → List Dest) (tgt : Nat → Pc × Wait) (f : Env → Group → Group) (act : Env → State → State → State)
    (hact : ∀ post pre, actsIn e i = true → act e pre post = atOnce (modGroup post e.g (f e)) e i.h)
    (hto : ∀ l pc w, (∃ d ∈ dsts e, inLanes d.2.2 l = true ∧ d.1 = pc ∧ d.2.1 = w) ↔
      (inLanes c.lanes l = true ∧ tgt l = (pc, w)))
    (hf : ∀ y, f e (x.movedAs y) = (f e x).movedAs y) :
    ∃ t, gateTo i s dsts act = .next t ∧ Issued s t c x (if actsIn e i = true then f e x else x) i tgt := by
  subst he
  obtain ⟨t, h1, h2⟩ := issued_done i hs h dsts tgt f hto hf
  refine ⟨t, ?_, h2⟩
  rw [← h1, gateTo_go h, gateTo_go h]
  simp only
  split
  · rename_i ha; rw [hact _ _ ha]
  · rfl

/-- The lanes of a stream that goes on. -/
theorem onward_to {c : Cur} {e : Env} (i : Info) (hl : e.lanes = c.lanes) (l : Nat) (pc : Pc) (w : Wait) :
    (∃ d ∈ [((nextPc e.pc i.h.sp, Wait.run, e.lanes) : Dest)], inLanes d.2.2 l = true ∧ d.1 = pc ∧ d.2.1 = w) ↔
      (inLanes c.lanes l = true ∧ ((nextPc e.pc i.h.sp, Wait.run) : Pc × Wait) = (pc, w)) := by
  simp [hl]

/-- The lanes of a stream that parts. -/
theorem split_to {c : Cur} {x : Group} {s : State} {e : Env} (h : Hdr) (i : Info) (hi : i.h = h) (he : e = issueEnv s c x h) (pc0 : Env → Pc) (l : Nat) (pc : Pc) (w : Wait) :
    (∃ d ∈ splitTo i pc0 (fun _ => .run) e, inLanes d.2.2 l = true ∧ d.1 = pc ∧ d.2.1 = w) ↔
      (inLanes c.lanes l = true ∧ parted e h (fun _ => (pc0 e, .run)) l = (pc, w)) := by
  have hl : e.lanes = c.lanes := by rw [he]; rfl
  have hsub : inLanes e.act l = true → inLanes c.lanes l = true := by
    intro h1; rw [he] at h1; exact act_sub _ _ _ _ _ h1
  simp only [splitTo, List.mem_cons, List.not_mem_nil, or_false, exists_eq_or_imp, exists_eq_left, parted, hi, hl, inLanes_without]
  by_cases ha : inLanes e.act l = true
  · simp [ha, hsub ha]
  · simp [ha]

/-- What an instruction does where its stream may issue and its lanes go on. -/
theorem goes_gate {s : State} {c : Cur} {x : Group} {i : Info} {e : Env} {post : State} (h : Goes s c x i (nextWord i) e post)
    (act : Env → State → State → State) :
   gate i s act = .next (if actsIn e i then act e { s with free := s.free + 1 } post else post) := by
  obtain ⟨hm, rfl, rfl⟩ := h
  unfold gate
  rw [gateTo_go hm]; rfl

/-- What an instruction does where its stream may issue. -/
theorem goesTo_gate {s : State} {c : Cur} {x : Group} {i : Info} {dsts : Env → List Dest} {e : Env} {post : State} (h : Goes s c x i dsts e post)
    (act : Env → State → State → State) :
   gateTo i s dsts act = .next (if actsIn e i then act e { s with free := s.free + 1 } post else post) := by
  obtain ⟨hm, rfl, rfl⟩ := h
  rw [gateTo_go hm]

end Sys2Proof.Machine
end

