-- ==== Sys2Proof/Laws/Control.lean ====
section
/-! SUPPORT. Joins, handlers and exits: where lanes stand afterwards, and what is kept (R142, R143, R295). -/

namespace Sys2Proof.Machine

open Host

/-- The group of a stream that has issued. -/
theorem goes_facts {s : State} {c : Cur} {x y : Group} {i : Info} {dsts : Env → List Dest} {e : Env} {post : State}
    (h : Goes s c x i dsts e post) (hy : groupAt post c.g = some y) : y = x.movedAs y ∧ (∀ k, flagOf y k = flagOf x k + (if k = i.h.set.toNat ∧ k < 12 ∧ actsIn e i = true then i.sets else 0)) ∧
    e.g = c.g ∧ e.lanes = c.lanes := by
  obtain ⟨hm, rfl, rfl⟩ := h
  have := afterIssue_group s c x i (issueEnv s c x i.h) (dsts (issueEnv s c x i.h))
  rw [hy] at this
  cases this
  refine ⟨?_, ?_, rfl, rfl⟩
  · rw [issued_frame]; rfl
  · intro k; rw [issued_flags, flagOf_retire]

/-- What an issuing instruction sees of its stream. -/
theorem env_facts {s : State} {c : Cur} {x : Group} {i : Info} {dsts : Env → List Dest} {e : Env} {post : State}
    (h : Goes s c x i dsts e post) :
    e.g = c.g ∧ e.grp.ctx = x.ctx ∧ e.grp.uid = x.uid ∧ e.grp.team = x.team ∧ e.lanes = c.lanes ∧ e.pc = c.pc ∧
      e.core = slotCore c.g := by
  rw [h.env]; exact ⟨rfl, rfl, rfl, rfl, rfl, rfl, rfl⟩

theorem once_act {e : Env} {i : Info} (h : e.act ≠ 0) : actsIn e i = true := by
  unfold actsIn; simp; exact .inr h

/-- An instruction that acts once and whose guard is true in some lane acts. -/
theorem goes_once {s : State} {c : Cur} {x : Group} {i : Info} {e : Env} {post pre : State}
    (h : Goes s c x i (nextWord i) e post) (ha : e.act ≠ 0) (hp : pre = { s with free := s.free + 1 })
    (act : Env → State → State → State) : gate i s act = .next (act e pre post) := by
  rw [show gate i s _ = _ from goes_gate h _, once_act ha, hp]; rfl

/-- The group of a stream that has issued is still there. -/
theorem goes_there {s : State} {c : Cur} {x : Group} {i : Info} {dsts : Env → List Dest} {e : Env} {post : State}
    (h : Goes s c x i dsts e post) : ∃ y, groupAt post c.g = some y := by
  rw [h.post]; exact ⟨_, afterIssue_group s c x i e (dsts e)⟩

/-- At trap of the stream under way. -/
theorem trapAt_eq {s pre : State} {c : Cur} {x : Group} {i : Info} {dsts : Env → List Dest} {e : Env} {post : State}
    (h : Goes s c x i dsts e post) (hp : pre = { s with free := s.free + 1 }) (code : Nat) (lanes : LaneMask) (addr aux : DWord) :
    trapAt pre code lanes addr aux = takeTrap pre c.g { code := code, lanes := lanes, addr := addr, aux := aux } c.pc := by
  have : pre.cur = some c := by rw [hp]; exact h.may.cur
  simp only [trapAt, this]

/-- A release that is complete goes on; one that is not leaves what it has done so far (R191). -/
theorem afterRelease_done {e : Env} {pre post : State} {sc : Scope} {u : State} (h : ReleasedTo pre post e.g sc u)
    (k : State → State) : afterRelease e pre post sc k = k u := by
  obtain ⟨v, x, y, w, h1, h2, h3, h4, rfl⟩ := h
  simp [afterRelease, afterReleaseWhen, h1, h2, h3, h4]

theorem afterRelease_waits {e : Env} {pre post : State} {sc : Scope} (h : (release pre e.g sc).1 = false) (k : State → State) :
    afterRelease e pre post sc k = (release pre e.g sc).2 := by
  unfold afterRelease afterReleaseWhen
  simp only [h]
  split <;> rfl

theorem setGroup_twice (s : State) (g : Nat) (a b : Group) : setGroup (setGroup s g a) g b = setGroup s g b := by
  simp only [setGroup, mput_mput_same]

theorem atOnce_eq {s : State} {e : Env} {h : Hdr} {y : Group} (hy : groupAt s e.g = some y) :
    atOnce s e h = setGroup s e.g (dropFlag h.set y) := modGroup_eq hy _

/-- The lanes that are alive stand somewhere. -/
theorem inLanes_alive (g : Group) (l : Nat) : inLanes (aliveLanes g) l = true ↔ ∃ pc w, Placed g.paths l pc w := by
  have key : ∀ (ps : List Path) (acc : LaneMask),
      inLanes (ps.foldl (fun acc p => acc ||| p.lanes) acc) l = true ↔ inLanes acc l = true ∨ ∃ pc w, Placed ps l pc w := by
    intro ps
    induction ps with
    | nil => intro acc; simp [Placed]
    | cons p r ih =>
      intro acc
      rw [List.foldl_cons, ih, inLanes_or, Bool.or_eq_true]
      constructor
      · rintro ((h | h) | ⟨pc, w, h⟩)
        · exact .inl h
        · exact .inr ⟨p.pc, p.wait, (placed_cons _ _ _ _ _).mpr (.inl ⟨h, rfl, rfl⟩)⟩
        · exact .inr ⟨pc, w, (placed_cons _ _ _ _ _).mpr (.inr h)⟩
      · rintro (h | ⟨pc, w, h⟩)
        · exact .inl (.inl h)
        · rcases (placed_cons _ _ _ _ _).mp h with ⟨h, _, _⟩ | h
          · exact .inl (.inr h)
          · exact .inr ⟨pc, w, h⟩
  unfold aliveLanes
  rw [key, inLanes_zero]
  simp

/-- Paths changed one by one move lanes as each path is changed. -/
theorem placed_map (f : Path → Path) (ps : List Path) (hl : ∀ p, (f p).lanes = p.lanes) (l : Nat) (pc : Pc) (w : Wait) :
    Placed (ps.map f) l pc w ↔ ∃ p ∈ ps, inLanes p.lanes l = true ∧ (f p).pc = pc ∧ (f p).wait = w := by
  simp only [Placed, List.mem_map]
  constructor
  · rintro ⟨_, ⟨p, hp, rfl⟩, h1, h2, h3⟩
    rw [hl] at h1
    exact ⟨p, hp, h1, h2, h3⟩
  · rintro ⟨p, hp, h1, h2, h3⟩
    refine ⟨_, ⟨p, hp, rfl⟩, ?_, h2, h3⟩
    rw [hl]; exact h1

/-- The test of a join (R142). -/
theorem joinStep_tested (cyc : Nat) (w : Group) (k : Nat) : JoinTested w (joinStep cyc w k) k := by
  unfold joinStep
  simp only
  split
  · rename_i hc
    have hc' : waitsOn w k = true ∧ pending w (mget w.j k {}) = 0 := by simpa using hc
    refine ⟨rfl, fun hn => absurd hc' hn, fun _ => ⟨?_, rfl, ?_⟩⟩
    · intro n
      by_cases hn : n = k
      · subst hn; rw [if_pos rfl]; simp only [mget, mget?_mput_same]; rfl
      · rw [if_neg hn, mget_mput_ne _ _ _ _ _ hn]
    · intro l pc wt
      dsimp only
      rw [placed_regang, placed_map _ _ (by intro p; split <;> (try split) <;> rfl)]
      constructor
      · rintro ⟨p, hp, h1, h2, h3⟩
        split at h3
        · rename_i i hi
          by_cases hik : i.toNat = k
          · simp only [hi, hik, if_true] at h2 h3
            exact .inr ⟨h3.symm, i, hik, p, hp, h1, h2, hi⟩
          · simp only [hi, hik, if_false] at h2 h3
            refine .inl ⟨⟨p, hp, h1, h2, hi.trans h3⟩, ?_⟩
            rintro i' hi' rfl
            cases h3
            exact hik hi'
        · rename_i hne
          have h2' : p.pc = pc := by
            revert h2; split
            · rename_i i hi; exact absurd hi (hne i)
            · exact id
          refine .inl ⟨⟨p, hp, h1, h2', h3⟩, ?_⟩
          rintro i' _ rfl
          exact hne i' h3
      · rintro (⟨⟨p, hp, h1, h2, h3⟩, hn⟩ | ⟨rfl, i, hik, p, hp, h1, h2, h3⟩)
        · refine ⟨p, hp, h1, ?_⟩
          subst h2 h3
          split
          · rename_i i hi
            rw [if_neg (fun e => hn i e hi)]
            exact ⟨rfl, rfl⟩
          · exact ⟨rfl, rfl⟩
        · refine ⟨p, hp, h1, ?_⟩
          simp only [h3, hik, if_true]
          exact ⟨h2, trivial⟩
  · rename_i hc
    have hc' : ¬ (waitsOn w k = true ∧ pending w (mget w.j k {}) = 0) := by simpa using hc
    exact ⟨rfl, fun _ => ⟨rfl, rfl, rfl⟩, fun h => absurd h hc'⟩

/-- Flags are no part of a test. -/
theorem JoinTested.flags {w z : Group} {k : Nat} (h : JoinTested w z k) (f : SMap Nat) : JoinTested w { z with f := f } k := by
  obtain ⟨h1, h2, h3⟩ := h
  exact ⟨by rw [h1], h2, h3⟩

/-- A test of every join keeps the rest of the group, ends no lane, and moves none that runs. -/
theorem joinAll_kept (cyc : Nat) (g : Group) :
    joinAll cyc g = { g with paths := (joinAll cyc g).paths, j := (joinAll cyc g).j, stall := (joinAll cyc g).stall } ∧
    (∀ l pc, Placed g.paths l pc .run → Placed (joinAll cyc g).paths l pc .run) ∧
    (∀ l, (∃ pc w, Placed (joinAll cyc g).paths l pc w) → ∃ pc w, Placed g.paths l pc w) := by
  unfold joinAll
  generalize List.range 8 = ks
  induction ks generalizing g with
  | nil => exact ⟨rfl, fun _ _ h => h, fun _ h => h⟩
  | cons k r ih =>
    rw [List.foldl_cons]
    obtain ⟨h1, h2, h3⟩ := ih (joinStep cyc g k)
    obtain ⟨t1, t2, t3⟩ := joinStep_tested cyc g k
    have hf : joinStep cyc g k
        = { g with paths := (joinStep cyc g k).paths, j := (joinStep cyc g k).j, stall := (joinStep cyc g k).stall } := by
      unfold joinStep; simp only; split <;> rfl
    have ht : (∀ l pc, Placed g.paths l pc .run → Placed (joinStep cyc g k).paths l pc .run) ∧
        (∀ l, (∃ pc w, Placed (joinStep cyc g k).paths l pc w) → ∃ pc w, Placed g.paths l pc w) := by
      by_cases hc : waitsOn g k = true ∧ pending g (mget g.j k {}) = 0
      · obtain ⟨_, _, hp⟩ := t3 hc
        refine ⟨fun l pc h => (hp l pc .run).mpr (.inl ⟨h, fun _ _ => by simp⟩), ?_⟩
        rintro l ⟨pc, w, h⟩
        rcases (hp l pc w).mp h with ⟨h, _⟩ | ⟨_, i, _, h⟩
        · exact ⟨pc, w, h⟩
        · exact ⟨pc, _, h⟩
      · rw [(t2 hc).1]
        exact ⟨fun _ _ h => h, fun _ h => h⟩
    refine ⟨?_, fun l pc h => h2 l pc (ht.1 l pc h), fun l h => ht.2 l (h3 l h)⟩
    clear ih t1 t2 t3 ht h2 h3
    generalize joinStep cyc g k = b at *
    generalize List.foldl (joinStep cyc) b r = d at *
    rw [h1, hf]

/-- The lanes that have parked at a UIRET. -/
theorem inLanes_uiret (ps : List Path) (l : Nat) : inLanes (uiParked ps) l = true ↔ ∃ pc, Placed ps l pc .uiret := by
  have key : ∀ (ps : List Path) (acc : LaneMask),
      inLanes (ps.foldl (fun acc p => if p.wait == .uiret then acc ||| p.lanes else acc) acc) l = true ↔
        inLanes acc l = true ∨ ∃ pc, Placed ps l pc .uiret := by
    intro ps
    induction ps with
    | nil => intro acc; simp [Placed]
    | cons p r ih =>
      intro acc
      rw [List.foldl_cons, ih]
      simp only [placed_cons, beq_iff_eq]
      by_cases hw : p.wait = .uiret
      · rw [if_pos hw]
        simp only [hw, inLanes_or, Bool.or_eq_true]
        constructor
        · rintro ((h | h) | ⟨pc, h⟩)
          · exact .inl h
          · exact .inr ⟨p.pc, .inl ⟨h, rfl, trivial⟩⟩
          · exact .inr ⟨pc, .inr h⟩
        · rintro (h | ⟨pc, ⟨h, _, _⟩ | h⟩)
          · exact .inl (.inl h)
          · exact .inl (.inr h)
          · exact .inr ⟨pc, h⟩
      · rw [if_neg hw]
        simp [hw]
  unfold uiParked
  rw [key, inLanes_zero]
  simp

theorem mask_zero_iff (m : LaneMask) : m = 0 ↔ ∀ l, inLanes m l = false := by
  constructor
  · rintro rfl l; exact inLanes_zero l
  · intro h
    apply BitVec.eq_of_getLsbD_eq
    intro i _
    rw [show m.getLsbD i = false from h i]
    exact (inLanes_zero i).symm

/-- The end of a handler (R295). -/
theorem uiCheck_done (x : Group) (ha : x.uiAct = true)
    (h : ∀ l, inLanes x.uiSet l = true → (∃ pc w, Placed x.paths l pc w) → ∃ pc, Placed x.paths l pc .uiret) :
    uiCheck x = { x with paths := (uiCheck x).paths, uiAct := false, uiSet := 0 } ∧
      ∀ l pc w, Placed (uiCheck x).paths l pc w ↔
        (Placed x.paths l pc w ∧ w ≠ .uiret) ∨ (pc = x.uiPc ∧ w = x.uiWait ∧ ∃ pc', Placed x.paths l pc' .uiret) := by
  unfold uiCheck
  simp only [ha, Bool.not_true, Bool.false_eq_true, if_false]
  rw [if_neg]
  · refine ⟨rfl, ?_⟩
    intro l pc w
    dsimp only
    rw [placed_regang, placed_map _ _ (by intro p; split <;> rfl)]
    constructor
    · rintro ⟨p, hp, h1, h2, h3⟩
      by_cases hw : p.wait = .uiret
      · simp only [hw] at h2 h3
        exact .inr ⟨h2.symm, h3.symm, p.pc, p, hp, h1, rfl, hw⟩
      · split at h2
        · rename_i h; exact absurd h hw
        · split at h3
          · rename_i h; exact absurd h hw
          · exact .inl ⟨⟨p, hp, h1, h2, h3⟩, by rintro rfl; exact hw h3⟩
    · rintro (⟨⟨p, hp, h1, h2, h3⟩, hn⟩ | ⟨rfl, rfl, pc', p, hp, h1, h2, h3⟩)
      · refine ⟨p, hp, h1, ?_⟩
        split
        · rename_i h; exact absurd (h3.symm.trans h) hn
        · exact ⟨h2, h3⟩
      · refine ⟨p, hp, h1, ?_⟩
        simp only [h3]
        simp
  · simp only [bne_iff_ne, ne_eq, Decidable.not_not]
    rw [mask_zero_iff]
    intro l
    rw [inLanes_without, inLanes_and]
    by_cases h1 : inLanes x.uiSet l = true
    · by_cases h2 : inLanes (aliveLanes x) l = true
      · have := (inLanes_uiret x.paths l).mpr (h l h1 ((inLanes_alive x l).mp h2))
        simp [this]
      · simp [h2]
    · simp [h1]

/-- A handler under way (R295). -/
theorem uiCheck_waits (x : Group) (h : x.uiAct = false ∨ ∃ l, inLanes x.uiSet l = true ∧ (∃ pc w, Placed x.paths l pc w) ∧
    ∀ pc, ¬ Placed x.paths l pc .uiret) : uiCheck x = x := by
  unfold uiCheck
  rcases h with h | ⟨l, h1, h2, h3⟩
  · simp [h]
  · by_cases ha : x.uiAct = true
    · simp only [ha, Bool.not_true, Bool.false_eq_true, if_false]
      rw [if_pos]
      simp only [bne_iff_ne, ne_eq]
      rw [mask_zero_iff]
      intro hz
      have := hz l
      rw [inLanes_without, inLanes_and, h1, (inLanes_alive x l).mpr h2] at this
      have hn : inLanes (uiParked x.paths) l = false := by
        rw [← Bool.not_eq_true, inLanes_uiret]
        rintro ⟨pc, h⟩
        exact h3 pc h
      rw [hn] at this
      simp at this
    · simp [ha]

/-- The test of a handler ends no lane, and moves none that runs. -/
theorem uiCheck_kept (x : Group) :
    uiCheck x = { x with paths := (uiCheck x).paths, uiAct := (uiCheck x).uiAct, uiSet := (uiCheck x).uiSet } ∧
    (∀ l pc, Placed x.paths l pc .run → Placed (uiCheck x).paths l pc .run) ∧
    (∀ l, (∃ pc w, Placed (uiCheck x).paths l pc w) → ∃ pc w, Placed x.paths l pc w) := by
  by_cases ha : x.uiAct = true
  · by_cases h : ∀ l, inLanes x.uiSet l = true → (∃ pc w, Placed x.paths l pc w) → ∃ pc, Placed x.paths l pc .uiret
    · obtain ⟨h1, h2⟩ := uiCheck_done x ha h
      refine ⟨?_, fun l pc hp => (h2 l pc .run).mpr (.inl ⟨hp, by simp⟩), ?_⟩
      · rw [h1]
      · rintro l ⟨pc, w, hp⟩
        rcases (h2 l pc w).mp hp with ⟨hp, _⟩ | ⟨_, _, pc', hp⟩
        · exact ⟨pc, w, hp⟩
        · exact ⟨pc', _, hp⟩
    · have hw : uiCheck x = x := by
        apply uiCheck_waits
        right
        simp only [Classical.not_forall, not_exists] at h
        obtain ⟨l, h1, h2, h3⟩ := h
        exact ⟨l, h1, h2, h3⟩
      rw [hw]
      exact ⟨rfl, fun _ _ h => h, fun _ h => h⟩
  · have hw : uiCheck x = x := uiCheck_waits x (.inl (by simpa using ha))
    rw [hw]
    exact ⟨rfl, fun _ _ h => h, fun _ h => h⟩

end Sys2Proof.Machine
end

