-- ==== Sys2Proof/Laws/Fetch.lean ====
section
/-! SUPPORT. Fetching and translating do not read what a core keeps: a change of `cores` changes no word fetched (R167, R169). -/

namespace Sys2Proof.Machine

open Host

theorem homeBytes_cores (s : State) (cs : SMap Core) (kid : Nat) (n k : Nat) :
    homeBytes { s with cores := cs } kid k n = homeBytes s kid k n := by
  induction n generalizing k with
  | zero => rfl
  | succ n ih => simp only [homeBytes, ih]; rfl

theorem descField_cores (s : State) (cs : SMap Core) (ctx off n : Nat) :
    descField { s with cores := cs } ctx off n = descField s ctx off n := by
  unfold descField physRead
  simp only [homeBytes_cores]
  rfl

theorem ctxResident_cores (s : State) (cs : SMap Core) (ctx : Nat) :
    ctxResident { s with cores := cs } ctx = ctxResident s ctx := by
  simp only [ctxResident, descField_cores]

theorem walkFrom_cores (s : State) (cs : SMap Core) (va : Nat) (n t : Nat) :
    walkFrom { s with cores := cs } va n t = walkFrom s va n t := by
  induction n generalizing t with
  | zero => rfl
  | succ n ih => simp only [walkFrom, ih, physRead, homeBytes_cores]; rfl

theorem walk_cores (s : State) (cs : SMap Core) (ctx va : Nat) : walk { s with cores := cs } ctx va = walk s ctx va := by
  simp only [walk, ctxResident_cores, descField_cores, walkFrom_cores]

/-- The translation found is the same, and what it installs is installed beside the change. -/
theorem translate_cores (s : State) (cs : SMap Core) (core ctx : Nat) (va : DWord) :
    translate { s with cores := cs } core ctx va
      = ((translate s core ctx va).1, { (translate s core ctx va).2 with cores := cs }) := by
  unfold translate
  have e1 : clusAt { s with cores := cs } = clusAt s := rfl
  have e2 : flaskAt { s with cores := cs } = flaskAt s := rfl
  simp only [e1, e2, walk_cores]
  cases tlbHit (clusAt s (coreDomain core)).tlb ctx (va.toNat % 2 ^ 56) with
  | some l => rfl
  | none =>
    cases tlbHit (flaskAt s (coreFlask core)).tlb2 ctx (va.toNat % 2 ^ 56) with
    | some l => rfl
    | none => cases walk s ctx (va.toNat % 2 ^ 56) <;> rfl

theorem look_cores (s : State) (cs : SMap Core) (core ctx : Nat) (priv : Bool) (a : Acc) (va : DWord) :
    (look { s with cores := cs } core ctx priv a va).1 = (look s core ctx priv a va).1 := by
  unfold look
  split
  · rfl
  · simp only [translate_cores]
    cases (translate s core ctx va).1 <;> rfl

theorem grpPriv_cores (s : State) (cs : SMap Core) (x : Group) : grpPriv { s with cores := cs } x = grpPriv s x := by
  simp only [grpPriv, ctxPriv, ctxResident_cores, descField_cores]

theorem entryLines_cores (s : State) (cs : SMap Core) (va n t : Nat) :
    entryLines { s with cores := cs } va n t = entryLines s va n t := by
  induction n generalizing t with
  | zero => rfl
  | succ n ih => simp only [entryLines, ih, physRead, homeBytes_cores]; rfl

theorem walkHeld_cores (s : State) (cs : SMap Core) (core ctx : Nat) (va : DWord) :
    walkHeld { s with cores := cs } core ctx va = walkHeld s core ctx va := by
  have e1 : keptHome { s with cores := cs } = keptHome s := rfl
  have e2 : clusAt { s with cores := cs } = clusAt s := rfl
  have e3 : flaskAt { s with cores := cs } = flaskAt s := rfl
  simp only [walkHeld, walkKept, e1, e2, e3, ctxResident_cores, descField_cores, entryLines_cores]

theorem fetchWord_cores (s : State) (cs : SMap Core) (core ctx : Nat) (priv : Bool) (pc : Pc) :
    fetchWord { s with cores := cs } core ctx priv pc = fetchWord s core ctx priv pc := by
  have e1 : codeVa { s with cores := cs } ctx pc = codeVa s ctx pc := rfl
  unfold fetchWord
  have e2 : locked { s with cores := cs } = locked s := rfl
  simp only [e1, e2, look_cores, homeBytes_cores, walkHeld_cores]

/-- A slot fetches the same words whatever the cores keep. -/
theorem fetchFor_cores (s : State) (cs : SMap Core) (g : Nat) (x : Group) (pc : Pc) :
    fetchFor { s with cores := cs } g x pc = fetchFor s g x pc := by
  unfold fetchFor
  have e : keptHome { s with cores := cs } = keptHome s := rfl
  simp only [fetchWord_cores, grpPriv_cores, e]

end Sys2Proof.Machine
end

