-- ==== Sys2Proof/Laws/Forms.lean ====
section
/-! SUPPORT. The shared operations of the computing instructions are of the forms in which claims are stated. -/

namespace Sys2Proof.Machine

open Host

theorem orFl_zero {α : Type} (xs : List α) : orFl (xs.map fun _ => (0 : Fl)) = 0 := by
  unfold orFl
  induction xs with
  | nil => rfl
  | cons a r ih =>
    rw [List.map_cons, List.foldl_cons]
    exact ih

/-- An operation whose lanes raise flags is of its form. -/
theorem fixedOp_eq (i : Info) (d : Reg) (wide : Bool) (lat : Nat) (f : Env → Nat → Nat × Fl) (s : State) :
    fixedOp i d wide lat f s = (fForm i d wide lat f).exec s := rfl

/-- An integer operation is of its form. -/
theorem intOp_eq (i : Info) (d : Reg) (wide : Bool) (lat : Nat) (f : Env → Nat → Nat) (s : State) :
    intOp i d wide lat f s = (dForm i d wide lat f).exec s := by
  have h : ∀ e : Env, orFl ((e.calc d).map fun _ => (0 : Fl)) = 0 := fun e => orFl_zero _
  show gate i s (fun e _ post =>
    fixTail (writeD post e d wide lat fun l => f e l) e i.h lat (orFl ((e.calc d).map fun _ => (0 : Fl)))) = _
  simp only [h]
  rfl

/-- Lanes that raise no flag. -/
theorem fForm_plain (i : Info) (d : Reg) (wide : Bool) (lat : Nat) (f : Env → Nat → Nat) (s : State) :
    (fForm i d wide lat fun e l => (f e l, 0)).exec s = (dForm i d wide lat f).exec s := by
  have h : ∀ e : Env, orFl ((e.calc d).map fun _ => (0 : Fl)) = 0 := fun e => orFl_zero _
  show gate i s (fun e _ post =>
    fixTail (writeD post e d wide lat fun l => f e l) e i.h lat (orFl ((e.calc d).map fun _ => (0 : Fl)))) = _
  simp only [h]
  rfl

/-- A predicate operation is of its form. -/
theorem predOp_eq (i : Info) (pd : BitVec 3) (lat : Nat) (f : Env → Nat → Bool × Fl) (s : State) :
    predOp i pd lat f s = (pForm i pd lat f).exec s := rfl

/-- A variable-latency operation is of its form. -/
theorem varOp_eq (i : Info) (d : Reg) (wide : Bool) (f : Env → Nat → Nat × Fl) (s : State) :
    varOp i d wide f s = (vForm i d wide f).exec s := by
  cases d <;> rfl

/-- RDSYS is of its form. -/
theorem rdsys_eq (h : Hdr) (d : Reg) (wide : Bool) (num axis : BitVec 10) (s : State) :
    execRdsys h d wide num axis s
      = (vForm (infoOf h d (wide && Reg.isV d) none none []) d wide fun e l =>
          ((specialReg s e.g e.grp num.toNat axis.toNat l).toNat, 0)).exec s := by
  have z : ∀ e : Env, orFl ((e.calc d).map fun _ => (0 : Fl)) = 0 := fun e => orFl_zero _
  cases d with
  | v n => simp only [VarForm.exec, vForm, z]; rfl
  | s n => simp only [VarForm.exec, vForm, z, BitVec.ofNat_toNat, BitVec.setWidth_eq]; rfl

end Sys2Proof.Machine
end

