-- ==== Sys2Proof/Laws/Memory.lean ====
section
/-! SUPPORT. Memory: every operation keeps the canonical form, and a read after a write. -/

namespace Sys2Proof.Machine

theorem memWfFrom_cons (lo a : Nat) (b : Byte) (r : List Host.Cell) :
    memWfFrom lo ((a, b) :: r) = true ↔ lo ≤ a ∧ b ≠ blankByte ∧ memWfFrom (a + 1) r = true := by
  simp [memWfFrom, and_assoc]

theorem memWfFrom_mono {lo lo' : Nat} (h : lo' ≤ lo) : ∀ m, memWfFrom lo m = true → memWfFrom lo' m = true
  | [], _ => rfl
  | (a, b) :: r, hm => by
    rw [memWfFrom_cons] at hm ⊢
    exact ⟨by omega, hm.2⟩

/-- Below the first address that a list may hold, every byte is blank. -/
theorem memByte_below {lo : Nat} : ∀ (m : List Host.Cell) (k : Nat), memWfFrom lo m = true → k < lo → memByte m k = blankByte
  | [], _, _, _ => rfl
  | (a, b) :: r, k, hm, hk => by
    rw [memWfFrom_cons] at hm
    simp only [memByte]
    rw [if_neg (by omega), if_pos (by omega)]

/-- A byte put keeps the form. -/
theorem memPut_wfFrom (k : Nat) (x : Byte) :
    ∀ (m : List Host.Cell) (lo : Nat), lo ≤ k → memWfFrom lo m = true → memWfFrom lo (memPut m k x) = true
  | [], lo, hk, _ => by
    simp only [memPut]
    split
    · rfl
    · rw [memWfFrom_cons]; exact ⟨hk, ‹_›, rfl⟩
  | (a, y) :: r, lo, hk, hm => by
    have hm' := (memWfFrom_cons lo a y r).mp hm
    simp only [memPut]
    split
    · subst a
      split
      · exact memWfFrom_mono (by omega) r hm'.2.2
      · rw [memWfFrom_cons]; exact ⟨hk, ‹_›, hm'.2.2⟩
    · split
      · split
        · exact hm
        · rw [memWfFrom_cons, memWfFrom_cons]; exact ⟨hk, ‹_›, by omega, hm'.2.1, hm'.2.2⟩
      · rw [memWfFrom_cons]
        exact ⟨hm'.1, hm'.2.1, memPut_wfFrom k x r (a + 1) (by omega) hm'.2.2⟩

/-- A byte put keeps the canonical form. -/
theorem memPut_wf (m : List Host.Cell) (k : Nat) (x : Byte) (h : Memory.wf m = true) : Memory.wf (memPut m k x) = true :=
  memPut_wfFrom k x m 0 (Nat.zero_le k) h

/-- Bytes written keep the canonical form. -/
theorem memWrite_wf (m : List Host.Cell) (h : Memory.wf m = true) :
    ∀ (bs : List Byte) (a : Nat), Memory.wf (memWrite m a bs) = true
  | [], _ => h
  | b :: r, a => memPut_wf _ a b (memWrite_wf m h r (a + 1))

/-- Bytes put one by one keep the canonical form. -/
theorem memPuts_wf (ws : List (Nat × Byte)) :
    ∀ m : List Host.Cell, Memory.wf m = true → Memory.wf (ws.foldl (fun m w => memPut m w.1 w.2) m) = true := by
  induction ws with
  | nil => intro m h; exact h
  | cons w r ih => intro m h; exact ih _ (memPut_wf m w.1 w.2 h)

theorem memByte_memPut_from (k : Nat) (x : Byte) (k' : Nat) :
    ∀ (m : List Host.Cell) (lo : Nat), memWfFrom lo m = true → memByte (memPut m k x) k' = if k' = k then x else memByte m k'
  | [], _, _ => by
    simp only [memPut, memByte]
    by_cases hx : x = blankByte
    · simp [hx, memByte]
    · rw [if_neg hx]
      simp only [memByte]
      by_cases h : k' = k
      · simp [h]
      · rw [if_neg (Ne.symm h), if_neg h]; split <;> rfl
  | (a, y) :: r, lo, hm => by
    have hm' := (memWfFrom_cons lo a y r).mp hm
    have ih := memByte_memPut_from k x k' r (a + 1) hm'.2.2
    simp only [memPut]
    by_cases hak : a = k
    · subst hak
      rw [if_pos rfl]
      by_cases hx : x = blankByte
      · rw [if_pos hx]
        by_cases h : k' = a
        · subst h
          rw [if_pos rfl, memByte_below r k' hm'.2.2 (by omega), hx]
        · rw [if_neg h]
          simp only [memByte]
          rw [if_neg (Ne.symm h)]
          split
          · exact memByte_below r k' hm'.2.2 (by omega)
          · rfl
      · rw [if_neg hx]
        simp only [memByte]
        by_cases h : k' = a
        · subst h; simp
        · rw [if_neg (Ne.symm h), if_neg h, if_neg (Ne.symm h)]
    · rw [if_neg hak]
      by_cases hlt : k < a
      · rw [if_pos hlt]
        by_cases hx : x = blankByte
        · rw [if_pos hx]
          by_cases h : k' = k
          · subst h
            rw [if_pos rfl, hx]
            simp only [memByte]
            rw [if_neg hak, if_pos hlt]
          · rw [if_neg h]
        · rw [if_neg hx]
          by_cases h : k' = k
          · subst h; simp [memByte]
          · rw [if_neg h]
            simp only [memByte]
            rw [if_neg (Ne.symm h)]
            by_cases h2 : k' < k
            · rw [if_pos h2, if_neg (by omega : ¬ a = k'), if_pos (by omega : k' < a)]
            · rw [if_neg h2]
      · rw [if_neg hlt]
        simp only [memByte]
        by_cases h1 : a = k'
        · rw [if_pos h1, if_pos h1, if_neg (by omega)]
        · rw [if_neg h1, if_neg h1]
          by_cases h2 : k' < a
          · rw [if_pos h2, if_pos h2, if_neg (by omega)]
          · rw [if_neg h2, if_neg h2]; exact ih

/-- A read of one byte after a byte put. -/
theorem memByte_memPut (m : List Host.Cell) (k k' : Nat) (x : Byte) (h : Memory.wf m = true) :
    memByte (memPut m k x) k' = if k' = k then x else memByte m k' :=
  memByte_memPut_from k x k' m 0 h

/-- A read of one byte after a run of bytes written. -/
theorem memByte_memWrite (m : List Host.Cell) (h : Memory.wf m = true) (k : Nat) :
    ∀ (bs : List Byte) (a : Nat),
      memByte (memWrite m a bs) k = if a ≤ k ∧ k < a + bs.length then bs.getD (k - a) blankByte else memByte m k
  | [], a => by
    rw [if_neg (by simp)]; rfl
  | b :: r, a => by
    simp only [memWrite]
    rw [memByte_memPut _ _ _ _ (memWrite_wf m h r (a + 1)), memByte_memWrite m h k r (a + 1)]
    by_cases h1 : k = a
    · subst h1; simp
    · rw [if_neg h1]
      by_cases h2 : a + 1 ≤ k ∧ k < a + 1 + r.length
      · rw [if_pos h2, if_pos (by simp only [List.length_cons]; omega)]
        have : k - a = (k - (a + 1)) + 1 := by omega
        rw [this, List.getD_cons_succ]
      · rw [if_neg h2, if_neg (by simp only [List.length_cons]; omega)]

/-- In canonical form, memories that read the same are the same data. -/
theorem mem_ext_from :
    ∀ (m n : List Host.Cell) (lo : Nat), memWfFrom lo m = true → memWfFrom lo n = true →
      (∀ k, memByte m k = memByte n k) → m = n
  | [], [], _, _, _, _ => rfl
  | [], (a, b) :: r, lo, _, hn, h => by
    have := (memWfFrom_cons lo a b r).mp hn
    have := h a
    simp [memByte] at this
    simp_all
  | (a, b) :: r, [], lo, hm, _, h => by
    have := (memWfFrom_cons lo a b r).mp hm
    have := h a
    simp [memByte] at this
    simp_all
  | (a, b) :: r, (a', b') :: r', lo, hm, hn, h => by
    have hm' := (memWfFrom_cons lo a b r).mp hm
    have hn' := (memWfFrom_cons lo a' b' r').mp hn
    have ha : a = a' := by
      have h1 := h a
      have h2 := h a'
      simp only [memByte, if_pos] at h1 h2
      by_cases e : a = a'
      · exact e
      · rw [if_neg (Ne.symm e)] at h1
        rw [if_neg e] at h2
        by_cases l : a < a'
        · rw [if_pos l] at h1; exact absurd h1 hm'.2.1
        · rw [if_pos (by omega : a' < a)] at h2; exact absurd h2.symm hn'.2.1
    subst ha
    have hb : b = b' := by simpa [memByte] using h a
    subst hb
    have hr : r = r' := by
      apply mem_ext_from r r' (a + 1) hm'.2.2 hn'.2.2
      intro k
      by_cases l : k < a + 1
      · rw [memByte_below r k hm'.2.2 l, memByte_below r' k hn'.2.2 l]
      · have := h k
        simp only [memByte] at this
        rw [if_neg (by omega), if_neg (by omega), if_neg (by omega), if_neg (by omega)] at this
        exact this
    rw [hr]

theorem mem_ext (m n : List Host.Cell) (hm : Memory.wf m = true) (hn : Memory.wf n = true)
    (h : ∀ k, memByte m k = memByte n k) : m = n :=
  mem_ext_from m n 0 hm hn h

/-- Memory at reset is in canonical form. -/
theorem reset_mem_wf : Memory.wf State.reset.mem = true := rfl

end Sys2Proof.Machine
end

