-- ==== Sys2Proof/Laws/PerInstr.lean ====
section
/-! SUPPORT. Facts about every instruction, one lemma per constructor. -/

namespace Sys2Proof.Laws.AssignedWord

/-- Not one of the two stops that a word without an instruction is. -/
def plain : Instr → Bool
  | .illegalOpcode _ | .liveExec _ => false
  | _ => true

/-- The word of a well-formed instruction has an assigned opcode and a legal header exactly when the instruction is no stop:
the decoder never takes it for an unassigned opcode or a LIVE word (R266, R275). -/
def Statement (i : Instr) : Prop :=
  i.wf = true → ∀ f, encodeFields i = some f →
    assignedOp f.op.toNat = plain i ∧ (plain i = true → f.hdr.ok = true)

theorem hdr_eMk (op : BitVec 10) (h : Hdr) (d a b : BitVec 2 × BitVec 10) (c : BitVec 10) (m : BitVec 12) :
    (eMk op h d a b c m).hdr = h := by
  cases h with
  | mk g fe sp di w st => cases sp <;> simp [eMk, Fields.hdr]

theorem hdr_eWide (op : BitVec 10) (h : Hdr) (d : BitVec 10) (x : BitVec 32) : (eWide op h d x).hdr = h := by
  cases h with
  | mk g fe sp di w st => cases sp <;> simp [eWide, Fields.hdr]

theorem hdr_eMem (op : BitVec 10) (h : Hdr) (d : BitVec 2 × BitVec 10) (r : MemRef) (m : BitVec 12) :
    (eMem op h d r m).hdr = h := hdr_eMk ..

theorem hdr_eABT (op : BitVec 10) (h : Hdr) (m : BitVec 12) (d : Reg) (a b : Src) (c : BitVec 10) :
    (eABT op h m d a b c).hdr = h := hdr_eMk ..

theorem hdr_eAT (op : BitVec 10) (h : Hdr) (m : BitVec 12) (d : Reg) (a : Src) :
    (eAT op h m d a).hdr = h := hdr_eMk ..

theorem opOf_ofWord (w : IWord) : (Fields.ofWord w).op.toNat = opOf w := rfl

/-- What a lemma of this family needs: the fields the encoder gives, their opcode and their header. -/
theorem of {i : Instr} {f : Fields} (h : Hdr) (op : BitVec 10) (he : encodeFields i = some f) (ho : f.op = op)
    (ha : assignedOp op.toNat = true)
    (hp : plain i = true) (hh : f.hdr = h) (hok : i.wf = true → h.ok = true) : Statement i := by
  intro hw g hg
  rw [he] at hg
  cases hg
  exact ⟨(ho ▸ ha).trans hp.symm, fun _ => hh ▸ hok hw⟩

/-- A LIVE opcode is not assigned. -/
theorem assignedOp_live {n : Nat} (h : 1020 ≤ n) : assignedOp n = false := by
  unfold assignedOp
  have : 15 ≤ n / 64 := by omega
  split <;> first | omega | rfl

/-- An event has no word. -/
theorem event {i : Instr} (h : encodeFields i = none) : Statement i := by
  intro _ f hf
  rw [h] at hf
  cases hf

theorem nop : ∀ x0, Statement (.nop x0) :=
  fun h => of h 0x000 rfl rfl (by decide) rfl (hdr_eMk ..) (by
    intro hw; unfold Instr.wf at hw; simp_all)
theorem bra : ∀ x0 x1, Statement (.bra x0 x1) :=
  fun h _ => of h 0x001 rfl rfl (by decide) rfl (hdr_eWide ..) (by
    intro hw; unfold Instr.wf at hw; simp_all)
theorem brx : ∀ x0 x1, Statement (.brx x0 x1) :=
  fun h _ => of h 0x002 rfl rfl (by decide) rfl (hdr_eMk ..) (by
    intro hw; unfold Instr.wf at hw; simp_all)
theorem call : ∀ x0 x1, Statement (.call x0 x1) :=
  fun h _ => of h 0x003 rfl rfl (by decide) rfl (hdr_eWide ..) (by
    intro hw; unfold Instr.wf at hw; simp_all)
theorem ret : ∀ x0 x1, Statement (.ret x0 x1) :=
  fun h _ => of h 0x004 rfl rfl (by decide) rfl (hdr_eMk ..) (by
    intro hw; unfold Instr.wf at hw; simp_all)
theorem exit : ∀ x0, Statement (.exit x0) :=
  fun h => of h 0x005 rfl rfl (by decide) rfl (hdr_eMk ..) (by
    intro hw; unfold Instr.wf at hw; simp_all)
theorem rjset : ∀ x0 x1, Statement (.rjset x0 x1) :=
  fun h _ => of h 0x006 rfl rfl (by decide) rfl (hdr_eMk ..) (by
    intro hw; unfold Instr.wf at hw; simp_all)
theorem rjoin : ∀ x0 x1, Statement (.rjoin x0 x1) :=
  fun h _ => of h 0x007 rfl rfl (by decide) rfl (hdr_eMk ..) (by
    intro hw; unfold Instr.wf at hw; simp_all)
theorem rjclr : ∀ x0 x1, Statement (.rjclr x0 x1) :=
  fun h _ => of h 0x008 rfl rfl (by decide) rfl (hdr_eMk ..) (by
    intro hw; unfold Instr.wf at hw; simp_all)
theorem yield : ∀ x0 x1, Statement (.yield x0 x1) :=
  fun h _ => of h 0x009 rfl rfl (by decide) rfl (hdr_eMk ..) (by
    intro hw; unfold Instr.wf at hw; simp_all)
theorem waitf : ∀ x0, Statement (.waitf x0) :=
  fun h => of h 0x00A rfl rfl (by decide) rfl (hdr_eMk ..) (by
    intro hw; unfold Instr.wf at hw; simp_all)
theorem trap : ∀ x0 x1, Statement (.trap x0 x1) :=
  fun h _ => of h 0x00B rfl rfl (by decide) rfl (hdr_eMk ..) (by
    intro hw; unfold Instr.wf at hw; simp_all)
theorem bkpt : ∀ x0, Statement (.bkpt x0) :=
  fun h => of h 0x00C rfl rfl (by decide) rfl (hdr_eMk ..) (by
    intro hw; unfold Instr.wf at hw; simp_all)
theorem uivec : ∀ x0 x1, Statement (.uivec x0 x1) :=
  fun h _ => of h 0x00D rfl rfl (by decide) rfl (hdr_eMk ..) (by
    intro hw; unfold Instr.wf at hw; simp_all)
theorem uiret : ∀ x0, Statement (.uiret x0) :=
  fun h => of h 0x00E rfl rfl (by decide) rfl (hdr_eMk ..) (by
    intro hw; unfold Instr.wf at hw; simp_all)
theorem iadd : ∀ x0 x1 x2 x3 x4 x5, Statement (.iadd x0 x1 x2 x3 x4 x5) :=
  fun h _ _ _ _ _ => of h 0x040 rfl rfl (by decide) rfl (hdr_eABT ..) (by
    intro hw; unfold Instr.wf at hw; simp_all)
theorem isub : ∀ x0 x1 x2 x3 x4 x5, Statement (.isub x0 x1 x2 x3 x4 x5) :=
  fun h _ _ _ _ _ => of h 0x041 rfl rfl (by decide) rfl (hdr_eABT ..) (by
    intro hw; unfold Instr.wf at hw; simp_all)
theorem iaddc : ∀ x0 x1 x2 x3 x4 x5, Statement (.iaddc x0 x1 x2 x3 x4 x5) :=
  fun h _ _ _ _ _ => of h 0x042 rfl rfl (by decide) rfl (hdr_eABT ..) (by
    intro hw; unfold Instr.wf at hw; simp_all)
theorem isubb : ∀ x0 x1 x2 x3 x4 x5, Statement (.isubb x0 x1 x2 x3 x4 x5) :=
  fun h _ _ _ _ _ => of h 0x043 rfl rfl (by decide) rfl (hdr_eABT ..) (by
    intro hw; unfold Instr.wf at hw; simp_all)
theorem imul : ∀ x0 x1 x2 x3 x4 x5, Statement (.imul x0 x1 x2 x3 x4 x5) :=
  fun h _ _ _ _ _ => of h 0x044 rfl rfl (by decide) rfl (hdr_eABT ..) (by
    intro hw; unfold Instr.wf at hw; simp_all)
theorem imulh : ∀ x0 x1 x2 x3 x4, Statement (.imulh x0 x1 x2 x3 x4) :=
  fun h _ _ _ _ => of h 0x045 rfl rfl (by decide) rfl (hdr_eABT ..) (by
    intro hw; unfold Instr.wf at hw; simp_all)
theorem imad : ∀ x0 x1 x2 x3 x4 x5 x6, Statement (.imad x0 x1 x2 x3 x4 x5 x6) :=
  fun h _ _ _ _ _ _ => of h 0x046 rfl rfl (by decide) rfl (hdr_eABT ..) (by
    intro hw; unfold Instr.wf at hw; simp_all)
theorem idiv : ∀ x0 x1 x2 x3 x4, Statement (.idiv x0 x1 x2 x3 x4) :=
  fun h _ _ _ _ => of h 0x047 rfl rfl (by decide) rfl (hdr_eABT ..) (by
    intro hw; unfold Instr.wf at hw; simp_all)
theorem irem : ∀ x0 x1 x2 x3 x4, Statement (.irem x0 x1 x2 x3 x4) :=
  fun h _ _ _ _ => of h 0x048 rfl rfl (by decide) rfl (hdr_eABT ..) (by
    intro hw; unfold Instr.wf at hw; simp_all)
theorem imin : ∀ x0 x1 x2 x3 x4, Statement (.imin x0 x1 x2 x3 x4) :=
  fun h _ _ _ _ => of h 0x049 rfl rfl (by decide) rfl (hdr_eABT ..) (by
    intro hw; unfold Instr.wf at hw; simp_all)
theorem imax : ∀ x0 x1 x2 x3 x4, Statement (.imax x0 x1 x2 x3 x4) :=
  fun h _ _ _ _ => of h 0x04A rfl rfl (by decide) rfl (hdr_eABT ..) (by
    intro hw; unfold Instr.wf at hw; simp_all)
theorem iabs : ∀ x0 x1 x2 x3 x4, Statement (.iabs x0 x1 x2 x3 x4) :=
  fun h _ _ _ _ => of h 0x04B rfl rfl (by decide) rfl (hdr_eAT ..) (by
    intro hw; unfold Instr.wf at hw; simp_all)
theorem ineg : ∀ x0 x1 x2 x3 x4, Statement (.ineg x0 x1 x2 x3 x4) :=
  fun h _ _ _ _ => of h 0x04C rfl rfl (by decide) rfl (hdr_eAT ..) (by
    intro hw; unfold Instr.wf at hw; simp_all)
theorem idp4 : ∀ x0 x1 x2 x3 x4 x5 x6, Statement (.idp4 x0 x1 x2 x3 x4 x5 x6) :=
  fun h _ _ _ _ _ _ => of h 0x04D rfl rfl (by decide) rfl (hdr_eABT ..) (by
    intro hw; unfold Instr.wf at hw; simp_all)
theorem idp2 : ∀ x0 x1 x2 x3 x4 x5 x6, Statement (.idp2 x0 x1 x2 x3 x4 x5 x6) :=
  fun h _ _ _ _ _ _ => of h 0x04E rfl rfl (by decide) rfl (hdr_eABT ..) (by
    intro hw; unfold Instr.wf at hw; simp_all)
theorem iadd3 : ∀ x0 x1 x2 x3 x4 x5 x6, Statement (.iadd3 x0 x1 x2 x3 x4 x5 x6) :=
  fun h _ _ _ _ _ _ => of h 0x04F rfl rfl (by decide) rfl (hdr_eABT ..) (by
    intro hw; unfold Instr.wf at hw; simp_all)
theorem and : ∀ x0 x1 x2 x3 x4, Statement (.and x0 x1 x2 x3 x4) :=
  fun h _ _ _ _ => of h 0x080 rfl rfl (by decide) rfl (hdr_eABT ..) (by
    intro hw; unfold Instr.wf at hw; simp_all)
theorem or : ∀ x0 x1 x2 x3 x4, Statement (.or x0 x1 x2 x3 x4) :=
  fun h _ _ _ _ => of h 0x081 rfl rfl (by decide) rfl (hdr_eABT ..) (by
    intro hw; unfold Instr.wf at hw; simp_all)
theorem xor : ∀ x0 x1 x2 x3 x4, Statement (.xor x0 x1 x2 x3 x4) :=
  fun h _ _ _ _ => of h 0x082 rfl rfl (by decide) rfl (hdr_eABT ..) (by
    intro hw; unfold Instr.wf at hw; simp_all)
theorem andn : ∀ x0 x1 x2 x3 x4, Statement (.andn x0 x1 x2 x3 x4) :=
  fun h _ _ _ _ => of h 0x083 rfl rfl (by decide) rfl (hdr_eABT ..) (by
    intro hw; unfold Instr.wf at hw; simp_all)
theorem not : ∀ x0 x1 x2 x3, Statement (.not x0 x1 x2 x3) :=
  fun h _ _ _ => of h 0x084 rfl rfl (by decide) rfl (hdr_eAT ..) (by
    intro hw; unfold Instr.wf at hw; simp_all)
theorem bmix3 : ∀ x0 x1 x2 x3 x4 x5 x6, Statement (.bmix3 x0 x1 x2 x3 x4 x5 x6) :=
  fun h _ _ _ _ _ _ => of h 0x085 rfl rfl (by decide) rfl (hdr_eABT ..) (by
    intro hw; unfold Instr.wf at hw; simp_all)
theorem shl : ∀ x0 x1 x2 x3 x4, Statement (.shl x0 x1 x2 x3 x4) :=
  fun h _ _ _ _ => of h 0x086 rfl rfl (by decide) rfl (hdr_eABT ..) (by
    intro hw; unfold Instr.wf at hw; simp_all)
theorem shr : ∀ x0 x1 x2 x3 x4, Statement (.shr x0 x1 x2 x3 x4) :=
  fun h _ _ _ _ => of h 0x087 rfl rfl (by decide) rfl (hdr_eABT ..) (by
    intro hw; unfold Instr.wf at hw; simp_all)
theorem sar : ∀ x0 x1 x2 x3 x4, Statement (.sar x0 x1 x2 x3 x4) :=
  fun h _ _ _ _ => of h 0x088 rfl rfl (by decide) rfl (hdr_eABT ..) (by
    intro hw; unfold Instr.wf at hw; simp_all)
theorem rotl : ∀ x0 x1 x2 x3 x4, Statement (.rotl x0 x1 x2 x3 x4) :=
  fun h _ _ _ _ => of h 0x089 rfl rfl (by decide) rfl (hdr_eABT ..) (by
    intro hw; unfold Instr.wf at hw; simp_all)
theorem rotr : ∀ x0 x1 x2 x3 x4, Statement (.rotr x0 x1 x2 x3 x4) :=
  fun h _ _ _ _ => of h 0x08A rfl rfl (by decide) rfl (hdr_eABT ..) (by
    intro hw; unfold Instr.wf at hw; simp_all)
theorem dshr : ∀ x0 x1 x2 x3 x4 x5, Statement (.dshr x0 x1 x2 x3 x4 x5) :=
  fun h _ _ _ _ _ => of h 0x08B rfl rfl (by decide) rfl (hdr_eABT ..) (by
    intro hw; unfold Instr.wf at hw; simp_all)
theorem ones : ∀ x0 x1 x2 x3, Statement (.ones x0 x1 x2 x3) :=
  fun h _ _ _ => of h 0x08C rfl rfl (by decide) rfl (hdr_eAT ..) (by
    intro hw; unfold Instr.wf at hw; simp_all)
theorem clz : ∀ x0 x1 x2 x3, Statement (.clz x0 x1 x2 x3) :=
  fun h _ _ _ => of h 0x08D rfl rfl (by decide) rfl (hdr_eAT ..) (by
    intro hw; unfold Instr.wf at hw; simp_all)
theorem ctz : ∀ x0 x1 x2 x3, Statement (.ctz x0 x1 x2 x3) :=
  fun h _ _ _ => of h 0x08E rfl rfl (by decide) rfl (hdr_eAT ..) (by
    intro hw; unfold Instr.wf at hw; simp_all)
theorem brev : ∀ x0 x1 x2 x3, Statement (.brev x0 x1 x2 x3) :=
  fun h _ _ _ => of h 0x08F rfl rfl (by decide) rfl (hdr_eAT ..) (by
    intro hw; unfold Instr.wf at hw; simp_all)
theorem fxtr : ∀ x0 x1 x2 x3 x4, Statement (.fxtr x0 x1 x2 x3 x4) :=
  fun h _ _ _ _ => of h 0x090 rfl rfl (by decide) rfl (hdr_eABT ..) (by
    intro hw; unfold Instr.wf at hw; simp_all)
theorem fins : ∀ x0 x1 x2 x3 x4 x5, Statement (.fins x0 x1 x2 x3 x4 x5) :=
  fun h _ _ _ _ _ => of h 0x091 rfl rfl (by decide) rfl (hdr_eABT ..) (by
    intro hw; unfold Instr.wf at hw; simp_all)
theorem clmul : ∀ x0 x1 x2 x3 x4, Statement (.clmul x0 x1 x2 x3 x4) :=
  fun h _ _ _ _ => of h 0x092 rfl rfl (by decide) rfl (hdr_eABT ..) (by
    intro hw; unfold Instr.wf at hw; simp_all)
theorem clmulh : ∀ x0 x1 x2 x3 x4, Statement (.clmulh x0 x1 x2 x3 x4) :=
  fun h _ _ _ _ => of h 0x093 rfl rfl (by decide) rfl (hdr_eABT ..) (by
    intro hw; unfold Instr.wf at hw; simp_all)
theorem bsel : ∀ x0 x1 x2 x3 x4, Statement (.bsel x0 x1 x2 x3 x4) :=
  fun h _ _ _ _ => of h 0x094 rfl rfl (by decide) rfl (hdr_eABT ..) (by
    intro hw; unfold Instr.wf at hw; simp_all)
theorem fadd : ∀ x0 x1 x2 x3 x4, Statement (.fadd x0 x1 x2 x3 x4) :=
  fun h _ _ _ _ => of h 0x0C0 rfl rfl (by decide) rfl (hdr_eABT ..) (by
    intro hw; unfold Instr.wf at hw; simp_all)
theorem fsub : ∀ x0 x1 x2 x3 x4, Statement (.fsub x0 x1 x2 x3 x4) :=
  fun h _ _ _ _ => of h 0x0C1 rfl rfl (by decide) rfl (hdr_eABT ..) (by
    intro hw; unfold Instr.wf at hw; simp_all)
theorem fmul : ∀ x0 x1 x2 x3 x4, Statement (.fmul x0 x1 x2 x3 x4) :=
  fun h _ _ _ _ => of h 0x0C2 rfl rfl (by decide) rfl (hdr_eABT ..) (by
    intro hw; unfold Instr.wf at hw; simp_all)
theorem ffma : ∀ x0 x1 x2 x3 x4 x5, Statement (.ffma x0 x1 x2 x3 x4 x5) :=
  fun h _ _ _ _ _ => of h 0x0C3 rfl rfl (by decide) rfl (hdr_eABT ..) (by
    intro hw; unfold Instr.wf at hw; simp_all)
theorem fmin : ∀ x0 x1 x2 x3, Statement (.fmin x0 x1 x2 x3) :=
  fun h _ _ _ => of h 0x0C4 rfl rfl (by decide) rfl (hdr_eABT ..) (by
    intro hw; unfold Instr.wf at hw; simp_all)
theorem fmax : ∀ x0 x1 x2 x3, Statement (.fmax x0 x1 x2 x3) :=
  fun h _ _ _ => of h 0x0C5 rfl rfl (by decide) rfl (hdr_eABT ..) (by
    intro hw; unfold Instr.wf at hw; simp_all)
theorem frnd : ∀ x0 x1 x2 x3, Statement (.frnd x0 x1 x2 x3) :=
  fun h _ _ _ => of h 0x0C6 rfl rfl (by decide) rfl (hdr_eAT ..) (by
    intro hw; unfold Instr.wf at hw; simp_all)
theorem fscale : ∀ x0 x1 x2 x3 x4, Statement (.fscale x0 x1 x2 x3 x4) :=
  fun h _ _ _ _ => of h 0x0C7 rfl rfl (by decide) rfl (hdr_eABT ..) (by
    intro hw; unfold Instr.wf at hw; simp_all)
theorem fclass : ∀ x0 x1 x2, Statement (.fclass x0 x1 x2) :=
  fun h _ _ => of h 0x0C8 rfl rfl (by decide) rfl (hdr_eAT ..) (by
    intro hw; unfold Instr.wf at hw; simp_all)
theorem fabs : ∀ x0 x1 x2, Statement (.fabs x0 x1 x2) :=
  fun h _ _ => of h 0x0C9 rfl rfl (by decide) rfl (hdr_eAT ..) (by
    intro hw; unfold Instr.wf at hw; simp_all)
theorem fneg : ∀ x0 x1 x2, Statement (.fneg x0 x1 x2) :=
  fun h _ _ => of h 0x0CA rfl rfl (by decide) rfl (hdr_eAT ..) (by
    intro hw; unfold Instr.wf at hw; simp_all)
theorem fcpys : ∀ x0 x1 x2 x3, Statement (.fcpys x0 x1 x2 x3) :=
  fun h _ _ _ => of h 0x0CB rfl rfl (by decide) rfl (hdr_eABT ..) (by
    intro hw; unfold Instr.wf at hw; simp_all)
theorem hadd2 : ∀ x0 x1 x2 x3 x4 x5, Statement (.hadd2 x0 x1 x2 x3 x4 x5) :=
  fun h _ _ _ _ _ => of h 0x100 rfl rfl (by decide) rfl (hdr_eABT ..) (by
    intro hw; unfold Instr.wf at hw; simp_all)
theorem hmul2 : ∀ x0 x1 x2 x3 x4 x5, Statement (.hmul2 x0 x1 x2 x3 x4 x5) :=
  fun h _ _ _ _ _ => of h 0x101 rfl rfl (by decide) rfl (hdr_eABT ..) (by
    intro hw; unfold Instr.wf at hw; simp_all)
theorem hfma2 : ∀ x0 x1 x2 x3 x4 x5 x6, Statement (.hfma2 x0 x1 x2 x3 x4 x5 x6) :=
  fun h _ _ _ _ _ _ => of h 0x102 rfl rfl (by decide) rfl (hdr_eABT ..) (by
    intro hw; unfold Instr.wf at hw; simp_all)
theorem hmin2 : ∀ x0 x1 x2 x3 x4, Statement (.hmin2 x0 x1 x2 x3 x4) :=
  fun h _ _ _ _ => of h 0x103 rfl rfl (by decide) rfl (hdr_eABT ..) (by
    intro hw; unfold Instr.wf at hw; simp_all)
theorem hmax2 : ∀ x0 x1 x2 x3 x4, Statement (.hmax2 x0 x1 x2 x3 x4) :=
  fun h _ _ _ _ => of h 0x104 rfl rfl (by decide) rfl (hdr_eABT ..) (by
    intro hw; unfold Instr.wf at hw; simp_all)
theorem cvt : ∀ x0 x1 x2 x3 x4 x5 x6, Statement (.cvt x0 x1 x2 x3 x4 x5 x6) :=
  fun h _ _ _ _ _ _ => of h 0x105 rfl rfl (by decide) rfl (hdr_eMk ..) (by
    intro hw; unfold Instr.wf at hw; simp_all)
theorem cvtpk : ∀ x0 x1 x2 x3 x4 x5 x6 x7, Statement (.cvtpk x0 x1 x2 x3 x4 x5 x6 x7) :=
  fun h _ _ _ _ _ _ _ => of h 0x106 rfl rfl (by decide) rfl (hdr_eABT ..) (by
    intro hw; unfold Instr.wf at hw; simp_all)
theorem qblk : ∀ x0 x1 x2 x3 x4, Statement (.qblk x0 x1 x2 x3 x4) :=
  fun h _ _ _ _ => of h 0x107 rfl rfl (by decide) rfl (hdr_eMk ..) (by
    intro hw; unfold Instr.wf at hw; simp_all)
theorem dqblk : ∀ x0 x1 x2, Statement (.dqblk x0 x1 x2) :=
  fun h _ _ => of h 0x108 rfl rfl (by decide) rfl (hdr_eMk ..) (by
    intro hw; unfold Instr.wf at hw; simp_all)
theorem mov : ∀ x0 x1 x2 x3, Statement (.mov x0 x1 x2 x3) :=
  fun h _ _ _ => of h 0x140 rfl rfl (by decide) rfl (hdr_eAT ..) (by
    intro hw; unfold Instr.wf at hw; simp_all)
theorem movi : ∀ x0 x1 x2, Statement (.movi x0 x1 x2) :=
  fun h _ _ => of h 0x141 rfl rfl (by decide) rfl (hdr_eWide ..) (by
    intro hw; unfold Instr.wf at hw; simp_all)
theorem movh : ∀ x0 x1 x2 x3 x4, Statement (.movh x0 x1 x2 x3 x4) :=
  fun h _ _ _ _ => of h 0x142 rfl rfl (by decide) rfl (hdr_eABT ..) (by
    intro hw; unfold Instr.wf at hw; simp_all)
theorem sel : ∀ x0 x1 x2 x3 x4 x5, Statement (.sel x0 x1 x2 x3 x4 x5) :=
  fun h _ _ _ _ _ => of h 0x143 rfl rfl (by decide) rfl (hdr_eABT ..) (by
    intro hw; unfold Instr.wf at hw; simp_all)
theorem icmp : ∀ x0 x1 x2 x3 x4 x5, Statement (.icmp x0 x1 x2 x3 x4 x5) :=
  fun h _ _ _ _ _ => of h 0x144 rfl rfl (by decide) rfl (hdr_eMk ..) (by
    intro hw; unfold Instr.wf at hw; simp_all)
theorem fcmp : ∀ x0 x1 x2 x3 x4, Statement (.fcmp x0 x1 x2 x3 x4) :=
  fun h _ _ _ _ => of h 0x145 rfl rfl (by decide) rfl (hdr_eMk ..) (by
    intro hw; unfold Instr.wf at hw; simp_all)
theorem plog : ∀ x0 x1 x2 x3 x4, Statement (.plog x0 x1 x2 x3 x4) :=
  fun h _ _ _ _ => of h 0x146 rfl rfl (by decide) rfl (hdr_eMk ..) (by
    intro hw; unfold Instr.wf at hw; simp_all)
theorem pxfr (h : Hdr) (x : PxArgs) : Statement (.pxfr h x) := by
  cases x <;> exact of h 0x147 rfl rfl (by decide) rfl (hdr_eMk ..) (by
    intro hw; unfold Instr.wf at hw; simp_all)

theorem poll : ∀ h x1 x2 x3, Statement (.poll h x1 x2 x3) := by
  intro h x1 x2 x3
  cases x2 <;> exact of h 0x148 rfl rfl (by decide) rfl (hdr_eMk ..) (by
    intro hw; unfold Instr.wf at hw; simp_all)
theorem peers : ∀ h x1 x2 x3, Statement (.peers h x1 x2 x3) := by
  intro h x1 x2 x3
  cases x2 <;> exact of h 0x149 rfl rfl (by decide) rfl (hdr_eMk ..) (by
    intro hw; unfold Instr.wf at hw; simp_all)
theorem rdsys : ∀ x0 x1 x2 x3 x4, Statement (.rdsys x0 x1 x2 x3 x4) :=
  fun h _ _ _ _ => of h 0x14A rfl rfl (by decide) rfl (hdr_eMk ..) (by
    intro hw; unfold Instr.wf at hw; simp_all)
theorem wrsys : ∀ x0 x1 x2, Statement (.wrsys x0 x1 x2) :=
  fun h _ _ => of h 0x14B rfl rfl (by decide) rfl (hdr_eMk ..) (by
    intro hw; unfold Instr.wf at hw; simp_all)
theorem frcp : ∀ x0 x1 x2 x3, Statement (.frcp x0 x1 x2 x3) :=
  fun h _ _ _ => of h 0x180 rfl rfl (by decide) rfl (hdr_eAT ..) (by
    intro hw; unfold Instr.wf at hw; simp_all [specialOk])
theorem frsq : ∀ x0 x1 x2, Statement (.frsq x0 x1 x2) :=
  fun h _ _ => of h 0x181 rfl rfl (by decide) rfl (hdr_eAT ..) (by
    intro hw; unfold Instr.wf at hw; simp_all [specialOk])
theorem fsqrt : ∀ x0 x1 x2 x3, Statement (.fsqrt x0 x1 x2 x3) :=
  fun h _ _ _ => of h 0x182 rfl rfl (by decide) rfl (hdr_eAT ..) (by
    intro hw; unfold Instr.wf at hw; simp_all [specialOk])
theorem fexp2 : ∀ x0 x1 x2, Statement (.fexp2 x0 x1 x2) :=
  fun h _ _ => of h 0x183 rfl rfl (by decide) rfl (hdr_eAT ..) (by
    intro hw; unfold Instr.wf at hw; simp_all [specialOk])
theorem flog2 : ∀ x0 x1 x2, Statement (.flog2 x0 x1 x2) :=
  fun h _ _ => of h 0x184 rfl rfl (by decide) rfl (hdr_eAT ..) (by
    intro hw; unfold Instr.wf at hw; simp_all [specialOk])
theorem fsin : ∀ x0 x1 x2, Statement (.fsin x0 x1 x2) :=
  fun h _ _ => of h 0x185 rfl rfl (by decide) rfl (hdr_eAT ..) (by
    intro hw; unfold Instr.wf at hw; simp_all [specialOk])
theorem fcos : ∀ x0 x1 x2, Statement (.fcos x0 x1 x2) :=
  fun h _ _ => of h 0x186 rfl rfl (by decide) rfl (hdr_eAT ..) (by
    intro hw; unfold Instr.wf at hw; simp_all [specialOk])
theorem ftanh : ∀ x0 x1 x2, Statement (.ftanh x0 x1 x2) :=
  fun h _ _ => of h 0x187 rfl rfl (by decide) rfl (hdr_eAT ..) (by
    intro hw; unfold Instr.wf at hw; simp_all [specialOk])
theorem lxch : ∀ x0 x1 x2 x3 x4 x5, Statement (.lxch x0 x1 x2 x3 x4 x5) :=
  fun h _ _ _ _ _ => of h 0x188 rfl rfl (by decide) rfl (hdr_eMk ..) (by
    intro hw; unfold Instr.wf at hw; simp_all)
theorem redux : ∀ x0 x1 x2 x3 x4 x5, Statement (.redux x0 x1 x2 x3 x4 x5) :=
  fun h _ _ _ _ _ => of h 0x189 rfl rfl (by decide) rfl (hdr_eAT ..) (by
    intro hw; unfold Instr.wf at hw; simp_all)
theorem scan : ∀ x0 x1 x2 x3 x4 x5, Statement (.scan x0 x1 x2 x3 x4 x5) :=
  fun h _ _ _ _ _ => of h 0x18A rfl rfl (by decide) rfl (hdr_eMk ..) (by
    intro hw; unfold Instr.wf at hw; simp_all)
theorem ld : ∀ x0 x1 x2 x3 x4 x5 x6, Statement (.ld x0 x1 x2 x3 x4 x5 x6) :=
  fun h _ _ _ _ _ _ => of h 0x1C0 rfl rfl (by decide) rfl (hdr_eMem ..) (by
    intro hw; unfold Instr.wf at hw; simp_all)
theorem st : ∀ x0 x1 x2 x3 x4 x5 x6, Statement (.st x0 x1 x2 x3 x4 x5 x6) :=
  fun h _ _ _ _ _ _ => of h 0x1C1 rfl rfl (by decide) rfl (hdr_eMem ..) (by
    intro hw; unfold Instr.wf at hw; simp_all)
theorem lds : ∀ x0 x1 x2 x3 x4 x5 x6 x7, Statement (.lds x0 x1 x2 x3 x4 x5 x6 x7) :=
  fun h _ _ _ _ _ _ _ => of h 0x1C2 rfl rfl (by decide) rfl (hdr_eMem ..) (by
    intro hw; unfold Instr.wf at hw; simp_all)
theorem sts : ∀ x0 x1 x2 x3 x4 x5 x6 x7, Statement (.sts x0 x1 x2 x3 x4 x5 x6 x7) :=
  fun h _ _ _ _ _ _ _ => of h 0x1C3 rfl rfl (by decide) rfl (hdr_eMem ..) (by
    intro hw; unfold Instr.wf at hw; simp_all)
theorem atom : ∀ x0 x1 x2 x3 x4 x5 x6 x7 x8 x9, Statement (.atom x0 x1 x2 x3 x4 x5 x6 x7 x8 x9) :=
  fun h _ _ _ _ _ _ _ _ _ => of h 0x1C4 rfl rfl (by decide) rfl (hdr_eMem ..) (by
    intro hw; unfold Instr.wf at hw; simp_all)
theorem atoms : ∀ x0 x1 x2 x3 x4 x5 x6 x7, Statement (.atoms x0 x1 x2 x3 x4 x5 x6 x7) :=
  fun h _ _ _ _ _ _ _ => of h 0x1C5 rfl rfl (by decide) rfl (hdr_eMem ..) (by
    intro hw; unfold Instr.wf at hw; simp_all)
theorem red : ∀ x0 x1 x2 x3 x4 x5 x6, Statement (.red x0 x1 x2 x3 x4 x5 x6) :=
  fun h _ _ _ _ _ _ => of h 0x1C6 rfl rfl (by decide) rfl (hdr_eMem ..) (by
    intro hw; unfold Instr.wf at hw; simp_all)
theorem ldsc : ∀ x0 x1 x2 x3 x4 x5 x6 x7 x8, Statement (.ldsc x0 x1 x2 x3 x4 x5 x6 x7 x8) :=
  fun h _ _ _ _ _ _ _ _ => of h 0x1C7 rfl rfl (by decide) rfl (hdr_eMem ..) (by
    intro hw; unfold Instr.wf at hw; simp_all)
theorem preq : ∀ x0 x1 x2 x3 x4, Statement (.preq x0 x1 x2 x3 x4) :=
  fun h _ _ _ _ => of h 0x1C8 rfl rfl (by decide) rfl (hdr_eMem ..) (by
    intro hw; unfold Instr.wf at hw; simp_all)
theorem pref : ∀ x0 x1 x2 x3 x4, Statement (.pref x0 x1 x2 x3 x4) :=
  fun h _ _ _ _ => of h 0x1C9 rfl rfl (by decide) rfl (hdr_eMem ..) (by
    intro hw; unfold Instr.wf at hw; simp_all)
theorem cctl : ∀ x0 x1 x2 x3 x4 x5, Statement (.cctl x0 x1 x2 x3 x4 x5) :=
  fun h _ _ _ _ _ => of h 0x1CA rfl rfl (by decide) rfl (hdr_eMem ..) (by
    intro hw; unfold Instr.wf at hw; simp_all)
theorem sink : ∀ x0 x1, Statement (.sink x0 x1) :=
  fun h _ => of h 0x200 rfl rfl (by decide) rfl (hdr_eMk ..) (by
    intro hw; unfold Instr.wf at hw; simp_all)
theorem srec : ∀ x0 x1, Statement (.srec x0 x1) :=
  fun h _ => of h 0x201 rfl rfl (by decide) rfl (hdr_eMk ..) (by
    intro hw; unfold Instr.wf at hw; simp_all)
theorem fence : ∀ x0 x1 x2, Statement (.fence x0 x1 x2) :=
  fun h _ _ => of h 0x202 rfl rfl (by decide) rfl (hdr_eMk ..) (by
    intro hw; unfold Instr.wf at hw; simp_all)
theorem cjoin : ∀ x0 x1 x2 x3, Statement (.cjoin x0 x1 x2 x3) :=
  fun h _ _ _ => of h 0x203 rfl rfl (by decide) rfl (hdr_eMk ..) (by
    intro hw; unfold Instr.wf at hw; simp_all)
theorem cleave : ∀ x0 x1, Statement (.cleave x0 x1) :=
  fun h _ => of h 0x204 rfl rfl (by decide) rfl (hdr_eMk ..) (by
    intro hw; unfold Instr.wf at hw; simp_all)
theorem cld : ∀ x0 x1 x2 x3 x4, Statement (.cld x0 x1 x2 x3 x4) :=
  fun h _ _ _ _ => of h 0x205 rfl rfl (by decide) rfl (hdr_eMk ..) (by
    intro hw; unfold Instr.wf at hw; simp_all)
theorem cstat : ∀ x0 x1 x2, Statement (.cstat x0 x1 x2) :=
  fun h _ _ => of h 0x206 rfl rfl (by decide) rfl (hdr_eMk ..) (by
    intro hw; unfold Instr.wf at hw; simp_all)
theorem cpy : ∀ x0 x1 x2 x3, Statement (.cpy x0 x1 x2 x3) :=
  fun h _ _ _ => of h 0x240 rfl rfl (by decide) rfl (hdr_eMk ..) (by
    intro hw; unfold Instr.wf at hw; simp_all)
theorem cpyfill : ∀ x0 x1 x2 x3, Statement (.cpyfill x0 x1 x2 x3) :=
  fun h _ _ _ => of h 0x241 rfl rfl (by decide) rfl (hdr_eMk ..) (by
    intro hw; unfold Instr.wf at hw; simp_all)
theorem cbinit : ∀ x0 x1 x2 x3 x4, Statement (.cbinit x0 x1 x2 x3 x4) :=
  fun h _ _ _ _ => of h 0x242 rfl rfl (by decide) rfl (hdr_eMk ..) (by
    intro hw; unfold Instr.wf at hw; simp_all)
theorem cbacq : ∀ x0 x1 x2, Statement (.cbacq x0 x1 x2) :=
  fun h _ _ => of h 0x243 rfl rfl (by decide) rfl (hdr_eMk ..) (by
    intro hw; unfold Instr.wf at hw; simp_all)
theorem cbrel : ∀ x0 x1 x2, Statement (.cbrel x0 x1 x2) :=
  fun h _ _ => of h 0x244 rfl rfl (by decide) rfl (hdr_eMk ..) (by
    intro hw; unfold Instr.wf at hw; simp_all)
theorem blws : ∀ x0 x1 x2 x3, Statement (.blws x0 x1 x2 x3) :=
  fun h _ _ _ => of h 0x245 rfl rfl (by decide) rfl (hdr_eMk ..) (by
    intro hw; unfold Instr.wf at hw; simp_all)
theorem blwstop : ∀ x0 x1, Statement (.blwstop x0 x1) :=
  fun h _ => of h 0x246 rfl rfl (by decide) rfl (hdr_eMk ..) (by
    intro hw; unfold Instr.wf at hw; simp_all)
theorem qcfg : ∀ x0 x1 x2 x3, Statement (.qcfg x0 x1 x2 x3) :=
  fun h _ _ _ => of h 0x247 rfl rfl (by decide) rfl (hdr_eMk ..) (by
    intro hw; unfold Instr.wf at hw; simp_all)
theorem nmcpy : ∀ x0 x1 x2 x3 x4, Statement (.nmcpy x0 x1 x2 x3 x4) :=
  fun h _ _ _ _ => of h 0x248 rfl rfl (by decide) rfl (hdr_eMk ..) (by
    intro hw; unfold Instr.wf at hw; simp_all)
theorem nmzero : ∀ x0 x1 x2 x3, Statement (.nmzero x0 x1 x2 x3) :=
  fun h _ _ _ => of h 0x249 rfl rfl (by decide) rfl (hdr_eMk ..) (by
    intro hw; unfold Instr.wf at hw; simp_all)
theorem obres : ∀ x0 x1 x2, Statement (.obres x0 x1 x2) :=
  fun h _ _ => of h 0x280 rfl rfl (by decide) rfl (hdr_eMk ..) (by
    intro hw; unfold Instr.wf at hw; simp_all)
theorem obrel : ∀ x0 x1, Statement (.obrel x0 x1) :=
  fun h _ => of h 0x281 rfl rfl (by decide) rfl (hdr_eMk ..) (by
    intro hw; unfold Instr.wf at hw; simp_all)
theorem scpy : ∀ x0 x1 x2 x3, Statement (.scpy x0 x1 x2 x3) :=
  fun h _ _ _ => of h 0x282 rfl rfl (by decide) rfl (hdr_eMk ..) (by
    intro hw; unfold Instr.wf at hw; simp_all)
theorem ptld : ∀ x0 x1 x2 x3, Statement (.ptld x0 x1 x2 x3) :=
  fun h _ _ _ => of h 0x283 rfl rfl (by decide) rfl (hdr_eMk ..) (by
    intro hw; unfold Instr.wf at hw; simp_all)
theorem mma : ∀ x0 x1 x2 x3 x4, Statement (.mma x0 x1 x2 x3 x4) :=
  fun h _ _ _ _ => of h 0x284 rfl rfl (by decide) rfl (hdr_eMk ..) (by
    intro hw; unfold Instr.wf at hw; simp_all)
theorem accz : ∀ x0 x1 x2, Statement (.accz x0 x1 x2) :=
  fun h _ _ => of h 0x285 rfl rfl (by decide) rfl (hdr_eMk ..) (by
    intro hw; unfold Instr.wf at hw; simp_all)
theorem accld : ∀ x0 x1 x2 x3 x4, Statement (.accld x0 x1 x2 x3 x4) :=
  fun h _ _ _ _ => of h 0x286 rfl rfl (by decide) rfl (hdr_eMk ..) (by
    intro hw; unfold Instr.wf at hw; simp_all)
theorem accst : ∀ x0 x1 x2 x3 x4 x5, Statement (.accst x0 x1 x2 x3 x4 x5) :=
  fun h _ _ _ _ _ => of h 0x287 rfl rfl (by decide) rfl (hdr_eMk ..) (by
    intro hw; unfold Instr.wf at hw; simp_all)
theorem batonTake : ∀ x0, Statement (.batonTake x0) :=
  fun h => of h 0x288 rfl rfl (by decide) rfl (hdr_eMk ..) (by
    intro hw; unfold Instr.wf at hw; simp_all)
theorem batonPass : ∀ x0, Statement (.batonPass x0) :=
  fun h => of h 0x288 rfl rfl (by decide) rfl (hdr_eMk ..) (by
    intro hw; unfold Instr.wf at hw; simp_all)
theorem batonQuery : ∀ x0 x1, Statement (.batonQuery x0 x1) :=
  fun h _ => of h 0x288 rfl rfl (by decide) rfl (hdr_eMk ..) (by
    intro hw; unfold Instr.wf at hw; simp_all)
theorem bar : ∀ x0 x1, Statement (.bar x0 x1) :=
  fun h _ => of h 0x2C0 rfl rfl (by decide) rfl (hdr_eMk ..) (by
    intro hw; unfold Instr.wf at hw; simp_all)
theorem phase : ∀ x0 x1, Statement (.phase x0 x1) :=
  fun h _ => of h 0x2C1 rfl rfl (by decide) rfl (hdr_eMk ..) (by
    intro hw; unfold Instr.wf at hw; simp_all)
theorem signal : ∀ x0 x1, Statement (.signal x0 x1) :=
  fun h _ => of h 0x2C2 rfl rfl (by decide) rfl (hdr_eMk ..) (by
    intro hw; unfold Instr.wf at hw; simp_all)
theorem spawnTask : ∀ x0 x1 x2, Statement (.spawnTask x0 x1 x2) :=
  fun h _ _ => of h 0x2C3 rfl rfl (by decide) rfl (hdr_eMk ..) (by
    intro hw; unfold Instr.wf at hw; simp_all)
theorem spawnGrid : ∀ x0 x1 x2, Statement (.spawnGrid x0 x1 x2) :=
  fun h _ _ => of h 0x2C3 rfl rfl (by decide) rfl (hdr_eMk ..) (by
    intro hw; unfold Instr.wf at hw; simp_all)
theorem spawnGraph : ∀ x0 x1 x2, Statement (.spawnGraph x0 x1 x2) :=
  fun h _ _ => of h 0x2C3 rfl rfl (by decide) rfl (hdr_eMk ..) (by
    intro hw; unfold Instr.wf at hw; simp_all)
theorem amsg : ∀ x0 x1 x2, Statement (.amsg x0 x1 x2) :=
  fun h _ _ => of h 0x2C4 rfl rfl (by decide) rfl (hdr_eMk ..) (by
    intro hw; unfold Instr.wf at hw; simp_all)
theorem tnow : ∀ x0 x1 x2, Statement (.tnow x0 x1 x2) :=
  fun h _ _ => of h 0x2C5 rfl rfl (by decide) rfl (hdr_eMk ..) (by
    intro hw; unfold Instr.wf at hw; simp_all)
theorem twait : ∀ x0 x1, Statement (.twait x0 x1) :=
  fun h _ => of h 0x2C6 rfl rfl (by decide) rfl (hdr_eMk ..) (by
    intro hw; unfold Instr.wf at hw; simp_all)
theorem gwnote : ∀ x0 x1, Statement (.gwnote x0 x1) :=
  fun h _ => of h 0x2C7 rfl rfl (by decide) rfl (hdr_eMk ..) (by
    intro hw; unfold Instr.wf at hw; simp_all)
theorem apxb : ∀ x0 x1 x2 x3 x4 x5 x6, Statement (.apxb x0 x1 x2 x3 x4 x5 x6) :=
  fun h _ _ _ _ _ _ => of h 0x300 rfl rfl (by decide) rfl (hdr_eMk ..) (by
    intro hw; unfold Instr.wf at hw; simp_all)
theorem apxe : ∀ x0, Statement (.apxe x0) :=
  fun h => of h 0x301 rfl rfl (by decide) rfl (hdr_eMk ..) (by
    intro hw; unfold Instr.wf at hw; simp_all)
theorem ftcfg : ∀ x0 x1 x2, Statement (.ftcfg x0 x1 x2) :=
  fun h _ _ => of h 0x302 rfl rfl (by decide) rfl (hdr_eMk ..) (by
    intro hw; unfold Instr.wf at hw; simp_all)
theorem ftinv : ∀ x0 x1, Statement (.ftinv x0 x1) :=
  fun h _ => of h 0x303 rfl rfl (by decide) rfl (hdr_eMk ..) (by
    intro hw; unfold Instr.wf at hw; simp_all)
theorem ftstat : ∀ x0 x1 x2, Statement (.ftstat x0 x1 x2) :=
  fun h _ _ => of h 0x304 rfl rfl (by decide) rfl (hdr_eMk ..) (by
    intro hw; unfold Instr.wf at hw; simp_all)
theorem sysrd : ∀ x0 x1 x2, Statement (.sysrd x0 x1 x2) :=
  fun h _ _ => of h 0x340 rfl rfl (by decide) rfl (hdr_eMk ..) (by
    intro hw; unfold Instr.wf at hw; simp_all)
theorem syswr : ∀ x0 x1 x2, Statement (.syswr x0 x1 x2) :=
  fun h _ _ => of h 0x341 rfl rfl (by decide) rfl (hdr_eMk ..) (by
    intro hw; unfold Instr.wf at hw; simp_all)
theorem slcfg : ∀ x0 x1, Statement (.slcfg x0 x1) :=
  fun h _ => of h 0x342 rfl rfl (by decide) rfl (hdr_eMk ..) (by
    intro hw; unfold Instr.wf at hw; simp_all)
theorem tlbinv : ∀ x0 x1 x2 x3, Statement (.tlbinv x0 x1 x2 x3) :=
  fun h _ _ _ => of h 0x343 rfl rfl (by decide) rfl (hdr_eMk ..) (by
    intro hw; unfold Instr.wf at hw; simp_all)
theorem cres : ∀ x0 x1, Statement (.cres x0 x1) :=
  fun h _ => of h 0x344 rfl rfl (by decide) rfl (hdr_eMk ..) (by
    intro hw; unfold Instr.wf at hw; simp_all)
theorem cresHold : ∀ x0 x1 x2, Statement (.cresHold x0 x1 x2) :=
  fun h _ _ => of h 0x344 rfl rfl (by decide) rfl (hdr_eMk ..) (by
    intro hw; unfold Instr.wf at hw; simp_all)
theorem crrel : ∀ x0, Statement (.crrel x0) :=
  fun h => of h 0x345 rfl rfl (by decide) rfl (hdr_eMk ..) (by
    intro hw; unfold Instr.wf at hw; simp_all)
theorem quiesce : ∀ x0 x1, Statement (.quiesce x0 x1) :=
  fun h _ => of h 0x346 rfl rfl (by decide) rfl (hdr_eMk ..) (by
    intro hw; unfold Instr.wf at hw; simp_all)
theorem quiesceResume : ∀ x0 x1, Statement (.quiesceResume x0 x1) :=
  fun h _ => of h 0x346 rfl rfl (by decide) rfl (hdr_eMk ..) (by
    intro hw; unfold Instr.wf at hw; simp_all)
theorem halt : ∀ x0 x1, Statement (.halt x0 x1) :=
  fun h _ => of h 0x347 rfl rfl (by decide) rfl (hdr_eMk ..) (by
    intro hw; unfold Instr.wf at hw; simp_all)
theorem haltRelease : ∀ x0 x1, Statement (.haltRelease x0 x1) :=
  fun h _ => of h 0x347 rfl rfl (by decide) rfl (hdr_eMk ..) (by
    intro hw; unfold Instr.wf at hw; simp_all)
theorem illegalOpcode (w : IWord) : Statement (.illegalOpcode w) := by
  intro hw f hf
  cases hf
  unfold Instr.wf at hw
  have ho := opOf_ofWord w
  simp_all [plain, isLive]
theorem liveExec (w : IWord) : Statement (.liveExec w) := by
  intro hw f hf
  cases hf
  unfold Instr.wf at hw
  have ho := opOf_ofWord w
  simp_all [plain, isLive, assignedOp_live]
theorem deferredTrap : ∀ x0, Statement (.deferredTrap x0) := fun _ => event rfl
theorem breakpoint : ∀ x0, Statement (.breakpoint x0) := fun _ => event rfl
theorem debugStep : ∀ x0, Statement (.debugStep x0) := fun _ => event rfl
theorem joinStall : ∀ x0 x1, Statement (.joinStall x0 x1) := fun _ _ => event rfl
theorem ageBoost : ∀ x0, Statement (.ageBoost x0) := fun _ => event rfl
theorem pathAgeBoost : ∀ x0 x1, Statement (.pathAgeBoost x0 x1) := fun _ _ => event rfl
theorem uiDeliver : ∀ x0, Statement (.uiDeliver x0) := fun _ => event rfl
theorem taskAdmit : ∀ x0 x1 x2 x3, Statement (.taskAdmit x0 x1 x2 x3) := fun _ _ _ _ => event rfl
theorem steal : ∀ x0 x1, Statement (.steal x0 x1) := fun _ _ => event rfl
theorem depsDecrement : ∀ x0, Statement (.depsDecrement x0) := fun _ => event rfl
theorem poisonedDecrement : ∀ x0, Statement (.poisonedDecrement x0) := fun _ => event rfl
theorem taskReleaseTime : ∀ x0 x1, Statement (.taskReleaseTime x0 x1) := fun _ _ => event rfl
theorem gangPlace : ∀ x0 x1, Statement (.gangPlace x0 x1) := fun _ _ => event rfl
theorem gangRelease : ∀ x0, Statement (.gangRelease x0) := fun _ => event rfl
theorem handlerSpawn : ∀ x0 x1, Statement (.handlerSpawn x0 x1) := fun _ _ => event rfl
theorem messageArrival : ∀ x0, Statement (.messageArrival x0) := fun _ => event rfl
theorem walkerTask : ∀ x0 x1 x2, Statement (.walkerTask x0 x1 x2) := fun _ _ _ => event rfl
theorem walkerTaskDone : ∀ x0 x1 x2, Statement (.walkerTaskDone x0 x1 x2) := fun _ _ _ => event rfl
theorem walkerCond : ∀ x0 x1 x2, Statement (.walkerCond x0 x1 x2) := fun _ _ _ => event rfl
theorem walkerWhile : ∀ x0 x1 x2, Statement (.walkerWhile x0 x1 x2) := fun _ _ _ => event rfl
theorem walkerJoin : ∀ x0 x1 x2, Statement (.walkerJoin x0 x1 x2) := fun _ _ _ => event rfl
theorem walkerEnd : ∀ x0 x1 x2, Statement (.walkerEnd x0 x1 x2) := fun _ _ _ => event rfl
theorem instanceEnd : ∀ x0 x1, Statement (.instanceEnd x0 x1) := fun _ _ => event rfl
theorem tierOut : ∀ x0, Statement (.tierOut x0) := fun _ => event rfl
theorem tierRecall : ∀ x0, Statement (.tierRecall x0) := fun _ => event rfl
theorem tierMoveDone : ∀ x0, Statement (.tierMoveDone x0) := fun _ => event rfl
theorem bellowsElement : ∀ x0 x1, Statement (.bellowsElement x0 x1) := fun _ _ => event rfl
theorem subBlockLand : ∀ x0, Statement (.subBlockLand x0) := fun _ => event rfl
theorem followAccess : ∀ x0, Statement (.followAccess x0) := fun _ => event rfl
theorem subBlockReturn : ∀ x0, Statement (.subBlockReturn x0) := fun _ => event rfl
theorem consortTimer : ∀ x0, Statement (.consortTimer x0) := fun _ => event rfl
theorem consortFillDone : ∀ x0 x1, Statement (.consortFillDone x0 x1) := fun _ _ => event rfl
theorem cpyStart : ∀ x0, Statement (.cpyStart x0) := fun _ => event rfl
theorem cpyComplete : ∀ x0, Statement (.cpyComplete x0) := fun _ => event rfl
theorem cbacqServe : ∀ x0 x1, Statement (.cbacqServe x0 x1) := fun _ _ => event rfl
theorem mmaStart : ∀ x0, Statement (.mmaStart x0) := fun _ => event rfl
theorem mmaComplete : ∀ x0, Statement (.mmaComplete x0) := fun _ => event rfl
theorem matrixOpComplete : ∀ x0, Statement (.matrixOpComplete x0) := fun _ => event rfl
theorem rowOpStart : ∀ x0 x1, Statement (.rowOpStart x0 x1) := fun _ _ => event rfl
theorem rowPair : ∀ x0 x1, Statement (.rowPair x0 x1) := fun _ _ => event rfl
theorem refreshDue : ∀ x0 x1 x2, Statement (.refreshDue x0 x1 x2) := fun _ _ _ => event rfl
theorem rowOpComplete : ∀ x0 x1, Statement (.rowOpComplete x0 x1) := fun _ _ => event rfl
theorem preqComplete : ∀ x0 x1 x2, Statement (.preqComplete x0 x1 x2) := fun _ _ _ => event rfl
theorem noticeWrite : ∀ x0, Statement (.noticeWrite x0) := fun _ => event rfl
theorem groupParked : ∀ x0, Statement (.groupParked x0) := fun _ => event rfl
theorem groupResume : ∀ x0 x1 x2, Statement (.groupResume x0 x1 x2) := fun _ _ _ => event rfl
theorem groupRedirect : ∀ x0 x1 x2, Statement (.groupRedirect x0 x1 x2) := fun _ _ _ => event rfl
theorem groupKill : ∀ x0, Statement (.groupKill x0) := fun _ => event rfl
theorem ctxctlPark : ∀ x0, Statement (.ctxctlPark x0) := fun _ => event rfl
theorem ctxctlResume : ∀ x0, Statement (.ctxctlResume x0) := fun _ => event rfl
theorem uncorrectableError : ∀ x0, Statement (.uncorrectableError x0) := fun _ => event rfl
theorem corrected : ∀ x0 x1 x2, Statement (.corrected x0 x1 x2) := fun _ _ _ => event rfl
theorem hostMessage : ∀ x0 x1 x2, Statement (.hostMessage x0 x1 x2) := fun _ _ _ => event rfl
theorem mgmtReadRegister : ∀ x0, Statement (.mgmtReadRegister x0) := fun _ => event rfl
theorem hostLinkReset : Statement .hostLinkReset := event rfl
theorem moduleReset : Statement .moduleReset := event rfl
theorem powerOn : ∀ x0, Statement (.powerOn x0) := fun _ => event rfl
theorem recoveryImage : ∀ x0, Statement (.recoveryImage x0) := fun _ => event rfl
theorem attestationQuote : ∀ x0, Statement (.attestationQuote x0) := fun _ => event rfl
theorem antiRollbackAdvance : ∀ x0, Statement (.antiRollbackAdvance x0) := fun _ => event rfl
theorem piControllerStep : ∀ x0 x1, Statement (.piControllerStep x0 x1) := fun _ _ => event rfl
theorem standingGrant : ∀ x0 x1, Statement (.standingGrant x0 x1) := fun _ _ => event rfl
theorem arbiterGrant : ∀ x0, Statement (.arbiterGrant x0) := fun _ => event rfl
theorem currentRamp : ∀ x0, Statement (.currentRamp x0) := fun _ => event rfl
theorem burstEnd : ∀ x0 x1, Statement (.burstEnd x0 x1) := fun _ _ => event rfl
theorem quotaWrite : ∀ x0 x1, Statement (.quotaWrite x0 x1) := fun _ _ => event rfl
theorem governorStep : ∀ x0 x1 x2 x3 x4, Statement (.governorStep x0 x1 x2 x3 x4) := fun _ _ _ _ _ => event rfl
theorem migrated : ∀ x0 x1, Statement (.migrated x0 x1) := fun _ _ => event rfl
theorem regionOverrun : ∀ x0, Statement (.regionOverrun x0) := fun _ => event rfl
theorem pointChangeSwitch : ∀ x0, Statement (.pointChangeSwitch x0) := fun _ => event rfl
theorem droopDetect : ∀ x0, Statement (.droopDetect x0) := fun _ => event rfl
theorem droopClear : ∀ x0, Statement (.droopClear x0) := fun _ => event rfl
theorem droneTimedStart : ∀ x0, Statement (.droneTimedStart x0) := fun _ => event rfl
theorem twaitRelease : ∀ x0, Statement (.twaitRelease x0) := fun _ => event rfl
theorem syncMessage : ∀ x0 x1, Statement (.syncMessage x0 x1) := fun _ _ => event rfl
theorem holdover : Statement .holdover := event rfl
theorem replicationWindow : ∀ x0, Statement (.replicationWindow x0) := fun _ => event rfl
theorem remoteRead : ∀ x0 x1, Statement (.remoteRead x0 x1) := fun _ _ => event rfl
theorem replicaFill : ∀ x0, Statement (.replicaFill x0) := fun _ => event rfl
theorem repWrite : ∀ x0 x1 x2, Statement (.repWrite x0 x1 x2) := fun _ _ _ => event rfl
theorem replicaInvalidate : ∀ x0, Statement (.replicaInvalidate x0) := fun _ => event rfl
theorem rthreshWrite : ∀ x0 x1, Statement (.rthreshWrite x0 x1) := fun _ _ => event rfl
theorem homeWriteback : ∀ x0 x1 x2, Statement (.homeWriteback x0 x1 x2) := fun _ _ _ => event rfl
theorem slicecfgWrite : ∀ x0 x1, Statement (.slicecfgWrite x0 x1) := fun _ _ => event rfl
theorem repartitionDone : ∀ x0, Statement (.repartitionDone x0) := fun _ => event rfl
theorem hashmaskWrite : ∀ x0 x1, Statement (.hashmaskWrite x0 x1) := fun _ _ => event rfl
theorem fluectlModeWrite : ∀ x0 x1, Statement (.fluectlModeWrite x0 x1) := fun _ _ => event rfl
theorem flueRetrainDone : ∀ x0, Statement (.flueRetrainDone x0) := fun _ => event rfl
theorem flitReplay : ∀ x0, Statement (.flitReplay x0) := fun _ => event rfl
theorem peerRefusal : ∀ x0 x1, Statement (.peerRefusal x0 x1) := fun _ _ => event rfl
theorem quietctlWrite : ∀ x0 x1, Statement (.quietctlWrite x0 x1) := fun _ _ => event rfl
theorem keyIssue : ∀ x0, Statement (.keyIssue x0) := fun _ => event rfl
theorem keyRetire : ∀ x0, Statement (.keyRetire x0) := fun _ => event rfl
theorem keyRetireDone : ∀ x0, Statement (.keyRetireDone x0) := fun _ => event rfl
theorem svcRetireCore : ∀ x0 x1, Statement (.svcRetireCore x0 x1) := fun _ _ => event rfl
theorem svcRetireSlice : ∀ x0 x1, Statement (.svcRetireSlice x0 x1) := fun _ _ => event rfl
theorem svcRetirePseudoChannel : ∀ x0 x1, Statement (.svcRetirePseudoChannel x0 x1) := fun _ _ => event rfl
theorem svcRetireFlueLane : ∀ x0 x1, Statement (.svcRetireFlueLane x0 x1) := fun _ _ => event rfl
theorem svcRetireUcieLane : ∀ x0 x1 x2 x3, Statement (.svcRetireUcieLane x0 x1 x2 x3) := fun _ _ _ _ => event rfl
theorem svcDone : Statement .svcDone := event rfl
theorem fitRequest : ∀ x0, Statement (.fitRequest x0) := fun _ => event rfl
theorem apxbReply : ∀ x0, Statement (.apxbReply x0) := fun _ => event rfl
theorem fitSample : ∀ x0, Statement (.fitSample x0) := fun _ => event rfl
theorem registerWrite : ∀ x0 x1, Statement (.registerWrite x0 x1) := fun _ _ => event rfl
theorem pointChangeComplete : ∀ x0, Statement (.pointChangeComplete x0) := fun _ => event rfl
theorem peerAccessArrival : ∀ x0 x1, Statement (.peerAccessArrival x0 x1) := fun _ _ => event rfl
theorem hostStagingWrite : ∀ x0 x1, Statement (.hostStagingWrite x0 x1) := fun _ _ => event rfl
theorem residencyResolved : ∀ x0 x1, Statement (.residencyResolved x0 x1) := fun _ _ => event rfl
theorem variableLatencyResult : ∀ x0, Statement (.variableLatencyResult x0) := fun _ => event rfl

end Sys2Proof.Laws.AssignedWord
end

