-- ==== Sys2Proof/Laws/State.lean ====
section
/-! SUPPORT. One lemma per field of `State` per named update of it: the field it writes, and every field it leaves. -/

namespace Sys2Proof.Machine

/-- The number and the draw that come with the updated state. -/
@[simp] theorem freshUid_fst (s : State) : (freshUid s).1 = s.nextUid := rfl
@[simp] theorem draw_fst (s : State) : (draw s).1 = s.free := rfl

@[simp] theorem setGroup_fab (s : State) (g : Nat) (x : Group) : (setGroup s g x).fab = s.fab := rfl
@[simp] theorem setGroup_droneE (s : State) (g : Nat) (x : Group) : (setGroup s g x).droneE = s.droneE := rfl
@[simp] theorem setGroup_prevE (s : State) (g : Nat) (x : Group) : (setGroup s g x).prevE = s.prevE := rfl
@[simp] theorem setGroup_slew (s : State) (g : Nat) (x : Group) : (setGroup s g x).slew = s.slew := rfl
@[simp] theorem setGroup_firstLock (s : State) (g : Nat) (x : Group) : (setGroup s g x).firstLock = s.firstLock := rfl
@[simp] theorem setGroup_lastSync (s : State) (g : Nat) (x : Group) : (setGroup s g x).lastSync = s.lastSync := rfl
@[simp] theorem setGroup_agenda (s : State) (g : Nat) (x : Group) : (setGroup s g x).agenda = s.agenda := rfl
@[simp] theorem setGroup_cur (s : State) (g : Nat) (x : Group) : (setGroup s g x).cur = s.cur := rfl
@[simp] theorem setGroup_free (s : State) (g : Nat) (x : Group) : (setGroup s g x).free = s.free := rfl
@[simp] theorem setGroup_nextUid (s : State) (g : Nat) (x : Group) : (setGroup s g x).nextUid = s.nextUid := rfl
@[simp] theorem setGroup_sys (s : State) (g : Nat) (x : Group) : (setGroup s g x).sys = s.sys := rfl
@[simp] theorem setGroup_mem (s : State) (g : Nat) (x : Group) : (setGroup s g x).mem = s.mem := rfl
@[simp] theorem setGroup_lines (s : State) (g : Nat) (x : Group) : (setGroup s g x).lines = s.lines := rfl
@[simp] theorem setGroup_flasks (s : State) (g : Nat) (x : Group) : (setGroup s g x).flasks = s.flasks := rfl
@[simp] theorem setGroup_pclus (s : State) (g : Nat) (x : Group) : (setGroup s g x).pclus = s.pclus := rfl
@[simp] theorem setGroup_cores (s : State) (g : Nat) (x : Group) : (setGroup s g x).cores = s.cores := rfl
@[simp] theorem setGroup_hbm (s : State) (g : Nat) (x : Group) : (setGroup s g x).hbm = s.hbm := rfl
@[simp] theorem setGroup_ports (s : State) (g : Nat) (x : Group) : (setGroup s g x).ports = s.ports := rfl
@[simp] theorem setGroup_ctxs (s : State) (g : Nat) (x : Group) : (setGroup s g x).ctxs = s.ctxs := rfl
@[simp] theorem setGroup_groups (s : State) (g : Nat) (x : Group) :
    (setGroup s g x).groups = mput s.groups g x := rfl
@[simp] theorem setGroup_parked (s : State) (g : Nat) (x : Group) : (setGroup s g x).parked = s.parked := rfl
@[simp] theorem setGroup_teams (s : State) (g : Nat) (x : Group) : (setGroup s g x).teams = s.teams := rfl
@[simp] theorem setGroup_grids (s : State) (g : Nat) (x : Group) : (setGroup s g x).grids = s.grids := rfl
@[simp] theorem setGroup_tasks (s : State) (g : Nat) (x : Group) : (setGroup s g x).tasks = s.tasks := rfl
@[simp] theorem setGroup_ops (s : State) (g : Nat) (x : Group) : (setGroup s g x).ops = s.ops := rfl
@[simp] theorem setGroup_results (s : State) (g : Nat) (x : Group) : (setGroup s g x).results = s.results := rfl
@[simp] theorem setGroup_preqs (s : State) (g : Nat) (x : Group) : (setGroup s g x).preqs = s.preqs := rfl
@[simp] theorem setGroup_blocks (s : State) (g : Nat) (x : Group) : (setGroup s g x).blocks = s.blocks := rfl
@[simp] theorem setGroup_subs (s : State) (g : Nat) (x : Group) : (setGroup s g x).subs = s.subs := rfl
@[simp] theorem setGroup_consorts (s : State) (g : Nat) (x : Group) : (setGroup s g x).consorts = s.consorts := rfl
@[simp] theorem setGroup_entries (s : State) (g : Nat) (x : Group) : (setGroup s g x).entries = s.entries := rfl
@[simp] theorem setGroup_nmWait (s : State) (g : Nat) (x : Group) : (setGroup s g x).nmWait = s.nmWait := rfl
@[simp] theorem setGroup_decs (s : State) (g : Nat) (x : Group) : (setGroup s g x).decs = s.decs := rfl
@[simp] theorem setGroup_msgs (s : State) (g : Nat) (x : Group) : (setGroup s g x).msgs = s.msgs := rfl
@[simp] theorem setGroup_invs (s : State) (g : Nat) (x : Group) : (setGroup s g x).invs = s.invs := rfl
@[simp] theorem setGroup_fills (s : State) (g : Nat) (x : Group) : (setGroup s g x).fills = s.fills := rfl
@[simp] theorem setGroup_notices (s : State) (g : Nat) (x : Group) : (setGroup s g x).notices = s.notices := rfl
@[simp] theorem setGroup_cupolaIrq (s : State) (g : Nat) (x : Group) : (setGroup s g x).cupolaIrq = s.cupolaIrq := rfl
@[simp] theorem setGroup_gangs (s : State) (g : Nat) (x : Group) : (setGroup s g x).gangs = s.gangs := rfl
@[simp] theorem setGroup_gangStuck (s : State) (g : Nat) (x : Group) : (setGroup s g x).gangStuck = s.gangStuck := rfl
@[simp] theorem setGroup_waiters (s : State) (g : Nat) (x : Group) : (setGroup s g x).waiters = s.waiters := rfl
@[simp] theorem setGroup_redirects (s : State) (g : Nat) (x : Group) : (setGroup s g x).redirects = s.redirects := rfl
@[simp] theorem setGroup_svc (s : State) (g : Nat) (x : Group) : (setGroup s g x).svc = s.svc := rfl
@[simp] theorem setGroup_svcFin (s : State) (g : Nat) (x : Group) : (setGroup s g x).svcFin = s.svcFin := rfl
@[simp] theorem setGroup_ctxSeen (s : State) (g : Nat) (x : Group) : (setGroup s g x).ctxSeen = s.ctxSeen := rfl
@[simp] theorem setGroup_early (s : State) (g : Nat) (x : Group) : (setGroup s g x).early = s.early := rfl
@[simp] theorem setGroup_gangAt (s : State) (g : Nat) (x : Group) : (setGroup s g x).gangAt = s.gangAt := rfl
@[simp] theorem setGroup_hostOut (s : State) (g : Nat) (x : Group) : (setGroup s g x).hostOut = s.hostOut := rfl
@[simp] theorem setGroup_retired (s : State) (g : Nat) (x : Group) : (setGroup s g x).retired = s.retired := rfl
@[simp] theorem setGroup_granules (s : State) (g : Nat) (x : Group) : (setGroup s g x).granules = s.granules := rfl
@[simp] theorem setGroup_fitInval (s : State) (g : Nat) (x : Group) : (setGroup s g x).fitInval = s.fitInval := rfl
@[simp] theorem setGroup_staging (s : State) (g : Nat) (x : Group) : (setGroup s g x).staging = s.staging := rfl
@[simp] theorem setGroup_mgmtOut (s : State) (g : Nat) (x : Group) : (setGroup s g x).mgmtOut = s.mgmtOut := rfl
@[simp] theorem setGroup_corrected (s : State) (g : Nat) (x : Group) : (setGroup s g x).corrected = s.corrected := rfl
@[simp] theorem setGroup_boot (s : State) (g : Nat) (x : Group) : (setGroup s g x).boot = s.boot := rfl

@[simp] theorem modGroup_fab (s : State) (g : Nat) (f : Group → Group) : (modGroup s g f).fab = s.fab := by unfold modGroup; split <;> rfl
@[simp] theorem modGroup_droneE (s : State) (g : Nat) (f : Group → Group) : (modGroup s g f).droneE = s.droneE := by unfold modGroup; split <;> rfl
@[simp] theorem modGroup_prevE (s : State) (g : Nat) (f : Group → Group) : (modGroup s g f).prevE = s.prevE := by unfold modGroup; split <;> rfl
@[simp] theorem modGroup_slew (s : State) (g : Nat) (f : Group → Group) : (modGroup s g f).slew = s.slew := by unfold modGroup; split <;> rfl
@[simp] theorem modGroup_firstLock (s : State) (g : Nat) (f : Group → Group) : (modGroup s g f).firstLock = s.firstLock := by unfold modGroup; split <;> rfl
@[simp] theorem modGroup_lastSync (s : State) (g : Nat) (f : Group → Group) : (modGroup s g f).lastSync = s.lastSync := by unfold modGroup; split <;> rfl
@[simp] theorem modGroup_agenda (s : State) (g : Nat) (f : Group → Group) : (modGroup s g f).agenda = s.agenda := by unfold modGroup; split <;> rfl
@[simp] theorem modGroup_cur (s : State) (g : Nat) (f : Group → Group) : (modGroup s g f).cur = s.cur := by unfold modGroup; split <;> rfl
@[simp] theorem modGroup_free (s : State) (g : Nat) (f : Group → Group) : (modGroup s g f).free = s.free := by unfold modGroup; split <;> rfl
@[simp] theorem modGroup_nextUid (s : State) (g : Nat) (f : Group → Group) : (modGroup s g f).nextUid = s.nextUid := by unfold modGroup; split <;> rfl
@[simp] theorem modGroup_sys (s : State) (g : Nat) (f : Group → Group) : (modGroup s g f).sys = s.sys := by unfold modGroup; split <;> rfl
@[simp] theorem modGroup_mem (s : State) (g : Nat) (f : Group → Group) : (modGroup s g f).mem = s.mem := by unfold modGroup; split <;> rfl
@[simp] theorem modGroup_lines (s : State) (g : Nat) (f : Group → Group) : (modGroup s g f).lines = s.lines := by unfold modGroup; split <;> rfl
@[simp] theorem modGroup_flasks (s : State) (g : Nat) (f : Group → Group) : (modGroup s g f).flasks = s.flasks := by unfold modGroup; split <;> rfl
@[simp] theorem modGroup_pclus (s : State) (g : Nat) (f : Group → Group) : (modGroup s g f).pclus = s.pclus := by unfold modGroup; split <;> rfl
@[simp] theorem modGroup_cores (s : State) (g : Nat) (f : Group → Group) : (modGroup s g f).cores = s.cores := by unfold modGroup; split <;> rfl
@[simp] theorem modGroup_hbm (s : State) (g : Nat) (f : Group → Group) : (modGroup s g f).hbm = s.hbm := by unfold modGroup; split <;> rfl
@[simp] theorem modGroup_ports (s : State) (g : Nat) (f : Group → Group) : (modGroup s g f).ports = s.ports := by unfold modGroup; split <;> rfl
@[simp] theorem modGroup_ctxs (s : State) (g : Nat) (f : Group → Group) : (modGroup s g f).ctxs = s.ctxs := by unfold modGroup; split <;> rfl
@[simp] theorem modGroup_parked (s : State) (g : Nat) (f : Group → Group) : (modGroup s g f).parked = s.parked := by unfold modGroup; split <;> rfl
@[simp] theorem modGroup_teams (s : State) (g : Nat) (f : Group → Group) : (modGroup s g f).teams = s.teams := by unfold modGroup; split <;> rfl
@[simp] theorem modGroup_grids (s : State) (g : Nat) (f : Group → Group) : (modGroup s g f).grids = s.grids := by unfold modGroup; split <;> rfl
@[simp] theorem modGroup_tasks (s : State) (g : Nat) (f : Group → Group) : (modGroup s g f).tasks = s.tasks := by unfold modGroup; split <;> rfl
@[simp] theorem modGroup_ops (s : State) (g : Nat) (f : Group → Group) : (modGroup s g f).ops = s.ops := by unfold modGroup; split <;> rfl
@[simp] theorem modGroup_results (s : State) (g : Nat) (f : Group → Group) : (modGroup s g f).results = s.results := by unfold modGroup; split <;> rfl
@[simp] theorem modGroup_preqs (s : State) (g : Nat) (f : Group → Group) : (modGroup s g f).preqs = s.preqs := by unfold modGroup; split <;> rfl
@[simp] theorem modGroup_blocks (s : State) (g : Nat) (f : Group → Group) : (modGroup s g f).blocks = s.blocks := by unfold modGroup; split <;> rfl
@[simp] theorem modGroup_subs (s : State) (g : Nat) (f : Group → Group) : (modGroup s g f).subs = s.subs := by unfold modGroup; split <;> rfl
@[simp] theorem modGroup_consorts (s : State) (g : Nat) (f : Group → Group) : (modGroup s g f).consorts = s.consorts := by unfold modGroup; split <;> rfl
@[simp] theorem modGroup_entries (s : State) (g : Nat) (f : Group → Group) : (modGroup s g f).entries = s.entries := by unfold modGroup; split <;> rfl
@[simp] theorem modGroup_nmWait (s : State) (g : Nat) (f : Group → Group) : (modGroup s g f).nmWait = s.nmWait := by unfold modGroup; split <;> rfl
@[simp] theorem modGroup_decs (s : State) (g : Nat) (f : Group → Group) : (modGroup s g f).decs = s.decs := by unfold modGroup; split <;> rfl
@[simp] theorem modGroup_msgs (s : State) (g : Nat) (f : Group → Group) : (modGroup s g f).msgs = s.msgs := by unfold modGroup; split <;> rfl
@[simp] theorem modGroup_invs (s : State) (g : Nat) (f : Group → Group) : (modGroup s g f).invs = s.invs := by unfold modGroup; split <;> rfl
@[simp] theorem modGroup_fills (s : State) (g : Nat) (f : Group → Group) : (modGroup s g f).fills = s.fills := by unfold modGroup; split <;> rfl
@[simp] theorem modGroup_notices (s : State) (g : Nat) (f : Group → Group) : (modGroup s g f).notices = s.notices := by unfold modGroup; split <;> rfl
@[simp] theorem modGroup_cupolaIrq (s : State) (g : Nat) (f : Group → Group) : (modGroup s g f).cupolaIrq = s.cupolaIrq := by unfold modGroup; split <;> rfl
@[simp] theorem modGroup_gangs (s : State) (g : Nat) (f : Group → Group) : (modGroup s g f).gangs = s.gangs := by unfold modGroup; split <;> rfl
@[simp] theorem modGroup_gangStuck (s : State) (g : Nat) (f : Group → Group) : (modGroup s g f).gangStuck = s.gangStuck := by unfold modGroup; split <;> rfl
@[simp] theorem modGroup_waiters (s : State) (g : Nat) (f : Group → Group) : (modGroup s g f).waiters = s.waiters := by unfold modGroup; split <;> rfl
@[simp] theorem modGroup_redirects (s : State) (g : Nat) (f : Group → Group) : (modGroup s g f).redirects = s.redirects := by unfold modGroup; split <;> rfl
@[simp] theorem modGroup_svc (s : State) (g : Nat) (f : Group → Group) : (modGroup s g f).svc = s.svc := by unfold modGroup; split <;> rfl
@[simp] theorem modGroup_svcFin (s : State) (g : Nat) (f : Group → Group) : (modGroup s g f).svcFin = s.svcFin := by unfold modGroup; split <;> rfl
@[simp] theorem modGroup_ctxSeen (s : State) (g : Nat) (f : Group → Group) : (modGroup s g f).ctxSeen = s.ctxSeen := by unfold modGroup; split <;> rfl
@[simp] theorem modGroup_early (s : State) (g : Nat) (f : Group → Group) : (modGroup s g f).early = s.early := by unfold modGroup; split <;> rfl
@[simp] theorem modGroup_gangAt (s : State) (g : Nat) (f : Group → Group) : (modGroup s g f).gangAt = s.gangAt := by unfold modGroup; split <;> rfl
@[simp] theorem modGroup_hostOut (s : State) (g : Nat) (f : Group → Group) : (modGroup s g f).hostOut = s.hostOut := by unfold modGroup; split <;> rfl
@[simp] theorem modGroup_retired (s : State) (g : Nat) (f : Group → Group) : (modGroup s g f).retired = s.retired := by unfold modGroup; split <;> rfl
@[simp] theorem modGroup_granules (s : State) (g : Nat) (f : Group → Group) : (modGroup s g f).granules = s.granules := by unfold modGroup; split <;> rfl
@[simp] theorem modGroup_fitInval (s : State) (g : Nat) (f : Group → Group) : (modGroup s g f).fitInval = s.fitInval := by unfold modGroup; split <;> rfl
@[simp] theorem modGroup_staging (s : State) (g : Nat) (f : Group → Group) : (modGroup s g f).staging = s.staging := by unfold modGroup; split <;> rfl
@[simp] theorem modGroup_mgmtOut (s : State) (g : Nat) (f : Group → Group) : (modGroup s g f).mgmtOut = s.mgmtOut := by unfold modGroup; split <;> rfl
@[simp] theorem modGroup_corrected (s : State) (g : Nat) (f : Group → Group) : (modGroup s g f).corrected = s.corrected := by unfold modGroup; split <;> rfl
@[simp] theorem modGroup_boot (s : State) (g : Nat) (f : Group → Group) : (modGroup s g f).boot = s.boot := by unfold modGroup; split <;> rfl

@[simp] theorem modUid_fab (s : State) (uid : Nat) (f : Group → Group) : (modUid s uid f).fab = s.fab := by unfold modUid; split <;> simp
@[simp] theorem modUid_droneE (s : State) (uid : Nat) (f : Group → Group) : (modUid s uid f).droneE = s.droneE := by unfold modUid; split <;> simp
@[simp] theorem modUid_prevE (s : State) (uid : Nat) (f : Group → Group) : (modUid s uid f).prevE = s.prevE := by unfold modUid; split <;> simp
@[simp] theorem modUid_slew (s : State) (uid : Nat) (f : Group → Group) : (modUid s uid f).slew = s.slew := by unfold modUid; split <;> simp
@[simp] theorem modUid_firstLock (s : State) (uid : Nat) (f : Group → Group) : (modUid s uid f).firstLock = s.firstLock := by unfold modUid; split <;> simp
@[simp] theorem modUid_lastSync (s : State) (uid : Nat) (f : Group → Group) : (modUid s uid f).lastSync = s.lastSync := by unfold modUid; split <;> simp
@[simp] theorem modUid_agenda (s : State) (uid : Nat) (f : Group → Group) : (modUid s uid f).agenda = s.agenda := by unfold modUid; split <;> simp
@[simp] theorem modUid_cur (s : State) (uid : Nat) (f : Group → Group) : (modUid s uid f).cur = s.cur := by unfold modUid; split <;> simp
@[simp] theorem modUid_free (s : State) (uid : Nat) (f : Group → Group) : (modUid s uid f).free = s.free := by unfold modUid; split <;> simp
@[simp] theorem modUid_nextUid (s : State) (uid : Nat) (f : Group → Group) : (modUid s uid f).nextUid = s.nextUid := by unfold modUid; split <;> simp
@[simp] theorem modUid_sys (s : State) (uid : Nat) (f : Group → Group) : (modUid s uid f).sys = s.sys := by unfold modUid; split <;> simp
@[simp] theorem modUid_mem (s : State) (uid : Nat) (f : Group → Group) : (modUid s uid f).mem = s.mem := by unfold modUid; split <;> simp
@[simp] theorem modUid_lines (s : State) (uid : Nat) (f : Group → Group) : (modUid s uid f).lines = s.lines := by unfold modUid; split <;> simp
@[simp] theorem modUid_flasks (s : State) (uid : Nat) (f : Group → Group) : (modUid s uid f).flasks = s.flasks := by unfold modUid; split <;> simp
@[simp] theorem modUid_pclus (s : State) (uid : Nat) (f : Group → Group) : (modUid s uid f).pclus = s.pclus := by unfold modUid; split <;> simp
@[simp] theorem modUid_cores (s : State) (uid : Nat) (f : Group → Group) : (modUid s uid f).cores = s.cores := by unfold modUid; split <;> simp
@[simp] theorem modUid_hbm (s : State) (uid : Nat) (f : Group → Group) : (modUid s uid f).hbm = s.hbm := by unfold modUid; split <;> simp
@[simp] theorem modUid_ports (s : State) (uid : Nat) (f : Group → Group) : (modUid s uid f).ports = s.ports := by unfold modUid; split <;> simp
@[simp] theorem modUid_ctxs (s : State) (uid : Nat) (f : Group → Group) : (modUid s uid f).ctxs = s.ctxs := by unfold modUid; split <;> simp
@[simp] theorem modUid_parked (s : State) (uid : Nat) (f : Group → Group) : (modUid s uid f).parked = s.parked := by unfold modUid; split <;> simp
@[simp] theorem modUid_teams (s : State) (uid : Nat) (f : Group → Group) : (modUid s uid f).teams = s.teams := by unfold modUid; split <;> simp
@[simp] theorem modUid_grids (s : State) (uid : Nat) (f : Group → Group) : (modUid s uid f).grids = s.grids := by unfold modUid; split <;> simp
@[simp] theorem modUid_tasks (s : State) (uid : Nat) (f : Group → Group) : (modUid s uid f).tasks = s.tasks := by unfold modUid; split <;> simp
@[simp] theorem modUid_ops (s : State) (uid : Nat) (f : Group → Group) : (modUid s uid f).ops = s.ops := by unfold modUid; split <;> simp
@[simp] theorem modUid_results (s : State) (uid : Nat) (f : Group → Group) : (modUid s uid f).results = s.results := by unfold modUid; split <;> simp
@[simp] theorem modUid_preqs (s : State) (uid : Nat) (f : Group → Group) : (modUid s uid f).preqs = s.preqs := by unfold modUid; split <;> simp
@[simp] theorem modUid_blocks (s : State) (uid : Nat) (f : Group → Group) : (modUid s uid f).blocks = s.blocks := by unfold modUid; split <;> simp
@[simp] theorem modUid_subs (s : State) (uid : Nat) (f : Group → Group) : (modUid s uid f).subs = s.subs := by unfold modUid; split <;> simp
@[simp] theorem modUid_consorts (s : State) (uid : Nat) (f : Group → Group) : (modUid s uid f).consorts = s.consorts := by unfold modUid; split <;> simp
@[simp] theorem modUid_entries (s : State) (uid : Nat) (f : Group → Group) : (modUid s uid f).entries = s.entries := by unfold modUid; split <;> simp
@[simp] theorem modUid_nmWait (s : State) (uid : Nat) (f : Group → Group) : (modUid s uid f).nmWait = s.nmWait := by unfold modUid; split <;> simp
@[simp] theorem modUid_decs (s : State) (uid : Nat) (f : Group → Group) : (modUid s uid f).decs = s.decs := by unfold modUid; split <;> simp
@[simp] theorem modUid_msgs (s : State) (uid : Nat) (f : Group → Group) : (modUid s uid f).msgs = s.msgs := by unfold modUid; split <;> simp
@[simp] theorem modUid_invs (s : State) (uid : Nat) (f : Group → Group) : (modUid s uid f).invs = s.invs := by unfold modUid; split <;> simp
@[simp] theorem modUid_fills (s : State) (uid : Nat) (f : Group → Group) : (modUid s uid f).fills = s.fills := by unfold modUid; split <;> simp
@[simp] theorem modUid_notices (s : State) (uid : Nat) (f : Group → Group) : (modUid s uid f).notices = s.notices := by unfold modUid; split <;> simp
@[simp] theorem modUid_cupolaIrq (s : State) (uid : Nat) (f : Group → Group) : (modUid s uid f).cupolaIrq = s.cupolaIrq := by unfold modUid; split <;> simp
@[simp] theorem modUid_gangs (s : State) (uid : Nat) (f : Group → Group) : (modUid s uid f).gangs = s.gangs := by unfold modUid; split <;> simp
@[simp] theorem modUid_gangStuck (s : State) (uid : Nat) (f : Group → Group) : (modUid s uid f).gangStuck = s.gangStuck := by unfold modUid; split <;> simp
@[simp] theorem modUid_waiters (s : State) (uid : Nat) (f : Group → Group) : (modUid s uid f).waiters = s.waiters := by unfold modUid; split <;> simp
@[simp] theorem modUid_redirects (s : State) (uid : Nat) (f : Group → Group) : (modUid s uid f).redirects = s.redirects := by unfold modUid; split <;> simp
@[simp] theorem modUid_svc (s : State) (uid : Nat) (f : Group → Group) : (modUid s uid f).svc = s.svc := by unfold modUid; split <;> simp
@[simp] theorem modUid_svcFin (s : State) (uid : Nat) (f : Group → Group) : (modUid s uid f).svcFin = s.svcFin := by unfold modUid; split <;> simp
@[simp] theorem modUid_ctxSeen (s : State) (uid : Nat) (f : Group → Group) : (modUid s uid f).ctxSeen = s.ctxSeen := by unfold modUid; split <;> simp
@[simp] theorem modUid_early (s : State) (uid : Nat) (f : Group → Group) : (modUid s uid f).early = s.early := by unfold modUid; split <;> simp
@[simp] theorem modUid_gangAt (s : State) (uid : Nat) (f : Group → Group) : (modUid s uid f).gangAt = s.gangAt := by unfold modUid; split <;> simp
@[simp] theorem modUid_hostOut (s : State) (uid : Nat) (f : Group → Group) : (modUid s uid f).hostOut = s.hostOut := by unfold modUid; split <;> simp
@[simp] theorem modUid_retired (s : State) (uid : Nat) (f : Group → Group) : (modUid s uid f).retired = s.retired := by unfold modUid; split <;> simp
@[simp] theorem modUid_granules (s : State) (uid : Nat) (f : Group → Group) : (modUid s uid f).granules = s.granules := by unfold modUid; split <;> simp
@[simp] theorem modUid_fitInval (s : State) (uid : Nat) (f : Group → Group) : (modUid s uid f).fitInval = s.fitInval := by unfold modUid; split <;> simp
@[simp] theorem modUid_staging (s : State) (uid : Nat) (f : Group → Group) : (modUid s uid f).staging = s.staging := by unfold modUid; split <;> simp
@[simp] theorem modUid_mgmtOut (s : State) (uid : Nat) (f : Group → Group) : (modUid s uid f).mgmtOut = s.mgmtOut := by unfold modUid; split <;> simp
@[simp] theorem modUid_corrected (s : State) (uid : Nat) (f : Group → Group) : (modUid s uid f).corrected = s.corrected := by unfold modUid; split <;> simp
@[simp] theorem modUid_boot (s : State) (uid : Nat) (f : Group → Group) : (modUid s uid f).boot = s.boot := by unfold modUid; split <;> simp

@[simp] theorem setCore_fab (s : State) (c : Nat) (x : Core) : (setCore s c x).fab = s.fab := rfl
@[simp] theorem setCore_droneE (s : State) (c : Nat) (x : Core) : (setCore s c x).droneE = s.droneE := rfl
@[simp] theorem setCore_prevE (s : State) (c : Nat) (x : Core) : (setCore s c x).prevE = s.prevE := rfl
@[simp] theorem setCore_slew (s : State) (c : Nat) (x : Core) : (setCore s c x).slew = s.slew := rfl
@[simp] theorem setCore_firstLock (s : State) (c : Nat) (x : Core) : (setCore s c x).firstLock = s.firstLock := rfl
@[simp] theorem setCore_lastSync (s : State) (c : Nat) (x : Core) : (setCore s c x).lastSync = s.lastSync := rfl
@[simp] theorem setCore_agenda (s : State) (c : Nat) (x : Core) : (setCore s c x).agenda = s.agenda := rfl
@[simp] theorem setCore_cur (s : State) (c : Nat) (x : Core) : (setCore s c x).cur = s.cur := rfl
@[simp] theorem setCore_free (s : State) (c : Nat) (x : Core) : (setCore s c x).free = s.free := rfl
@[simp] theorem setCore_nextUid (s : State) (c : Nat) (x : Core) : (setCore s c x).nextUid = s.nextUid := rfl
@[simp] theorem setCore_sys (s : State) (c : Nat) (x : Core) : (setCore s c x).sys = s.sys := rfl
@[simp] theorem setCore_mem (s : State) (c : Nat) (x : Core) : (setCore s c x).mem = s.mem := rfl
@[simp] theorem setCore_lines (s : State) (c : Nat) (x : Core) : (setCore s c x).lines = s.lines := rfl
@[simp] theorem setCore_flasks (s : State) (c : Nat) (x : Core) : (setCore s c x).flasks = s.flasks := rfl
@[simp] theorem setCore_pclus (s : State) (c : Nat) (x : Core) : (setCore s c x).pclus = s.pclus := rfl
@[simp] theorem setCore_cores (s : State) (c : Nat) (x : Core) :
    (setCore s c x).cores = mput s.cores c x := rfl
@[simp] theorem setCore_hbm (s : State) (c : Nat) (x : Core) : (setCore s c x).hbm = s.hbm := rfl
@[simp] theorem setCore_ports (s : State) (c : Nat) (x : Core) : (setCore s c x).ports = s.ports := rfl
@[simp] theorem setCore_ctxs (s : State) (c : Nat) (x : Core) : (setCore s c x).ctxs = s.ctxs := rfl
@[simp] theorem setCore_groups (s : State) (c : Nat) (x : Core) : (setCore s c x).groups = s.groups := rfl
@[simp] theorem setCore_parked (s : State) (c : Nat) (x : Core) : (setCore s c x).parked = s.parked := rfl
@[simp] theorem setCore_teams (s : State) (c : Nat) (x : Core) : (setCore s c x).teams = s.teams := rfl
@[simp] theorem setCore_grids (s : State) (c : Nat) (x : Core) : (setCore s c x).grids = s.grids := rfl
@[simp] theorem setCore_tasks (s : State) (c : Nat) (x : Core) : (setCore s c x).tasks = s.tasks := rfl
@[simp] theorem setCore_ops (s : State) (c : Nat) (x : Core) : (setCore s c x).ops = s.ops := rfl
@[simp] theorem setCore_results (s : State) (c : Nat) (x : Core) : (setCore s c x).results = s.results := rfl
@[simp] theorem setCore_preqs (s : State) (c : Nat) (x : Core) : (setCore s c x).preqs = s.preqs := rfl
@[simp] theorem setCore_blocks (s : State) (c : Nat) (x : Core) : (setCore s c x).blocks = s.blocks := rfl
@[simp] theorem setCore_subs (s : State) (c : Nat) (x : Core) : (setCore s c x).subs = s.subs := rfl
@[simp] theorem setCore_consorts (s : State) (c : Nat) (x : Core) : (setCore s c x).consorts = s.consorts := rfl
@[simp] theorem setCore_entries (s : State) (c : Nat) (x : Core) : (setCore s c x).entries = s.entries := rfl
@[simp] theorem setCore_nmWait (s : State) (c : Nat) (x : Core) : (setCore s c x).nmWait = s.nmWait := rfl
@[simp] theorem setCore_decs (s : State) (c : Nat) (x : Core) : (setCore s c x).decs = s.decs := rfl
@[simp] theorem setCore_msgs (s : State) (c : Nat) (x : Core) : (setCore s c x).msgs = s.msgs := rfl
@[simp] theorem setCore_invs (s : State) (c : Nat) (x : Core) : (setCore s c x).invs = s.invs := rfl
@[simp] theorem setCore_fills (s : State) (c : Nat) (x : Core) : (setCore s c x).fills = s.fills := rfl
@[simp] theorem setCore_notices (s : State) (c : Nat) (x : Core) : (setCore s c x).notices = s.notices := rfl
@[simp] theorem setCore_cupolaIrq (s : State) (c : Nat) (x : Core) : (setCore s c x).cupolaIrq = s.cupolaIrq := rfl
@[simp] theorem setCore_gangs (s : State) (c : Nat) (x : Core) : (setCore s c x).gangs = s.gangs := rfl
@[simp] theorem setCore_gangStuck (s : State) (c : Nat) (x : Core) : (setCore s c x).gangStuck = s.gangStuck := rfl
@[simp] theorem setCore_waiters (s : State) (c : Nat) (x : Core) : (setCore s c x).waiters = s.waiters := rfl
@[simp] theorem setCore_redirects (s : State) (c : Nat) (x : Core) : (setCore s c x).redirects = s.redirects := rfl
@[simp] theorem setCore_svc (s : State) (c : Nat) (x : Core) : (setCore s c x).svc = s.svc := rfl
@[simp] theorem setCore_svcFin (s : State) (c : Nat) (x : Core) : (setCore s c x).svcFin = s.svcFin := rfl
@[simp] theorem setCore_ctxSeen (s : State) (c : Nat) (x : Core) : (setCore s c x).ctxSeen = s.ctxSeen := rfl
@[simp] theorem setCore_early (s : State) (c : Nat) (x : Core) : (setCore s c x).early = s.early := rfl
@[simp] theorem setCore_gangAt (s : State) (c : Nat) (x : Core) : (setCore s c x).gangAt = s.gangAt := rfl
@[simp] theorem setCore_hostOut (s : State) (c : Nat) (x : Core) : (setCore s c x).hostOut = s.hostOut := rfl
@[simp] theorem setCore_retired (s : State) (c : Nat) (x : Core) : (setCore s c x).retired = s.retired := rfl
@[simp] theorem setCore_granules (s : State) (c : Nat) (x : Core) : (setCore s c x).granules = s.granules := rfl
@[simp] theorem setCore_fitInval (s : State) (c : Nat) (x : Core) : (setCore s c x).fitInval = s.fitInval := rfl
@[simp] theorem setCore_staging (s : State) (c : Nat) (x : Core) : (setCore s c x).staging = s.staging := rfl
@[simp] theorem setCore_mgmtOut (s : State) (c : Nat) (x : Core) : (setCore s c x).mgmtOut = s.mgmtOut := rfl
@[simp] theorem setCore_corrected (s : State) (c : Nat) (x : Core) : (setCore s c x).corrected = s.corrected := rfl
@[simp] theorem setCore_boot (s : State) (c : Nat) (x : Core) : (setCore s c x).boot = s.boot := rfl

@[simp] theorem modCore_fab (s : State) (c : Nat) (f : Core → Core) : (modCore s c f).fab = s.fab := rfl
@[simp] theorem modCore_droneE (s : State) (c : Nat) (f : Core → Core) : (modCore s c f).droneE = s.droneE := rfl
@[simp] theorem modCore_prevE (s : State) (c : Nat) (f : Core → Core) : (modCore s c f).prevE = s.prevE := rfl
@[simp] theorem modCore_slew (s : State) (c : Nat) (f : Core → Core) : (modCore s c f).slew = s.slew := rfl
@[simp] theorem modCore_firstLock (s : State) (c : Nat) (f : Core → Core) : (modCore s c f).firstLock = s.firstLock := rfl
@[simp] theorem modCore_lastSync (s : State) (c : Nat) (f : Core → Core) : (modCore s c f).lastSync = s.lastSync := rfl
@[simp] theorem modCore_agenda (s : State) (c : Nat) (f : Core → Core) : (modCore s c f).agenda = s.agenda := rfl
@[simp] theorem modCore_cur (s : State) (c : Nat) (f : Core → Core) : (modCore s c f).cur = s.cur := rfl
@[simp] theorem modCore_free (s : State) (c : Nat) (f : Core → Core) : (modCore s c f).free = s.free := rfl
@[simp] theorem modCore_nextUid (s : State) (c : Nat) (f : Core → Core) : (modCore s c f).nextUid = s.nextUid := rfl
@[simp] theorem modCore_sys (s : State) (c : Nat) (f : Core → Core) : (modCore s c f).sys = s.sys := rfl
@[simp] theorem modCore_mem (s : State) (c : Nat) (f : Core → Core) : (modCore s c f).mem = s.mem := rfl
@[simp] theorem modCore_lines (s : State) (c : Nat) (f : Core → Core) : (modCore s c f).lines = s.lines := rfl
@[simp] theorem modCore_flasks (s : State) (c : Nat) (f : Core → Core) : (modCore s c f).flasks = s.flasks := rfl
@[simp] theorem modCore_pclus (s : State) (c : Nat) (f : Core → Core) : (modCore s c f).pclus = s.pclus := rfl
@[simp] theorem modCore_cores (s : State) (c : Nat) (f : Core → Core) :
    (modCore s c f).cores = mput s.cores c (f (coreAt s c)) := rfl
@[simp] theorem modCore_hbm (s : State) (c : Nat) (f : Core → Core) : (modCore s c f).hbm = s.hbm := rfl
@[simp] theorem modCore_ports (s : State) (c : Nat) (f : Core → Core) : (modCore s c f).ports = s.ports := rfl
@[simp] theorem modCore_ctxs (s : State) (c : Nat) (f : Core → Core) : (modCore s c f).ctxs = s.ctxs := rfl
@[simp] theorem modCore_groups (s : State) (c : Nat) (f : Core → Core) : (modCore s c f).groups = s.groups := rfl
@[simp] theorem modCore_parked (s : State) (c : Nat) (f : Core → Core) : (modCore s c f).parked = s.parked := rfl
@[simp] theorem modCore_teams (s : State) (c : Nat) (f : Core → Core) : (modCore s c f).teams = s.teams := rfl
@[simp] theorem modCore_grids (s : State) (c : Nat) (f : Core → Core) : (modCore s c f).grids = s.grids := rfl
@[simp] theorem modCore_tasks (s : State) (c : Nat) (f : Core → Core) : (modCore s c f).tasks = s.tasks := rfl
@[simp] theorem modCore_ops (s : State) (c : Nat) (f : Core → Core) : (modCore s c f).ops = s.ops := rfl
@[simp] theorem modCore_results (s : State) (c : Nat) (f : Core → Core) : (modCore s c f).results = s.results := rfl
@[simp] theorem modCore_preqs (s : State) (c : Nat) (f : Core → Core) : (modCore s c f).preqs = s.preqs := rfl
@[simp] theorem modCore_blocks (s : State) (c : Nat) (f : Core → Core) : (modCore s c f).blocks = s.blocks := rfl
@[simp] theorem modCore_subs (s : State) (c : Nat) (f : Core → Core) : (modCore s c f).subs = s.subs := rfl
@[simp] theorem modCore_consorts (s : State) (c : Nat) (f : Core → Core) : (modCore s c f).consorts = s.consorts := rfl
@[simp] theorem modCore_entries (s : State) (c : Nat) (f : Core → Core) : (modCore s c f).entries = s.entries := rfl
@[simp] theorem modCore_nmWait (s : State) (c : Nat) (f : Core → Core) : (modCore s c f).nmWait = s.nmWait := rfl
@[simp] theorem modCore_decs (s : State) (c : Nat) (f : Core → Core) : (modCore s c f).decs = s.decs := rfl
@[simp] theorem modCore_msgs (s : State) (c : Nat) (f : Core → Core) : (modCore s c f).msgs = s.msgs := rfl
@[simp] theorem modCore_invs (s : State) (c : Nat) (f : Core → Core) : (modCore s c f).invs = s.invs := rfl
@[simp] theorem modCore_fills (s : State) (c : Nat) (f : Core → Core) : (modCore s c f).fills = s.fills := rfl
@[simp] theorem modCore_notices (s : State) (c : Nat) (f : Core → Core) : (modCore s c f).notices = s.notices := rfl
@[simp] theorem modCore_cupolaIrq (s : State) (c : Nat) (f : Core → Core) : (modCore s c f).cupolaIrq = s.cupolaIrq := rfl
@[simp] theorem modCore_gangs (s : State) (c : Nat) (f : Core → Core) : (modCore s c f).gangs = s.gangs := rfl
@[simp] theorem modCore_gangStuck (s : State) (c : Nat) (f : Core → Core) : (modCore s c f).gangStuck = s.gangStuck := rfl
@[simp] theorem modCore_waiters (s : State) (c : Nat) (f : Core → Core) : (modCore s c f).waiters = s.waiters := rfl
@[simp] theorem modCore_redirects (s : State) (c : Nat) (f : Core → Core) : (modCore s c f).redirects = s.redirects := rfl
@[simp] theorem modCore_svc (s : State) (c : Nat) (f : Core → Core) : (modCore s c f).svc = s.svc := rfl
@[simp] theorem modCore_svcFin (s : State) (c : Nat) (f : Core → Core) : (modCore s c f).svcFin = s.svcFin := rfl
@[simp] theorem modCore_ctxSeen (s : State) (c : Nat) (f : Core → Core) : (modCore s c f).ctxSeen = s.ctxSeen := rfl
@[simp] theorem modCore_early (s : State) (c : Nat) (f : Core → Core) : (modCore s c f).early = s.early := rfl
@[simp] theorem modCore_gangAt (s : State) (c : Nat) (f : Core → Core) : (modCore s c f).gangAt = s.gangAt := rfl
@[simp] theorem modCore_hostOut (s : State) (c : Nat) (f : Core → Core) : (modCore s c f).hostOut = s.hostOut := rfl
@[simp] theorem modCore_retired (s : State) (c : Nat) (f : Core → Core) : (modCore s c f).retired = s.retired := rfl
@[simp] theorem modCore_granules (s : State) (c : Nat) (f : Core → Core) : (modCore s c f).granules = s.granules := rfl
@[simp] theorem modCore_fitInval (s : State) (c : Nat) (f : Core → Core) : (modCore s c f).fitInval = s.fitInval := rfl
@[simp] theorem modCore_staging (s : State) (c : Nat) (f : Core → Core) : (modCore s c f).staging = s.staging := rfl
@[simp] theorem modCore_mgmtOut (s : State) (c : Nat) (f : Core → Core) : (modCore s c f).mgmtOut = s.mgmtOut := rfl
@[simp] theorem modCore_corrected (s : State) (c : Nat) (f : Core → Core) : (modCore s c f).corrected = s.corrected := rfl
@[simp] theorem modCore_boot (s : State) (c : Nat) (f : Core → Core) : (modCore s c f).boot = s.boot := rfl

@[simp] theorem setFlask_fab (s : State) (fl : Nat) (x : Flask) : (setFlask s fl x).fab = s.fab := rfl
@[simp] theorem setFlask_droneE (s : State) (fl : Nat) (x : Flask) : (setFlask s fl x).droneE = s.droneE := rfl
@[simp] theorem setFlask_prevE (s : State) (fl : Nat) (x : Flask) : (setFlask s fl x).prevE = s.prevE := rfl
@[simp] theorem setFlask_slew (s : State) (fl : Nat) (x : Flask) : (setFlask s fl x).slew = s.slew := rfl
@[simp] theorem setFlask_firstLock (s : State) (fl : Nat) (x : Flask) : (setFlask s fl x).firstLock = s.firstLock := rfl
@[simp] theorem setFlask_lastSync (s : State) (fl : Nat) (x : Flask) : (setFlask s fl x).lastSync = s.lastSync := rfl
@[simp] theorem setFlask_agenda (s : State) (fl : Nat) (x : Flask) : (setFlask s fl x).agenda = s.agenda := rfl
@[simp] theorem setFlask_cur (s : State) (fl : Nat) (x : Flask) : (setFlask s fl x).cur = s.cur := rfl
@[simp] theorem setFlask_free (s : State) (fl : Nat) (x : Flask) : (setFlask s fl x).free = s.free := rfl
@[simp] theorem setFlask_nextUid (s : State) (fl : Nat) (x : Flask) : (setFlask s fl x).nextUid = s.nextUid := rfl
@[simp] theorem setFlask_sys (s : State) (fl : Nat) (x : Flask) : (setFlask s fl x).sys = s.sys := rfl
@[simp] theorem setFlask_mem (s : State) (fl : Nat) (x : Flask) : (setFlask s fl x).mem = s.mem := rfl
@[simp] theorem setFlask_lines (s : State) (fl : Nat) (x : Flask) : (setFlask s fl x).lines = s.lines := rfl
@[simp] theorem setFlask_flasks (s : State) (fl : Nat) (x : Flask) :
    (setFlask s fl x).flasks = mput s.flasks fl x := rfl
@[simp] theorem setFlask_pclus (s : State) (fl : Nat) (x : Flask) : (setFlask s fl x).pclus = s.pclus := rfl
@[simp] theorem setFlask_cores (s : State) (fl : Nat) (x : Flask) : (setFlask s fl x).cores = s.cores := rfl
@[simp] theorem setFlask_hbm (s : State) (fl : Nat) (x : Flask) : (setFlask s fl x).hbm = s.hbm := rfl
@[simp] theorem setFlask_ports (s : State) (fl : Nat) (x : Flask) : (setFlask s fl x).ports = s.ports := rfl
@[simp] theorem setFlask_ctxs (s : State) (fl : Nat) (x : Flask) : (setFlask s fl x).ctxs = s.ctxs := rfl
@[simp] theorem setFlask_groups (s : State) (fl : Nat) (x : Flask) : (setFlask s fl x).groups = s.groups := rfl
@[simp] theorem setFlask_parked (s : State) (fl : Nat) (x : Flask) : (setFlask s fl x).parked = s.parked := rfl
@[simp] theorem setFlask_teams (s : State) (fl : Nat) (x : Flask) : (setFlask s fl x).teams = s.teams := rfl
@[simp] theorem setFlask_grids (s : State) (fl : Nat) (x : Flask) : (setFlask s fl x).grids = s.grids := rfl
@[simp] theorem setFlask_tasks (s : State) (fl : Nat) (x : Flask) : (setFlask s fl x).tasks = s.tasks := rfl
@[simp] theorem setFlask_ops (s : State) (fl : Nat) (x : Flask) : (setFlask s fl x).ops = s.ops := rfl
@[simp] theorem setFlask_results (s : State) (fl : Nat) (x : Flask) : (setFlask s fl x).results = s.results := rfl
@[simp] theorem setFlask_preqs (s : State) (fl : Nat) (x : Flask) : (setFlask s fl x).preqs = s.preqs := rfl
@[simp] theorem setFlask_blocks (s : State) (fl : Nat) (x : Flask) : (setFlask s fl x).blocks = s.blocks := rfl
@[simp] theorem setFlask_subs (s : State) (fl : Nat) (x : Flask) : (setFlask s fl x).subs = s.subs := rfl
@[simp] theorem setFlask_consorts (s : State) (fl : Nat) (x : Flask) : (setFlask s fl x).consorts = s.consorts := rfl
@[simp] theorem setFlask_entries (s : State) (fl : Nat) (x : Flask) : (setFlask s fl x).entries = s.entries := rfl
@[simp] theorem setFlask_nmWait (s : State) (fl : Nat) (x : Flask) : (setFlask s fl x).nmWait = s.nmWait := rfl
@[simp] theorem setFlask_decs (s : State) (fl : Nat) (x : Flask) : (setFlask s fl x).decs = s.decs := rfl
@[simp] theorem setFlask_msgs (s : State) (fl : Nat) (x : Flask) : (setFlask s fl x).msgs = s.msgs := rfl
@[simp] theorem setFlask_invs (s : State) (fl : Nat) (x : Flask) : (setFlask s fl x).invs = s.invs := rfl
@[simp] theorem setFlask_fills (s : State) (fl : Nat) (x : Flask) : (setFlask s fl x).fills = s.fills := rfl
@[simp] theorem setFlask_notices (s : State) (fl : Nat) (x : Flask) : (setFlask s fl x).notices = s.notices := rfl
@[simp] theorem setFlask_cupolaIrq (s : State) (fl : Nat) (x : Flask) : (setFlask s fl x).cupolaIrq = s.cupolaIrq := rfl
@[simp] theorem setFlask_gangs (s : State) (fl : Nat) (x : Flask) : (setFlask s fl x).gangs = s.gangs := rfl
@[simp] theorem setFlask_gangStuck (s : State) (fl : Nat) (x : Flask) : (setFlask s fl x).gangStuck = s.gangStuck := rfl
@[simp] theorem setFlask_waiters (s : State) (fl : Nat) (x : Flask) : (setFlask s fl x).waiters = s.waiters := rfl
@[simp] theorem setFlask_redirects (s : State) (fl : Nat) (x : Flask) : (setFlask s fl x).redirects = s.redirects := rfl
@[simp] theorem setFlask_svc (s : State) (fl : Nat) (x : Flask) : (setFlask s fl x).svc = s.svc := rfl
@[simp] theorem setFlask_svcFin (s : State) (fl : Nat) (x : Flask) : (setFlask s fl x).svcFin = s.svcFin := rfl
@[simp] theorem setFlask_ctxSeen (s : State) (fl : Nat) (x : Flask) : (setFlask s fl x).ctxSeen = s.ctxSeen := rfl
@[simp] theorem setFlask_early (s : State) (fl : Nat) (x : Flask) : (setFlask s fl x).early = s.early := rfl
@[simp] theorem setFlask_gangAt (s : State) (fl : Nat) (x : Flask) : (setFlask s fl x).gangAt = s.gangAt := rfl
@[simp] theorem setFlask_hostOut (s : State) (fl : Nat) (x : Flask) : (setFlask s fl x).hostOut = s.hostOut := rfl
@[simp] theorem setFlask_retired (s : State) (fl : Nat) (x : Flask) : (setFlask s fl x).retired = s.retired := rfl
@[simp] theorem setFlask_granules (s : State) (fl : Nat) (x : Flask) : (setFlask s fl x).granules = s.granules := rfl
@[simp] theorem setFlask_fitInval (s : State) (fl : Nat) (x : Flask) : (setFlask s fl x).fitInval = s.fitInval := rfl
@[simp] theorem setFlask_staging (s : State) (fl : Nat) (x : Flask) : (setFlask s fl x).staging = s.staging := rfl
@[simp] theorem setFlask_mgmtOut (s : State) (fl : Nat) (x : Flask) : (setFlask s fl x).mgmtOut = s.mgmtOut := rfl
@[simp] theorem setFlask_corrected (s : State) (fl : Nat) (x : Flask) : (setFlask s fl x).corrected = s.corrected := rfl
@[simp] theorem setFlask_boot (s : State) (fl : Nat) (x : Flask) : (setFlask s fl x).boot = s.boot := rfl

@[simp] theorem modFlask_fab (s : State) (fl : Nat) (f : Flask → Flask) : (modFlask s fl f).fab = s.fab := rfl
@[simp] theorem modFlask_droneE (s : State) (fl : Nat) (f : Flask → Flask) : (modFlask s fl f).droneE = s.droneE := rfl
@[simp] theorem modFlask_prevE (s : State) (fl : Nat) (f : Flask → Flask) : (modFlask s fl f).prevE = s.prevE := rfl
@[simp] theorem modFlask_slew (s : State) (fl : Nat) (f : Flask → Flask) : (modFlask s fl f).slew = s.slew := rfl
@[simp] theorem modFlask_firstLock (s : State) (fl : Nat) (f : Flask → Flask) : (modFlask s fl f).firstLock = s.firstLock := rfl
@[simp] theorem modFlask_lastSync (s : State) (fl : Nat) (f : Flask → Flask) : (modFlask s fl f).lastSync = s.lastSync := rfl
@[simp] theorem modFlask_agenda (s : State) (fl : Nat) (f : Flask → Flask) : (modFlask s fl f).agenda = s.agenda := rfl
@[simp] theorem modFlask_cur (s : State) (fl : Nat) (f : Flask → Flask) : (modFlask s fl f).cur = s.cur := rfl
@[simp] theorem modFlask_free (s : State) (fl : Nat) (f : Flask → Flask) : (modFlask s fl f).free = s.free := rfl
@[simp] theorem modFlask_nextUid (s : State) (fl : Nat) (f : Flask → Flask) : (modFlask s fl f).nextUid = s.nextUid := rfl
@[simp] theorem modFlask_sys (s : State) (fl : Nat) (f : Flask → Flask) : (modFlask s fl f).sys = s.sys := rfl
@[simp] theorem modFlask_mem (s : State) (fl : Nat) (f : Flask → Flask) : (modFlask s fl f).mem = s.mem := rfl
@[simp] theorem modFlask_lines (s : State) (fl : Nat) (f : Flask → Flask) : (modFlask s fl f).lines = s.lines := rfl
@[simp] theorem modFlask_flasks (s : State) (fl : Nat) (f : Flask → Flask) :
    (modFlask s fl f).flasks = mput s.flasks fl (f (flaskAt s fl)) := rfl
@[simp] theorem modFlask_pclus (s : State) (fl : Nat) (f : Flask → Flask) : (modFlask s fl f).pclus = s.pclus := rfl
@[simp] theorem modFlask_cores (s : State) (fl : Nat) (f : Flask → Flask) : (modFlask s fl f).cores = s.cores := rfl
@[simp] theorem modFlask_hbm (s : State) (fl : Nat) (f : Flask → Flask) : (modFlask s fl f).hbm = s.hbm := rfl
@[simp] theorem modFlask_ports (s : State) (fl : Nat) (f : Flask → Flask) : (modFlask s fl f).ports = s.ports := rfl
@[simp] theorem modFlask_ctxs (s : State) (fl : Nat) (f : Flask → Flask) : (modFlask s fl f).ctxs = s.ctxs := rfl
@[simp] theorem modFlask_groups (s : State) (fl : Nat) (f : Flask → Flask) : (modFlask s fl f).groups = s.groups := rfl
@[simp] theorem modFlask_parked (s : State) (fl : Nat) (f : Flask → Flask) : (modFlask s fl f).parked = s.parked := rfl
@[simp] theorem modFlask_teams (s : State) (fl : Nat) (f : Flask → Flask) : (modFlask s fl f).teams = s.teams := rfl
@[simp] theorem modFlask_grids (s : State) (fl : Nat) (f : Flask → Flask) : (modFlask s fl f).grids = s.grids := rfl
@[simp] theorem modFlask_tasks (s : State) (fl : Nat) (f : Flask → Flask) : (modFlask s fl f).tasks = s.tasks := rfl
@[simp] theorem modFlask_ops (s : State) (fl : Nat) (f : Flask → Flask) : (modFlask s fl f).ops = s.ops := rfl
@[simp] theorem modFlask_results (s : State) (fl : Nat) (f : Flask → Flask) : (modFlask s fl f).results = s.results := rfl
@[simp] theorem modFlask_preqs (s : State) (fl : Nat) (f : Flask → Flask) : (modFlask s fl f).preqs = s.preqs := rfl
@[simp] theorem modFlask_blocks (s : State) (fl : Nat) (f : Flask → Flask) : (modFlask s fl f).blocks = s.blocks := rfl
@[simp] theorem modFlask_subs (s : State) (fl : Nat) (f : Flask → Flask) : (modFlask s fl f).subs = s.subs := rfl
@[simp] theorem modFlask_consorts (s : State) (fl : Nat) (f : Flask → Flask) : (modFlask s fl f).consorts = s.consorts := rfl
@[simp] theorem modFlask_entries (s : State) (fl : Nat) (f : Flask → Flask) : (modFlask s fl f).entries = s.entries := rfl
@[simp] theorem modFlask_nmWait (s : State) (fl : Nat) (f : Flask → Flask) : (modFlask s fl f).nmWait = s.nmWait := rfl
@[simp] theorem modFlask_decs (s : State) (fl : Nat) (f : Flask → Flask) : (modFlask s fl f).decs = s.decs := rfl
@[simp] theorem modFlask_msgs (s : State) (fl : Nat) (f : Flask → Flask) : (modFlask s fl f).msgs = s.msgs := rfl
@[simp] theorem modFlask_invs (s : State) (fl : Nat) (f : Flask → Flask) : (modFlask s fl f).invs = s.invs := rfl
@[simp] theorem modFlask_fills (s : State) (fl : Nat) (f : Flask → Flask) : (modFlask s fl f).fills = s.fills := rfl
@[simp] theorem modFlask_notices (s : State) (fl : Nat) (f : Flask → Flask) : (modFlask s fl f).notices = s.notices := rfl
@[simp] theorem modFlask_cupolaIrq (s : State) (fl : Nat) (f : Flask → Flask) : (modFlask s fl f).cupolaIrq = s.cupolaIrq := rfl
@[simp] theorem modFlask_gangs (s : State) (fl : Nat) (f : Flask → Flask) : (modFlask s fl f).gangs = s.gangs := rfl
@[simp] theorem modFlask_gangStuck (s : State) (fl : Nat) (f : Flask → Flask) : (modFlask s fl f).gangStuck = s.gangStuck := rfl
@[simp] theorem modFlask_waiters (s : State) (fl : Nat) (f : Flask → Flask) : (modFlask s fl f).waiters = s.waiters := rfl
@[simp] theorem modFlask_redirects (s : State) (fl : Nat) (f : Flask → Flask) : (modFlask s fl f).redirects = s.redirects := rfl
@[simp] theorem modFlask_svc (s : State) (fl : Nat) (f : Flask → Flask) : (modFlask s fl f).svc = s.svc := rfl
@[simp] theorem modFlask_svcFin (s : State) (fl : Nat) (f : Flask → Flask) : (modFlask s fl f).svcFin = s.svcFin := rfl
@[simp] theorem modFlask_ctxSeen (s : State) (fl : Nat) (f : Flask → Flask) : (modFlask s fl f).ctxSeen = s.ctxSeen := rfl
@[simp] theorem modFlask_early (s : State) (fl : Nat) (f : Flask → Flask) : (modFlask s fl f).early = s.early := rfl
@[simp] theorem modFlask_gangAt (s : State) (fl : Nat) (f : Flask → Flask) : (modFlask s fl f).gangAt = s.gangAt := rfl
@[simp] theorem modFlask_hostOut (s : State) (fl : Nat) (f : Flask → Flask) : (modFlask s fl f).hostOut = s.hostOut := rfl
@[simp] theorem modFlask_retired (s : State) (fl : Nat) (f : Flask → Flask) : (modFlask s fl f).retired = s.retired := rfl
@[simp] theorem modFlask_granules (s : State) (fl : Nat) (f : Flask → Flask) : (modFlask s fl f).granules = s.granules := rfl
@[simp] theorem modFlask_fitInval (s : State) (fl : Nat) (f : Flask → Flask) : (modFlask s fl f).fitInval = s.fitInval := rfl
@[simp] theorem modFlask_staging (s : State) (fl : Nat) (f : Flask → Flask) : (modFlask s fl f).staging = s.staging := rfl
@[simp] theorem modFlask_mgmtOut (s : State) (fl : Nat) (f : Flask → Flask) : (modFlask s fl f).mgmtOut = s.mgmtOut := rfl
@[simp] theorem modFlask_corrected (s : State) (fl : Nat) (f : Flask → Flask) : (modFlask s fl f).corrected = s.corrected := rfl
@[simp] theorem modFlask_boot (s : State) (fl : Nat) (f : Flask → Flask) : (modFlask s fl f).boot = s.boot := rfl

@[simp] theorem setClus_fab (s : State) (c : Nat) (x : PClus) : (setClus s c x).fab = s.fab := rfl
@[simp] theorem setClus_droneE (s : State) (c : Nat) (x : PClus) : (setClus s c x).droneE = s.droneE := rfl
@[simp] theorem setClus_prevE (s : State) (c : Nat) (x : PClus) : (setClus s c x).prevE = s.prevE := rfl
@[simp] theorem setClus_slew (s : State) (c : Nat) (x : PClus) : (setClus s c x).slew = s.slew := rfl
@[simp] theorem setClus_firstLock (s : State) (c : Nat) (x : PClus) : (setClus s c x).firstLock = s.firstLock := rfl
@[simp] theorem setClus_lastSync (s : State) (c : Nat) (x : PClus) : (setClus s c x).lastSync = s.lastSync := rfl
@[simp] theorem setClus_agenda (s : State) (c : Nat) (x : PClus) : (setClus s c x).agenda = s.agenda := rfl
@[simp] theorem setClus_cur (s : State) (c : Nat) (x : PClus) : (setClus s c x).cur = s.cur := rfl
@[simp] theorem setClus_free (s : State) (c : Nat) (x : PClus) : (setClus s c x).free = s.free := rfl
@[simp] theorem setClus_nextUid (s : State) (c : Nat) (x : PClus) : (setClus s c x).nextUid = s.nextUid := rfl
@[simp] theorem setClus_sys (s : State) (c : Nat) (x : PClus) : (setClus s c x).sys = s.sys := rfl
@[simp] theorem setClus_mem (s : State) (c : Nat) (x : PClus) : (setClus s c x).mem = s.mem := rfl
@[simp] theorem setClus_lines (s : State) (c : Nat) (x : PClus) : (setClus s c x).lines = s.lines := rfl
@[simp] theorem setClus_flasks (s : State) (c : Nat) (x : PClus) : (setClus s c x).flasks = s.flasks := rfl
@[simp] theorem setClus_pclus (s : State) (c : Nat) (x : PClus) :
    (setClus s c x).pclus = mput s.pclus c x := rfl
@[simp] theorem setClus_cores (s : State) (c : Nat) (x : PClus) : (setClus s c x).cores = s.cores := rfl
@[simp] theorem setClus_hbm (s : State) (c : Nat) (x : PClus) : (setClus s c x).hbm = s.hbm := rfl
@[simp] theorem setClus_ports (s : State) (c : Nat) (x : PClus) : (setClus s c x).ports = s.ports := rfl
@[simp] theorem setClus_ctxs (s : State) (c : Nat) (x : PClus) : (setClus s c x).ctxs = s.ctxs := rfl
@[simp] theorem setClus_groups (s : State) (c : Nat) (x : PClus) : (setClus s c x).groups = s.groups := rfl
@[simp] theorem setClus_parked (s : State) (c : Nat) (x : PClus) : (setClus s c x).parked = s.parked := rfl
@[simp] theorem setClus_teams (s : State) (c : Nat) (x : PClus) : (setClus s c x).teams = s.teams := rfl
@[simp] theorem setClus_grids (s : State) (c : Nat) (x : PClus) : (setClus s c x).grids = s.grids := rfl
@[simp] theorem setClus_tasks (s : State) (c : Nat) (x : PClus) : (setClus s c x).tasks = s.tasks := rfl
@[simp] theorem setClus_ops (s : State) (c : Nat) (x : PClus) : (setClus s c x).ops = s.ops := rfl
@[simp] theorem setClus_results (s : State) (c : Nat) (x : PClus) : (setClus s c x).results = s.results := rfl
@[simp] theorem setClus_preqs (s : State) (c : Nat) (x : PClus) : (setClus s c x).preqs = s.preqs := rfl
@[simp] theorem setClus_blocks (s : State) (c : Nat) (x : PClus) : (setClus s c x).blocks = s.blocks := rfl
@[simp] theorem setClus_subs (s : State) (c : Nat) (x : PClus) : (setClus s c x).subs = s.subs := rfl
@[simp] theorem setClus_consorts (s : State) (c : Nat) (x : PClus) : (setClus s c x).consorts = s.consorts := rfl
@[simp] theorem setClus_entries (s : State) (c : Nat) (x : PClus) : (setClus s c x).entries = s.entries := rfl
@[simp] theorem setClus_nmWait (s : State) (c : Nat) (x : PClus) : (setClus s c x).nmWait = s.nmWait := rfl
@[simp] theorem setClus_decs (s : State) (c : Nat) (x : PClus) : (setClus s c x).decs = s.decs := rfl
@[simp] theorem setClus_msgs (s : State) (c : Nat) (x : PClus) : (setClus s c x).msgs = s.msgs := rfl
@[simp] theorem setClus_invs (s : State) (c : Nat) (x : PClus) : (setClus s c x).invs = s.invs := rfl
@[simp] theorem setClus_fills (s : State) (c : Nat) (x : PClus) : (setClus s c x).fills = s.fills := rfl
@[simp] theorem setClus_notices (s : State) (c : Nat) (x : PClus) : (setClus s c x).notices = s.notices := rfl
@[simp] theorem setClus_cupolaIrq (s : State) (c : Nat) (x : PClus) : (setClus s c x).cupolaIrq = s.cupolaIrq := rfl
@[simp] theorem setClus_gangs (s : State) (c : Nat) (x : PClus) : (setClus s c x).gangs = s.gangs := rfl
@[simp] theorem setClus_gangStuck (s : State) (c : Nat) (x : PClus) : (setClus s c x).gangStuck = s.gangStuck := rfl
@[simp] theorem setClus_waiters (s : State) (c : Nat) (x : PClus) : (setClus s c x).waiters = s.waiters := rfl
@[simp] theorem setClus_redirects (s : State) (c : Nat) (x : PClus) : (setClus s c x).redirects = s.redirects := rfl
@[simp] theorem setClus_svc (s : State) (c : Nat) (x : PClus) : (setClus s c x).svc = s.svc := rfl
@[simp] theorem setClus_svcFin (s : State) (c : Nat) (x : PClus) : (setClus s c x).svcFin = s.svcFin := rfl
@[simp] theorem setClus_ctxSeen (s : State) (c : Nat) (x : PClus) : (setClus s c x).ctxSeen = s.ctxSeen := rfl
@[simp] theorem setClus_early (s : State) (c : Nat) (x : PClus) : (setClus s c x).early = s.early := rfl
@[simp] theorem setClus_gangAt (s : State) (c : Nat) (x : PClus) : (setClus s c x).gangAt = s.gangAt := rfl
@[simp] theorem setClus_hostOut (s : State) (c : Nat) (x : PClus) : (setClus s c x).hostOut = s.hostOut := rfl
@[simp] theorem setClus_retired (s : State) (c : Nat) (x : PClus) : (setClus s c x).retired = s.retired := rfl
@[simp] theorem setClus_granules (s : State) (c : Nat) (x : PClus) : (setClus s c x).granules = s.granules := rfl
@[simp] theorem setClus_fitInval (s : State) (c : Nat) (x : PClus) : (setClus s c x).fitInval = s.fitInval := rfl
@[simp] theorem setClus_staging (s : State) (c : Nat) (x : PClus) : (setClus s c x).staging = s.staging := rfl
@[simp] theorem setClus_mgmtOut (s : State) (c : Nat) (x : PClus) : (setClus s c x).mgmtOut = s.mgmtOut := rfl
@[simp] theorem setClus_corrected (s : State) (c : Nat) (x : PClus) : (setClus s c x).corrected = s.corrected := rfl
@[simp] theorem setClus_boot (s : State) (c : Nat) (x : PClus) : (setClus s c x).boot = s.boot := rfl

@[simp] theorem modClus_fab (s : State) (c : Nat) (f : PClus → PClus) : (modClus s c f).fab = s.fab := rfl
@[simp] theorem modClus_droneE (s : State) (c : Nat) (f : PClus → PClus) : (modClus s c f).droneE = s.droneE := rfl
@[simp] theorem modClus_prevE (s : State) (c : Nat) (f : PClus → PClus) : (modClus s c f).prevE = s.prevE := rfl
@[simp] theorem modClus_slew (s : State) (c : Nat) (f : PClus → PClus) : (modClus s c f).slew = s.slew := rfl
@[simp] theorem modClus_firstLock (s : State) (c : Nat) (f : PClus → PClus) : (modClus s c f).firstLock = s.firstLock := rfl
@[simp] theorem modClus_lastSync (s : State) (c : Nat) (f : PClus → PClus) : (modClus s c f).lastSync = s.lastSync := rfl
@[simp] theorem modClus_agenda (s : State) (c : Nat) (f : PClus → PClus) : (modClus s c f).agenda = s.agenda := rfl
@[simp] theorem modClus_cur (s : State) (c : Nat) (f : PClus → PClus) : (modClus s c f).cur = s.cur := rfl
@[simp] theorem modClus_free (s : State) (c : Nat) (f : PClus → PClus) : (modClus s c f).free = s.free := rfl
@[simp] theorem modClus_nextUid (s : State) (c : Nat) (f : PClus → PClus) : (modClus s c f).nextUid = s.nextUid := rfl
@[simp] theorem modClus_sys (s : State) (c : Nat) (f : PClus → PClus) : (modClus s c f).sys = s.sys := rfl
@[simp] theorem modClus_mem (s : State) (c : Nat) (f : PClus → PClus) : (modClus s c f).mem = s.mem := rfl
@[simp] theorem modClus_lines (s : State) (c : Nat) (f : PClus → PClus) : (modClus s c f).lines = s.lines := rfl
@[simp] theorem modClus_flasks (s : State) (c : Nat) (f : PClus → PClus) : (modClus s c f).flasks = s.flasks := rfl
@[simp] theorem modClus_pclus (s : State) (c : Nat) (f : PClus → PClus) :
    (modClus s c f).pclus = mput s.pclus c (f (clusAt s c)) := rfl
@[simp] theorem modClus_cores (s : State) (c : Nat) (f : PClus → PClus) : (modClus s c f).cores = s.cores := rfl
@[simp] theorem modClus_hbm (s : State) (c : Nat) (f : PClus → PClus) : (modClus s c f).hbm = s.hbm := rfl
@[simp] theorem modClus_ports (s : State) (c : Nat) (f : PClus → PClus) : (modClus s c f).ports = s.ports := rfl
@[simp] theorem modClus_ctxs (s : State) (c : Nat) (f : PClus → PClus) : (modClus s c f).ctxs = s.ctxs := rfl
@[simp] theorem modClus_groups (s : State) (c : Nat) (f : PClus → PClus) : (modClus s c f).groups = s.groups := rfl
@[simp] theorem modClus_parked (s : State) (c : Nat) (f : PClus → PClus) : (modClus s c f).parked = s.parked := rfl
@[simp] theorem modClus_teams (s : State) (c : Nat) (f : PClus → PClus) : (modClus s c f).teams = s.teams := rfl
@[simp] theorem modClus_grids (s : State) (c : Nat) (f : PClus → PClus) : (modClus s c f).grids = s.grids := rfl
@[simp] theorem modClus_tasks (s : State) (c : Nat) (f : PClus → PClus) : (modClus s c f).tasks = s.tasks := rfl
@[simp] theorem modClus_ops (s : State) (c : Nat) (f : PClus → PClus) : (modClus s c f).ops = s.ops := rfl
@[simp] theorem modClus_results (s : State) (c : Nat) (f : PClus → PClus) : (modClus s c f).results = s.results := rfl
@[simp] theorem modClus_preqs (s : State) (c : Nat) (f : PClus → PClus) : (modClus s c f).preqs = s.preqs := rfl
@[simp] theorem modClus_blocks (s : State) (c : Nat) (f : PClus → PClus) : (modClus s c f).blocks = s.blocks := rfl
@[simp] theorem modClus_subs (s : State) (c : Nat) (f : PClus → PClus) : (modClus s c f).subs = s.subs := rfl
@[simp] theorem modClus_consorts (s : State) (c : Nat) (f : PClus → PClus) : (modClus s c f).consorts = s.consorts := rfl
@[simp] theorem modClus_entries (s : State) (c : Nat) (f : PClus → PClus) : (modClus s c f).entries = s.entries := rfl
@[simp] theorem modClus_nmWait (s : State) (c : Nat) (f : PClus → PClus) : (modClus s c f).nmWait = s.nmWait := rfl
@[simp] theorem modClus_decs (s : State) (c : Nat) (f : PClus → PClus) : (modClus s c f).decs = s.decs := rfl
@[simp] theorem modClus_msgs (s : State) (c : Nat) (f : PClus → PClus) : (modClus s c f).msgs = s.msgs := rfl
@[simp] theorem modClus_invs (s : State) (c : Nat) (f : PClus → PClus) : (modClus s c f).invs = s.invs := rfl
@[simp] theorem modClus_fills (s : State) (c : Nat) (f : PClus → PClus) : (modClus s c f).fills = s.fills := rfl
@[simp] theorem modClus_notices (s : State) (c : Nat) (f : PClus → PClus) : (modClus s c f).notices = s.notices := rfl
@[simp] theorem modClus_cupolaIrq (s : State) (c : Nat) (f : PClus → PClus) : (modClus s c f).cupolaIrq = s.cupolaIrq := rfl
@[simp] theorem modClus_gangs (s : State) (c : Nat) (f : PClus → PClus) : (modClus s c f).gangs = s.gangs := rfl
@[simp] theorem modClus_gangStuck (s : State) (c : Nat) (f : PClus → PClus) : (modClus s c f).gangStuck = s.gangStuck := rfl
@[simp] theorem modClus_waiters (s : State) (c : Nat) (f : PClus → PClus) : (modClus s c f).waiters = s.waiters := rfl
@[simp] theorem modClus_redirects (s : State) (c : Nat) (f : PClus → PClus) : (modClus s c f).redirects = s.redirects := rfl
@[simp] theorem modClus_svc (s : State) (c : Nat) (f : PClus → PClus) : (modClus s c f).svc = s.svc := rfl
@[simp] theorem modClus_svcFin (s : State) (c : Nat) (f : PClus → PClus) : (modClus s c f).svcFin = s.svcFin := rfl
@[simp] theorem modClus_ctxSeen (s : State) (c : Nat) (f : PClus → PClus) : (modClus s c f).ctxSeen = s.ctxSeen := rfl
@[simp] theorem modClus_early (s : State) (c : Nat) (f : PClus → PClus) : (modClus s c f).early = s.early := rfl
@[simp] theorem modClus_gangAt (s : State) (c : Nat) (f : PClus → PClus) : (modClus s c f).gangAt = s.gangAt := rfl
@[simp] theorem modClus_hostOut (s : State) (c : Nat) (f : PClus → PClus) : (modClus s c f).hostOut = s.hostOut := rfl
@[simp] theorem modClus_retired (s : State) (c : Nat) (f : PClus → PClus) : (modClus s c f).retired = s.retired := rfl
@[simp] theorem modClus_granules (s : State) (c : Nat) (f : PClus → PClus) : (modClus s c f).granules = s.granules := rfl
@[simp] theorem modClus_fitInval (s : State) (c : Nat) (f : PClus → PClus) : (modClus s c f).fitInval = s.fitInval := rfl
@[simp] theorem modClus_staging (s : State) (c : Nat) (f : PClus → PClus) : (modClus s c f).staging = s.staging := rfl
@[simp] theorem modClus_mgmtOut (s : State) (c : Nat) (f : PClus → PClus) : (modClus s c f).mgmtOut = s.mgmtOut := rfl
@[simp] theorem modClus_corrected (s : State) (c : Nat) (f : PClus → PClus) : (modClus s c f).corrected = s.corrected := rfl
@[simp] theorem modClus_boot (s : State) (c : Nat) (f : PClus → PClus) : (modClus s c f).boot = s.boot := rfl

@[simp] theorem modTeam_fab (s : State) (uid : Nat) (f : Team → Team) : (modTeam s uid f).fab = s.fab := rfl
@[simp] theorem modTeam_droneE (s : State) (uid : Nat) (f : Team → Team) : (modTeam s uid f).droneE = s.droneE := rfl
@[simp] theorem modTeam_prevE (s : State) (uid : Nat) (f : Team → Team) : (modTeam s uid f).prevE = s.prevE := rfl
@[simp] theorem modTeam_slew (s : State) (uid : Nat) (f : Team → Team) : (modTeam s uid f).slew = s.slew := rfl
@[simp] theorem modTeam_firstLock (s : State) (uid : Nat) (f : Team → Team) : (modTeam s uid f).firstLock = s.firstLock := rfl
@[simp] theorem modTeam_lastSync (s : State) (uid : Nat) (f : Team → Team) : (modTeam s uid f).lastSync = s.lastSync := rfl
@[simp] theorem modTeam_agenda (s : State) (uid : Nat) (f : Team → Team) : (modTeam s uid f).agenda = s.agenda := rfl
@[simp] theorem modTeam_cur (s : State) (uid : Nat) (f : Team → Team) : (modTeam s uid f).cur = s.cur := rfl
@[simp] theorem modTeam_free (s : State) (uid : Nat) (f : Team → Team) : (modTeam s uid f).free = s.free := rfl
@[simp] theorem modTeam_nextUid (s : State) (uid : Nat) (f : Team → Team) : (modTeam s uid f).nextUid = s.nextUid := rfl
@[simp] theorem modTeam_sys (s : State) (uid : Nat) (f : Team → Team) : (modTeam s uid f).sys = s.sys := rfl
@[simp] theorem modTeam_mem (s : State) (uid : Nat) (f : Team → Team) : (modTeam s uid f).mem = s.mem := rfl
@[simp] theorem modTeam_lines (s : State) (uid : Nat) (f : Team → Team) : (modTeam s uid f).lines = s.lines := rfl
@[simp] theorem modTeam_flasks (s : State) (uid : Nat) (f : Team → Team) : (modTeam s uid f).flasks = s.flasks := rfl
@[simp] theorem modTeam_pclus (s : State) (uid : Nat) (f : Team → Team) : (modTeam s uid f).pclus = s.pclus := rfl
@[simp] theorem modTeam_cores (s : State) (uid : Nat) (f : Team → Team) : (modTeam s uid f).cores = s.cores := rfl
@[simp] theorem modTeam_hbm (s : State) (uid : Nat) (f : Team → Team) : (modTeam s uid f).hbm = s.hbm := rfl
@[simp] theorem modTeam_ports (s : State) (uid : Nat) (f : Team → Team) : (modTeam s uid f).ports = s.ports := rfl
@[simp] theorem modTeam_ctxs (s : State) (uid : Nat) (f : Team → Team) : (modTeam s uid f).ctxs = s.ctxs := rfl
@[simp] theorem modTeam_groups (s : State) (uid : Nat) (f : Team → Team) : (modTeam s uid f).groups = s.groups := rfl
@[simp] theorem modTeam_parked (s : State) (uid : Nat) (f : Team → Team) : (modTeam s uid f).parked = s.parked := rfl
@[simp] theorem modTeam_teams (s : State) (uid : Nat) (f : Team → Team) :
    (modTeam s uid f).teams = updFirst (fun t => t.uid == uid) f s.teams := rfl
@[simp] theorem modTeam_grids (s : State) (uid : Nat) (f : Team → Team) : (modTeam s uid f).grids = s.grids := rfl
@[simp] theorem modTeam_tasks (s : State) (uid : Nat) (f : Team → Team) : (modTeam s uid f).tasks = s.tasks := rfl
@[simp] theorem modTeam_ops (s : State) (uid : Nat) (f : Team → Team) : (modTeam s uid f).ops = s.ops := rfl
@[simp] theorem modTeam_results (s : State) (uid : Nat) (f : Team → Team) : (modTeam s uid f).results = s.results := rfl
@[simp] theorem modTeam_preqs (s : State) (uid : Nat) (f : Team → Team) : (modTeam s uid f).preqs = s.preqs := rfl
@[simp] theorem modTeam_blocks (s : State) (uid : Nat) (f : Team → Team) : (modTeam s uid f).blocks = s.blocks := rfl
@[simp] theorem modTeam_subs (s : State) (uid : Nat) (f : Team → Team) : (modTeam s uid f).subs = s.subs := rfl
@[simp] theorem modTeam_consorts (s : State) (uid : Nat) (f : Team → Team) : (modTeam s uid f).consorts = s.consorts := rfl
@[simp] theorem modTeam_entries (s : State) (uid : Nat) (f : Team → Team) : (modTeam s uid f).entries = s.entries := rfl
@[simp] theorem modTeam_nmWait (s : State) (uid : Nat) (f : Team → Team) : (modTeam s uid f).nmWait = s.nmWait := rfl
@[simp] theorem modTeam_decs (s : State) (uid : Nat) (f : Team → Team) : (modTeam s uid f).decs = s.decs := rfl
@[simp] theorem modTeam_msgs (s : State) (uid : Nat) (f : Team → Team) : (modTeam s uid f).msgs = s.msgs := rfl
@[simp] theorem modTeam_invs (s : State) (uid : Nat) (f : Team → Team) : (modTeam s uid f).invs = s.invs := rfl
@[simp] theorem modTeam_fills (s : State) (uid : Nat) (f : Team → Team) : (modTeam s uid f).fills = s.fills := rfl
@[simp] theorem modTeam_notices (s : State) (uid : Nat) (f : Team → Team) : (modTeam s uid f).notices = s.notices := rfl
@[simp] theorem modTeam_cupolaIrq (s : State) (uid : Nat) (f : Team → Team) : (modTeam s uid f).cupolaIrq = s.cupolaIrq := rfl
@[simp] theorem modTeam_gangs (s : State) (uid : Nat) (f : Team → Team) : (modTeam s uid f).gangs = s.gangs := rfl
@[simp] theorem modTeam_gangStuck (s : State) (uid : Nat) (f : Team → Team) : (modTeam s uid f).gangStuck = s.gangStuck := rfl
@[simp] theorem modTeam_waiters (s : State) (uid : Nat) (f : Team → Team) : (modTeam s uid f).waiters = s.waiters := rfl
@[simp] theorem modTeam_redirects (s : State) (uid : Nat) (f : Team → Team) : (modTeam s uid f).redirects = s.redirects := rfl
@[simp] theorem modTeam_svc (s : State) (uid : Nat) (f : Team → Team) : (modTeam s uid f).svc = s.svc := rfl
@[simp] theorem modTeam_svcFin (s : State) (uid : Nat) (f : Team → Team) : (modTeam s uid f).svcFin = s.svcFin := rfl
@[simp] theorem modTeam_ctxSeen (s : State) (uid : Nat) (f : Team → Team) : (modTeam s uid f).ctxSeen = s.ctxSeen := rfl
@[simp] theorem modTeam_early (s : State) (uid : Nat) (f : Team → Team) : (modTeam s uid f).early = s.early := rfl
@[simp] theorem modTeam_gangAt (s : State) (uid : Nat) (f : Team → Team) : (modTeam s uid f).gangAt = s.gangAt := rfl
@[simp] theorem modTeam_hostOut (s : State) (uid : Nat) (f : Team → Team) : (modTeam s uid f).hostOut = s.hostOut := rfl
@[simp] theorem modTeam_retired (s : State) (uid : Nat) (f : Team → Team) : (modTeam s uid f).retired = s.retired := rfl
@[simp] theorem modTeam_granules (s : State) (uid : Nat) (f : Team → Team) : (modTeam s uid f).granules = s.granules := rfl
@[simp] theorem modTeam_fitInval (s : State) (uid : Nat) (f : Team → Team) : (modTeam s uid f).fitInval = s.fitInval := rfl
@[simp] theorem modTeam_staging (s : State) (uid : Nat) (f : Team → Team) : (modTeam s uid f).staging = s.staging := rfl
@[simp] theorem modTeam_mgmtOut (s : State) (uid : Nat) (f : Team → Team) : (modTeam s uid f).mgmtOut = s.mgmtOut := rfl
@[simp] theorem modTeam_corrected (s : State) (uid : Nat) (f : Team → Team) : (modTeam s uid f).corrected = s.corrected := rfl
@[simp] theorem modTeam_boot (s : State) (uid : Nat) (f : Team → Team) : (modTeam s uid f).boot = s.boot := rfl

@[simp] theorem modGrid_fab (s : State) (uid : Nat) (f : Grid → Grid) : (modGrid s uid f).fab = s.fab := rfl
@[simp] theorem modGrid_droneE (s : State) (uid : Nat) (f : Grid → Grid) : (modGrid s uid f).droneE = s.droneE := rfl
@[simp] theorem modGrid_prevE (s : State) (uid : Nat) (f : Grid → Grid) : (modGrid s uid f).prevE = s.prevE := rfl
@[simp] theorem modGrid_slew (s : State) (uid : Nat) (f : Grid → Grid) : (modGrid s uid f).slew = s.slew := rfl
@[simp] theorem modGrid_firstLock (s : State) (uid : Nat) (f : Grid → Grid) : (modGrid s uid f).firstLock = s.firstLock := rfl
@[simp] theorem modGrid_lastSync (s : State) (uid : Nat) (f : Grid → Grid) : (modGrid s uid f).lastSync = s.lastSync := rfl
@[simp] theorem modGrid_agenda (s : State) (uid : Nat) (f : Grid → Grid) : (modGrid s uid f).agenda = s.agenda := rfl
@[simp] theorem modGrid_cur (s : State) (uid : Nat) (f : Grid → Grid) : (modGrid s uid f).cur = s.cur := rfl
@[simp] theorem modGrid_free (s : State) (uid : Nat) (f : Grid → Grid) : (modGrid s uid f).free = s.free := rfl
@[simp] theorem modGrid_nextUid (s : State) (uid : Nat) (f : Grid → Grid) : (modGrid s uid f).nextUid = s.nextUid := rfl
@[simp] theorem modGrid_sys (s : State) (uid : Nat) (f : Grid → Grid) : (modGrid s uid f).sys = s.sys := rfl
@[simp] theorem modGrid_mem (s : State) (uid : Nat) (f : Grid → Grid) : (modGrid s uid f).mem = s.mem := rfl
@[simp] theorem modGrid_lines (s : State) (uid : Nat) (f : Grid → Grid) : (modGrid s uid f).lines = s.lines := rfl
@[simp] theorem modGrid_flasks (s : State) (uid : Nat) (f : Grid → Grid) : (modGrid s uid f).flasks = s.flasks := rfl
@[simp] theorem modGrid_pclus (s : State) (uid : Nat) (f : Grid → Grid) : (modGrid s uid f).pclus = s.pclus := rfl
@[simp] theorem modGrid_cores (s : State) (uid : Nat) (f : Grid → Grid) : (modGrid s uid f).cores = s.cores := rfl
@[simp] theorem modGrid_hbm (s : State) (uid : Nat) (f : Grid → Grid) : (modGrid s uid f).hbm = s.hbm := rfl
@[simp] theorem modGrid_ports (s : State) (uid : Nat) (f : Grid → Grid) : (modGrid s uid f).ports = s.ports := rfl
@[simp] theorem modGrid_ctxs (s : State) (uid : Nat) (f : Grid → Grid) : (modGrid s uid f).ctxs = s.ctxs := rfl
@[simp] theorem modGrid_groups (s : State) (uid : Nat) (f : Grid → Grid) : (modGrid s uid f).groups = s.groups := rfl
@[simp] theorem modGrid_parked (s : State) (uid : Nat) (f : Grid → Grid) : (modGrid s uid f).parked = s.parked := rfl
@[simp] theorem modGrid_teams (s : State) (uid : Nat) (f : Grid → Grid) : (modGrid s uid f).teams = s.teams := rfl
@[simp] theorem modGrid_grids (s : State) (uid : Nat) (f : Grid → Grid) :
    (modGrid s uid f).grids = updFirst (fun t => t.uid == uid) f s.grids := rfl
@[simp] theorem modGrid_tasks (s : State) (uid : Nat) (f : Grid → Grid) : (modGrid s uid f).tasks = s.tasks := rfl
@[simp] theorem modGrid_ops (s : State) (uid : Nat) (f : Grid → Grid) : (modGrid s uid f).ops = s.ops := rfl
@[simp] theorem modGrid_results (s : State) (uid : Nat) (f : Grid → Grid) : (modGrid s uid f).results = s.results := rfl
@[simp] theorem modGrid_preqs (s : State) (uid : Nat) (f : Grid → Grid) : (modGrid s uid f).preqs = s.preqs := rfl
@[simp] theorem modGrid_blocks (s : State) (uid : Nat) (f : Grid → Grid) : (modGrid s uid f).blocks = s.blocks := rfl
@[simp] theorem modGrid_subs (s : State) (uid : Nat) (f : Grid → Grid) : (modGrid s uid f).subs = s.subs := rfl
@[simp] theorem modGrid_consorts (s : State) (uid : Nat) (f : Grid → Grid) : (modGrid s uid f).consorts = s.consorts := rfl
@[simp] theorem modGrid_entries (s : State) (uid : Nat) (f : Grid → Grid) : (modGrid s uid f).entries = s.entries := rfl
@[simp] theorem modGrid_nmWait (s : State) (uid : Nat) (f : Grid → Grid) : (modGrid s uid f).nmWait = s.nmWait := rfl
@[simp] theorem modGrid_decs (s : State) (uid : Nat) (f : Grid → Grid) : (modGrid s uid f).decs = s.decs := rfl
@[simp] theorem modGrid_msgs (s : State) (uid : Nat) (f : Grid → Grid) : (modGrid s uid f).msgs = s.msgs := rfl
@[simp] theorem modGrid_invs (s : State) (uid : Nat) (f : Grid → Grid) : (modGrid s uid f).invs = s.invs := rfl
@[simp] theorem modGrid_fills (s : State) (uid : Nat) (f : Grid → Grid) : (modGrid s uid f).fills = s.fills := rfl
@[simp] theorem modGrid_notices (s : State) (uid : Nat) (f : Grid → Grid) : (modGrid s uid f).notices = s.notices := rfl
@[simp] theorem modGrid_cupolaIrq (s : State) (uid : Nat) (f : Grid → Grid) : (modGrid s uid f).cupolaIrq = s.cupolaIrq := rfl
@[simp] theorem modGrid_gangs (s : State) (uid : Nat) (f : Grid → Grid) : (modGrid s uid f).gangs = s.gangs := rfl
@[simp] theorem modGrid_gangStuck (s : State) (uid : Nat) (f : Grid → Grid) : (modGrid s uid f).gangStuck = s.gangStuck := rfl
@[simp] theorem modGrid_waiters (s : State) (uid : Nat) (f : Grid → Grid) : (modGrid s uid f).waiters = s.waiters := rfl
@[simp] theorem modGrid_redirects (s : State) (uid : Nat) (f : Grid → Grid) : (modGrid s uid f).redirects = s.redirects := rfl
@[simp] theorem modGrid_svc (s : State) (uid : Nat) (f : Grid → Grid) : (modGrid s uid f).svc = s.svc := rfl
@[simp] theorem modGrid_svcFin (s : State) (uid : Nat) (f : Grid → Grid) : (modGrid s uid f).svcFin = s.svcFin := rfl
@[simp] theorem modGrid_ctxSeen (s : State) (uid : Nat) (f : Grid → Grid) : (modGrid s uid f).ctxSeen = s.ctxSeen := rfl
@[simp] theorem modGrid_early (s : State) (uid : Nat) (f : Grid → Grid) : (modGrid s uid f).early = s.early := rfl
@[simp] theorem modGrid_gangAt (s : State) (uid : Nat) (f : Grid → Grid) : (modGrid s uid f).gangAt = s.gangAt := rfl
@[simp] theorem modGrid_hostOut (s : State) (uid : Nat) (f : Grid → Grid) : (modGrid s uid f).hostOut = s.hostOut := rfl
@[simp] theorem modGrid_retired (s : State) (uid : Nat) (f : Grid → Grid) : (modGrid s uid f).retired = s.retired := rfl
@[simp] theorem modGrid_granules (s : State) (uid : Nat) (f : Grid → Grid) : (modGrid s uid f).granules = s.granules := rfl
@[simp] theorem modGrid_fitInval (s : State) (uid : Nat) (f : Grid → Grid) : (modGrid s uid f).fitInval = s.fitInval := rfl
@[simp] theorem modGrid_staging (s : State) (uid : Nat) (f : Grid → Grid) : (modGrid s uid f).staging = s.staging := rfl
@[simp] theorem modGrid_mgmtOut (s : State) (uid : Nat) (f : Grid → Grid) : (modGrid s uid f).mgmtOut = s.mgmtOut := rfl
@[simp] theorem modGrid_corrected (s : State) (uid : Nat) (f : Grid → Grid) : (modGrid s uid f).corrected = s.corrected := rfl
@[simp] theorem modGrid_boot (s : State) (uid : Nat) (f : Grid → Grid) : (modGrid s uid f).boot = s.boot := rfl

@[simp] theorem modTask_fab (s : State) (c : Nat) (h : DWord) (f : TaskE → TaskE) : (modTask s c h f).fab = s.fab := rfl
@[simp] theorem modTask_droneE (s : State) (c : Nat) (h : DWord) (f : TaskE → TaskE) : (modTask s c h f).droneE = s.droneE := rfl
@[simp] theorem modTask_prevE (s : State) (c : Nat) (h : DWord) (f : TaskE → TaskE) : (modTask s c h f).prevE = s.prevE := rfl
@[simp] theorem modTask_slew (s : State) (c : Nat) (h : DWord) (f : TaskE → TaskE) : (modTask s c h f).slew = s.slew := rfl
@[simp] theorem modTask_firstLock (s : State) (c : Nat) (h : DWord) (f : TaskE → TaskE) : (modTask s c h f).firstLock = s.firstLock := rfl
@[simp] theorem modTask_lastSync (s : State) (c : Nat) (h : DWord) (f : TaskE → TaskE) : (modTask s c h f).lastSync = s.lastSync := rfl
@[simp] theorem modTask_agenda (s : State) (c : Nat) (h : DWord) (f : TaskE → TaskE) : (modTask s c h f).agenda = s.agenda := rfl
@[simp] theorem modTask_cur (s : State) (c : Nat) (h : DWord) (f : TaskE → TaskE) : (modTask s c h f).cur = s.cur := rfl
@[simp] theorem modTask_free (s : State) (c : Nat) (h : DWord) (f : TaskE → TaskE) : (modTask s c h f).free = s.free := rfl
@[simp] theorem modTask_nextUid (s : State) (c : Nat) (h : DWord) (f : TaskE → TaskE) : (modTask s c h f).nextUid = s.nextUid := rfl
@[simp] theorem modTask_sys (s : State) (c : Nat) (h : DWord) (f : TaskE → TaskE) : (modTask s c h f).sys = s.sys := rfl
@[simp] theorem modTask_mem (s : State) (c : Nat) (h : DWord) (f : TaskE → TaskE) : (modTask s c h f).mem = s.mem := rfl
@[simp] theorem modTask_lines (s : State) (c : Nat) (h : DWord) (f : TaskE → TaskE) : (modTask s c h f).lines = s.lines := rfl
@[simp] theorem modTask_flasks (s : State) (c : Nat) (h : DWord) (f : TaskE → TaskE) : (modTask s c h f).flasks = s.flasks := rfl
@[simp] theorem modTask_pclus (s : State) (c : Nat) (h : DWord) (f : TaskE → TaskE) : (modTask s c h f).pclus = s.pclus := rfl
@[simp] theorem modTask_cores (s : State) (c : Nat) (h : DWord) (f : TaskE → TaskE) : (modTask s c h f).cores = s.cores := rfl
@[simp] theorem modTask_hbm (s : State) (c : Nat) (h : DWord) (f : TaskE → TaskE) : (modTask s c h f).hbm = s.hbm := rfl
@[simp] theorem modTask_ports (s : State) (c : Nat) (h : DWord) (f : TaskE → TaskE) : (modTask s c h f).ports = s.ports := rfl
@[simp] theorem modTask_ctxs (s : State) (c : Nat) (h : DWord) (f : TaskE → TaskE) : (modTask s c h f).ctxs = s.ctxs := rfl
@[simp] theorem modTask_groups (s : State) (c : Nat) (h : DWord) (f : TaskE → TaskE) : (modTask s c h f).groups = s.groups := rfl
@[simp] theorem modTask_parked (s : State) (c : Nat) (h : DWord) (f : TaskE → TaskE) : (modTask s c h f).parked = s.parked := rfl
@[simp] theorem modTask_teams (s : State) (c : Nat) (h : DWord) (f : TaskE → TaskE) : (modTask s c h f).teams = s.teams := rfl
@[simp] theorem modTask_grids (s : State) (c : Nat) (h : DWord) (f : TaskE → TaskE) : (modTask s c h f).grids = s.grids := rfl
@[simp] theorem modTask_tasks (s : State) (c : Nat) (h : DWord) (f : TaskE → TaskE) :
    (modTask s c h f).tasks = updFirst (fun t => t.ctx == c && t.handle == h) f s.tasks := rfl
@[simp] theorem modTask_ops (s : State) (c : Nat) (h : DWord) (f : TaskE → TaskE) : (modTask s c h f).ops = s.ops := rfl
@[simp] theorem modTask_results (s : State) (c : Nat) (h : DWord) (f : TaskE → TaskE) : (modTask s c h f).results = s.results := rfl
@[simp] theorem modTask_preqs (s : State) (c : Nat) (h : DWord) (f : TaskE → TaskE) : (modTask s c h f).preqs = s.preqs := rfl
@[simp] theorem modTask_blocks (s : State) (c : Nat) (h : DWord) (f : TaskE → TaskE) : (modTask s c h f).blocks = s.blocks := rfl
@[simp] theorem modTask_subs (s : State) (c : Nat) (h : DWord) (f : TaskE → TaskE) : (modTask s c h f).subs = s.subs := rfl
@[simp] theorem modTask_consorts (s : State) (c : Nat) (h : DWord) (f : TaskE → TaskE) : (modTask s c h f).consorts = s.consorts := rfl
@[simp] theorem modTask_entries (s : State) (c : Nat) (h : DWord) (f : TaskE → TaskE) : (modTask s c h f).entries = s.entries := rfl
@[simp] theorem modTask_nmWait (s : State) (c : Nat) (h : DWord) (f : TaskE → TaskE) : (modTask s c h f).nmWait = s.nmWait := rfl
@[simp] theorem modTask_decs (s : State) (c : Nat) (h : DWord) (f : TaskE → TaskE) : (modTask s c h f).decs = s.decs := rfl
@[simp] theorem modTask_msgs (s : State) (c : Nat) (h : DWord) (f : TaskE → TaskE) : (modTask s c h f).msgs = s.msgs := rfl
@[simp] theorem modTask_invs (s : State) (c : Nat) (h : DWord) (f : TaskE → TaskE) : (modTask s c h f).invs = s.invs := rfl
@[simp] theorem modTask_fills (s : State) (c : Nat) (h : DWord) (f : TaskE → TaskE) : (modTask s c h f).fills = s.fills := rfl
@[simp] theorem modTask_notices (s : State) (c : Nat) (h : DWord) (f : TaskE → TaskE) : (modTask s c h f).notices = s.notices := rfl
@[simp] theorem modTask_cupolaIrq (s : State) (c : Nat) (h : DWord) (f : TaskE → TaskE) : (modTask s c h f).cupolaIrq = s.cupolaIrq := rfl
@[simp] theorem modTask_gangs (s : State) (c : Nat) (h : DWord) (f : TaskE → TaskE) : (modTask s c h f).gangs = s.gangs := rfl
@[simp] theorem modTask_gangStuck (s : State) (c : Nat) (h : DWord) (f : TaskE → TaskE) : (modTask s c h f).gangStuck = s.gangStuck := rfl
@[simp] theorem modTask_waiters (s : State) (c : Nat) (h : DWord) (f : TaskE → TaskE) : (modTask s c h f).waiters = s.waiters := rfl
@[simp] theorem modTask_redirects (s : State) (c : Nat) (h : DWord) (f : TaskE → TaskE) : (modTask s c h f).redirects = s.redirects := rfl
@[simp] theorem modTask_svc (s : State) (c : Nat) (h : DWord) (f : TaskE → TaskE) : (modTask s c h f).svc = s.svc := rfl
@[simp] theorem modTask_svcFin (s : State) (c : Nat) (h : DWord) (f : TaskE → TaskE) : (modTask s c h f).svcFin = s.svcFin := rfl
@[simp] theorem modTask_ctxSeen (s : State) (c : Nat) (h : DWord) (f : TaskE → TaskE) : (modTask s c h f).ctxSeen = s.ctxSeen := rfl
@[simp] theorem modTask_early (s : State) (c : Nat) (h : DWord) (f : TaskE → TaskE) : (modTask s c h f).early = s.early := rfl
@[simp] theorem modTask_gangAt (s : State) (c : Nat) (h : DWord) (f : TaskE → TaskE) : (modTask s c h f).gangAt = s.gangAt := rfl
@[simp] theorem modTask_hostOut (s : State) (c : Nat) (h : DWord) (f : TaskE → TaskE) : (modTask s c h f).hostOut = s.hostOut := rfl
@[simp] theorem modTask_retired (s : State) (c : Nat) (h : DWord) (f : TaskE → TaskE) : (modTask s c h f).retired = s.retired := rfl
@[simp] theorem modTask_granules (s : State) (c : Nat) (h : DWord) (f : TaskE → TaskE) : (modTask s c h f).granules = s.granules := rfl
@[simp] theorem modTask_fitInval (s : State) (c : Nat) (h : DWord) (f : TaskE → TaskE) : (modTask s c h f).fitInval = s.fitInval := rfl
@[simp] theorem modTask_staging (s : State) (c : Nat) (h : DWord) (f : TaskE → TaskE) : (modTask s c h f).staging = s.staging := rfl
@[simp] theorem modTask_mgmtOut (s : State) (c : Nat) (h : DWord) (f : TaskE → TaskE) : (modTask s c h f).mgmtOut = s.mgmtOut := rfl
@[simp] theorem modTask_corrected (s : State) (c : Nat) (h : DWord) (f : TaskE → TaskE) : (modTask s c h f).corrected = s.corrected := rfl
@[simp] theorem modTask_boot (s : State) (c : Nat) (h : DWord) (f : TaskE → TaskE) : (modTask s c h f).boot = s.boot := rfl

@[simp] theorem freshUid_fab (s : State) : (freshUid s).2.fab = s.fab := rfl
@[simp] theorem freshUid_droneE (s : State) : (freshUid s).2.droneE = s.droneE := rfl
@[simp] theorem freshUid_prevE (s : State) : (freshUid s).2.prevE = s.prevE := rfl
@[simp] theorem freshUid_slew (s : State) : (freshUid s).2.slew = s.slew := rfl
@[simp] theorem freshUid_firstLock (s : State) : (freshUid s).2.firstLock = s.firstLock := rfl
@[simp] theorem freshUid_lastSync (s : State) : (freshUid s).2.lastSync = s.lastSync := rfl
@[simp] theorem freshUid_agenda (s : State) : (freshUid s).2.agenda = s.agenda := rfl
@[simp] theorem freshUid_cur (s : State) : (freshUid s).2.cur = s.cur := rfl
@[simp] theorem freshUid_free (s : State) : (freshUid s).2.free = s.free := rfl
@[simp] theorem freshUid_nextUid (s : State) :
    (freshUid s).2.nextUid = s.nextUid + 1 := rfl
@[simp] theorem freshUid_sys (s : State) : (freshUid s).2.sys = s.sys := rfl
@[simp] theorem freshUid_mem (s : State) : (freshUid s).2.mem = s.mem := rfl
@[simp] theorem freshUid_lines (s : State) : (freshUid s).2.lines = s.lines := rfl
@[simp] theorem freshUid_flasks (s : State) : (freshUid s).2.flasks = s.flasks := rfl
@[simp] theorem freshUid_pclus (s : State) : (freshUid s).2.pclus = s.pclus := rfl
@[simp] theorem freshUid_cores (s : State) : (freshUid s).2.cores = s.cores := rfl
@[simp] theorem freshUid_hbm (s : State) : (freshUid s).2.hbm = s.hbm := rfl
@[simp] theorem freshUid_ports (s : State) : (freshUid s).2.ports = s.ports := rfl
@[simp] theorem freshUid_ctxs (s : State) : (freshUid s).2.ctxs = s.ctxs := rfl
@[simp] theorem freshUid_groups (s : State) : (freshUid s).2.groups = s.groups := rfl
@[simp] theorem freshUid_parked (s : State) : (freshUid s).2.parked = s.parked := rfl
@[simp] theorem freshUid_teams (s : State) : (freshUid s).2.teams = s.teams := rfl
@[simp] theorem freshUid_grids (s : State) : (freshUid s).2.grids = s.grids := rfl
@[simp] theorem freshUid_tasks (s : State) : (freshUid s).2.tasks = s.tasks := rfl
@[simp] theorem freshUid_ops (s : State) : (freshUid s).2.ops = s.ops := rfl
@[simp] theorem freshUid_results (s : State) : (freshUid s).2.results = s.results := rfl
@[simp] theorem freshUid_preqs (s : State) : (freshUid s).2.preqs = s.preqs := rfl
@[simp] theorem freshUid_blocks (s : State) : (freshUid s).2.blocks = s.blocks := rfl
@[simp] theorem freshUid_subs (s : State) : (freshUid s).2.subs = s.subs := rfl
@[simp] theorem freshUid_consorts (s : State) : (freshUid s).2.consorts = s.consorts := rfl
@[simp] theorem freshUid_entries (s : State) : (freshUid s).2.entries = s.entries := rfl
@[simp] theorem freshUid_nmWait (s : State) : (freshUid s).2.nmWait = s.nmWait := rfl
@[simp] theorem freshUid_decs (s : State) : (freshUid s).2.decs = s.decs := rfl
@[simp] theorem freshUid_msgs (s : State) : (freshUid s).2.msgs = s.msgs := rfl
@[simp] theorem freshUid_invs (s : State) : (freshUid s).2.invs = s.invs := rfl
@[simp] theorem freshUid_fills (s : State) : (freshUid s).2.fills = s.fills := rfl
@[simp] theorem freshUid_notices (s : State) : (freshUid s).2.notices = s.notices := rfl
@[simp] theorem freshUid_cupolaIrq (s : State) : (freshUid s).2.cupolaIrq = s.cupolaIrq := rfl
@[simp] theorem freshUid_gangs (s : State) : (freshUid s).2.gangs = s.gangs := rfl
@[simp] theorem freshUid_gangStuck (s : State) : (freshUid s).2.gangStuck = s.gangStuck := rfl
@[simp] theorem freshUid_waiters (s : State) : (freshUid s).2.waiters = s.waiters := rfl
@[simp] theorem freshUid_redirects (s : State) : (freshUid s).2.redirects = s.redirects := rfl
@[simp] theorem freshUid_svc (s : State) : (freshUid s).2.svc = s.svc := rfl
@[simp] theorem freshUid_svcFin (s : State) : (freshUid s).2.svcFin = s.svcFin := rfl
@[simp] theorem freshUid_ctxSeen (s : State) : (freshUid s).2.ctxSeen = s.ctxSeen := rfl
@[simp] theorem freshUid_early (s : State) : (freshUid s).2.early = s.early := rfl
@[simp] theorem freshUid_gangAt (s : State) : (freshUid s).2.gangAt = s.gangAt := rfl
@[simp] theorem freshUid_hostOut (s : State) : (freshUid s).2.hostOut = s.hostOut := rfl
@[simp] theorem freshUid_retired (s : State) : (freshUid s).2.retired = s.retired := rfl
@[simp] theorem freshUid_granules (s : State) : (freshUid s).2.granules = s.granules := rfl
@[simp] theorem freshUid_fitInval (s : State) : (freshUid s).2.fitInval = s.fitInval := rfl
@[simp] theorem freshUid_staging (s : State) : (freshUid s).2.staging = s.staging := rfl
@[simp] theorem freshUid_mgmtOut (s : State) : (freshUid s).2.mgmtOut = s.mgmtOut := rfl
@[simp] theorem freshUid_corrected (s : State) : (freshUid s).2.corrected = s.corrected := rfl
@[simp] theorem freshUid_boot (s : State) : (freshUid s).2.boot = s.boot := rfl

@[simp] theorem draw_fab (s : State) : (draw s).2.fab = s.fab := rfl
@[simp] theorem draw_droneE (s : State) : (draw s).2.droneE = s.droneE := rfl
@[simp] theorem draw_prevE (s : State) : (draw s).2.prevE = s.prevE := rfl
@[simp] theorem draw_slew (s : State) : (draw s).2.slew = s.slew := rfl
@[simp] theorem draw_firstLock (s : State) : (draw s).2.firstLock = s.firstLock := rfl
@[simp] theorem draw_lastSync (s : State) : (draw s).2.lastSync = s.lastSync := rfl
@[simp] theorem draw_agenda (s : State) : (draw s).2.agenda = s.agenda := rfl
@[simp] theorem draw_cur (s : State) : (draw s).2.cur = s.cur := rfl
@[simp] theorem draw_free (s : State) :
    (draw s).2.free = s.free + 1 := rfl
@[simp] theorem draw_nextUid (s : State) : (draw s).2.nextUid = s.nextUid := rfl
@[simp] theorem draw_sys (s : State) : (draw s).2.sys = s.sys := rfl
@[simp] theorem draw_mem (s : State) : (draw s).2.mem = s.mem := rfl
@[simp] theorem draw_lines (s : State) : (draw s).2.lines = s.lines := rfl
@[simp] theorem draw_flasks (s : State) : (draw s).2.flasks = s.flasks := rfl
@[simp] theorem draw_pclus (s : State) : (draw s).2.pclus = s.pclus := rfl
@[simp] theorem draw_cores (s : State) : (draw s).2.cores = s.cores := rfl
@[simp] theorem draw_hbm (s : State) : (draw s).2.hbm = s.hbm := rfl
@[simp] theorem draw_ports (s : State) : (draw s).2.ports = s.ports := rfl
@[simp] theorem draw_ctxs (s : State) : (draw s).2.ctxs = s.ctxs := rfl
@[simp] theorem draw_groups (s : State) : (draw s).2.groups = s.groups := rfl
@[simp] theorem draw_parked (s : State) : (draw s).2.parked = s.parked := rfl
@[simp] theorem draw_teams (s : State) : (draw s).2.teams = s.teams := rfl
@[simp] theorem draw_grids (s : State) : (draw s).2.grids = s.grids := rfl
@[simp] theorem draw_tasks (s : State) : (draw s).2.tasks = s.tasks := rfl
@[simp] theorem draw_ops (s : State) : (draw s).2.ops = s.ops := rfl
@[simp] theorem draw_results (s : State) : (draw s).2.results = s.results := rfl
@[simp] theorem draw_preqs (s : State) : (draw s).2.preqs = s.preqs := rfl
@[simp] theorem draw_blocks (s : State) : (draw s).2.blocks = s.blocks := rfl
@[simp] theorem draw_subs (s : State) : (draw s).2.subs = s.subs := rfl
@[simp] theorem draw_consorts (s : State) : (draw s).2.consorts = s.consorts := rfl
@[simp] theorem draw_entries (s : State) : (draw s).2.entries = s.entries := rfl
@[simp] theorem draw_nmWait (s : State) : (draw s).2.nmWait = s.nmWait := rfl
@[simp] theorem draw_decs (s : State) : (draw s).2.decs = s.decs := rfl
@[simp] theorem draw_msgs (s : State) : (draw s).2.msgs = s.msgs := rfl
@[simp] theorem draw_invs (s : State) : (draw s).2.invs = s.invs := rfl
@[simp] theorem draw_fills (s : State) : (draw s).2.fills = s.fills := rfl
@[simp] theorem draw_notices (s : State) : (draw s).2.notices = s.notices := rfl
@[simp] theorem draw_cupolaIrq (s : State) : (draw s).2.cupolaIrq = s.cupolaIrq := rfl
@[simp] theorem draw_gangs (s : State) : (draw s).2.gangs = s.gangs := rfl
@[simp] theorem draw_gangStuck (s : State) : (draw s).2.gangStuck = s.gangStuck := rfl
@[simp] theorem draw_waiters (s : State) : (draw s).2.waiters = s.waiters := rfl
@[simp] theorem draw_redirects (s : State) : (draw s).2.redirects = s.redirects := rfl
@[simp] theorem draw_svc (s : State) : (draw s).2.svc = s.svc := rfl
@[simp] theorem draw_svcFin (s : State) : (draw s).2.svcFin = s.svcFin := rfl
@[simp] theorem draw_ctxSeen (s : State) : (draw s).2.ctxSeen = s.ctxSeen := rfl
@[simp] theorem draw_early (s : State) : (draw s).2.early = s.early := rfl
@[simp] theorem draw_gangAt (s : State) : (draw s).2.gangAt = s.gangAt := rfl
@[simp] theorem draw_hostOut (s : State) : (draw s).2.hostOut = s.hostOut := rfl
@[simp] theorem draw_retired (s : State) : (draw s).2.retired = s.retired := rfl
@[simp] theorem draw_granules (s : State) : (draw s).2.granules = s.granules := rfl
@[simp] theorem draw_fitInval (s : State) : (draw s).2.fitInval = s.fitInval := rfl
@[simp] theorem draw_staging (s : State) : (draw s).2.staging = s.staging := rfl
@[simp] theorem draw_mgmtOut (s : State) : (draw s).2.mgmtOut = s.mgmtOut := rfl
@[simp] theorem draw_corrected (s : State) : (draw s).2.corrected = s.corrected := rfl
@[simp] theorem draw_boot (s : State) : (draw s).2.boot = s.boot := rfl

@[simp] theorem setSys_fab (s : State) (r : Nat) (v : DWord) : (setSys s r v).fab = s.fab := rfl
@[simp] theorem setSys_droneE (s : State) (r : Nat) (v : DWord) : (setSys s r v).droneE = s.droneE := rfl
@[simp] theorem setSys_prevE (s : State) (r : Nat) (v : DWord) : (setSys s r v).prevE = s.prevE := rfl
@[simp] theorem setSys_slew (s : State) (r : Nat) (v : DWord) : (setSys s r v).slew = s.slew := rfl
@[simp] theorem setSys_firstLock (s : State) (r : Nat) (v : DWord) : (setSys s r v).firstLock = s.firstLock := rfl
@[simp] theorem setSys_lastSync (s : State) (r : Nat) (v : DWord) : (setSys s r v).lastSync = s.lastSync := rfl
@[simp] theorem setSys_agenda (s : State) (r : Nat) (v : DWord) : (setSys s r v).agenda = s.agenda := rfl
@[simp] theorem setSys_cur (s : State) (r : Nat) (v : DWord) : (setSys s r v).cur = s.cur := rfl
@[simp] theorem setSys_free (s : State) (r : Nat) (v : DWord) : (setSys s r v).free = s.free := rfl
@[simp] theorem setSys_nextUid (s : State) (r : Nat) (v : DWord) : (setSys s r v).nextUid = s.nextUid := rfl
@[simp] theorem setSys_sys (s : State) (r : Nat) (v : DWord) :
    (setSys s r v).sys = mput s.sys r v := rfl
@[simp] theorem setSys_mem (s : State) (r : Nat) (v : DWord) : (setSys s r v).mem = s.mem := rfl
@[simp] theorem setSys_lines (s : State) (r : Nat) (v : DWord) : (setSys s r v).lines = s.lines := rfl
@[simp] theorem setSys_flasks (s : State) (r : Nat) (v : DWord) : (setSys s r v).flasks = s.flasks := rfl
@[simp] theorem setSys_pclus (s : State) (r : Nat) (v : DWord) : (setSys s r v).pclus = s.pclus := rfl
@[simp] theorem setSys_cores (s : State) (r : Nat) (v : DWord) : (setSys s r v).cores = s.cores := rfl
@[simp] theorem setSys_hbm (s : State) (r : Nat) (v : DWord) : (setSys s r v).hbm = s.hbm := rfl
@[simp] theorem setSys_ports (s : State) (r : Nat) (v : DWord) : (setSys s r v).ports = s.ports := rfl
@[simp] theorem setSys_ctxs (s : State) (r : Nat) (v : DWord) : (setSys s r v).ctxs = s.ctxs := rfl
@[simp] theorem setSys_groups (s : State) (r : Nat) (v : DWord) : (setSys s r v).groups = s.groups := rfl
@[simp] theorem setSys_parked (s : State) (r : Nat) (v : DWord) : (setSys s r v).parked = s.parked := rfl
@[simp] theorem setSys_teams (s : State) (r : Nat) (v : DWord) : (setSys s r v).teams = s.teams := rfl
@[simp] theorem setSys_grids (s : State) (r : Nat) (v : DWord) : (setSys s r v).grids = s.grids := rfl
@[simp] theorem setSys_tasks (s : State) (r : Nat) (v : DWord) : (setSys s r v).tasks = s.tasks := rfl
@[simp] theorem setSys_ops (s : State) (r : Nat) (v : DWord) : (setSys s r v).ops = s.ops := rfl
@[simp] theorem setSys_results (s : State) (r : Nat) (v : DWord) : (setSys s r v).results = s.results := rfl
@[simp] theorem setSys_preqs (s : State) (r : Nat) (v : DWord) : (setSys s r v).preqs = s.preqs := rfl
@[simp] theorem setSys_blocks (s : State) (r : Nat) (v : DWord) : (setSys s r v).blocks = s.blocks := rfl
@[simp] theorem setSys_subs (s : State) (r : Nat) (v : DWord) : (setSys s r v).subs = s.subs := rfl
@[simp] theorem setSys_consorts (s : State) (r : Nat) (v : DWord) : (setSys s r v).consorts = s.consorts := rfl
@[simp] theorem setSys_entries (s : State) (r : Nat) (v : DWord) : (setSys s r v).entries = s.entries := rfl
@[simp] theorem setSys_nmWait (s : State) (r : Nat) (v : DWord) : (setSys s r v).nmWait = s.nmWait := rfl
@[simp] theorem setSys_decs (s : State) (r : Nat) (v : DWord) : (setSys s r v).decs = s.decs := rfl
@[simp] theorem setSys_msgs (s : State) (r : Nat) (v : DWord) : (setSys s r v).msgs = s.msgs := rfl
@[simp] theorem setSys_invs (s : State) (r : Nat) (v : DWord) : (setSys s r v).invs = s.invs := rfl
@[simp] theorem setSys_fills (s : State) (r : Nat) (v : DWord) : (setSys s r v).fills = s.fills := rfl
@[simp] theorem setSys_notices (s : State) (r : Nat) (v : DWord) : (setSys s r v).notices = s.notices := rfl
@[simp] theorem setSys_cupolaIrq (s : State) (r : Nat) (v : DWord) : (setSys s r v).cupolaIrq = s.cupolaIrq := rfl
@[simp] theorem setSys_gangs (s : State) (r : Nat) (v : DWord) : (setSys s r v).gangs = s.gangs := rfl
@[simp] theorem setSys_gangStuck (s : State) (r : Nat) (v : DWord) : (setSys s r v).gangStuck = s.gangStuck := rfl
@[simp] theorem setSys_waiters (s : State) (r : Nat) (v : DWord) : (setSys s r v).waiters = s.waiters := rfl
@[simp] theorem setSys_redirects (s : State) (r : Nat) (v : DWord) : (setSys s r v).redirects = s.redirects := rfl
@[simp] theorem setSys_svc (s : State) (r : Nat) (v : DWord) : (setSys s r v).svc = s.svc := rfl
@[simp] theorem setSys_svcFin (s : State) (r : Nat) (v : DWord) : (setSys s r v).svcFin = s.svcFin := rfl
@[simp] theorem setSys_ctxSeen (s : State) (r : Nat) (v : DWord) : (setSys s r v).ctxSeen = s.ctxSeen := rfl
@[simp] theorem setSys_early (s : State) (r : Nat) (v : DWord) : (setSys s r v).early = s.early := rfl
@[simp] theorem setSys_gangAt (s : State) (r : Nat) (v : DWord) : (setSys s r v).gangAt = s.gangAt := rfl
@[simp] theorem setSys_hostOut (s : State) (r : Nat) (v : DWord) : (setSys s r v).hostOut = s.hostOut := rfl
@[simp] theorem setSys_retired (s : State) (r : Nat) (v : DWord) : (setSys s r v).retired = s.retired := rfl
@[simp] theorem setSys_granules (s : State) (r : Nat) (v : DWord) : (setSys s r v).granules = s.granules := rfl
@[simp] theorem setSys_fitInval (s : State) (r : Nat) (v : DWord) : (setSys s r v).fitInval = s.fitInval := rfl
@[simp] theorem setSys_staging (s : State) (r : Nat) (v : DWord) : (setSys s r v).staging = s.staging := rfl
@[simp] theorem setSys_mgmtOut (s : State) (r : Nat) (v : DWord) : (setSys s r v).mgmtOut = s.mgmtOut := rfl
@[simp] theorem setSys_corrected (s : State) (r : Nat) (v : DWord) : (setSys s r v).corrected = s.corrected := rfl
@[simp] theorem setSys_boot (s : State) (r : Nat) (v : DWord) : (setSys s r v).boot = s.boot := rfl

@[simp] theorem setLine_fab (s : State) (l : Nat) (x : LineS) : (setLine s l x).fab = s.fab := rfl
@[simp] theorem setLine_droneE (s : State) (l : Nat) (x : LineS) : (setLine s l x).droneE = s.droneE := rfl
@[simp] theorem setLine_prevE (s : State) (l : Nat) (x : LineS) : (setLine s l x).prevE = s.prevE := rfl
@[simp] theorem setLine_slew (s : State) (l : Nat) (x : LineS) : (setLine s l x).slew = s.slew := rfl
@[simp] theorem setLine_firstLock (s : State) (l : Nat) (x : LineS) : (setLine s l x).firstLock = s.firstLock := rfl
@[simp] theorem setLine_lastSync (s : State) (l : Nat) (x : LineS) : (setLine s l x).lastSync = s.lastSync := rfl
@[simp] theorem setLine_agenda (s : State) (l : Nat) (x : LineS) : (setLine s l x).agenda = s.agenda := rfl
@[simp] theorem setLine_cur (s : State) (l : Nat) (x : LineS) : (setLine s l x).cur = s.cur := rfl
@[simp] theorem setLine_free (s : State) (l : Nat) (x : LineS) : (setLine s l x).free = s.free := rfl
@[simp] theorem setLine_nextUid (s : State) (l : Nat) (x : LineS) : (setLine s l x).nextUid = s.nextUid := rfl
@[simp] theorem setLine_sys (s : State) (l : Nat) (x : LineS) : (setLine s l x).sys = s.sys := rfl
@[simp] theorem setLine_mem (s : State) (l : Nat) (x : LineS) : (setLine s l x).mem = s.mem := rfl
@[simp] theorem setLine_lines (s : State) (l : Nat) (x : LineS) :
    (setLine s l x).lines = mput s.lines l x := rfl
@[simp] theorem setLine_flasks (s : State) (l : Nat) (x : LineS) : (setLine s l x).flasks = s.flasks := rfl
@[simp] theorem setLine_pclus (s : State) (l : Nat) (x : LineS) : (setLine s l x).pclus = s.pclus := rfl
@[simp] theorem setLine_cores (s : State) (l : Nat) (x : LineS) : (setLine s l x).cores = s.cores := rfl
@[simp] theorem setLine_hbm (s : State) (l : Nat) (x : LineS) : (setLine s l x).hbm = s.hbm := rfl
@[simp] theorem setLine_ports (s : State) (l : Nat) (x : LineS) : (setLine s l x).ports = s.ports := rfl
@[simp] theorem setLine_ctxs (s : State) (l : Nat) (x : LineS) : (setLine s l x).ctxs = s.ctxs := rfl
@[simp] theorem setLine_groups (s : State) (l : Nat) (x : LineS) : (setLine s l x).groups = s.groups := rfl
@[simp] theorem setLine_parked (s : State) (l : Nat) (x : LineS) : (setLine s l x).parked = s.parked := rfl
@[simp] theorem setLine_teams (s : State) (l : Nat) (x : LineS) : (setLine s l x).teams = s.teams := rfl
@[simp] theorem setLine_grids (s : State) (l : Nat) (x : LineS) : (setLine s l x).grids = s.grids := rfl
@[simp] theorem setLine_tasks (s : State) (l : Nat) (x : LineS) : (setLine s l x).tasks = s.tasks := rfl
@[simp] theorem setLine_ops (s : State) (l : Nat) (x : LineS) : (setLine s l x).ops = s.ops := rfl
@[simp] theorem setLine_results (s : State) (l : Nat) (x : LineS) : (setLine s l x).results = s.results := rfl
@[simp] theorem setLine_preqs (s : State) (l : Nat) (x : LineS) : (setLine s l x).preqs = s.preqs := rfl
@[simp] theorem setLine_blocks (s : State) (l : Nat) (x : LineS) : (setLine s l x).blocks = s.blocks := rfl
@[simp] theorem setLine_subs (s : State) (l : Nat) (x : LineS) : (setLine s l x).subs = s.subs := rfl
@[simp] theorem setLine_consorts (s : State) (l : Nat) (x : LineS) : (setLine s l x).consorts = s.consorts := rfl
@[simp] theorem setLine_entries (s : State) (l : Nat) (x : LineS) : (setLine s l x).entries = s.entries := rfl
@[simp] theorem setLine_nmWait (s : State) (l : Nat) (x : LineS) : (setLine s l x).nmWait = s.nmWait := rfl
@[simp] theorem setLine_decs (s : State) (l : Nat) (x : LineS) : (setLine s l x).decs = s.decs := rfl
@[simp] theorem setLine_msgs (s : State) (l : Nat) (x : LineS) : (setLine s l x).msgs = s.msgs := rfl
@[simp] theorem setLine_invs (s : State) (l : Nat) (x : LineS) : (setLine s l x).invs = s.invs := rfl
@[simp] theorem setLine_fills (s : State) (l : Nat) (x : LineS) : (setLine s l x).fills = s.fills := rfl
@[simp] theorem setLine_notices (s : State) (l : Nat) (x : LineS) : (setLine s l x).notices = s.notices := rfl
@[simp] theorem setLine_cupolaIrq (s : State) (l : Nat) (x : LineS) : (setLine s l x).cupolaIrq = s.cupolaIrq := rfl
@[simp] theorem setLine_gangs (s : State) (l : Nat) (x : LineS) : (setLine s l x).gangs = s.gangs := rfl
@[simp] theorem setLine_gangStuck (s : State) (l : Nat) (x : LineS) : (setLine s l x).gangStuck = s.gangStuck := rfl
@[simp] theorem setLine_waiters (s : State) (l : Nat) (x : LineS) : (setLine s l x).waiters = s.waiters := rfl
@[simp] theorem setLine_redirects (s : State) (l : Nat) (x : LineS) : (setLine s l x).redirects = s.redirects := rfl
@[simp] theorem setLine_svc (s : State) (l : Nat) (x : LineS) : (setLine s l x).svc = s.svc := rfl
@[simp] theorem setLine_svcFin (s : State) (l : Nat) (x : LineS) : (setLine s l x).svcFin = s.svcFin := rfl
@[simp] theorem setLine_ctxSeen (s : State) (l : Nat) (x : LineS) : (setLine s l x).ctxSeen = s.ctxSeen := rfl
@[simp] theorem setLine_early (s : State) (l : Nat) (x : LineS) : (setLine s l x).early = s.early := rfl
@[simp] theorem setLine_gangAt (s : State) (l : Nat) (x : LineS) : (setLine s l x).gangAt = s.gangAt := rfl
@[simp] theorem setLine_hostOut (s : State) (l : Nat) (x : LineS) : (setLine s l x).hostOut = s.hostOut := rfl
@[simp] theorem setLine_retired (s : State) (l : Nat) (x : LineS) : (setLine s l x).retired = s.retired := rfl
@[simp] theorem setLine_granules (s : State) (l : Nat) (x : LineS) : (setLine s l x).granules = s.granules := rfl
@[simp] theorem setLine_fitInval (s : State) (l : Nat) (x : LineS) : (setLine s l x).fitInval = s.fitInval := rfl
@[simp] theorem setLine_staging (s : State) (l : Nat) (x : LineS) : (setLine s l x).staging = s.staging := rfl
@[simp] theorem setLine_mgmtOut (s : State) (l : Nat) (x : LineS) : (setLine s l x).mgmtOut = s.mgmtOut := rfl
@[simp] theorem setLine_corrected (s : State) (l : Nat) (x : LineS) : (setLine s l x).corrected = s.corrected := rfl
@[simp] theorem setLine_boot (s : State) (l : Nat) (x : LineS) : (setLine s l x).boot = s.boot := rfl

@[simp] theorem modStack_fab (s : State) (k : Nat) (f : Stack → Stack) : (modStack s k f).fab = s.fab := rfl
@[simp] theorem modStack_droneE (s : State) (k : Nat) (f : Stack → Stack) : (modStack s k f).droneE = s.droneE := rfl
@[simp] theorem modStack_prevE (s : State) (k : Nat) (f : Stack → Stack) : (modStack s k f).prevE = s.prevE := rfl
@[simp] theorem modStack_slew (s : State) (k : Nat) (f : Stack → Stack) : (modStack s k f).slew = s.slew := rfl
@[simp] theorem modStack_firstLock (s : State) (k : Nat) (f : Stack → Stack) : (modStack s k f).firstLock = s.firstLock := rfl
@[simp] theorem modStack_lastSync (s : State) (k : Nat) (f : Stack → Stack) : (modStack s k f).lastSync = s.lastSync := rfl
@[simp] theorem modStack_agenda (s : State) (k : Nat) (f : Stack → Stack) : (modStack s k f).agenda = s.agenda := rfl
@[simp] theorem modStack_cur (s : State) (k : Nat) (f : Stack → Stack) : (modStack s k f).cur = s.cur := rfl
@[simp] theorem modStack_free (s : State) (k : Nat) (f : Stack → Stack) : (modStack s k f).free = s.free := rfl
@[simp] theorem modStack_nextUid (s : State) (k : Nat) (f : Stack → Stack) : (modStack s k f).nextUid = s.nextUid := rfl
@[simp] theorem modStack_sys (s : State) (k : Nat) (f : Stack → Stack) : (modStack s k f).sys = s.sys := rfl
@[simp] theorem modStack_mem (s : State) (k : Nat) (f : Stack → Stack) : (modStack s k f).mem = s.mem := rfl
@[simp] theorem modStack_lines (s : State) (k : Nat) (f : Stack → Stack) : (modStack s k f).lines = s.lines := rfl
@[simp] theorem modStack_flasks (s : State) (k : Nat) (f : Stack → Stack) : (modStack s k f).flasks = s.flasks := rfl
@[simp] theorem modStack_pclus (s : State) (k : Nat) (f : Stack → Stack) : (modStack s k f).pclus = s.pclus := rfl
@[simp] theorem modStack_cores (s : State) (k : Nat) (f : Stack → Stack) : (modStack s k f).cores = s.cores := rfl
@[simp] theorem modStack_hbm (s : State) (k : Nat) (f : Stack → Stack) :
    (modStack s k f).hbm = mput s.hbm k (f (stackAt s k)) := rfl
@[simp] theorem modStack_ports (s : State) (k : Nat) (f : Stack → Stack) : (modStack s k f).ports = s.ports := rfl
@[simp] theorem modStack_ctxs (s : State) (k : Nat) (f : Stack → Stack) : (modStack s k f).ctxs = s.ctxs := rfl
@[simp] theorem modStack_groups (s : State) (k : Nat) (f : Stack → Stack) : (modStack s k f).groups = s.groups := rfl
@[simp] theorem modStack_parked (s : State) (k : Nat) (f : Stack → Stack) : (modStack s k f).parked = s.parked := rfl
@[simp] theorem modStack_teams (s : State) (k : Nat) (f : Stack → Stack) : (modStack s k f).teams = s.teams := rfl
@[simp] theorem modStack_grids (s : State) (k : Nat) (f : Stack → Stack) : (modStack s k f).grids = s.grids := rfl
@[simp] theorem modStack_tasks (s : State) (k : Nat) (f : Stack → Stack) : (modStack s k f).tasks = s.tasks := rfl
@[simp] theorem modStack_ops (s : State) (k : Nat) (f : Stack → Stack) : (modStack s k f).ops = s.ops := rfl
@[simp] theorem modStack_results (s : State) (k : Nat) (f : Stack → Stack) : (modStack s k f).results = s.results := rfl
@[simp] theorem modStack_preqs (s : State) (k : Nat) (f : Stack → Stack) : (modStack s k f).preqs = s.preqs := rfl
@[simp] theorem modStack_blocks (s : State) (k : Nat) (f : Stack → Stack) : (modStack s k f).blocks = s.blocks := rfl
@[simp] theorem modStack_subs (s : State) (k : Nat) (f : Stack → Stack) : (modStack s k f).subs = s.subs := rfl
@[simp] theorem modStack_consorts (s : State) (k : Nat) (f : Stack → Stack) : (modStack s k f).consorts = s.consorts := rfl
@[simp] theorem modStack_entries (s : State) (k : Nat) (f : Stack → Stack) : (modStack s k f).entries = s.entries := rfl
@[simp] theorem modStack_nmWait (s : State) (k : Nat) (f : Stack → Stack) : (modStack s k f).nmWait = s.nmWait := rfl
@[simp] theorem modStack_decs (s : State) (k : Nat) (f : Stack → Stack) : (modStack s k f).decs = s.decs := rfl
@[simp] theorem modStack_msgs (s : State) (k : Nat) (f : Stack → Stack) : (modStack s k f).msgs = s.msgs := rfl
@[simp] theorem modStack_invs (s : State) (k : Nat) (f : Stack → Stack) : (modStack s k f).invs = s.invs := rfl
@[simp] theorem modStack_fills (s : State) (k : Nat) (f : Stack → Stack) : (modStack s k f).fills = s.fills := rfl
@[simp] theorem modStack_notices (s : State) (k : Nat) (f : Stack → Stack) : (modStack s k f).notices = s.notices := rfl
@[simp] theorem modStack_cupolaIrq (s : State) (k : Nat) (f : Stack → Stack) : (modStack s k f).cupolaIrq = s.cupolaIrq := rfl
@[simp] theorem modStack_gangs (s : State) (k : Nat) (f : Stack → Stack) : (modStack s k f).gangs = s.gangs := rfl
@[simp] theorem modStack_gangStuck (s : State) (k : Nat) (f : Stack → Stack) : (modStack s k f).gangStuck = s.gangStuck := rfl
@[simp] theorem modStack_waiters (s : State) (k : Nat) (f : Stack → Stack) : (modStack s k f).waiters = s.waiters := rfl
@[simp] theorem modStack_redirects (s : State) (k : Nat) (f : Stack → Stack) : (modStack s k f).redirects = s.redirects := rfl
@[simp] theorem modStack_svc (s : State) (k : Nat) (f : Stack → Stack) : (modStack s k f).svc = s.svc := rfl
@[simp] theorem modStack_svcFin (s : State) (k : Nat) (f : Stack → Stack) : (modStack s k f).svcFin = s.svcFin := rfl
@[simp] theorem modStack_ctxSeen (s : State) (k : Nat) (f : Stack → Stack) : (modStack s k f).ctxSeen = s.ctxSeen := rfl
@[simp] theorem modStack_early (s : State) (k : Nat) (f : Stack → Stack) : (modStack s k f).early = s.early := rfl
@[simp] theorem modStack_gangAt (s : State) (k : Nat) (f : Stack → Stack) : (modStack s k f).gangAt = s.gangAt := rfl
@[simp] theorem modStack_hostOut (s : State) (k : Nat) (f : Stack → Stack) : (modStack s k f).hostOut = s.hostOut := rfl
@[simp] theorem modStack_retired (s : State) (k : Nat) (f : Stack → Stack) : (modStack s k f).retired = s.retired := rfl
@[simp] theorem modStack_granules (s : State) (k : Nat) (f : Stack → Stack) : (modStack s k f).granules = s.granules := rfl
@[simp] theorem modStack_fitInval (s : State) (k : Nat) (f : Stack → Stack) : (modStack s k f).fitInval = s.fitInval := rfl
@[simp] theorem modStack_staging (s : State) (k : Nat) (f : Stack → Stack) : (modStack s k f).staging = s.staging := rfl
@[simp] theorem modStack_mgmtOut (s : State) (k : Nat) (f : Stack → Stack) : (modStack s k f).mgmtOut = s.mgmtOut := rfl
@[simp] theorem modStack_corrected (s : State) (k : Nat) (f : Stack → Stack) : (modStack s k f).corrected = s.corrected := rfl
@[simp] theorem modStack_boot (s : State) (k : Nat) (f : Stack → Stack) : (modStack s k f).boot = s.boot := rfl

@[simp] theorem putSub_fab (s : State) (b : Sub) : (putSub s b).fab = s.fab := rfl
@[simp] theorem putSub_droneE (s : State) (b : Sub) : (putSub s b).droneE = s.droneE := rfl
@[simp] theorem putSub_prevE (s : State) (b : Sub) : (putSub s b).prevE = s.prevE := rfl
@[simp] theorem putSub_slew (s : State) (b : Sub) : (putSub s b).slew = s.slew := rfl
@[simp] theorem putSub_firstLock (s : State) (b : Sub) : (putSub s b).firstLock = s.firstLock := rfl
@[simp] theorem putSub_lastSync (s : State) (b : Sub) : (putSub s b).lastSync = s.lastSync := rfl
@[simp] theorem putSub_agenda (s : State) (b : Sub) : (putSub s b).agenda = s.agenda := rfl
@[simp] theorem putSub_cur (s : State) (b : Sub) : (putSub s b).cur = s.cur := rfl
@[simp] theorem putSub_free (s : State) (b : Sub) : (putSub s b).free = s.free := rfl
@[simp] theorem putSub_nextUid (s : State) (b : Sub) : (putSub s b).nextUid = s.nextUid := rfl
@[simp] theorem putSub_sys (s : State) (b : Sub) : (putSub s b).sys = s.sys := rfl
@[simp] theorem putSub_mem (s : State) (b : Sub) : (putSub s b).mem = s.mem := rfl
@[simp] theorem putSub_lines (s : State) (b : Sub) : (putSub s b).lines = s.lines := rfl
@[simp] theorem putSub_flasks (s : State) (b : Sub) : (putSub s b).flasks = s.flasks := rfl
@[simp] theorem putSub_pclus (s : State) (b : Sub) : (putSub s b).pclus = s.pclus := rfl
@[simp] theorem putSub_cores (s : State) (b : Sub) : (putSub s b).cores = s.cores := rfl
@[simp] theorem putSub_hbm (s : State) (b : Sub) : (putSub s b).hbm = s.hbm := rfl
@[simp] theorem putSub_ports (s : State) (b : Sub) : (putSub s b).ports = s.ports := rfl
@[simp] theorem putSub_ctxs (s : State) (b : Sub) : (putSub s b).ctxs = s.ctxs := rfl
@[simp] theorem putSub_groups (s : State) (b : Sub) : (putSub s b).groups = s.groups := rfl
@[simp] theorem putSub_parked (s : State) (b : Sub) : (putSub s b).parked = s.parked := rfl
@[simp] theorem putSub_teams (s : State) (b : Sub) : (putSub s b).teams = s.teams := rfl
@[simp] theorem putSub_grids (s : State) (b : Sub) : (putSub s b).grids = s.grids := rfl
@[simp] theorem putSub_tasks (s : State) (b : Sub) : (putSub s b).tasks = s.tasks := rfl
@[simp] theorem putSub_ops (s : State) (b : Sub) : (putSub s b).ops = s.ops := rfl
@[simp] theorem putSub_results (s : State) (b : Sub) : (putSub s b).results = s.results := rfl
@[simp] theorem putSub_preqs (s : State) (b : Sub) : (putSub s b).preqs = s.preqs := rfl
@[simp] theorem putSub_blocks (s : State) (b : Sub) : (putSub s b).blocks = s.blocks := rfl
@[simp] theorem putSub_subs (s : State) (b : Sub) :
    (putSub s b).subs = updFirst (fun x => x.id == b.id) (fun _ => b) s.subs := rfl
@[simp] theorem putSub_consorts (s : State) (b : Sub) : (putSub s b).consorts = s.consorts := rfl
@[simp] theorem putSub_entries (s : State) (b : Sub) : (putSub s b).entries = s.entries := rfl
@[simp] theorem putSub_nmWait (s : State) (b : Sub) : (putSub s b).nmWait = s.nmWait := rfl
@[simp] theorem putSub_decs (s : State) (b : Sub) : (putSub s b).decs = s.decs := rfl
@[simp] theorem putSub_msgs (s : State) (b : Sub) : (putSub s b).msgs = s.msgs := rfl
@[simp] theorem putSub_invs (s : State) (b : Sub) : (putSub s b).invs = s.invs := rfl
@[simp] theorem putSub_fills (s : State) (b : Sub) : (putSub s b).fills = s.fills := rfl
@[simp] theorem putSub_notices (s : State) (b : Sub) : (putSub s b).notices = s.notices := rfl
@[simp] theorem putSub_cupolaIrq (s : State) (b : Sub) : (putSub s b).cupolaIrq = s.cupolaIrq := rfl
@[simp] theorem putSub_gangs (s : State) (b : Sub) : (putSub s b).gangs = s.gangs := rfl
@[simp] theorem putSub_gangStuck (s : State) (b : Sub) : (putSub s b).gangStuck = s.gangStuck := rfl
@[simp] theorem putSub_waiters (s : State) (b : Sub) : (putSub s b).waiters = s.waiters := rfl
@[simp] theorem putSub_redirects (s : State) (b : Sub) : (putSub s b).redirects = s.redirects := rfl
@[simp] theorem putSub_svc (s : State) (b : Sub) : (putSub s b).svc = s.svc := rfl
@[simp] theorem putSub_svcFin (s : State) (b : Sub) : (putSub s b).svcFin = s.svcFin := rfl
@[simp] theorem putSub_ctxSeen (s : State) (b : Sub) : (putSub s b).ctxSeen = s.ctxSeen := rfl
@[simp] theorem putSub_early (s : State) (b : Sub) : (putSub s b).early = s.early := rfl
@[simp] theorem putSub_gangAt (s : State) (b : Sub) : (putSub s b).gangAt = s.gangAt := rfl
@[simp] theorem putSub_hostOut (s : State) (b : Sub) : (putSub s b).hostOut = s.hostOut := rfl
@[simp] theorem putSub_retired (s : State) (b : Sub) : (putSub s b).retired = s.retired := rfl
@[simp] theorem putSub_granules (s : State) (b : Sub) : (putSub s b).granules = s.granules := rfl
@[simp] theorem putSub_fitInval (s : State) (b : Sub) : (putSub s b).fitInval = s.fitInval := rfl
@[simp] theorem putSub_staging (s : State) (b : Sub) : (putSub s b).staging = s.staging := rfl
@[simp] theorem putSub_mgmtOut (s : State) (b : Sub) : (putSub s b).mgmtOut = s.mgmtOut := rfl
@[simp] theorem putSub_corrected (s : State) (b : Sub) : (putSub s b).corrected = s.corrected := rfl
@[simp] theorem putSub_boot (s : State) (b : Sub) : (putSub s b).boot = s.boot := rfl

@[simp] theorem modEntry_fab (s : State) (id : Nat) (f : Entry → Entry) : (modEntry s id f).fab = s.fab := rfl
@[simp] theorem modEntry_droneE (s : State) (id : Nat) (f : Entry → Entry) : (modEntry s id f).droneE = s.droneE := rfl
@[simp] theorem modEntry_prevE (s : State) (id : Nat) (f : Entry → Entry) : (modEntry s id f).prevE = s.prevE := rfl
@[simp] theorem modEntry_slew (s : State) (id : Nat) (f : Entry → Entry) : (modEntry s id f).slew = s.slew := rfl
@[simp] theorem modEntry_firstLock (s : State) (id : Nat) (f : Entry → Entry) : (modEntry s id f).firstLock = s.firstLock := rfl
@[simp] theorem modEntry_lastSync (s : State) (id : Nat) (f : Entry → Entry) : (modEntry s id f).lastSync = s.lastSync := rfl
@[simp] theorem modEntry_agenda (s : State) (id : Nat) (f : Entry → Entry) : (modEntry s id f).agenda = s.agenda := rfl
@[simp] theorem modEntry_cur (s : State) (id : Nat) (f : Entry → Entry) : (modEntry s id f).cur = s.cur := rfl
@[simp] theorem modEntry_free (s : State) (id : Nat) (f : Entry → Entry) : (modEntry s id f).free = s.free := rfl
@[simp] theorem modEntry_nextUid (s : State) (id : Nat) (f : Entry → Entry) : (modEntry s id f).nextUid = s.nextUid := rfl
@[simp] theorem modEntry_sys (s : State) (id : Nat) (f : Entry → Entry) : (modEntry s id f).sys = s.sys := rfl
@[simp] theorem modEntry_mem (s : State) (id : Nat) (f : Entry → Entry) : (modEntry s id f).mem = s.mem := rfl
@[simp] theorem modEntry_lines (s : State) (id : Nat) (f : Entry → Entry) : (modEntry s id f).lines = s.lines := rfl
@[simp] theorem modEntry_flasks (s : State) (id : Nat) (f : Entry → Entry) : (modEntry s id f).flasks = s.flasks := rfl
@[simp] theorem modEntry_pclus (s : State) (id : Nat) (f : Entry → Entry) : (modEntry s id f).pclus = s.pclus := rfl
@[simp] theorem modEntry_cores (s : State) (id : Nat) (f : Entry → Entry) : (modEntry s id f).cores = s.cores := rfl
@[simp] theorem modEntry_hbm (s : State) (id : Nat) (f : Entry → Entry) : (modEntry s id f).hbm = s.hbm := rfl
@[simp] theorem modEntry_ports (s : State) (id : Nat) (f : Entry → Entry) : (modEntry s id f).ports = s.ports := rfl
@[simp] theorem modEntry_ctxs (s : State) (id : Nat) (f : Entry → Entry) : (modEntry s id f).ctxs = s.ctxs := rfl
@[simp] theorem modEntry_groups (s : State) (id : Nat) (f : Entry → Entry) : (modEntry s id f).groups = s.groups := rfl
@[simp] theorem modEntry_parked (s : State) (id : Nat) (f : Entry → Entry) : (modEntry s id f).parked = s.parked := rfl
@[simp] theorem modEntry_teams (s : State) (id : Nat) (f : Entry → Entry) : (modEntry s id f).teams = s.teams := rfl
@[simp] theorem modEntry_grids (s : State) (id : Nat) (f : Entry → Entry) : (modEntry s id f).grids = s.grids := rfl
@[simp] theorem modEntry_tasks (s : State) (id : Nat) (f : Entry → Entry) : (modEntry s id f).tasks = s.tasks := rfl
@[simp] theorem modEntry_ops (s : State) (id : Nat) (f : Entry → Entry) : (modEntry s id f).ops = s.ops := rfl
@[simp] theorem modEntry_results (s : State) (id : Nat) (f : Entry → Entry) : (modEntry s id f).results = s.results := rfl
@[simp] theorem modEntry_preqs (s : State) (id : Nat) (f : Entry → Entry) : (modEntry s id f).preqs = s.preqs := rfl
@[simp] theorem modEntry_blocks (s : State) (id : Nat) (f : Entry → Entry) : (modEntry s id f).blocks = s.blocks := rfl
@[simp] theorem modEntry_subs (s : State) (id : Nat) (f : Entry → Entry) : (modEntry s id f).subs = s.subs := rfl
@[simp] theorem modEntry_consorts (s : State) (id : Nat) (f : Entry → Entry) : (modEntry s id f).consorts = s.consorts := rfl
@[simp] theorem modEntry_entries (s : State) (id : Nat) (f : Entry → Entry) :
    (modEntry s id f).entries = updFirst (fun e => e.id == id) f s.entries := rfl
@[simp] theorem modEntry_nmWait (s : State) (id : Nat) (f : Entry → Entry) : (modEntry s id f).nmWait = s.nmWait := rfl
@[simp] theorem modEntry_decs (s : State) (id : Nat) (f : Entry → Entry) : (modEntry s id f).decs = s.decs := rfl
@[simp] theorem modEntry_msgs (s : State) (id : Nat) (f : Entry → Entry) : (modEntry s id f).msgs = s.msgs := rfl
@[simp] theorem modEntry_invs (s : State) (id : Nat) (f : Entry → Entry) : (modEntry s id f).invs = s.invs := rfl
@[simp] theorem modEntry_fills (s : State) (id : Nat) (f : Entry → Entry) : (modEntry s id f).fills = s.fills := rfl
@[simp] theorem modEntry_notices (s : State) (id : Nat) (f : Entry → Entry) : (modEntry s id f).notices = s.notices := rfl
@[simp] theorem modEntry_cupolaIrq (s : State) (id : Nat) (f : Entry → Entry) : (modEntry s id f).cupolaIrq = s.cupolaIrq := rfl
@[simp] theorem modEntry_gangs (s : State) (id : Nat) (f : Entry → Entry) : (modEntry s id f).gangs = s.gangs := rfl
@[simp] theorem modEntry_gangStuck (s : State) (id : Nat) (f : Entry → Entry) : (modEntry s id f).gangStuck = s.gangStuck := rfl
@[simp] theorem modEntry_waiters (s : State) (id : Nat) (f : Entry → Entry) : (modEntry s id f).waiters = s.waiters := rfl
@[simp] theorem modEntry_redirects (s : State) (id : Nat) (f : Entry → Entry) : (modEntry s id f).redirects = s.redirects := rfl
@[simp] theorem modEntry_svc (s : State) (id : Nat) (f : Entry → Entry) : (modEntry s id f).svc = s.svc := rfl
@[simp] theorem modEntry_svcFin (s : State) (id : Nat) (f : Entry → Entry) : (modEntry s id f).svcFin = s.svcFin := rfl
@[simp] theorem modEntry_ctxSeen (s : State) (id : Nat) (f : Entry → Entry) : (modEntry s id f).ctxSeen = s.ctxSeen := rfl
@[simp] theorem modEntry_early (s : State) (id : Nat) (f : Entry → Entry) : (modEntry s id f).early = s.early := rfl
@[simp] theorem modEntry_gangAt (s : State) (id : Nat) (f : Entry → Entry) : (modEntry s id f).gangAt = s.gangAt := rfl
@[simp] theorem modEntry_hostOut (s : State) (id : Nat) (f : Entry → Entry) : (modEntry s id f).hostOut = s.hostOut := rfl
@[simp] theorem modEntry_retired (s : State) (id : Nat) (f : Entry → Entry) : (modEntry s id f).retired = s.retired := rfl
@[simp] theorem modEntry_granules (s : State) (id : Nat) (f : Entry → Entry) : (modEntry s id f).granules = s.granules := rfl
@[simp] theorem modEntry_fitInval (s : State) (id : Nat) (f : Entry → Entry) : (modEntry s id f).fitInval = s.fitInval := rfl
@[simp] theorem modEntry_staging (s : State) (id : Nat) (f : Entry → Entry) : (modEntry s id f).staging = s.staging := rfl
@[simp] theorem modEntry_mgmtOut (s : State) (id : Nat) (f : Entry → Entry) : (modEntry s id f).mgmtOut = s.mgmtOut := rfl
@[simp] theorem modEntry_corrected (s : State) (id : Nat) (f : Entry → Entry) : (modEntry s id f).corrected = s.corrected := rfl
@[simp] theorem modEntry_boot (s : State) (id : Nat) (f : Entry → Entry) : (modEntry s id f).boot = s.boot := rfl

end Sys2Proof.Machine
end

