-- ==== Sys2Proof/Tests/Slice0.lean ====
section
/-! SUPPORT. Tests: what the well-formedness checks refuse, words of the spec and the instructions they decode to, one step of an
instruction, and for each statement a machine that meets its hypotheses. -/

/-! ### A machine to test on: one group of two lanes in slot 0 of core 0, context 1, privileged, about to issue at word 0 -/

namespace Sys2Proof.Tests

open Host Sys2Proof Sys2Proof.Machine

/-- A header with no guard, no FE, no SP, no DIST, no WAIT and no SET. -/
def bare : Hdr := { guard := 7, fe := 0, sp := false, dist := 0, wait := 0, set := 15 }

/-- The header that names flag `k` in SET. -/
def setsFlag (k : BitVec 4) : Hdr := { bare with set := k }

/-- The group. -/
def grp : Group := { uid := 2, ctx := 1, sysT := true, team := 1, nlanes := 2, regs := 64, paths := [{ pc := 0, lanes := 3 }] }

/-- Its stream under way. -/
def cur : Cur := { g := 0, pc := 0, lanes := 3, word := 0, next := 0 }

/-- The machine with this group in slot 0 and its stream under way. -/
def lab (x : Group) : State := { placeWord State.reset 0 with groups := [(0, x)], cur := some cur, agenda := [] }

/-- The machine between issues. -/
def still (x : Group) : State := { lab x with cur := none }

/-- What the stream sees. -/
def envOf (s : State) (c : Cur) (x : Group) (i : Info) : Env := issueEnv s c x i.h

/-- The machine once the stream has issued, its lanes at `to`. -/
def postOf (s : State) (c : Cur) (x : Group) (i : Info) (dsts : Env → List Dest) : State :=
  afterIssue s c x i (envOf s c x i) (dsts (envOf s c x i))

/-- The checks of `MayIssue` as one Boolean. -/
def may (s : State) (c : Cur) (x : Group) (i : Info) : Bool :=
  decide (s.cur = some c) && decide (groupAt s c.g = some x)
    && (match pathOf c x with
        | none => true
        | some p => (match p.last with
            | none => true
            | some t => decide (t + i.h.dist.toNat ≤ (coreAt s (slotCore c.g)).cycle))
            && decide (p.ready ≤ (coreAt s (slotCore c.g)).cycle))
    && (List.range 12).all (fun k => !i.h.wait.getLsbD k || decide (flagOf (c.flags x) k = 0))
    && (!i.priv || grpPriv s x)
    && (i.reads x ++ i.vw).all (fun r => decide (r < regCount x))
    && i.queues.all (fun k => (ringOf x k).conf)
    && !i.bad && !oddPair x i.a && !oddPair x i.b
    && (!i.h.sp || (decide (c.away = none) && isLive c.next && liveOk c.next (regCount x)))
    && i.vw.all (fun r => (inRing x r).isNone)
    && (i.reads x).all (fun r => !c.finds x (i.heads x) r)
    && i.vw.all (fun r => !x.lent.contains r)
    && (!i.mem || x.fence.isNone)
    && (!decide (i.h.set.toNat < 12) || decide (flagOf x i.h.set.toNat + i.sets ≤ 255))

theorem may_sound {s : State} {c : Cur} {x : Group} {i : Info} (h : may s c x i = true) : MayIssue s c x i := by
  unfold may at h
  simp only [Bool.and_eq_true, decide_eq_true_eq] at h
  obtain ⟨⟨⟨⟨⟨⟨⟨⟨⟨⟨⟨⟨⟨⟨⟨h1, h2⟩, h3⟩, h4⟩, h5⟩, h6⟩, h7⟩, h0⟩, h8⟩, h9⟩, h10⟩, h11⟩, h12⟩, h13⟩, h14⟩, h15⟩ := h
  refine { cur := h1, group := h2, dist := ?_, wait := ?_, priv := ?_, regs := ?_, queues := ?_, sound := ?_, pairA := ?_, pairB := ?_,
           live := ?_, ring := ?_, full := ?_, lent := ?_, fence := ?_, flag := ?_ }
  · intro p hp
    rw [hp] at h3
    simp only [Bool.and_eq_true, decide_eq_true_eq] at h3
    refine ⟨?_, h3.2⟩
    intro t ht
    have := h3.1
    rw [ht] at this
    simpa using this
  · intro k hk hw
    have := List.all_eq_true.mp h4 k (List.mem_range.mpr hk)
    simpa [hw] using this
  · intro hp; simpa [hp] using h5
  · intro r hr; simpa using List.all_eq_true.mp h6 r hr
  · intro k hk; exact List.all_eq_true.mp h7 k hk
  · simpa using h0
  · simpa using h8
  · simpa using h9
  · intro hs; simpa [hs, and_assoc] using h10
  · intro r hr; simpa using List.all_eq_true.mp h11 r hr
  · intro r hr; simpa using List.all_eq_true.mp h12 r hr
  · intro r hr; simpa using List.all_eq_true.mp h13 r hr
  · intro hm; simpa [hm] using h14
  · intro hf; simpa [hf] using h15

/-- The stream issues. -/
theorem goes_of {s : State} {c : Cur} {x : Group} {i : Info} (dsts : Env → List Dest) (h : may s c x i = true) :
    Goes s c x i dsts (envOf s c x i) (postOf s c x i dsts) :=
  ⟨may_sound h, rfl, rfl⟩

/-- The outcome is a next state of which `f` holds. -/
def nextIs (o : Outcome State Fault Refusal) (f : State → Bool) : Bool :=
  match o with
  | .next t => f t
  | _ => false

/-! ### The well-formedness checks refuse (R264 to R274 and each instruction's table) -/

/-- GUARD !p7, and SET 12 to 14 (R265, R271). -/
theorem test_wf_header : [Instr.exit { bare with guard := 15 }, .exit (setsFlag 12), .exit (setsFlag 13), .exit (setsFlag 14)].all
    (fun i => !i.wf) = true := by decide

/-- NOP without SET 15, FE in the wide format, YIELD above 511, WAITF of no flag, UIVEC immediate above 511 (R286 to R294). -/
theorem test_wf_control : [Instr.nop (setsFlag 0), .bra { bare with fe := 1 } 0, .call { bare with fe := 2 } 0,
    .movi { bare with fe := 4 } 0 0, .yield bare 512, .waitf bare, .uivec bare (.imm 512)].all (fun i => !i.wf) = true := by decide

/-- Types of the integer class, odd pairs, a v source under an s destination, C under an s destination, an s quotient without
a flag (R148, R152, R267, R314). -/
theorem test_wf_integer : [Instr.iadd bare .f32 false (.v 0) (.v 0) (.v 0), .iadd bare .s64 false (.v 1) (.v 2) (.v 4),
    .isub bare .s64 false (.v 2) (.v 3) (.v 4), .imul bare .z64 false (.v 2) (.v 4) (.v 5), .imulh bare .s16 (.v 0) (.v 0) (.v 0),
    .iaddc bare .b4 (.v 0) (.v 0) (.v 0) 0, .isubb bare .s32 (.s 0) (.q 0) (.imm 1) 0, .imin bare .s32 (.s 0) (.v 1) (.s 1),
    .imax bare .f16 (.v 0) (.v 0) (.v 0), .imad bare .s32 false (.s 0) (.s 1) (.s 2) 0, .iadd3 bare .s64 false (.v 2) (.v 4) (.v 6) 1,
    .idiv bare .s32 (.s 0) (.s 1) (.s 2), .irem bare .z32 (.s 0) (.s 1) (.s 2), .iabs bare .z32 false (.v 0) (.v 1),
    .ineg bare .s64 false (.v 0) (.v 1), .idp4 bare .s16 false (.v 0) (.v 1) (.v 2) 3, .idp2 bare .s8 false (.v 0) (.v 1) (.v 2) 3].all
    (fun i => !i.wf) = true := by decide

/-- Types, pairs and operand classes of the bit class (R321 to R327). -/
theorem test_wf_bit : [Instr.and bare .s32 (.v 0) (.v 1) (.v 2), .or bare .z64 (.v 1) (.v 2) (.v 4), .xor bare .z32 (.s 0) (.v 1) (.s 2),
    .andn bare .f32 (.v 0) (.v 1) (.v 2), .not bare .z64 (.v 0) (.v 1), .brev bare .s32 (.v 0) (.v 1),
    .bmix3 bare .z32 (.s 0) (.s 1) (.s 2) 0 0, .shl bare .s32 (.v 0) (.v 1) (.v 2), .shr bare .z64 (.v 1) (.v 2) (.v 4),
    .rotl bare .s64 (.v 0) (.v 2) (.v 4), .rotr bare .z32 (.s 0) (.q 1) (.s 2), .sar bare .z32 (.v 0) (.v 1) (.v 2),
    .dshr bare .z32 (.s 0) (.s 1) (.s 2) 0, .ones bare .s32 (.v 0) (.v 1), .clz bare .z64 (.v 0) (.v 1), .ctz bare .z32 (.s 0) (.v 1),
    .fxtr bare .z32 (.v 0) (.v 1) (.imm 1), .fins bare .z32 (.v 0) (.v 1) (.imm 1) 2, .fins bare .z64 (.v 0) (.v 2) (.v 4) 3,
    .clmul bare .s32 (.v 0) (.v 1) (.v 2), .clmulh bare .s64 (.v 0) (.v 2) (.v 4), .bsel bare (.s 0) (.s 1) (.s 2) 3].all
    (fun i => !i.wf) = true := by decide

/-- Operand classes of the float classes; types of the half class; CVT between equal types, from b4, of a raw immediate above
255; QBLK of an immediate block (R267, R328, R334, R336). -/
theorem test_wf_float : [Instr.fadd bare .rn (.s 0) (.v 1) (.s 2), .fsub bare .rn (.s 0) (.s 1) (.q 2), .fmul bare .rn (.s 0) (.v 1) (.v 2),
    .fscale bare .rn (.s 0) (.v 1) (.imm 2), .ffma bare .rn (.s 0) (.s 1) (.s 2) 3, .fmin bare (.s 0) (.v 1) (.v 2),
    .fmax bare (.s 0) (.v 1) (.v 2), .fcpys bare (.s 0) (.v 1) (.v 2), .frnd bare .rn (.s 0) (.v 1), .fclass bare (.s 0) (.v 1),
    .fabs bare (.s 0) (.v 1), .fneg bare (.s 0) (.v 1), .hadd2 bare .f32 .rn (.v 0) (.v 1) (.v 2), .hmul2 bare .s16 .rn (.v 0) (.v 1) (.v 2),
    .hfma2 bare .f16 .rn (.s 0) (.s 1) (.s 2) 3, .hmin2 bare .e4m3 (.v 0) (.v 1) (.v 2), .hmax2 bare .f16 (.s 0) (.v 1) (.s 2),
    .cvt bare .f32 .f32 .rn false (.v 0) (.v 1), .cvt bare .f32 .b4 .rn false (.v 0) (.v 1), .cvt bare .b4 .f32 .rn false (.v 0) (.v 1),
    .cvt bare .f32 .e4m3 .rn false (.v 0) (.imm 256), .cvtpk bare .f32 .s32 .rn false (.v 0) (.v 1) (.v 2),
    .cvtpk bare .f16 .f16 .rn false (.v 0) (.v 1) (.v 2), .qblk bare .int 0 (.imm 1) (.v 2), .qblk bare .int 0 (.v 1) (.q 2),
    .dqblk bare 0 (.s 1)].all (fun i => !i.wf) = true := by decide

/-- Types and operands of the move class; special registers that do not exist or are not writable (R286, R297 to R303). -/
theorem test_wf_move : [Instr.mov bare .f16 (.v 0) (.v 1), .movh bare .z32 (.v 0) (.v 1) (.v 2), .movh bare .z64 (.v 1) (.v 2) (.v 3),
    .sel bare .s16 (.v 0) (.v 1) (.v 2) 0, .icmp bare .f32 .eq 0 (.v 0) (.v 1), .icmp bare .s32 .num 0 (.v 0) (.v 1),
    .icmp bare .s64 .eq 0 (.v 1) (.v 2), .pxfr bare (.ps 0 (.q 1)), .poll bare .mask (.p 0) 1, .poll bare .all (.s 0) 1,
    .poll bare .mask (.s 1) 1, .peers bare .s32 (.lead 0) (.v 1), .peers bare .z32 (.one 0) (.s 1), .peers bare .z64 (.lead 0) (.v 1),
    .rdsys bare (.v 0) false 20 0, .rdsys (setsFlag 0) (.s 0) true 0 0, .rdsys bare (.v 0) false 5 3, .rdsys bare (.v 0) false 8 2,
    .rdsys bare (.v 0) false 2 1, .rdsys bare (.s 0) true 2 0, .rdsys bare (.v 1) true 2 0, .wrsys bare 15 (.s 0), .wrsys bare 20 (.s 0)].all
    (fun i => !i.wf) = true := by decide

/-- An s result without a flag; types, sources and roundings of the cross-lane class (R152, R341). -/
theorem test_wf_special : [Instr.frcp bare .rn (.s 0) (.s 1), .fsqrt (setsFlag 0) .rn (.s 0) (.v 1), .frsq bare (.s 0) (.s 1),
    .fexp2 bare (.s 0) (.s 1), .flog2 bare (.s 0) (.s 1), .fsin bare (.s 0) (.s 1), .fcos bare (.s 0) (.s 1), .ftanh bare (.s 0) (.s 1),
    .lxch bare .s32 .get 0 (.v 1) (.v 2), .lxch bare .z64 .get 1 (.v 2) (.v 4), .lxch bare .z32 .get 0 (.imm 1) (.v 2),
    .lxch bare .z32 .get 0 (.v 1) (.q 2), .redux bare .f32 .and .rn (.v 0) (.v 1), .redux bare .s32 .add .rz (.v 0) (.v 1),
    .redux bare .s32 .add .rn (.s 0) (.v 1), .redux bare .s32 .add .rn (.v 0) (.s 1), .scan bare .f16 .add .rn 0 (.v 1),
    .scan bare .z64 .add .rn 1 (.v 2)].all (fun i => !i.wf) = true := by decide

/-- Data pairs, operations and types of the memory class; LDSC without a flag (R148, R152, R274, R354). -/
theorem test_wf_memory : [Instr.ld bare .s64 false false .core 1 ⟨0, 0, 0, 7⟩, .st bare .z64 false false .core 3 ⟨0, 0, 0, 7⟩,
    .lds bare .s64 false false 1 0 0 0, .sts bare .s64 false false 5 0 0 0, .atom bare .inc .s32 .plain .core 0 0 0 0 7,
    .atom bare .add .s64 .plain .core 1 0 0 2 7, .atom bare .add .s64 .plain .core 2 0 0 1 7, .atoms bare .and .f32 .plain 0 0 0 0,
    .red bare .cas .s32 false .core 0 ⟨0, 0, 0, 7⟩, .red bare .exch .z32 false .core 0 ⟨0, 0, 0, 7⟩,
    .ldsc bare .s32 false false .core 0 0 0 7].all (fun i => !i.wf) = true := by decide

/-- Block lengths, orders and ranges of the sink, consort and engine classes (R359 to R378). -/
theorem test_wf_engines : [Instr.sink bare 0, .sink bare 9, .fence bare .plain .dev,
    .cjoin bare 0 (.imm 12) (.imm 0), .cjoin bare 0 (.imm 0) (.imm 512), .cpy bare false 7 (.v 1), .cpyfill bare false 7 (.v 3),
    .cbacq bare (.s 0) 0, .blws bare .s64 0 0, .qcfg bare 0 (.imm 512) (.imm 1), .qcfg bare 0 (.imm 0) (.imm 257),
    .nmcpy bare false 0 1 (.imm 0), .nmzero bare false 0 (.imm 512)].all (fun i => !i.wf) = true := by decide

/-- Ranges and types of the matrix, task and system classes; an opcode that is assigned is no ILLEGAL_OPCODE (R276, R381). -/
theorem test_wf_system : [Instr.accz bare (.imm 512) (.imm 1), .accz bare (.imm 0) (.imm 0), .accld bare .f16 false 0 1,
    .accst bare .s8 .rn false 0 1, .accst bare .f32 .rz false 0 1, .phase { bare with sp := true } (.imm 0), .phase bare (.imm 512),
    .signal bare (.imm 16), .tnow bare (.v 1) (.imm 0), .apxb { bare with sp := true } (.imm 0) 0 0 0 0 2, .apxb bare (.imm 256) 0 0 0 0 2,
    .apxb bare (.imm 0) 0 0 0 0 1, .ftcfg bare (.imm 256) 0, .ftinv bare (.imm 256), .ftstat bare 0 (.imm 0), .sysrd bare 0 1,
    .slcfg bare (.imm 32), .tlbinv bare (.imm 256) 0 0, .tlbinv bare (.imm 0) 0 12, .cres bare (.imm 0), .cresHold bare (.imm 1) (.imm 0),
    .quiesce bare (.imm 256), .quiesceResume bare (.imm 256), .halt bare (.imm 32), .haltRelease bare (.imm 32), .illegalOpcode 0,
    .illegalOpcode 0xFF000000_00000000_00000000, .liveExec 0].all (fun i => !i.wf) = true := by decide

/-! ### Decoding: the words that the spec works out, and one word of every row written from the encoding tables -/

/-- The word decodes to the instruction, and the instruction encodes to the word. -/
def reads (p : IWord × Instr) : Bool :=
  (match decode p.1 with
    | .ok i => decide (i = p.2)
    | .error _ => false) && decide (encode p.2 = some p.1)

/-- The words that the spec works out in its text and its programs (R243, R272 to R274, R296, R322, R326, R336, R360, R381, and
the listings of the programs). -/
theorem test_decode_spec_words : ([(0x0040000F_FFFFFF40_0016000F, .bra { bare with guard := 0, dist := 6, sp := true } 0xFFFFFFF4),
    (0x70280A01_00110231_09030055, .ld { bare with guard := 10, dist := 3, wait := 5, set := 5 } .z32 false true .clu 10 ⟨4, 1, 4, 3⟩),
    (0x51080101_4648C000_0203000F, .icmp { bare with guard := 2, dist := 3 } .s32 .lt 1 (.v 5) (.imm 100)),
    (0x215C0900_40200031_9600000F, .bmix3 bare .z32 (.v 9) (.v 1) (.v 2) 3 0x96),
    (0x249C0801_00600003_0002000F, .clmul { bare with dist := 2 } .z64 (.v 8) (.v 4) (.v 6)),
    (0x415C0501_00000047_0000000F, .cvt bare .e4m3 .f32 .rn false (.v 5) (.v 4)),
    (0x711C0C01_80A10A31_6D00000F, .atom bare .cas .z32 .acq .clu 12 6 10 20 3),
    (0x801C0000_00000030_00000004, .sink (setsFlag 4) 3),
    (0xA11C0705_00090000_00000006, .mma (setsFlag 6) false false 20 7),
    (0xA21C0000_00000000_0100000F, .batonPass bare),
    (0xC01C1805_0110C010_0400000F, .apxb bare (.imm 17) 20 1 24 0 4),
    (0x241C0200_80610001_0006002F, .fxtr { bare with dist := 6, wait := 2 } .z32 (.v 2) (.s 2) (.v 6)),
    (0x019D0000_00080000_0000000F, .rjset bare 0),
    (0x004C0000_00000060_0000000F, .bra { bare with guard := 3 } 6),
    (0x01DD0000_00080000_0000000F, .rjoin bare 0),
    (0x621C1002_80C04003_0006000F, .lxch { bare with dist := 6 } .z64 .get 16 (.v 10) (.s 12)),
    (0xB01C0000_00000000_0010000F, .bar { bare with sp := true } .core),
    (0x800C0000_00000020_00000001, .sink { bare with guard := 3, set := 1 } 2),
    (0x711C0B01_80A10A21_0800000F, .atom bare .add .z32 .plain .clu 11 6 10 20 2),
    (0x720C0001_80A10071_00000002, .preq { bare with guard := 3, set := 2 } .z32 6 10 0),
    (0xA01C0002_800D0000_0000002F, .obres { bare with wait := 2 } 0 10),
    (0x815C0004_00ED4000_00000004, .cld (setsFlag 4) false 0 16 14),
    (0xA11C0705_40090000_00000005, .mma (setsFlag 5) false false 21 7),
    (0x809C0000_00000000_0A00000F, .fence bare .rel .clu),
    (0x925C0210_00070000_00000002, .nmzero (setsFlag 2) false 2 (.imm 64)),
    (0x921C0301_03F5C000_00000002, .nmcpy (setsFlag 2) false 3 4 (.imm 63))] : List (IWord × Instr)).all reads = true := by decide

/-- A word of every row of class 0x0 (R286). -/
theorem test_decode_control : ([(0x001C0000_00000000_0009003F, .nop { bare with dist := 9, wait := 3 }),
    (0x00400001_23456780_0010000F, .bra { bare with guard := 0, sp := true } 0x12345678),
    (0x009C0002_40010000_0000000F, .brx bare (.s 9)),
    (0x00DC000F_FFFFFF40_0000000F, .call bare 0xFFFFFFF4),
    (0x011C000F_C0000000_0000000F, .ret bare (.v 63)),
    (0x01640000_00000000_0000000F, .exit { bare with guard := 9 }),
    (0x019D0300_00080000_0000000F, .rjset bare 3),
    (0x01DD0700_00080000_0000000F, .rjoin bare 7),
    (0x021D0100_00080000_0000000F, .rjclr bare 1),
    (0x025C007F_C0030000_0000000F, .yield bare 511),
    (0x029C0000_00000000_0000801F, .waitf { bare with wait := 0x801 }),
    (0x02DC0001_40010000_0000000F, .trap bare (.s 5)),
    (0x031C0000_00000000_0000000F, .bkpt bare),
    (0x035C000A_00030000_0000000F, .uivec bare (.imm 40)),
    (0x039C0000_00000000_0000000F, .uiret bare)] : List (IWord × Instr)).all reads = true := by decide

/-- A word of every row of class 0x1 (R314). -/
theorem test_decode_integer : ([(0x101C0100_BFF0C000_2000000F, .iadd bare .s32 true (.v 1) (.v 2) (.imm 0x3FF)),
    (0x105C0280_40324003_0000000F, .isub bare .z64 false (.v 2) (.q 1) (.s 3)),
    (0x109C0501_80700021_0000000F, .iaddc bare .z32 (.v 5) (.v 6) (.v 7) 2),
    (0x10DC0401_4065C062_0000000F, .isubb bare .s64 (.s 4) (.s 5) (.imm 6) 6),
    (0x111C0902_00700000_0000000F, .imul bare .s32 false (.v 9) (.v 8) (.v 7)),
    (0x115C0902_00700001_0000000F, .imulh bare .z32 (.v 9) (.v 8) (.v 7)),
    (0x119C0100_80300040_2000000F, .imad bare .s32 true (.v 1) (.v 2) (.v 3) 4),
    (0x11DC0100_80354000_00000005, .idiv (setsFlag 5) .s32 (.s 1) (.s 2) (.s 3)),
    (0x121C0201_00600003_0000000F, .irem bare .z64 (.v 2) (.v 4) (.v 6)),
    (0x125C0100_80300000_0000000F, .imin bare .s32 (.v 1) (.v 2) (.v 3)),
    (0x129C0100_80300001_0000000F, .imax bare .z32 (.v 1) (.v 2) (.v 3)),
    (0x12DC0201_00000002_2000000F, .iabs bare .s64 true (.v 2) (.v 4)),
    (0x131C0201_00070000_0000000F, .ineg bare .s32 false (.s 2) (.imm 4)),
    (0x135C0100_8030004A_0000000F, .idp4 bare .z8 false (.v 1) (.v 2) (.v 3) 4),
    (0x139C0100_8030004B_2000000F, .idp2 bare .s16 true (.v 1) (.v 2) (.v 3) 4),
    (0x13DC0100_80303FF0_0000000F, .iadd3 bare .s32 false (.v 1) (.v 2) (.v 3) 1023)] : List (IWord × Instr)).all reads = true := by decide

/-- A word of every row of class 0x2 (R321). -/
theorem test_decode_bit : ([(0x201C0A00_80304001_0000000F, .and bare .z32 (.v 10) (.v 2) (.s 3)),
    (0x205C0B00_80304001_0000000F, .or bare .z32 (.v 11) (.v 2) (.s 3)),
    (0x209C0C00_80304001_0000000F, .xor bare .z32 (.v 12) (.v 2) (.s 3)),
    (0x20DC0D00_80304001_0000000F, .andn bare .z32 (.v 13) (.v 2) (.s 3)),
    (0x211C0401_80000003_0000000F, .not bare .z64 (.v 4) (.v 6)),
    (0x215C0401_40600071_E800000F, .bmix3 bare .z32 (.v 4) (.v 5) (.v 6) 7 0xE8),
    (0x219C1400_8050C001_0000000F, .shl bare .z32 (.v 20) (.v 2) (.imm 5)),
    (0x21DC1500_8050C001_0000000F, .shr bare .z32 (.v 21) (.v 2) (.imm 5)),
    (0x221C1600_8050C000_0000000F, .sar bare .s32 (.v 22) (.v 2) (.imm 5)),
    (0x225C1700_8050C001_0000000F, .rotl bare .z32 (.v 23) (.v 2) (.imm 5)),
    (0x229C1800_8050C001_0000000F, .rotr bare .z32 (.v 24) (.v 2) (.imm 5)),
    (0x22DC0100_80300041_0000000F, .dshr bare .z32 (.v 1) (.v 2) (.v 3) 4),
    (0x231C0100_80000001_0000000F, .ones bare .z32 (.v 1) (.v 2)),
    (0x235C0100_80000003_0000000F, .clz bare .z64 (.v 1) (.v 2)),
    (0x239C0100_80050001_0000000F, .ctz bare .z32 (.s 1) (.s 2)),
    (0x23DC0100_80000001_0000000F, .brev bare .z32 (.v 1) (.v 2)),
    (0x241C0100_80300000_0000000F, .fxtr bare .s32 (.v 1) (.v 2) (.v 3)),
    (0x245C0100_80304041_0000000F, .fins bare .z32 (.v 1) (.v 2) (.s 3) 4),
    (0x249C0201_00600003_0000000F, .clmul bare .z64 (.v 2) (.v 4) (.v 6)),
    (0x24DC0100_80300001_0000000F, .clmulh bare .z32 (.v 1) (.v 2) (.v 3)),
    (0x251C0100_80300041_0000000F, .bsel bare (.v 1) (.v 2) (.v 3) 4)] : List (IWord × Instr)).all reads = true := by decide

/-- A word of every row of class 0x3 (R328). -/
theorem test_decode_float : ([(0x301C0100_80300004_4000000F, .fadd bare .rz (.v 1) (.v 2) (.v 3)),
    (0x305C0100_80300004_8000000F, .fsub bare .rd (.v 1) (.v 2) (.v 3)),
    (0x309C0180_8032C004_C000000F, .fmul bare .ru (.v 1) (.q 2) (.imm 3)),
    (0x30DC0100_80300044_0000000F, .ffma bare .rn (.v 1) (.v 2) (.v 3) 4),
    (0x311C0100_80300004_0000000F, .fmin bare (.v 1) (.v 2) (.v 3)),
    (0x315C0100_80354004_0000000F, .fmax bare (.s 1) (.s 2) (.s 3)),
    (0x319C0100_80000004_8000000F, .frnd bare .rd (.v 1) (.v 2)),
    (0x31DC0100_8030C004_0000000F, .fscale bare .rn (.v 1) (.v 2) (.imm 3)),
    (0x321C0100_80000004_0000000F, .fclass bare (.v 1) (.v 2)),
    (0x325C0100_80000004_0000000F, .fabs bare (.v 1) (.v 2)),
    (0x329C0100_80000004_0000000F, .fneg bare (.v 1) (.v 2)),
    (0x32DC0100_80300004_0000000F, .fcpys bare (.v 1) (.v 2) (.v 3))] : List (IWord × Instr)).all reads = true := by decide

/-- A word of every row of class 0x4 (R334). -/
theorem test_decode_half : ([(0x401C0100_80300005_4000000F, .hadd2 bare .f16 .rz (.v 1) (.v 2) (.v 3)),
    (0x405C0100_80300006_0000000F, .hmul2 bare .bf16 .rn (.v 1) (.v 2) (.v 3)),
    (0x409C0100_80300045_C000000F, .hfma2 bare .f16 .ru (.v 1) (.v 2) (.v 3) 4),
    (0x40DC0100_80300005_0000000F, .hmin2 bare .f16 (.v 1) (.v 2) (.v 3)),
    (0x411C0100_80300006_0000000F, .hmax2 bare .bf16 (.v 1) (.v 2) (.v 3)),
    (0x415C0232_00030083_A000000F, .cvt bare .z64 .e5m2 .rd true (.v 2) (.imm 200)),
    (0x419C0100_8030004D_2000000F, .cvtpk bare .i4 .f32 .rn true (.v 1) (.v 2) (.v 3)),
    (0x41DC0100_8030C00E_0300000F, .qblk bare .hybrid 1 (.v 2) (.imm 3)),
    (0x421C0180_8002000E_0000000F, .dqblk bare 1 (.q 2))] : List (IWord × Instr)).all reads = true := by decide

/-- A word of every row of class 0x5 (R286). -/
theorem test_decode_move : ([(0x501C0100_80030004_0000000F, .mov bare .f32 (.v 1) (.imm 2)),
    (0x505C090D_EADBEEF0_0000000F, .movi bare 9 0xDEADBEEF),
    (0x509C0200_C0400003_0000000F, .movh bare .z64 (.v 2) (.v 3) (.v 4)),
    (0x50DC0100_80300040_0000000F, .sel bare .s32 (.v 1) (.v 2) (.v 3) 4),
    (0x511C0300_40280001_0500000F, .icmp bare .z32 .ge 3 (.v 1) (.v 2)),
    (0x515C0300_40280004_0700000F, .fcmp bare .nan 3 (.v 1) (.v 2)),
    (0x519C0100_803A8000_0200000F, .plog bare .xor 1 2 3),
    (0x51DC0100_80080000_0000000F, .pxfr bare (.ps 1 (.v 2))),
    (0x51DC0100_80020000_0000000F, .pxfr bare (.vp 1 2)),
    (0x51DC0100_80010000_0000000F, .pxfr bare (.vs 1 (.s 2))),
    (0x521C0100_800A0000_0200000F, .poll bare .same (.p 1) 2),
    (0x521C0400_80060000_0300000F, .poll bare .mask (.s 4) 2),
    (0x525C0100_80000001_0000000F, .peers bare .z32 (.lead 1) (.v 2)),
    (0x525C0100_80080003_0100000F, .peers bare .z64 (.one 1) (.v 2)),
    (0x529C0201_4023C003_0000000F, .rdsys bare (.v 2) true 5 2),
    (0x52DC1100_C00F0000_0000000F, .wrsys bare 17 (.imm 3))] : List (IWord × Instr)).all reads = true := by decide

/-- A word of every row of class 0x6 (R341). -/
theorem test_decode_special : ([(0x601C0100_80000004_C000000F, .frcp bare .ru (.v 1) (.v 2)),
    (0x609C0100_80050004_40000005, .fsqrt (setsFlag 5) .rz (.s 1) (.s 2)),
    (0x605C0100_80000004_0000000F, .frsq bare (.v 1) (.v 2)),
    (0x60DC0300_80000004_0000000F, .fexp2 bare (.v 3) (.v 2)),
    (0x611C0400_80000004_0000000F, .flog2 bare (.v 4) (.v 2)),
    (0x615C0500_80000004_0000000F, .fsin bare (.v 5) (.v 2)),
    (0x619C0600_80000004_0000000F, .fcos bare (.v 6) (.v 2)),
    (0x61DC0700_80000004_0000000F, .ftanh bare (.v 7) (.v 2)),
    (0x621C0201_0050C003_0300000F, .lxch bare .z64 .xor 2 (.v 4) (.imm 5)),
    (0x625C0100_80000004_4000000F, .redux bare .f32 .add .rz (.v 1) (.v 2)),
    (0x629C0100_80000000_0200000F, .scan bare .s32 .max .rn 1 (.v 2))] : List (IWord × Instr)).all reads = true := by decide

/-- A word of every row of class 0x7 (R273, R274). -/
theorem test_decode_memory : ([(0x701C02F0_C0411FD2_1500000F, .ld bare .s64 true true .dev 2 ⟨3, 4, 0x3FF, 5⟩),
    (0x705C0210_C04100FA_1A00000F, .st bare .z8 false true .sys 2 ⟨3, 4, 65, 7⟩),
    (0x709C0100_80310275_0100000F, .lds bare .f16 false true 1 2 3 4),
    (0x70DC0100_80310270_0400000F, .sts bare .s32 true false 1 2 3 4),
    (0x711C0110_80311241_7700000F, .atom bare .cas .z32 .acqrel .dev 1 2 3 100 4),
    (0x715C0200_C0410373_8400000F, .atoms bare .dec .z64 .plain 2 3 4 6),
    (0x719C0100_80310251_8A00000F, .red bare .inc .z32 true .clu 1 ⟨2, 3, 4, 5⟩),
    (0x71DC0100_800501C4_09000005, .ldsc (setsFlag 5) .f32 false true .clu 1 2 3 4),
    (0x721C0000_402101F1_0000000F, .preq bare .z32 1 2 3),
    (0x725C0000_402101F9_0000000F, .pref bare .s8 1 2 3),
    (0x729C0000_402101FC_0200000F, .cctl bare .wbinv .z16 1 2 3)] : List (IWord × Instr)).all reads = true := by decide

/-- A word of every row of classes 0x8 and 0x9 (R348). -/
theorem test_decode_engines : ([(0x801C0000_00000080_0000000F, .sink bare 8),
    (0x805C0500_00000000_0000000F, .srec bare 5),
    (0x809C0000_00000000_1B00000F, .fence bare .acqrel .sys),
    (0x80DC0F02_C02F4000_0000000F, .cjoin bare 15 (.imm 11) (.s 2)),
    (0x811C0300_000C0000_0000000F, .cleave bare 3),
    (0x815C0100_803D4000_0100000F, .cld bare true 1 2 3),
    (0x819C0401_40070000_0000000F, .cstat bare 4 5),
    (0x901C0301_00080000_0100000F, .cpy bare true 3 (.v 4)),
    (0x905C0701_00090000_0000000F, .cpyfill bare false 7 (.s 4)),
    (0x909C01D0_843D4000_0000000F, .cbinit bare 1 2 3 0x35),
    (0x90DC0100_80030000_0000000F, .cbacq bare (.v 1) 2),
    (0x911C0100_800D0000_0000000F, .cbrel bare 1 2),
    (0x915E0100_80090006_0000000F, .blws bare .bf16 1 2),
    (0x919E0300_00080000_0000000F, .blwstop bare 3),
    (0x91DE0100_900BC000_0000000F, .qcfg bare 1 (.imm 2) (.imm 256)),
    (0x921C0100_80354000_0100000F, .nmcpy bare true 1 2 (.s 3)),
    (0x925C0100_80070000_0000000F, .nmzero bare false 1 (.imm 2))] : List (IWord × Instr)).all reads = true := by decide

/-- A word of every row of class 0xA (R381). -/
theorem test_decode_matrix : ([(0xA01C0F00_800D0000_0000000F, .obres bare 15 2),
    (0xA05C0300_000C0000_0000000F, .obrel bare 3),
    (0xA09C0000_40214000_0100000F, .scpy bare true 1 2),
    (0xA0DC0700_800D0000_0000000F, .ptld bare false 7 2),
    (0xA11C0200_40090000_2100000F, .mma bare true true 1 2),
    (0xA15C0000_40234000_0000000F, .accz bare (.imm 1) (.s 2)),
    (0xA19C0000_40214004_0100000F, .accld bare .f32 true 1 2),
    (0xA1DC0000_40214006_C000000F, .accst bare .bf16 .ru false 1 2),
    (0xA21C0000_00000000_0000000F, .batonTake bare),
    (0xA21C0000_00000000_0100000F, .batonPass bare),
    (0xA21C0500_00040000_0200000F, .batonQuery bare 5)] : List (IWord × Instr)).all reads = true := by decide

/-- A word of every row of class 0xB (R286). -/
theorem test_decode_tasks : ([(0xB01C0000_00000000_1800000F, .bar bare .sys),
    (0xB05C007F_C0030000_0000000F, .phase bare (.imm 511)),
    (0xB09C0003_C0030000_0000000F, .signal bare (.imm 15)),
    (0xB0DC0000_4001C020_0000000F, .spawnTask bare 1 2),
    (0xB0DC0000_4011C070_0000000F, .spawnGrid bare 1 7),
    (0xB0DC0000_4021C030_0000000F, .spawnGraph bare 1 3),
    (0xB11C0000_40210000_0000000F, .amsg bare 1 2),
    (0xB15C0200_C0030003_0000000F, .tnow bare (.v 2) (.imm 3)),
    (0xB19C0001_00010000_0000000F, .twait bare 4),
    (0xB1DC0001_40010000_0000000F, .gwnote bare 5)] : List (IWord × Instr)).all reads = true := by decide

/-- A word of every row of classes 0xC and 0xD (R381). -/
theorem test_decode_system : ([(0xC01C0300_801041FF_FF00000F, .apxb bare (.s 1) 2 7 3 3 0xFFF),
    (0xC05C0000_00000000_0000000F, .apxe bare),
    (0xC09C003F_C0234000_0000000F, .ftcfg bare (.imm 255) 2),
    (0xC0DC0000_40010000_0000000F, .ftinv bare (.s 1)),
    (0xC11C0100_80070000_00000005, .ftstat (setsFlag 5) 1 (.imm 2)),
    (0xD01C0100_80050000_00000005, .sysrd (setsFlag 5) 1 2),
    (0xD05C0000_40214000_0000000F, .syswr bare 1 2),
    (0xD09C0007_C0030000_0000000F, .slcfg bare (.imm 31)),
    (0xD0DC0000_402340F0_0000000F, .tlbinv bare (.imm 1) 2 15),
    (0xD11C007F_C003C000_0000000F, .cres bare (.imm 511)),
    (0xD11C0000_40234000_0000000F, .cresHold bare (.imm 1) (.s 2)),
    (0xD15C0000_00000000_0000000F, .crrel bare),
    (0xD19C0000_4003C000_0000000F, .quiesce bare (.imm 1)),
    (0xD19C0000_4011C000_0000000F, .quiesceResume bare (.s 1)),
    (0xD1DC0000_4003C000_0000000F, .halt bare (.imm 1)),
    (0xD1DC0000_4011C000_0000000F, .haltRelease bare (.s 1)),
    (0xD21C0000_00000000_00000000, .illegalOpcode 0xD21C00000000000000000000),
    (0xFFFFFFFF_FFFFFFFF_FFFFFFFF, .liveExec 0xFFFFFFFFFFFFFFFFFFFFFFFF)] : List (IWord × Instr)).all reads = true := by decide

/-- A word of reserved fields is refused by name: D of an EXIT, TYPE 15, a displacement bit beyond C[8:3], a queue number with
other bits, p7 as a negated guard (R264, R265, R266, R269, R273). -/
theorem test_decode_refuses : ([0x015C0100_00000000_0000000F, 0x101C0100_8030000F_0000000F, 0x701C0200_C0412070_0000000F, 0x919E4000_00080000_0000000F, 0x017C0000_00000000_0000000F, 0x125C0100_80300000_2000000F, 0x521C0100_800A0000_0400000F] : List IWord).all (fun w => match decode w with
    | .ok _ => false
    | .error _ => true) = true := by decide

/-! ### One step of an instruction: the worked numbers of the spec -/

/-- The group with these values in lane 0 of its v registers. -/
def withV (vs : List (Nat × Word)) : Group := { grp with v := vs.foldl (fun m p => mput m (128 * p.1) p.2) [] }

/-- Lane 0 of register `d` once the instruction has issued in a group with these values. -/
def laneAfter (i : Instr) (vs : List (Nat × Word)) (d : Nat) : Option Word :=
  match exec i (lab (withV vs)) with
  | .next t => (groupAt t 0).map fun y => vRaw y d 0
  | _ => none

/-- The lane 0 value that the result under way will bring to register `d`. -/
def lateAfter (i : Instr) (vs : List (Nat × Word)) (d : Nat) : Option Word :=
  match exec i (lab (withV vs)) with
  | .next t => (t.results.find? fun r => !r.vals.isEmpty).bind fun r => (r.vals.find? fun p => p.1 == 128 * d).map (·.2)
  | _ => none

/-- ISUB.z32.sat of 3 and 5 gives 0 (R315). -/
theorem test_isub_sat : laneAfter (.isub bare .z32 true (.v 2) (.v 0) (.v 1)) [(0, 3), (1, 5)] 2 = some 0 := by decide
/-- IMIN.z32 of 0xFFFFFFFF and 1 gives 1 (R315). -/
theorem test_imin_z32 : laneAfter (.imin bare .z32 (.v 2) (.v 0) (.v 1)) [(0, 0xFFFFFFFF), (1, 1)] 2 = some 1 := by decide
/-- IMIN.s32 of the same two gives 0xFFFFFFFF (R315). -/
theorem test_imin_s32 : laneAfter (.imin bare .s32 (.v 2) (.v 0) (.v 1)) [(0, 0xFFFFFFFF), (1, 1)] 2 = some 0xFFFFFFFF := by decide
/-- IMULH.s32 of -2 and 3 (R317). -/
theorem test_imulh_s32 : laneAfter (.imulh bare .s32 (.v 2) (.v 0) (.v 1)) [(0, 0xFFFFFFFE), (1, 3)] 2 = some 0xFFFFFFFF := by decide
/-- IMULH.z32 of the same patterns (R317). -/
theorem test_imulh_z32 : laneAfter (.imulh bare .z32 (.v 2) (.v 0) (.v 1)) [(0, 0xFFFFFFFE), (1, 3)] 2 = some 2 := by decide
/-- The low and the high half of the 64-bit sum of R316: the carry out of the low words, and the high words with it. -/
theorem test_iaddc_low : laneAfter (.iaddc bare .z32 (.v 10) (.v 4) (.v 6) 2) [(4, 0xFFFFFFFF), (6, 1)] 10 = some 0
    ∧ nextIs (exec (.iaddc bare .z32 (.v 10) (.v 4) (.v 6) 2) (lab (withV [(4, 0xFFFFFFFF), (6, 1)])))
        (fun t => (groupAt t 0).any fun y => inLanes (pRaw y 2) 0) = true := by decide
theorem test_iaddc_high : nextIs (exec (.iaddc bare .z32 (.v 11) (.v 5) (.v 7) 2) (lab { withV [(5, 2), (7, 3)] with p := [(2, 1)] }))
    (fun t => (groupAt t 0).any fun y => vRaw y 11 0 == 6 && !inLanes (pRaw y 2) 0) = true := by decide
/-- IDIV.s32 of -7 and 2 gives -3, and of 0x80000000 and -1 gives 0x80000000 (R318). -/
theorem test_idiv : lateAfter (.idiv bare .s32 (.v 2) (.v 0) (.v 1)) [(0, 0xFFFFFFF9), (1, 2)] 2 = some 0xFFFFFFFD
    ∧ lateAfter (.idiv bare .s32 (.v 2) (.v 0) (.v 1)) [(0, 0x80000000), (1, 0xFFFFFFFF)] 2 = some 0x80000000 := by decide
/-- IREM.s32 of -7 and 2 gives -1 (R318). -/
theorem test_irem : lateAfter (.irem bare .s32 (.v 2) (.v 0) (.v 1)) [(0, 0xFFFFFFF9), (1, 2)] 2 = some 0xFFFFFFFF := by decide
/-- The IDP4.s8 of R320 gives 14. -/
theorem test_idp4 : laneAfter (.idp4 bare .s8 false (.v 3) (.v 0) (.v 1) 2) [(0, 0x7F800102), (1, 0x0101FF03), (2, 10)] 3
    = some 14 := by decide
/-- FXTR of 0x0000F0A0 from position 4: with length 8 unsigned, with length 12 signed (R325). -/
theorem test_fxtr_z32 : laneAfter (.fxtr bare .z32 (.v 2) (.v 0) (.v 1)) [(0, 0xF0A0), (1, 0x0804)] 2 = some 0x0A := by decide
theorem test_fxtr_s32 : laneAfter (.fxtr bare .s32 (.v 2) (.v 0) (.v 1)) [(0, 0xF0A0), (1, 0x0C04)] 2 = some 0xFFFFFF0A := by decide
/-- CLMUL.z32 of 3 and 3 gives 5; CLMULH.z32 of 0x80000000 twice gives 0x40000000 (R326). -/
theorem test_clmul : laneAfter (.clmul bare .z32 (.v 2) (.v 0) (.v 1)) [(0, 3), (1, 3)] 2 = some 5 := by decide
theorem test_clmulh : laneAfter (.clmulh bare .z32 (.v 2) (.v 0) (.v 1)) [(0, 0x80000000), (1, 0x80000000)] 2
    = some 0x40000000 := by decide
/-- BSEL with sign extension and with fills (R327). -/
theorem test_bsel_sign : laneAfter (.bsel bare (.v 3) (.v 0) (.v 1) 2) [(0, 0x44332211), (1, 0x88776655), (2, 0xAAA7)] 3
    = some 0xFFFFFF88 := by decide
theorem test_bsel_fill : laneAfter (.bsel bare (.v 3) (.v 0) (.v 1) 2) [(0, 0x44332211), (1, 0x88776655), (2, 0x9804)] 3
    = some 0xFF001155 := by decide
/-- FFMA of 1 + 2^-12 squared and -1.0 keeps the low bit, and raises no flag (R329). -/
theorem test_ffma : laneAfter (.ffma bare .rn (.v 3) (.v 0) (.v 1) 2) [(0, 0x3F800800), (1, 0x3F800800), (2, 0xBF800000)] 3
    = some 0x3A000400 ∧ nextIs (exec (.ffma bare .rn (.v 3) (.v 0) (.v 1) 2) (lab (withV [(0, 0x3F800800), (1, 0x3F800800), (2, 0xBF800000)])))
        (fun t => t.results.all fun r => r.fl == 0) = true := by decide
/-- FMUL rounds that product to 1 + 2^-11 (R329). -/
theorem test_fmul : laneAfter (.fmul bare .rn (.v 3) (.v 0) (.v 1)) [(0, 0x3F800800), (1, 0x3F800800)] 3 = some 0x3F801000 := by decide
/-- CVTPK.e4m3.f32 of 1.0 and 2.0, then of -1.0 and 0.5 (R338). -/
theorem test_cvtpk_first : (laneAfter (.cvtpk bare .e4m3 .f32 .rn false (.v 6) (.v 1) (.v 2)) [(1, 0x3F800000), (2, 0x40000000)] 6).map
    (fun w => w / 65536) = some 0x4038 := by decide
theorem test_cvtpk_second : laneAfter (.cvtpk bare .e4m3 .f32 .rn false (.v 6) (.v 1) (.v 2))
    [(1, 0xBF800000), (2, 0x3F000000), (6, 0x40380000)] 6 = some 0x30B84038 := by decide
/-- QBLK of 5.0, -2.5, 0.3, 7.0 and twelve zeros with T = 11: lanes 0 and 1 give the codes 0x60A4 and zero, and the scale byte
is 0xDF (R214, R339). -/
theorem test_qblk : nextIs (exec (.qblk bare .hybrid 4 (.v 0) (.imm 0)) (lab { grp with
      nlanes := 16, paths := [{ pc := 0, lanes := 3 }], v := [(0, 0x40A00000), (1, 0xC0200000), (2, 0x3E99999A), (3, 0x40E00000)] }))
    (fun t => (groupAt t 0).any fun y => (vRaw y 4 0).setWidth 8 == (0xA4 : Byte)) = true := by decide +kernel
/-- BRA goes to PC + offset (R287): from word 0x104 with offset -12 to 0xF8. -/
theorem test_bra : nextIs (exec (.bra bare 0xFFFFFFF4)
      { lab { grp with paths := [{ pc := 0x104, lanes := 3 }] } with cur := some { cur with pc := 0x104 } })
    (fun t => (groupAt t 0).any fun y => y.paths.map (fun p => (p.pc, p.lanes)) == [(0xF8, 3)]) = true := by decide
/-- The selector of PBUD of cluster 2 of flask 9 (R399). -/
theorem test_selector : sel 6 (4 * 9 + 2) = 0x6026 ∧ selOk 0x6026 = true := by decide
/-- The controller step of R47 at point 15: EST 46,400 leaves INTEG 39,975 and CEIL 172, and EST 41,600 then INTEG 39,968. -/
theorem test_pi_step : piStep 40000 0x800 0x100 40000 46400 920 = (39975, 172)
    ∧ (piStep 40000 0x800 0x100 39975 41600 920).1 = 39968 := by decide
/-- INC with bound 5 from 3: lane after lane, the counter reads 3, 4, 5, 0 (R355). -/
theorem test_atomic_inc : atomicOp .inc .z32 3 5 0 = 4 ∧ atomicOp .inc .z32 5 5 0 = 0 := by decide
/-- A fetched word runs as the first instruction after reset: MOVI writes its value and the path goes on (R137). -/
theorem test_first_step : nextIs (step (State.reset.withFetchWord 96 0x505C090D_EADBEEF0_0000000F))
    (fun t => (groupAt t 0).any fun y => y.paths.map (·.pc) == [1]) = true := by decide

/-! ### For each statement with hypotheses, a machine and operands that meet them: words, steps and results -/

theorem meets_next {o : Outcome State Fault Refusal} {f : State → Bool} (h : nextIs o f = true) : ∃ t, o = .next t ∧ f t = true := by
  cases o with
  | next t => exact ⟨t, rfl, h⟩
  | fault _ => cases h
  | refused _ => cases h

theorem test_meets_DecodeEncode : (Instr.iadd bare .s32 false (.v 1) (.v 2) (.imm 0x200)).wf = true
    ∧ encode (.iadd bare .s32 false (.v 1) (.v 2) (.imm 0x200)) = some 0x101C0100_A000C000_0000000F := by decide

theorem test_meets_EncodeDecode : reads (0x101C0100_A000C000_0000000F, .iadd bare .s32 false (.v 1) (.v 2) (.imm 0x200)) = true := by
  decide

/-- A vector word, MOVI, placed where the next step fetches it. -/
def moviWord : IWord := 0x505C090D_EADBEEF0_0000000F
def placed : State := State.reset.withFetchWord 96 moviWord.toNat
def placedGrp : Group := (groupAt placed 0).getD grp
def placedPath : Path := { pc := 0, lanes := 1 }
def placedIdle : State := { placed with agenda := [], cur := none }
def placedTaken : State := modGroup (modCore placedIdle 0 fun k => { k with qlast := mput k.qlast 0 k.cycle }) 0 fun y => { y with age := 0 }
def placedCur : Cur := { g := 0, pc := 0, lanes := 1, word := moviWord, next := 0 }

/-- An issue turn of a quarter with one ready path, at a vector word. -/
theorem test_meets_StepRunsDecoded : placed.agenda = [.issue 0 0] ∧ (flaskAt placedIdle (coreFlask 0)).gated = false
    ∧ mget? (coreAt placedIdle 0).qlast 0 ≠ some (coreAt placedIdle 0).cycle ∧ quarterGroups placedIdle 0 0 = [0]
    ∧ groupAt placedIdle 0 = some placedGrp ∧ mayIssue placedGrp = true ∧ placedGrp.stepPc = none
    ∧ openPaths placedGrp = [placedPath] ∧ placedGrp.poison = none ∧ uiPath placedGrp = none ∧ placedGrp.causes = []
    ∧ fetchFor placedIdle 0 placedGrp 0 = .ok moviWord 0 none ∧ reads (moviWord, .movi bare 9 0xDEADBEEF) = true
    ∧ breaks placedIdle 0 placedGrp placedPath moviWord = false ∧ vecWord moviWord = true ∧ pipeFree placedIdle 0 placedGrp = true
    ∧ nextIs (exec (.movi bare 9 0xDEADBEEF) { placedIdle with cur := some placedCur }) (fun u => u.cur.isNone) = true
    ∧ nextIs (exec (.movi bare 9 0xDEADBEEF) { placedTaken with cur := some placedCur }) (fun u => u.cur.isNone) = true := by decide

/-- The machine at reset is settled and steps. -/
theorem test_meets_StepSettles : Settled State.reset ∧ ∃ t, step State.reset = .next t :=
  ⟨⟨rfl, by intro p hp; cases hp⟩,
    have h : nextIs (step State.reset) (fun _ => true) = true := by decide
    (meets_next h).imp fun _ ht => ht.1⟩

/-- One instruction of each class whose stream may issue. -/
theorem test_meets_IntegerResults :
    (wholeForm (.isub (setsFlag 3) .s64 true (.v 2) (.v 4) (.imm 5))).isSome = true
    ∧ MayIssue (lab grp) cur grp (info2 (setsFlag 3) .s64 (.v 2) (.v 4) (.imm 5))
    ∧ (wholeForm (.and bare .z32 (.s 1) (.s 2) (.s 3))).isSome = true
    ∧ MayIssue (lab grp) cur grp (info2 bare .z32 (.s 1) (.s 2) (.s 3)) :=
  ⟨rfl, may_sound (by decide), rfl, may_sound (by decide)⟩

theorem test_meets_FloatResults :
    (floatMoveForm (.fadd bare .rd (.v 1) (.v 63) (.v 3))).isSome = true
    ∧ MayIssue (lab grp) cur grp (info2 bare .f32 (.v 1) (.v 63) (.v 3))
    ∧ (floatMoveForm (.plog bare .or 1 2 3)).isSome = true ∧ MayIssue (lab grp) cur grp { h := bare } :=
  ⟨rfl, may_sound (by decide), rfl, may_sound (by decide)⟩

theorem test_meets_StatusResults :
    (statusForm (lab grp) (.srec bare 5)).isSome = true ∧ MayIssue (lab grp) cur grp (infoOf bare (.v 5) false none none [])
    ∧ (statusForm (lab grp) (.batonQuery bare 5)).isSome = true ∧ MayIssue (lab grp) cur grp (engInfo bare) :=
  ⟨rfl, may_sound (by decide), rfl, may_sound (by decide)⟩

theorem test_meets_LateResults :
    (lateForm (lab grp) (.idiv bare .s32 (.v 1) (.v 2) (.v 3))).isSome = true
    ∧ MayIssue (lab grp) cur grp (info2 bare .s32 (.v 1) (.v 2) (.v 3))
    ∧ (lateForm (lab grp) (.frcp bare .rn (.v 1) (.v 2))).isSome = true
    ∧ MayIssue (lab grp) cur grp (info1 bare .f32 (.v 1) (.v 2)) :=
  ⟨rfl, may_sound (by decide), rfl, may_sound (by decide)⟩

/-- POLL.mask of p7 in both lanes. -/
theorem test_meets_PollMask :
    Goes (lab grp) cur grp { h := bare, once := true } (nextWord { h := bare, once := true }) (envOf (lab grp) cur grp { h := bare })
        (postOf (lab grp) cur grp { h := bare, once := true } (nextWord { h := bare, once := true }))
    ∧ (groupAt (postOf (lab grp) cur grp { h := bare, once := true } (nextWord { h := bare, once := true })) 0).isSome = true
    ∧ (envOf (lab grp) cur grp { h := bare }).act = 3 ∧ (envOf (lab grp) cur grp { h := bare }).p 7 0 = true :=
  ⟨goes_of _ (by decide), by decide, by decide, by decide⟩

/-- UIVEC with its operand in range, and a branch. -/
theorem test_meets_PromptResults :
    (promptForm (.uivec bare (.imm 511))).isSome = true ∧ MayIssue (lab grp) cur grp { h := bare, once := true }
    ∧ ((envOf (lab grp) cur grp { h := bare }).simm (.imm 511)).toNat ≤ 0xFFFF
    ∧ (promptForm (.bra bare 4)).isSome = true ∧ MayIssue (lab grp) cur grp { h := bare } :=
  ⟨rfl, may_sound (by decide), by decide, rfl, may_sound (by decide)⟩

/-- The stream issues: with a source in a v register, and with one in a queue that holds an entry. -/
def queueGrp : Group := { grp with q := [(1, { rbase := 8, depth := 2, tail := 1, conf := true })], empt := [9] }
theorem test_meets_IssueMoves :
    Goes (lab grp) cur grp (info1 bare .s32 (.v 1) (.v 2)) (nextWord (info1 bare .s32 (.v 1) (.v 2)))
        (envOf (lab grp) cur grp (info1 bare .s32 (.v 1) (.v 2)))
        (postOf (lab grp) cur grp (info1 bare .s32 (.v 1) (.v 2)) (nextWord (info1 bare .s32 (.v 1) (.v 2))))
    ∧ Goes (lab queueGrp) cur queueGrp (info1 bare .s32 (.v 1) (.q 1)) (nextWord (info1 bare .s32 (.v 1) (.q 1)))
        (envOf (lab queueGrp) cur queueGrp (info1 bare .s32 (.v 1) (.q 1)))
        (postOf (lab queueGrp) cur queueGrp (info1 bare .s32 (.v 1) (.q 1)) (nextWord (info1 bare .s32 (.v 1) (.q 1)))) :=
  ⟨goes_of _ (by decide), goes_of _ (by decide)⟩

/-- A result on its way to two lanes of a v register, with a flag. -/
def lateRes : Res := { id := 9, uid := 2, vregs := [5], vals := [(640, 7), (641, 8)], sreg := some (3, 11), sig := .grp 2 4 }
def lateLab : State := { still { grp with empt := [5], f := [(4, 1)] } with results := [lateRes] }
theorem test_meets_ResultArrives :
    Rising lateLab.groups ∧ lateLab.results.find? (fun q => q.id == 9 && q.due.isNone) = some lateRes ∧ lateRes.pvals = []
    ∧ (∀ p, p ∈ lateLab.parked → p.g.uid ≠ 2) ∧ slotOf lateLab 2 = some 0
    ∧ groupAt lateLab 0 = some { grp with empt := [5], f := [(4, 1)] } ∧ (lateRes.vals.map (·.1)).Nodup :=
  ⟨by simp [Rising, lateLab, still, lab], by decide, by decide, by decide, by decide, by decide, by decide⟩

/-- RJOIN of a lane in the mask. -/
def joinGrp : Group := { grp with j := [(2, { mask := 1 })] }
theorem test_meets_RejoinResults : ∃ φ, joinForm (.rjoin bare 2) = some φ
    ∧ Goes (lab joinGrp) cur joinGrp { h := φ.h } φ.dsts (envOf (lab joinGrp) cur joinGrp { h := φ.h })
        (postOf (lab joinGrp) cur joinGrp { h := φ.h } φ.dsts) :=
  ⟨_, rfl, goes_of _ (by decide)⟩

/-- RJOIN of a mask that is empty. -/
theorem test_meets_rejoin_empty : (joinForm (.rjoin bare 2)).any (fun φ => φ.ends 3 {}) = true
    ∧ may (lab grp) cur grp { h := bare } = true ∧ (mget grp.j 2 {}).mask = 0 := by decide

theorem test_meets_YieldCallResults :
    Goes (lab grp) cur grp { h := bare, once := true } (nextWord { h := bare }) (envOf (lab grp) cur grp { h := bare })
        (postOf (lab grp) cur grp { h := bare, once := true } (nextWord { h := bare }))
    ∧ Goes (lab grp) cur grp { h := bare, vw := [regCount grp - 1] } (splitTo { h := bare } (fun e => e.pc + 4) fun _ => .run)
        (envOf (lab grp) cur grp { h := bare })
        (postOf (lab grp) cur grp { h := bare, vw := [regCount grp - 1] } (splitTo { h := bare } (fun e => e.pc + 4) fun _ => .run)) :=
  ⟨goes_of _ (by decide), goes_of _ (by decide)⟩

/-- EXIT of the last lanes; and of the lanes of predicate 0, lane 0, with lane 1 left. -/
def halfGrp : Group := { grp with p := [(0, 1)] }
theorem test_meets_ExitEnds :
    Goes (lab grp) cur grp { h := bare } (nextWord { h := bare }) (envOf (lab grp) cur grp { h := bare })
        (postOf (lab grp) cur grp { h := bare } (nextWord { h := bare }))
    ∧ aliveLanes grp &&& ~~~ (envOf (lab grp) cur grp { h := bare }).act = 0
    ∧ Goes (lab halfGrp) cur halfGrp { h := { bare with guard := 0 } } (nextWord { h := { bare with guard := 0 } })
        (envOf (lab halfGrp) cur halfGrp { h := { bare with guard := 0 } })
        (postOf (lab halfGrp) cur halfGrp { h := { bare with guard := 0 } } (nextWord { h := { bare with guard := 0 } }))
    ∧ aliveLanes halfGrp &&& ~~~ (envOf (lab halfGrp) cur halfGrp { h := { bare with guard := 0 } }).act ≠ 0
    ∧ ((groupAt (postOf (lab halfGrp) cur halfGrp { h := { bare with guard := 0 } } (nextWord { h := { bare with guard := 0 } })) 0).any
        fun y => !y.done && y.paths.any fun p => inLanes p.lanes 1 && p.wait == .run) = true :=
  ⟨goes_of _ (by decide), by decide, goes_of _ (by decide), by decide, by decide⟩

/-- EXIT of the only lane that runs, the other at the barrier of the team. -/
def lastRunGrp : Group := { grp with paths := [{ pc := 0, lanes := 1 }, { pc := 4, lanes := 2, wait := .bar .core }] }
def lastRunCur : Cur := { cur with lanes := 1 }
def lastRunLab : State := { lab lastRunGrp with cur := some lastRunCur }
theorem test_meets_exit_waiters :
    Goes lastRunLab lastRunCur lastRunGrp { h := bare } (nextWord { h := bare }) (envOf lastRunLab lastRunCur lastRunGrp { h := bare })
        (postOf lastRunLab lastRunCur lastRunGrp { h := bare } (nextWord { h := bare }))
    ∧ (envOf lastRunLab lastRunCur lastRunGrp { h := bare }).act ≠ 0
    ∧ aliveLanes lastRunGrp &&& ~~~ (envOf lastRunLab lastRunCur lastRunGrp { h := bare }).act ≠ 0 :=
  ⟨goes_of _ (by decide), by decide, by decide⟩

/-- UIRET outside a handler, and of the whole handler set. -/
def handlerGrp : Group := { grp with uiAct := true, uiSet := 3, uiPc := 40 }
theorem test_meets_InterruptReturn :
    Goes (lab grp) cur grp { h := bare } (splitTo { h := bare } (fun e => e.pc) fun _ => .uiret) (envOf (lab grp) cur grp { h := bare })
        (postOf (lab grp) cur grp { h := bare } (splitTo { h := bare } (fun e => e.pc) fun _ => .uiret)) ∧ grp.uiAct = false
    ∧ Goes (lab handlerGrp) cur handlerGrp { h := bare } (splitTo { h := bare } (fun e => e.pc) fun _ => .uiret)
        (envOf (lab handlerGrp) cur handlerGrp { h := bare })
        (postOf (lab handlerGrp) cur handlerGrp { h := bare } (splitTo { h := bare } (fun e => e.pc) fun _ => .uiret))
    ∧ handlerGrp.uiAct = true :=
  ⟨goes_of _ (by decide), rfl, goes_of _ (by decide), rfl⟩

/-- TRAP, BKPT and UIVEC with a true guard and an s register above 0xFFFF; an unassigned opcode; a LIVE word. -/
def bigGrp : Group := { grp with s := [(3, 0x10000)] }
theorem test_meets_TrapInstructions :
    Goes (lab bigGrp) cur bigGrp { h := bare, once := true } (nextWord { h := bare, once := true }) (envOf (lab bigGrp) cur bigGrp { h := bare })
        (postOf (lab bigGrp) cur bigGrp { h := bare, once := true } (nextWord { h := bare, once := true }))
    ∧ (envOf (lab bigGrp) cur bigGrp { h := bare }).act ≠ 0 ∧ 0xFFFF < ((envOf (lab bigGrp) cur bigGrp { h := bare }).simm (.s 3)).toNat
    ∧ (lab grp).cur = some cur ∧ groupAt (lab grp) 0 = some grp ∧ distMet (lab grp) cur grp 0 = true ∧ waitMet grp 0 = true
    ∧ isLive 0xFF000000_00000000_00000000 = true
    ∧ (grp.paths.find? fun p => p.pc == cur.pc && p.lanes &&& cur.lanes != 0).isSome = true :=
  ⟨goes_of _ (by decide), by decide, by decide, rfl, rfl, by decide, by decide, by decide, by decide⟩

/-- A group whose team asks for no migration; a core whose debugger takes no breakpoints. -/
theorem test_meets_TrapStopsGroup :
    groupAt (lab grp) 0 = some grp ∧ ((teamOf (lab grp) 1).any fun t => !migPending (lab grp) t) = true
    ∧ sysFld (lab grp) (sel 27 (slotCore 0)) 3 1 = 0 := by decide

/-! ### The same for traps, the gate and memory -/

/-- A stopped group at a safe point whose LIVE word names nothing; the same with a register lent. -/
def stopOf : Stop := { code := 8, pc := 0, lanes := 3, addr := 0, aux := 0, word := 0, origin := 0, drone := 0, flags := 2 }
def stopGrp : Group := { grp with paths := [{ pc := 0, lanes := 3, live := [0xFF000000_00000000_00000000] }], stop := some stopOf }

/-- Save area A of context 1 stands at 256 GiB, where nothing is mapped; the trap queue of the context at 0x20000, or nowhere. -/
def stopLab (x : Group) (queue : Bool) : State :=
  let s := still x
  { s with sys := mput s.sys (sel 24 1) 0x40_00000000, mem := if queue then memWrite s.mem 0x8098 (natBytes 8 0x20001) else s.mem }

/-- The machine with the streams of the group in slot 0 stopped, and its release at dev scope. -/
def stopRel (s : State) : Bool × State :=
  release (settleFixed (stopStreams (dropReplies (endBurst s 0) 0) 0) 2) 0 .dev

/-- Its image and its record. -/
def stopImage (s : State) : Option Bool × State := writeImage (stopRel s).2 0 { stopGrp with recents := [] } stopOf true
def stopRec (s : State) : Option State :=
  queuePut (stopImage s).2 (4 + 1) (recordBytes (stopRel s).2 0 { stopGrp with recents := [] } { stopOf with flags := 2 })

theorem test_meets_StopSavesGroup :
    (groupAt (stopRel (stopLab { stopGrp with lent := [5] } true)).2 0 = some { stopGrp with lent := [5] }
      ∧ saveReady (stopRel (stopLab { stopGrp with lent := [5] } true)).2 { stopGrp with lent := [5] } true = false)
    ∧ (groupAt (stopLab stopGrp true) 0 = some stopGrp ∧ (stopRel (stopLab stopGrp true)).1 = true
      ∧ groupAt (stopRel (stopLab stopGrp true)).2 0 = some stopGrp ∧ saveReady (stopRel (stopLab stopGrp true)).2 stopGrp true = true
      ∧ (stopImage (stopLab stopGrp true)).1 = some false ∧ (stopRec (stopLab stopGrp true)).isSome = true)
    ∧ ((stopRel (stopLab stopGrp false)).1 = true ∧ saveReady (stopRel (stopLab stopGrp false)).2 stopGrp true = true
      ∧ (stopImage (stopLab stopGrp false)).1 = some false ∧ (stopRec (stopLab stopGrp false)).isSome = false) := by
  decide +kernel

/-- The team of the group. -/
theorem test_meets_RecordLayout : (teamOf (lab grp) grp.team).any (fun t => decide (t.index < 2 ^ 32)) = true
    ∧ stopOf.code < 256 ∧ grp.ctx < 256 ∧ grp.gid < 256 ∧ stopOf.flags < 256 ∧ stopOf.word < 256 ∧ grp.image < 2 ^ 32 := by decide

/-- A privileged word in an ordinary group; v64 of 64 registers; an odd ring register under a 64-bit source; SP with a LIVE word that
is absent, that cannot be fetched and that names registers past the allocation; queue 1 without a ring; an empty v3 with FE and
without; DIST and WAIT not met. -/
def oddGrp : Group := { grp with q := [(1, { rbase := 9, depth := 2, conf := true })] }
def wideLive : IWord := BitVec.ofNat 96 (0xFF * 2 ^ 88 + 60 * 2 ^ 78 + 10 * 2 ^ 68)
theorem test_meets_GateStops :
    ((lab grp).cur = some cur ∧ groupAt (lab grp) cur.g = some grp)
    ∧ (distMet (lab { grp with paths := [{ pc := 0, lanes := 3, last := some 0 }] }) cur
        { grp with paths := [{ pc := 0, lanes := 3, last := some 0 }] } 5 = false ∧ waitMet (cur.flags { grp with f := [(2, 1)] }) 4 = false)
    ∧ (distMet (lab grp) cur grp 0 = true ∧ waitMet (cur.flags grp) 0 = true
      ∧ grpPriv (lab { grp with sysT := false }) { grp with sysT := false } = false ∧ grpPriv (lab grp) grp = true)
    ∧ ((sysInfo bare).priv = true ∧ (sysInfo bare).elect = true ∧ ({ sysInfo bare with bad := true } : Info).bad = true)
    ∧ 64 ∈ ({ h := bare, vw := [64] } : Info).reads grp ++ [64] ∧ regCount grp ≤ 64
    ∧ (oddPair oddGrp (some (.q 1, true)) = true ∧ ∀ r, r ∈ (info2 bare .s64 (.v 2) (.q 1) (.imm 1)).reads oddGrp ++ [2, 3] → r < regCount oddGrp)
    ∧ (info1 bare .s32 (.v 1) (.q 1)).queues = [1] ∧ (ringOf grp 1).conf = false ∧ oddPair grp (info1 bare .s32 (.v 1) (.q 1)).a = false
    ∧ (∀ r, r ∈ (info1 bare .s32 (.v 1) (.q 1)).reads grp ++ [1] → r < regCount grp)
    ∧ (info1 { bare with sp := true } .s32 (.s 1) (.s 2)).queues = [] ∧ cur.away = none ∧ isLive cur.next = false
    ∧ ({ cur with away := some none } : Cur).away = some none ∧ ({ cur with away := some (some (0x06, 0, 2)) } : Cur).away = some (some (0x06, 0, 2))
    ∧ (isLive wideLive = true ∧ liveOk wideLive (regCount grp) = false)
    ∧ (∀ r, r ∈ (info1 { bare with sp := true } .s32 (.s 1) (.s 2)).reads grp ++ [] → r < regCount grp)
    ∧ (info1 { bare with fe := 4 } .s32 (.s 1) (.v 3)).feReads { grp with empt := [3] } = [(3, true)]
    ∧ (info1 bare .s32 (.s 1) (.v 3)).feReads { grp with empt := [3] } = [(3, false)] ∧ (info1 bare .s32 (.s 1) (.v 3)).vw = []
    ∧ cur.second = none := by decide

/-- Two lanes at 0x40000, and two of which the second lies on a page that is not mapped, for a read and for a write. -/
def memGrp : Group := { grp with s := [(1, 0x40000)], v := [(129, 4)] }
def edgeGrp : Group := { grp with s := [(1, 0x3FFFFFFFC)], v := [(257, 1)] }
def memAt (x : Group) (i : Info) : State := postOf (lab x) cur x i (nextWord { h := bare })
def memEnv (x : Group) (i : Info) : Env := envOf (lab x) cur x i
def glob (x : Group) (i : Info) (a : Acc) (strong : Bool) : Checked × State :=
  checkGlobal (memAt x i) (memEnv x i) a strong strong 4 (lanesOf (memEnv x i).act) (laneEa (memEnv x i) 1 2 0 4)
def accsOf (r : Checked × State) : Option (List LaneAcc) :=
  match r.1 with
  | .ok a => some a
  | _ => none

def ldInfo : Info := memInfo bare 2 [] (pairRegs false 5)
theorem test_meets_LoadResults :
    Goes (lab memGrp) cur memGrp ldInfo (nextWord { h := bare }) (memEnv memGrp ldInfo) (memAt memGrp ldInfo)
    ∧ Goes (lab edgeGrp) cur edgeGrp ldInfo (nextWord { h := bare }) (memEnv edgeGrp ldInfo) (memAt edgeGrp ldInfo)
    ∧ Goes (lab memGrp) cur memGrp (memInfo bare 0 [] [] true) (nextWord { h := bare }) (memEnv memGrp (memInfo bare 0 [] [] true))
        (memAt memGrp (memInfo bare 0 [] [] true)) ∧ (memEnv memGrp (memInfo bare 0 [] [] true)).act ≠ 0
    ∧ (accsOf (checkGlobal (memAt memGrp (memInfo bare 0 [] [] true)) (memEnv memGrp (memInfo bare 0 [] [] true)) .read false false 4 [0, 1]
        fun _ => 0x40000)).isSome = true
    ∧ (∃ a, accsOf (glob memGrp ldInfo .read false) = some a ∧ a.length = 2 ∧ anyShadow (glob memGrp ldInfo .read false).2 0 (asidOf (glob memGrp ldInfo .read false).2 1) false a = false
      ∧ poisonedLanes (glob memGrp ldInfo .read false).2 0 (asidOf (glob memGrp ldInfo .read false).2 1) false a = [])
    ∧ (∃ a, accsOf (glob memGrp ldInfo .read true) = some a ∧ a.length = 2 ∧ anyShadow (glob memGrp ldInfo .read true).2 0 (asidOf (glob memGrp ldInfo .read true).2 1) true a = false
      ∧ drained (drainAll (glob memGrp ldInfo .read true).2 0) 0 = true
      ∧ poisonedLanes (drainAll (glob memGrp ldInfo .read true).2 0) 0 (asidOf (drainAll (glob memGrp ldInfo .read true).2 0) 1) true a = [])
    ∧ (∃ a, accsOf (glob edgeGrp ldInfo .read false) = some a ∧ missing a = [1]) := by
  refine ⟨goes_of _ (by decide), goes_of _ (by decide), goes_of _ (by decide), by decide, by decide, ⟨_, rfl, ?_⟩, ⟨_, rfl, ?_⟩,
    ⟨_, rfl, ?_⟩⟩ <;> decide

def stInfo : Info := memInfo bare 2 (pairRegs false 5) []
theorem test_meets_StoreResults :
    Goes (lab memGrp) cur memGrp stInfo (nextWord { h := bare }) (memEnv memGrp stInfo) (memAt memGrp stInfo)
    ∧ (∃ a, accsOf (glob memGrp stInfo .write true) = some a ∧ a.length = 2)
    ∧ Goes (lab edgeGrp) cur edgeGrp stInfo (nextWord { h := bare }) (memEnv edgeGrp stInfo) (memAt edgeGrp stInfo)
    ∧ (∃ a, accsOf (glob edgeGrp stInfo .write false) = some a ∧ missing a = [1]) := by
  refine ⟨goes_of _ (by decide), ⟨_, rfl, ?_⟩, goes_of _ (by decide), ⟨_, rfl, ?_⟩⟩ <;> decide

/-- The scratchpad of the team has 4 KiB. -/
def padLab : State := modTeam (lab grp) 1 fun t => { t with scratch := 4096 }
def padAt (i : Info) : State := postOf padLab cur grp i (nextWord { h := bare })
def padOk (i : Info) (strong : Bool) : Bool :=
  match checkSpad (padAt i) (envOf padLab cur grp i) strong 4 [0, 1] (laneEa (envOf padLab cur grp i) 1 2 1023 4) with
  | .ok a => a.length == 2
  | _ => false
def padOk0 (i : Info) : Bool :=
  match checkSpad (padAt i) (envOf padLab cur grp i) true 4 [0, 1] (laneEa (envOf padLab cur grp i) 1 2 0 4) with
  | .ok a => a.length == 2
  | _ => false
theorem test_meets_ScratchpadResults :
    Goes padLab cur grp ldInfo (nextWord { h := bare }) (envOf padLab cur grp ldInfo) (padAt ldInfo)
    ∧ Goes padLab cur grp stInfo (nextWord { h := bare }) (envOf padLab cur grp stInfo) (padAt stInfo)
    ∧ Goes padLab cur grp (memInfo bare 2 (atomRegs .cas .z32 6) (pairRegs false 5)) (nextWord { h := bare })
        (envOf padLab cur grp (memInfo bare 2 (atomRegs .cas .z32 6) (pairRegs false 5)))
        (padAt (memInfo bare 2 (atomRegs .cas .z32 6) (pairRegs false 5)))
    ∧ padOk ldInfo true = false ∧ padOk0 ldInfo = true ∧ padOk0 stInfo = true
    ∧ padOk0 (memInfo bare 2 (atomRegs .cas .z32 6) (pairRegs false 5)) = true
    ∧ drained (drainAll (padAt (memInfo bare 2 (atomRegs .cas .z32 6) (pairRegs false 5))) 0) 0 = true :=
  ⟨goes_of _ (by decide), goes_of _ (by decide), goes_of _ (by decide), by decide, by decide, by decide, by decide, by decide⟩

def atomInfo : Info := memInfo bare 2 (atomRegs .add .z32 6) (pairRegs false 5)
def redInfo' : Info := memInfo bare 2 (atomRegs .add .z32 6) []
theorem test_meets_AtomicResults :
    Goes (lab memGrp) cur memGrp atomInfo (nextWord { h := bare }) (memEnv memGrp atomInfo) (memAt memGrp atomInfo)
    ∧ Goes (lab memGrp) cur memGrp redInfo' (nextWord { h := bare }) (memEnv memGrp redInfo') (memAt memGrp redInfo')
    ∧ (∃ a, accsOf (glob memGrp atomInfo .atomic true) = some a ∧ a.length = 2
      ∧ anyShadow (glob memGrp atomInfo .atomic true).2 0 (asidOf (glob memGrp atomInfo .atomic true).2 1) true a = false ∧ drained (drainAll (glob memGrp atomInfo .atomic true).2 0) 0 = true
      ∧ poisonedLanes (drainAll (glob memGrp atomInfo .atomic true).2 0) 0 (asidOf (drainAll (glob memGrp atomInfo .atomic true).2 0) 1)
          true a = []
      ∧ poisonedLanes (drainAll (glob memGrp atomInfo .atomic true).2 0) 0 (asidOf (drainAll (glob memGrp atomInfo .atomic true).2 0) 1)
          false a = [])
    ∧ (∃ a, accsOf (glob memGrp redInfo' .atomic true) = some a ∧ a.length = 2
      ∧ anyShadow (glob memGrp redInfo' .atomic true).2 0 (asidOf (glob memGrp redInfo' .atomic true).2 1) true a = false) := by
  refine ⟨goes_of _ (by decide), goes_of _ (by decide), ⟨_, rfl, ?_⟩, ⟨_, rfl, ?_⟩⟩ <;> decide

/-- An address that is not canonical; pages that are resident and pages that are not. -/
def farGrp : Group := { grp with s := [(1, 0x80000000_00000000)] }
def holeGrp : Group := { grp with s := [(1, 0x400000000)] }
def pgInfo : Info := memInfo bare 2 [] []
theorem test_meets_PageAndCacheResults :
    (Goes (lab farGrp) cur farGrp pgInfo (nextWord { h := bare }) (memEnv farGrp pgInfo) (memAt farGrp pgInfo)
      ∧ canonical (laneEa (memEnv farGrp pgInfo) 1 2 0 4 0) = false ∧ 0 ∈ lanesOf (memEnv farGrp pgInfo).act)
    ∧ (Goes (lab memGrp) cur memGrp pgInfo (nextWord { h := bare }) (memEnv memGrp pgInfo) (memAt memGrp pgInfo)
      ∧ (∀ l, l ∈ lanesOf (memEnv memGrp pgInfo).act → canonical (laneEa (memEnv memGrp pgInfo) 1 2 0 4 l) = true)
      ∧ (missingPages (memAt memGrp pgInfo) (memEnv memGrp pgInfo) 4 (laneEa (memEnv memGrp pgInfo) 1 2 0 4)).1 = []
      ∧ drained (drainAll (memAt memGrp pgInfo) 0) 0 = true ∧ (drainAll (memAt memGrp pgInfo) 0).subs = []
      ∧ (coreAt (drainAll (memAt memGrp pgInfo) 0) 0).l1 = [])
    ∧ (Goes (lab holeGrp) cur holeGrp pgInfo (nextWord { h := bare }) (memEnv holeGrp pgInfo) (memAt holeGrp pgInfo)
      ∧ (∀ l, l ∈ lanesOf (memEnv holeGrp pgInfo).act → canonical (laneEa (memEnv holeGrp pgInfo) 1 2 0 4 l) = true)
      ∧ (missingPages (memAt holeGrp pgInfo) (memEnv holeGrp pgInfo) 4 (laneEa (memEnv holeGrp pgInfo) 1 2 0 4)).1.length = 1) :=
  ⟨⟨goes_of _ (by decide), by decide, by decide⟩, ⟨goes_of _ (by decide), by decide, by decide, by decide, by decide⟩,
    ⟨goes_of _ (by decide), by decide, by decide⟩⟩

/-! ### The same for sink blocks, consorts and fences -/

/-- A block LD, IADD at words 1 and 2, and a block whose second word is NOP. -/
def sinkLd : IWord := (encode (.ld bare .z32 false false .core 5 ⟨1, 2, 0, 7⟩)).getD 0
def sinkAdd : IWord := (encode (.iadd bare .s32 false (.v 6) (.v 5) (.imm 1))).getD 0
def sinkNop : IWord := (encode (.nop bare)).getD 0
def sinkCmp : IWord := (encode (.icmp bare .s32 .lt 1 (.v 5) (.imm 1))).getD 0
def sinkCur (h : Hdr) : Cur := if h.sp then { cur with next := 0xFF000000_00000000_00000000 } else cur
def sinkLab (h : Hdr) (second : IWord) : State :=
  let s := { lab memGrp with cur := some (sinkCur h) }
  let at0 := 0x100000 + 12 * (nextPc 0 h.sp).toNat
  { s with mem := memWrite (memWrite s.mem at0 (bytesOfWord sinkLd)) (at0 + 12) (bytesOfWord second) }
def sinkInfo (h : Hdr) : Info := { h := h, mem := true }
def sinkTo (e : Env) : List Dest := [(e.pc + 1 + (2 : BitVec 4).setWidth 32, .run, e.lanes)]
def sinkEnv (h : Hdr) (second : IWord) : Env := envOf (sinkLab h second) (sinkCur h) memGrp (sinkInfo h)
def sinkPost (h : Hdr) (second : IWord) : State := postOf (sinkLab h second) (sinkCur h) memGrp (sinkInfo h) sinkTo
def sinkPre (h : Hdr) (second : IWord) : State := { sinkLab h second with free := 1 }
def sinkIs (h : Hdr) (second : IWord) : Except SinkStop (List Instr) :=
  sinkWords (sinkPre h second) (sinkEnv h second) (nextPc 0 h.sp) 2 0 0
def sinkU (h : Hdr) (second : IWord) : State := drainAll (sinkPost h second) 0
def sinkMay (h : Hdr) (second : IWord) : Bool :=
  match sinkIs h second with
  | .ok is =>
    let b := newSub (sinkEnv h second) is 0 0 3 ⟨0, 0, 0, 0⟩ (snapshot (sinkEnv h second))
    decide (is.length = 2) && (match sinkRegs memGrp (blockUse is).1 (blockUse is).2.1 with | .go => true | _ => false)
      && drained (sinkU h second) 0 && decide (is.findIdx (fun i => (sinkMem i).isSome) = 0)
      && (match (is[0]?).bind sinkMem with
          | some m => (accsOf (checkGlobal (sinkU h second) (sinkEnv h second) .read m.strong m.goesHome m.t.size (lanesOf (subAct b m.h))
              (subEa b m))).isSome
          | none => false)
      && decide (scopeOf is (·.rel) = none)
      && ((h.sp || (!(blockUse is).2.2.isEmpty && decide (12 ≤ h.set.toNat))) || (blockUse is).2.2.isEmpty)
  | _ => false

/-- The code of the context on a page that is not resident. -/
def awayLab : State := { lab memGrp with ctxs := [(1, { codeBase := 0x400000000 })] }

/-- A block that goes, one whose second word is NOP, one with SP, one that writes a predicate without a flag, one whose words lie on a
page that is not resident. -/
theorem test_meets_SinkIssues :
    (Goes (sinkLab (setsFlag 4) sinkAdd) cur memGrp (sinkInfo (setsFlag 4)) sinkTo (sinkEnv (setsFlag 4) sinkAdd) (sinkPost (setsFlag 4) sinkAdd)
      ∧ sinkMay (setsFlag 4) sinkAdd = true)
    ∧ (Goes (sinkLab (setsFlag 4) sinkNop) cur memGrp (sinkInfo (setsFlag 4)) sinkTo (sinkEnv (setsFlag 4) sinkNop) (sinkPost (setsFlag 4) sinkNop)
      ∧ (match sinkIs (setsFlag 4) sinkNop with | .error r => decide (r = .trap 1 0x13 0 0) | _ => false) = true)
    ∧ (Goes (sinkLab { bare with sp := true } sinkAdd) (sinkCur { bare with sp := true }) memGrp (sinkInfo { bare with sp := true }) sinkTo
        (sinkEnv { bare with sp := true } sinkAdd) (sinkPost { bare with sp := true } sinkAdd)
      ∧ sinkMay { bare with sp := true } sinkAdd = true)
    ∧ (Goes (sinkLab bare sinkCmp) cur memGrp (sinkInfo bare) sinkTo (sinkEnv bare sinkCmp) (sinkPost bare sinkCmp)
      ∧ sinkMay bare sinkCmp = true ∧ (match sinkIs bare sinkCmp with | .ok is => (blockUse is).2.2 | _ => []) ≠ [])
    ∧ (Goes awayLab cur memGrp (sinkInfo bare) sinkTo (envOf awayLab cur memGrp (sinkInfo bare)) (postOf awayLab cur memGrp (sinkInfo bare) sinkTo)
      ∧ (match sinkWords { awayLab with free := 1 } (envOf awayLab cur memGrp (sinkInfo bare)) 1 2 0 0 with | .error .wait => true | _ => false) = true) :=
  ⟨⟨goes_of _ (by decide), by decide⟩, ⟨goes_of _ (by decide), by decide⟩, ⟨goes_of _ (by decide), by decide⟩,
    ⟨goes_of _ (by decide), by decide⟩, goes_of _ (by decide), by decide⟩

/-- A departed sub-block, another of its core and line before it, one with a follow access out, one that has run. -/
def subOf : Sub := { id := 7, blk := 3, uid := 2, ctx := 1, sysT := true, core := 0, slot := 0, asid := 1, vline := 0x800,
                     line := 0x800, leaf := 0xF + 11 * 16 + 2 ^ 50 + 2 ^ 51, lanes := 1, words := [], anchor := 0, grp := grp,
                     carried := [(0, 1)] }
/-- One of another core that has the line to itself. -/
def keeper : Sub := { subOf with id := 9, core := 20, level := 2, keeps := true }
/-- One of a core of another flask, that carries nothing and only loads, with a replica of its line there. -/
def farSub : Sub := { subOf with core := 100, carried := [], words := [.ld bare .z32 false false .core 5 ⟨1, 2, 0, 7⟩] }
def repSubLab : State :=
  let s := { still grp with subs := [farSub] }
  modFlask (modFlask s (coreFlask 100) fun f => { f with replicas := [(0x800, { data := 0, way := 0 })] }) (homeFlask (128 * 0x800))
    fun f => { f with dir := [(granuleOf (128 * 0x800), { rep := true, sharers := 1#32 <<< coreFlask 100 })] }
def subLab (bs : List Sub) : State :=
  { still grp with subs := bs, blocks := [{ id := 3, uid := 2, left := 1, vregs := [], sig := .none, word := 0, core := 0 }] }
/-- An entry of a consort whose timer runs, with a fill on its way. -/
def cldOf : CldReq := { team := 1, uid := 2, core := 0, ob := false, off := 0, hnd := 0, sig := .none, ui := false, tag := 5, word := 0, lanes := 1 }
def entryOf : Entry := { id := 4, grid := 0, cluster := 1, c := 2, tag := 5, ctx := 1, addr := 0x40000, size := 4, lead := 0, held := true,
                         asked := [], fills := [{ req := cldOf, status := 0, bytes := [1, 2, 3, 4] }] }
def consortOf : Consort := { fl := 0, grid := 0, cluster := 1, c := 2, members := [(0, 1)], timer := 100 }
def entryLab (drone : Nat) : State := { still grp with entries := [entryOf], consorts := [consortOf], droneE := 8 * drone }

/-- A flask's count is within two nanoseconds of the reference. -/
theorem flaskDrone_near (s : State) (fl : Nat) : s.droneE / 8 ≤ flaskDrone s fl + 2 ∧ flaskDrone s fl ≤ s.droneE / 8 + 2 := by
  unfold flaskDrone
  omega

theorem flaskDrone_of {s : State} (fl n : Nat) (h : s.droneE = 8 * n) : n ≤ flaskDrone s fl + 2 ∧ flaskDrone s fl ≤ n + 2 := by
  have := flaskDrone_near s fl
  omega

theorem test_meets_SinkAndConsortEvents :
    ((subLab [{ subOf with id := 6 }, subOf]).subs.find? (fun q => q.id == 7) = some subOf ∧ subOf.level = 8 ∧ subOf.done = false
      ∧ ({ subOf with id := 6 } : Sub) ∈ (subLab [{ subOf with id := 6 }, subOf]).subs)
    ∧ locked (subLab [keeper, subOf]) subOf.line = true
    ∧ ((subLab [subOf]).subs.find? (fun q => q.id == 7) = some subOf ∧ (∀ q, q ∈ (subLab [subOf]).subs → subOf.id ≤ q.id)
      ∧ locked (subLab [subOf]) subOf.line = false ∧ (subOf.carried ≠ [] ∨ homeFlask (128 * subOf.line) = coreFlask subOf.core) ∧ leafUsable (subLab [subOf]) subOf.leaf (128 * subOf.line) = true)
    ∧ (subLab [{ subOf with sent := [0] }]).subs.find? (fun q => q.id == 7 && !q.sent.isEmpty) = some { subOf with sent := [0] }
    ∧ ((subLab [{ subOf with done := true }]).subs.find? (fun q => q.id == 7 && q.done) = some { subOf with done := true }
      ∧ ((subLab []).blocks.find? fun k => k.id == subOf.blk).isSome = true)
    ∧ ((entryLab 100).entries.find? (fun y => y.id == 4) = some entryOf ∧ findConsort (entryLab 100) (0, 1) 2 = some consortOf
      ∧ entryOf.held = true ∧ entryOf.comp = false ∧ consortOf.timer ≠ 0)
    ∧ ((entryLab 0).entries.find? (fun y => y.id == 4 && y.fills.any fun f => f.req.team == 1) = some entryOf
      ∧ (entryOf.fills.find? fun f => f.req.team == 1) = some { req := cldOf, status := 0, bytes := [1, 2, 3, 4] } ∧ cldOf.ob = false
      ∧ ({ req := cldOf, status := 0, bytes := [1, 2, 3, 4] } : Fill).poison = none ∧ ({ req := cldOf, status := 0, bytes := [1, 2, 3, 4] } : Fill).range = none) := by
  decide

/-- A sub-block that lands on the replica of its line. -/
theorem test_meets_replica_landing :
    repSubLab.subs.find? (fun q => q.id == 7) = some farSub ∧ farSub.level = 8 ∧ farSub.done = false
    ∧ locked repSubLab farSub.line = false ∧ (∀ q, q ∈ repSubLab.subs → farSub.id ≤ q.id)
    ∧ homeFlask (128 * farSub.line) ≠ coreFlask farSub.core ∧ farSub.carried = []
    ∧ (mget? (flaskAt repSubLab (coreFlask farSub.core)).replicas farSub.line).map (·.data) = some 0
    ∧ (mget (flaskAt repSubLab (homeFlask (128 * farSub.line))).dir (granuleOf (128 * farSub.line)) {}).rep = true
    ∧ ((farSub.words[farSub.anchor]?).bind sinkMem).any (fun m => !m.strong) = true
    ∧ (subDry 200 (subGo 10 { s := repSubLab, b := { farSub with level := 1, snap := some 0 } })).wrote = false := by
  decide +kernel

theorem test_meets_timer : entryOf.took + consortOf.timer ≤ flaskDrone (entryLab 102) 0
    ∧ flaskDrone (entryLab 97) 0 < entryOf.took + consortOf.timer := by
  have h1 := flaskDrone_of (s := entryLab 102) 0 102 rfl
  have h2 := flaskDrone_of (s := entryLab 97) 0 97 rfl
  exact ⟨by show 0 + 100 ≤ _; omega, by show _ < 0 + 100; omega⟩

/-- FENCE; and a fence whose release and acquire are due, with a load outstanding or none, and a release that waits. -/
def fenceOf : FenceS := { rel := some .core, acq := some .core, waits := [9], sig := .none }
def fenceGrp : Group := { grp with fence := some fenceOf }
def loadRes : Res := { id := 9, uid := 2, vregs := [5], sig := .none, load := true }
theorem test_meets_FenceResults :
    (Goes (lab grp) cur grp { h := bare, once := true, mem := true } (nextWord { h := bare })
        (envOf (lab grp) cur grp { h := bare, once := true, mem := true })
        (postOf (lab grp) cur grp { h := bare, once := true, mem := true } (nextWord { h := bare }))
      ∧ (envOf (lab grp) cur grp { h := bare, once := true, mem := true }).act ≠ 0
      ∧ (groupAt (postOf (lab grp) cur grp { h := bare, once := true, mem := true } (nextWord { h := bare })) 0).isSome = true)
    ∧ (groupAt (still fenceGrp) 0 = some fenceGrp ∧ (release (still fenceGrp) 0 .core).1 = true
      ∧ (∀ r, r ∈ (release (still fenceGrp) 0 .core).2.results → r.id ≠ 9) ∧ (∀ b, b ∈ (release (still fenceGrp) 0 .core).2.blocks → b.id ≠ 9))
    ∧ ((release { still fenceGrp with results := [loadRes] } 0 .core).1 = true
      ∧ loadRes ∈ (release { still fenceGrp with results := [loadRes] } 0 .core).2.results)
    ∧ (release { still { fenceGrp with fence := some { fenceOf with rel := some .dev } } with invs := [{ fl := 0, granule := 0, cores := [0] }] }
        0 .dev).1 = false :=
  ⟨⟨goes_of _ (by decide), by decide, by decide⟩, by decide, by decide, by decide⟩

/-! ### The same for consorts, copies, streams, buffers and queues -/

/-- A stream of an instruction that acts once. -/
def onceInfo (mem : Bool) : Info := { h := bare, once := true, mem := mem }
def onceAt (s : State) (x : Group) (mem : Bool) : State := postOf s cur x (onceInfo mem) (nextWord { h := bare })

/-- The group with a CLD record in s2: four bytes to offset 0; its team has 4 KiB. -/
def cldGrp : Group := { grp with s := [(1, 0x40000), (2, 0x400000), (3, 12)] }
def cldLab (cs : List Consort) : State :=
  { modTeam (lab cldGrp) 1 (fun t => { t with scratch := 4096 }) with consorts := cs }
def cldU (cs : List Consort) : Option DWord × State := (fun r => (r.1.map fun _ => (0 : DWord), r.2))
  (lookRun (onceAt (cldLab cs) cldGrp true) (envOf (cldLab cs) cur cldGrp (onceInfo true)) .read 0x40000 4)
def cs100 : Consort := { consortOf with timer := 0 }

theorem test_meets_ConsortResults :
    (Goes (cldLab []) cur cldGrp (onceInfo false) (nextWord { h := bare }) (envOf (cldLab []) cur cldGrp (onceInfo false))
        (onceAt (cldLab []) cldGrp false) ∧ (envOf (cldLab []) cur cldGrp (onceInfo false)).act ≠ 0
      ∧ (teamOf (onceAt (cldLab []) cldGrp false) 1).isSome = true
      ∧ 11 < ((envOf (cldLab []) cur cldGrp (onceInfo false)).simm (.s 3)).toNat
      ∧ ((envOf (cldLab []) cur cldGrp (onceInfo false)).simm (.imm 11)).toNat ≤ 11
      ∧ findConsort (onceAt (cldLab []) cldGrp false) (0, 1) 2 = none ∧ 1 ∉ enrolled (onceAt (cldLab []) cldGrp false) (0, 1) 2)
    ∧ (Goes (cldLab [cs100]) cur cldGrp (onceInfo false) (nextWord { h := bare }) (envOf (cldLab [cs100]) cur cldGrp (onceInfo false))
        (onceAt (cldLab [cs100]) cldGrp false) ∧ findConsort (onceAt (cldLab [cs100]) cldGrp false) (0, 1) 2 = some cs100
      ∧ (0, 1) ∈ cs100.members ∧ 1 ∈ enrolled (onceAt (cldLab [cs100]) cldGrp false) (0, 1) 2)
    ∧ (findConsort (onceAt (cldLab [{ cs100 with members := [(0, 77)] }]) cldGrp false) (0, 1) 2 = some { cs100 with members := [(0, 77)] }
      ∧ ∀ m, m ∈ ({ cs100 with members := [(0, 77)] } : Consort).members → m.1 ≠ 11 ∧ m.2 ≠ 1)
    ∧ (Goes (cldLab [cs100]) cur cldGrp (onceInfo true) (nextWord { h := bare }) (envOf (cldLab [cs100]) cur cldGrp (onceInfo true))
        (onceAt (cldLab [cs100]) cldGrp true) ∧ fld 0x400000 42 6 = 0 ∧ 1 ≤ fld 0x400000 20 17 ∧ fld 0x400000 20 17 ≤ 65536
      ∧ fld 0x400000 0 20 + fld 0x400000 20 17 ≤ 4096 ∧ (cldU [cs100]).1 = none ∧ 1 ∈ enrolled (cldU [cs100]).2 (0, 1) 2
      ∧ findEntry (cldU [cs100]).2 (0, 1) 2 0 = none ∧ drained (drainAll (cldU [cs100]).2 0) 0 = true) :=
  ⟨⟨goes_of _ (by decide), by decide, by decide, by decide, by decide, by decide, by decide⟩, ⟨goes_of _ (by decide), by decide⟩,
    by decide, goes_of _ (by decide), by decide⟩

/-- A copy record at 0x40000 with SSP `ssp`; its name in s1 and in v2 and v3. -/
def cpyRec (ssp : Nat) : List Byte :=
  natBytes 8 0x50000 ++ natBytes 8 0x60000 ++ natBytes 4 16 ++ natBytes 2 1 ++ natBytes 2 ssp ++ natBytes 40 0
def cpyGrp : Group := { grp with s := [(1, 0x40000)], v := [(256, 0x40000), (257, 0x40000)] }
def cpyLab (ssp : Nat) : State := { lab cpyGrp with mem := memWrite (lab cpyGrp).mem 0x40000 (cpyRec ssp) }
def cpyS : Info := { h := { bare with set := 15 }, once := true, mem := true }
def cpyV : Info := { h := { bare with set := 15 }, a := some (.v 2, true), mem := true }
def cpyXs (ssp : Nat) (i : Info) (a : Reg) : List (DWord × LaneMask × RecRead × Copy) × State :=
  copyRecs (envOf (cpyLab ssp) cur cpyGrp i) false false (sigOf 2 4) (recNames (envOf (cpyLab ssp) cur cpyGrp i) a)
    (drainAll (postOf (cpyLab ssp) cur cpyGrp i (nextWord i)) 0)

/-- The record's line shadowed by a sub-block of the core. -/
def cpyHeldXs : List (DWord × LaneMask × RecRead × Copy) × State :=
  let s := { cpyLab 0 with subs := [subOf] }
  copyRecs (envOf s cur cpyGrp cpyS) false false (sigOf 2 4) (recNames (envOf s cur cpyGrp cpyS) (.s 1))
    (drainAll (postOf s cur cpyGrp cpyS (nextWord cpyS)) 0)

theorem test_meets_CopyIssues :
    (Goes (cpyLab 0) cur cpyGrp cpyS (nextWord cpyS) (envOf (cpyLab 0) cur cpyGrp cpyS) (postOf (cpyLab 0) cur cpyGrp cpyS (nextWord cpyS))
      ∧ (envOf (cpyLab 0) cur cpyGrp cpyS).act ≠ 0 ∧ drained (drainAll (postOf (cpyLab 0) cur cpyGrp cpyS (nextWord cpyS)) 0) 0 = true
      ∧ copyBad (cpyXs 0 cpyS (.s 1)).2 0 (cpyXs 0 cpyS (.s 1)).1 = none ∧ (copyGood (cpyXs 0 cpyS (.s 1)).1).length = 1
      ∧ flagOf cpyGrp 4 + 1 ≤ 255)
    ∧ (Goes (cpyLab 0) cur cpyGrp cpyV (nextWord cpyV) (envOf (cpyLab 0) cur cpyGrp cpyV) (postOf (cpyLab 0) cur cpyGrp cpyV (nextWord cpyV))
      ∧ (cpyXs 0 cpyV (.v 2)).1.length = 1)
    ∧ (copyBad (cpyXs 3 cpyS (.s 1)).2 0 (cpyXs 3 cpyS (.s 1)).1).isSome = true
    ∧ (cpyXs 0 cpyS (.s 1)).1.all (fun y => y.2.2.1 != .held) = true
    ∧ (copyBad cpyHeldXs.2 0 cpyHeldXs.1 = none ∧ cpyHeldXs.1.any (fun y => y.2.2.1 == .held) = true) :=
  ⟨⟨goes_of _ (by decide), by decide +kernel⟩, ⟨goes_of _ (by decide), by decide +kernel⟩, by decide +kernel, by decide +kernel,
    by decide +kernel⟩

/-- A copy, alone in the queue of core 0; its grant live. -/
def cpyOf : Copy := { id := 9, uid := 2, team := 1, ctx := 1, sysT := true, fill := false, src := 0x50000, dst := 0x60000, bytes := 16, rows := 1,
                      space := 0, sstride := 0, dstride := 0, start := 0, pat := 0, utag := 0, recVa := 0x40000, ui := false, sig := .none,
                      word := 0, prio := 0, lanes := 1 }
def headLab (k : Copy) (drone : Nat) : State := { modCore (still grp) 0 (fun q => { q with copies := [k] }) with droneE := 8 * drone }
def grantLab (s : State) (kind : ReqKind) : State :=
  modClus s 0 fun q => { q with grants := [{ id := 5, kind := kind, ctx := 1, team := 1, cls := 0, prio := 0, since := 0, amps := 0,
                                             dur := 1000000, granted := true, live := 0 }] }
def doneCopy : Copy := { cpyOf with going := true, moved := true }

theorem test_meets_copy_events :
    (coreAt (headLab cpyOf 0) 0).copies = [cpyOf] ∧ cpyOf.going = false ∧ cpyOf.dsp ≠ 2 ∧ cpyOf.none' = false ∧ cpyOf.req = 0
    ∧ cpyOf.start.toNat = 0 ∧ ({ cpyOf with rows := 0 } : Copy).none' = true
    ∧ liveAt (grantLab (headLab { cpyOf with req := 5 } 0) (.copy 0 9)) 0 5 = true
    ∧ doneCopy.going = true ∧ doneCopy.moved = true ∧ (coreAt (headLab doneCopy 0) 0).copies = [doneCopy] ∧ doneCopy.dsp ≠ 2
    ∧ copyHeld (headLab { doneCopy with moved := false } 0) 0 { doneCopy with moved := false } = false
    ∧ noInvs (headLab doneCopy 0) 0 = true
    ∧ (statusHeld (headLab doneCopy 0) 0 doneCopy = false ∧ copyFault (headLab doneCopy 0) 0 doneCopy = none)
    ∧ (statusHeld { headLab doneCopy 0 with subs := [keeper] } 0 doneCopy = true
      ∧ copyHeld { headLab doneCopy 0 with subs := [keeper] } 0 doneCopy = false)
    ∧ copyFault (headLab { doneCopy with fault := some 1 } 0) 0 { doneCopy with fault := some 1 } = some 1
    ∧ copyFault (headLab { doneCopy with recVa := 0x8000000000000000 } 0) 0 { doneCopy with recVa := 0x8000000000000000 } ≠ none := by
  decide

theorem test_meets_copy_waits : flaskDrone (headLab { cpyOf with start := 5000 } 0) (coreFlask 0) + 1000 < 5000 := by
  have := flaskDrone_of (s := headLab { cpyOf with start := 5000 } 0) (coreFlask 0) 0 rfl
  omega

/-- A live stream of queue 1 at an address that is mapped, one that is not and one that is not canonical. -/
def streamOf' (base : DWord) : Stream :=
  { ty := .z32, base := base, lstride := 0, counts := [2, 1, 1, 1], strides := [4, 0, 0, 0], n := 2, k := 0, sig := .none, word := 0, req := 5 }
def ringOf' (base : DWord) : Ring := { rbase := 8, depth := 2, conf := true, stream := some (streamOf' base) }
def ringLab (base : DWord) : State := grantLab (still { grp with q := [(1, ringOf' base)] }) (.stream 2 1)
def element (base : DWord) : List (List EngB) × Met × State :=
  elementRead { core := 0, ctx := 1, sysT := true, slot := 0, no := [] } (streamOf' base) { ringLab base with free := 1 }

theorem test_meets_CopyAndStreamEvents :
    (groupAt (ringLab 0x40000) 0 = some { grp with q := [(1, ringOf' 0x40000)] } ∧ liveAt (ringLab 0x40000) (coreDomain 0) 5 = true
      ∧ (ringOf' 0x40000).tail - (ringOf' 0x40000).head < (ringOf' 0x40000).depth)
    ∧ ((element 0x40000).2.1.fault = none ∧ (element 0x40000).2.1.miss = [] ∧ (element 0x40000).2.1.poison = none)
    ∧ (element 0x80000000_00000000).2.1.fault.isSome = true
    ∧ ((element 0x40000).2.1.lock = false ∧ (element 0x80000000_00000000).2.1.lock = false ∧ (element 0x400000000).2.1.lock = false
      ∧ (elementRead { core := 0, ctx := 1, sysT := true, slot := 0, no := [] } (streamOf' 0x40000)
          { ringLab 0x40000 with free := 1, subs := [keeper] }).2.1.lock = true)
    ∧ ((element 0x400000000).2.1.fault = none ∧ ((element 0x400000000).2.1.miss.find? fun y => !(([] : List Nat).contains y.1)).isSome = true) := by
  decide +kernel

/-- Buffer 4 of core 0: idle with slots, its own with a slot acquired, another team's. -/
def bufOf : Buf := { team := 1, base := 0x100, size := 128, count := 2, free := 1, filled := 0, held := 1, acq := 1 }
def bufGrp : Group := { grp with s := [(1, 0x100), (2, 128), (3, 2)] }
def bufLab (b : Option Buf) : State :=
  modTeam (modCore (lab bufGrp) 0 fun k => { k with bufs := match b with | some b => [(4, b)] | none => [] }) 1 fun t => { t with scratch := 4096 }
def bufAt' (b : Option Buf) : State := onceAt (bufLab b) bufGrp true
def acqInfo : Info := { h := bare, once := true, vw := dstRegs false (.v 5), mem := true }
def acqOf : CbAcq := { uid := 2, lanes := 1, dst := .v 5, sig := .none }

theorem test_meets_BufferResults :
    (Goes (bufLab none) cur bufGrp (onceInfo true) (nextWord { h := bare }) (envOf (bufLab none) cur bufGrp (onceInfo true)) (bufAt' none)
      ∧ (envOf (bufLab none) cur bufGrp (onceInfo true)).act ≠ 0 ∧ (teamOf (bufAt' none) 1).any (fun t => t.scratch == 4096) = true
      ∧ mget? (coreAt (bufAt' none) 0).bufs 4 = none ∧ 0x100 % 128 = 0 ∧ 0x100 + 128 * 2 ≤ 4096)
    ∧ (Goes (bufLab (some bufOf)) cur bufGrp (onceInfo true) (nextWord { h := bare }) (envOf (bufLab (some bufOf)) cur bufGrp (onceInfo true))
        (bufAt' (some bufOf)) ∧ mget? (coreAt (bufAt' (some bufOf)) 0).bufs 4 = some bufOf
      ∧ ((envOf (bufLab (some bufOf)) cur bufGrp (onceInfo true)).s 1).toNat % 2 ^ 32 = bufOf.base + bufOf.ret * bufOf.size
      ∧ ((envOf (bufLab (some bufOf)) cur bufGrp (onceInfo true)).s 2).toNat % 2 ^ 32 ≠ bufOf.base + bufOf.ret * bufOf.size
      ∧ (release { bufLab (some bufOf) with free := 1 } 0 .core).1 = true)
    ∧ Goes (bufLab (some bufOf)) cur bufGrp acqInfo (nextWord { h := bare }) (envOf (bufLab (some bufOf)) cur bufGrp acqInfo)
        (postOf (bufLab (some bufOf)) cur bufGrp acqInfo (nextWord { h := bare }))
    ∧ (mget? (coreAt (bufLab (some { bufOf with wait := [acqOf] })) 0).bufs 4 = some { bufOf with wait := [acqOf] } ∧ bufOf.filled = 0)
    ∧ mget? (coreAt (bufLab (some { bufOf with wait := [acqOf, { acqOf with dst := .s 3 }], filled := 1 })) 0).bufs 4
        = some { bufOf with wait := [acqOf, { acqOf with dst := .s 3 }], filled := 1 } :=
  ⟨⟨goes_of _ (by decide), by decide⟩, ⟨goes_of _ (by decide), by decide⟩, goes_of _ (by decide), by decide, by decide⟩

/-- The release that CBREL waits for: complete at once, and held up by a store under a sink shadow. -/
theorem test_meets_ReleasedTo : ∃ u, ReleasedTo { bufLab (some bufOf) with free := 1 } (bufAt' (some bufOf)) 0 .core u := by
  have h1 : release { bufLab (some bufOf) with free := 1 } 0 .core = (true, { bufLab (some bufOf) with free := 1 }) := by rfl
  exact ⟨_, _, _, _, _, h1, rfl, rfl, rfl, rfl⟩

def heldGrp : Group := { grp with storeq := [{ dst := .l1 1 0x40000 0, bytes := [1], lane := 0, op := 0, word := 0 }] }
theorem test_meets_release_waits :
    (release { lab heldGrp with subs := [{ subOf with line := 0, vline := 0x800 }] } 0 .core).1 = false := by decide

/-- Queue 1: without a ring, with an idle ring, with a stream; another ring in its way. -/
def idleRing : Ring := { rbase := 8, depth := 2, conf := true }
def qGrp (r : Option Ring) : Group :=
  { grp with s := [(1, 0x40000), (3, 257)], q := (match r with | some r => [(1, r)] | none => []) ++ [(2, { idleRing with rbase := 20 })] }
def blwsRec (n0 : Nat) : List Byte := natBytes 8 0x50000 ++ natBytes 8 0 ++ natBytes 4 n0 ++ natBytes 4 1 ++ natBytes 4 1 ++ natBytes 4 1 ++ natBytes 32 0
def qLab (r : Option Ring) (n0 : Nat) : State :=
  { lab (qGrp r) with mem := memWrite (lab grp).mem 0x40000 (blwsRec n0) }
def blwsSt (r : Option Ring) (n0 : Nat) : Option Nat :=
  let e := envOf (qLab r n0) cur (qGrp r) (onceInfo true)
  match (readRec (drainAll (onceAt (qLab r n0) (qGrp r) true) 0) e (e.s 1) 64 64).1 with
  | .ok bs => some (streamOf e .z32 (sigOf 2 15) bs).n
  | _ => none

theorem test_meets_QueueResults :
    (Goes (qLab none 2) cur (qGrp none) (onceInfo true) (nextWord { h := bare }) (envOf (qLab none 2) cur (qGrp none) (onceInfo true))
        (onceAt (qLab none 2) (qGrp none) true) ∧ (envOf (qLab none 2) cur (qGrp none) (onceInfo true)).act ≠ 0
      ∧ (ringOf (qGrp none) 1).conf = false ∧ (ringOf (qGrp none) 1).stream = none
      ∧ 256 < ((envOf (qLab none 2) cur (qGrp none) (onceInfo true)).simm (.s 3)).toNat ∧ regCount (qGrp none) < 63 + 2 ∧ 8 + 2 ≤ regCount (qGrp none)
      ∧ (∃ p, p ∈ (qGrp none).q ∧ p.1 ≠ 1 ∧ p.2.conf = true ∧ 19 < p.2.rbase + p.2.depth ∧ p.2.rbase < 19 + 2)
      ∧ (∀ p, p ∈ (qGrp none).q → p.1 ≠ 1 → p.2.conf = true → p.2.rbase + p.2.depth ≤ 8 ∨ 8 + 2 ≤ p.2.rbase))
    ∧ (Goes (qLab (some idleRing) 2) cur (qGrp (some idleRing)) (onceInfo true) (nextWord { h := bare })
        (envOf (qLab (some idleRing) 2) cur (qGrp (some idleRing)) (onceInfo true)) (onceAt (qLab (some idleRing) 2) (qGrp (some idleRing)) true)
      ∧ drained (drainAll (onceAt (qLab (some idleRing) 2) (qGrp (some idleRing)) true) 0) 0 = true
      ∧ blwsSt (some idleRing) 2 = some 2 ∧ blwsSt (some idleRing) 0 = some 0 ∧ (ringOf (qGrp (some idleRing)) 1).conf = true
      ∧ (ringOf (qGrp (some idleRing)) 1).head = (ringOf (qGrp (some idleRing)) 1).tail) := by
  refine ⟨⟨goes_of _ (by decide), by decide, by decide, by decide, by decide, by decide, by decide,
    ⟨(2, { idleRing with rbase := 20 }), by decide, by decide⟩, by decide⟩, goes_of _ (by decide), by decide +kernel⟩

/-- A stream of more than 2^48 elements. -/
theorem test_meets_blws_long : (2 ^ 48 < (streamOf (envOf (qLab none 2) cur (qGrp none) (onceInfo true)) .z32 .none
    (natBytes 16 0 ++ (List.replicate 16 (0xFF : Byte)) ++ natBytes 32 0)).n) := by decide

/-! ### The same for row operations -/

/-- The 16 GiB of the test machine mapped row-local. -/
def rowLab (x : Group) (s : State) : State :=
  { s with groups := [(0, x)], mem := memWrite s.mem 0x14000 (natBytes 8 (0xF + 11 * 16 + 3 * 256 + 2 ^ 50 + 2 ^ 51)) }
def rowGrp : Group := { grp with s := [(1, 0x40000), (2, 0x80000), (3, 0x401), (4, 0x7FFFFFFFFFFC00), (5, 0x400000000)] }
def rowS : State := rowLab rowGrp (lab grp)
def rowE : Env := envOf rowS cur rowGrp (onceInfo true)
def rowU : State := drainAll (onceAt rowS rowGrp true) 0
def rowOp (d : DWord) : NmOp :=
  { id := rowU.nextUid, uid := 2, ctx := 1, sysT := true, core := 0, zero := true, sd := d, ss := 0, n := 2, sig := .none, ui := false,
    word := 0, lanes := 3 }
def rowLook' (x : RowLook × State) : Nat :=
  match x.1 with
  | .ok _ _ => 0
  | .nonres _ => 1
  | .bad => 2
  | .refused => 3

theorem test_meets_RowOpIssues :
    Goes rowS cur rowGrp (onceInfo true) (nextWord { h := bare }) rowE (onceAt rowS rowGrp true) ∧ rowE.act ≠ 0
    ∧ (rowE.s 3).toNat % 1024 ≠ 0 ∧ (rowE.s 1).toNat % 1024 = 0 ∧ (rowE.s 2).toNat % 1024 = 0 ∧ (rowE.simm (.imm 0)).toNat = 0
    ∧ 65536 < (rowE.simm (.s 1)).toNat ∧ 1 ≤ (rowE.simm (.imm 2)).toNat ∧ (rowE.simm (.imm 2)).toNat ≤ 65536
    ∧ (rowE.s 4).toNat % 1024 = 0 ∧ rowsCanonical (rowE.s 4) 2 = false ∧ rowsCanonical (rowE.s 1) 2 = true
    ∧ drained rowU 0 = true
    ∧ rowLook' (rowLook { rowU with nextUid := rowU.nextUid + 1 } (rowOp 0x40000) none .write 0x40000) = 0
    ∧ rowLook' (rowLook { rowU with nextUid := rowU.nextUid + 1 } (rowOp 0x400000000) none .write 0x400000000) = 1
    ∧ rowLook' (rowLook (drainAll (onceAt (lab rowGrp) rowGrp true) 0) (rowOp 0x40000) none .write 0x40000) = 2 :=
  ⟨goes_of _ (by decide), by decide, by decide, by decide, by decide, by decide, by decide, by decide, by decide, by decide, by decide,
    by decide, by decide, by decide, by decide, by decide⟩

/-- An operation at the head of queue 0 of the stack of its rows. -/
def nmGo (o : NmOp) : NmOp := { o with going := true }
def nmLab (o : NmOp) : State :=
  modStack (rowLab grp (still grp)) (keyStack 0x40000) fun t => { t with queues := [(0, [o])] }
def nmDest (o : NmOp) : Nat := rowLook' (rowLook (nmLab o) o (some (keyStack 0x40000)) .write (rowVa o.sd o.row))
def nmSrc (o : NmOp) : Nat :=
  rowLook' (rowLook (rowLook (nmLab o) o (some (keyStack 0x40000)) .write (rowVa o.sd o.row)).2 o (some (keyStack 0x40000)) .read
    (rowVa o.ss o.row))
def nmCopy (src : DWord) : NmOp := nmGo { rowOp 0x40000 with zero := false, ss := src }

/-- A copy whose source page the kernel has refused. -/
def nmRefused : NmOp :=
  { nmCopy 0x400000000 with refused := [pageOf (nmLab (nmCopy 0x400000000)) 1 0x400000000] }

theorem test_meets_RowOpEvents :
    keyStack 0x40000 < 16 ∧ nmHead (nmLab (rowOp 0x40000)) (keyStack 0x40000) 0 = some (rowOp 0x40000) ∧ (rowOp 0x40000).going = false
    ∧ (nmGo (rowOp 0x40000)).past = false ∧ (nmGo (rowOp 0x40000)).halted = none ∧ (nmGo (rowOp 0x40000)).row < (nmGo (rowOp 0x40000)).n
    ∧ (nmGo (rowOp 0x40000)).till ≤ drone (nmLab (nmGo (rowOp 0x40000)))
    ∧ (nmGo (rowOp 0x40000)).yield ≤ drone (nmLab (nmGo (rowOp 0x40000)))
    ∧ nmDest (nmGo (rowOp 0x40000)) = 0 ∧ nmDest (nmGo (rowOp 0x400000000)) = 1 ∧ nmDest (nmGo (rowOp 0x80000000000000)) = 2
    ∧ nmDest (nmGo { rowOp 0x40000 with refused := [0] }) = 3
    ∧ (∀ l, l ∈ rowLines 0x40000 → locked (nmLab (nmGo (rowOp 0x40000))) l = false)
    ∧ bankFree (nmLab (nmGo (rowOp 0x40000))) (keyStack 0x40000) (keyBank 0x40000) = true
    ∧ nmDest (nmCopy 0x40000) = 0 ∧ nmSrc (nmCopy 0x40000) = 0
    ∧ bankFree (nmLab (nmCopy 0x40000)) (keyStack 0x40000) (keyBank 0x40000) = true
    ∧ (nmDest (nmCopy 0x400000000) = 0 ∧ nmSrc (nmCopy 0x400000000) = 1 ∧ nmDest (nmCopy 0x80000000000000) = 0
      ∧ nmSrc (nmCopy 0x80000000000000) = 2 ∧ nmDest nmRefused = 0 ∧ nmSrc nmRefused = 3)
    ∧ (nmDest { nmCopy 0x40000 with sd := 0x400000000 } = 1 ∧ nmDest { nmCopy 0x40000 with sd := 0x80000000000000 } = 2
      ∧ nmDest { nmCopy 0x40000 with refused := [0] } = 3)
    ∧ (∀ l, l ∈ rowLines 0x40000 ++ rowLines 0x2000000 → locked (nmLab (nmCopy 0x2000000)) l = false)
    ∧ nmSrc (nmCopy 0x2000000) = 0 ∧ ¬ (keyBank 0x2000000 = keyBank 0x40000 ∧ keySub 0x2000000 = keySub 0x40000)
    ∧ bankFree (nmLab (nmCopy 0x2000000)) (keyStack 0x40000) (keyBank 0x2000000) = true
    ∧ pairEnds (nmLab (rowOp 0x40000)) (keyStack 0x40000) 5 = 0 ∧ mget (stackAt (nmLab (rowOp 0x40000)) (keyStack 0x40000)).fresh 5 0 = 0
    ∧ ({ nmGo (rowOp 0x40000) with row := 2 } : NmOp).row = (nmGo (rowOp 0x40000)).n
    ∧ noInvs (nmLab (nmGo (rowOp 0x40000))) 0 = true := by decide

/-! ### The same for the matrix unit -/

/-- A reservation of 64 units of 128 bytes for wave 0, codes of type 8 bits, rows of 64 bytes; the test team holds the unit. -/
def resOf (fmt : Nat) : DWord := BitVec.ofNat 64 (64 * 2 ^ 12 + fmt * 2 ^ 28 + 64 * 2 ^ 48)
def mxGrp : Group := { grp with s := [(1, resOf 9), (2, 0x40000), (3, BitVec.ofNat 64 (2 * 2 ^ 15 + 4 * 2 ^ 22)),
                                      (4, BitVec.ofNat 64 (63 + 2 * 2 ^ 15 + 4 * 2 ^ 22)), (5, BitVec.ofNat 64 (2 * 2 ^ 11)),
                                      (6, BitVec.ofNat 64 (2047 + 2 * 2 ^ 11)), (7, BitVec.ofNat 64 (2 * 2 ^ 11 + 2 ^ 23)), (8, 4096)] }
def mxLab (m : Matrix) (baton : Option Nat) : State :=
  modTeam (modCore (lab mxGrp) 0 fun k => { k with mx := m }) 1 fun t => { t with baton := baton, scratch := 4096 }
def ours : Matrix := { holder := some 1, last := some 1, recs := [(2, resOf 9)] }
def eng (mem : Bool) : Info := engInfo bare mem
def engAt (s : State) (mem : Bool) : State := postOf s cur mxGrp (eng mem) (nextWord (eng mem))
def engEnv (s : State) (mem : Bool) : Env := envOf s cur mxGrp (eng mem)
def engGoes (s : State) (mem : Bool) : Prop := Goes s cur mxGrp (eng mem) (nextWord (eng mem)) (engEnv s mem) (engAt s mem)

/-- An operation of another team. -/
def opFar : MxOp := { kind := .accz 0 1, uid := 9, team := 7, ctx := 1, sysT := true, sig := .none, ui := false, utag := 0, word := 0,
                      prio := 0, lanes := 1 }

theorem test_meets_ReservationResults :
    (engGoes (mxLab {} none) false ∧ (engEnv (mxLab {} none) false).act ≠ 0 ∧ (mxAt (engAt (mxLab {} none) false) 0).holder = none
      ∧ (mxAt (engAt (mxLab {} none) false) 0).last ≠ some 1
      ∧ (teamOf (engAt (mxLab {} none) false) 1).any (fun t => t.baton.isNone && ceilDiv t.ngroups 4 == 1) = true
      ∧ recOk [] 2 ((engEnv (mxLab {} none) false).s 1) 1 = true ∧ recOk [] 2 ((engEnv (mxLab {} none) false).s 2) 1 = false)
    ∧ (engGoes (mxLab { holder := some 7 } (some 1)) false ∧ (mxAt (engAt (mxLab { holder := some 7 } (some 1)) false) 0).holder = some 7
      ∧ waveOf (engEnv (mxLab { holder := some 7 } (some 1)) false).grp ≠ 1)
    ∧ (engGoes (mxLab { ops := [opFar] } none) false ∧ (mxAt (engAt (mxLab { ops := [opFar] } none) false) 0).ops = [opFar])
    ∧ (∀ o, o ∈ (mxAt (engAt (mxLab {} none) false) 0).ops → o.team = 1)
    ∧ (engGoes (mxLab { holder := some 1, last := some 1 } none) false
      ∧ (mxAt (engAt (mxLab { holder := some 1, last := some 1 } none) false) 0).last = some 1)
    ∧ (engGoes (mxLab ours (some 0)) false ∧ (mxAt (engAt (mxLab ours (some 0)) false) 0).holder = some 1
      ∧ (mxAt (engAt (mxLab ours (some 0)) false) 0).last = some 1 ∧ mget? (mxAt (engAt (mxLab ours (some 0)) false) 0).recs 2 ≠ none
      ∧ slotBusy (engAt (mxLab ours (some 0)) false) 0 1 2 = false ∧ waveOf (engEnv (mxLab ours (some 0)) false).grp = 0)
    ∧ slotBusy (modCore (engAt (mxLab ours (some 0)) false) 0 fun k => { k with copies := [{ cpyOf with space := 3 * 4 + 2 * 4096 }] }) 0 1 2 = true :=
  ⟨⟨goes_of _ (by decide), by decide⟩, ⟨goes_of _ (by decide), by decide⟩, ⟨goes_of _ (by decide), by decide⟩, by decide,
    ⟨goes_of _ (by decide), by decide⟩, ⟨goes_of _ (by decide), by decide⟩, by decide⟩

theorem test_meets_MatrixIssues :
    (engGoes (mxLab {} none) false ∧ (engEnv (mxLab {} none) false).act ≠ 0 ∧ (mxAt (engAt (mxLab {} none) false) 0).holder ≠ some 1)
    ∧ (engGoes (mxLab ours (some 0)) false ∧ (mxAt (engAt (mxLab ours (some 0)) false) 0).holder = some 1
      ∧ (mxAt (engAt (mxLab ours (some 0)) false) 0).ops.length < 8 ∧ drained (drainAll (engAt (mxLab ours (some 0)) false) 0) 0 = true
      ∧ hasBaton (engAt (mxLab ours (some 0)) false) (engEnv (mxLab ours (some 0)) false) = true)
    ∧ (fld (resOf 9) 15 7 < 1 ∨ 64 < fld (resOf 9) 15 7 ∨ fld (resOf 9) 22 10 < 1 ∨ 512 < fld (resOf 9) 22 10)
    ∧ (∀ k, k ∈ [3, 4] → 1 ≤ fld (sRaw mxGrp k) 15 7 ∧ fld (sRaw mxGrp k) 15 7 ≤ 64 ∧ 1 ≤ fld (sRaw mxGrp k) 22 10)
    ∧ fld (sRaw mxGrp 3) 0 6 + fld (sRaw mxGrp 3) 15 7 ≤ 64 ∧ fld (sRaw mxGrp 3) 6 9 + fld (sRaw mxGrp 3) 22 10 ≤ 512
    ∧ 64 < fld (sRaw mxGrp 4) 0 6 + fld (sRaw mxGrp 4) 15 7
    ∧ (∀ k, k ∈ [5, 6, 7] → fld (sRaw mxGrp k) 24 8 = 0 ∧ 1 ≤ fld (sRaw mxGrp k) 11 12 ∧ fld (sRaw mxGrp k) 11 12 ≤ 2048)
    ∧ fld (sRaw mxGrp 1) 24 8 ≠ 0 ∧ fld (sRaw mxGrp 5) 0 11 + fld (sRaw mxGrp 5) 11 12 ≤ 2048
    ∧ 2048 < fld (sRaw mxGrp 6) 0 11 + fld (sRaw mxGrp 6) 11 12 ∧ bit (sRaw mxGrp 7) 23 = true
    ∧ spanIn (sRaw mxGrp 8) 0 (32 * 4) 2 4096 = false ∧ spanIn 0 0 (32 * 4) 2 4096 = true :=
  ⟨⟨goes_of _ (by decide), by decide⟩, ⟨goes_of _ (by decide), by decide⟩, by decide⟩

/-- An MMA record of M 16, N 32, K 32, slot `ah`, B of type code `bty` at v8, at 0x40000 in memory. -/
def mmaRec (m ah : Nat) (bty : Nat) : List Byte :=
  natBytes 1 m ++ natBytes 1 32 ++ natBytes 2 32 ++ natBytes 1 ah ++ natBytes 1 bty ++ natBytes 2 8 ++ natBytes 56 0
def mmaLab (m ah : Nat) : State := { mxLab ours (some 0) with mem := memWrite (lab grp).mem 0x40000 (mmaRec m ah 9) }
def mmaRead (s : State) (va : DWord) : RecRead × State := readRec (drainAll (engAt s true) 0) (engEnv s true) va 64 64
def mmaKind (r : RecRead × State) : Nat :=
  match r.1 with
  | .ok bs => if recNat bs 0 1 == 16 then 0 else 1
  | .nonres => 2
  | .bad .. => 3
  | .held => 4

theorem test_meets_MmaIssues :
    engGoes (mmaLab 16 2) true ∧ (engEnv (mmaLab 16 2) true).act ≠ 0 ∧ (mxAt (engAt (mmaLab 16 2) true) 0).holder = some 1
    ∧ (mxAt (engAt (mmaLab 16 2) true) 0).ops.length < 8 ∧ drained (drainAll (engAt (mmaLab 16 2) true) 0) 0 = true
    ∧ hasBaton (engAt (mmaLab 16 2) true) (engEnv (mmaLab 16 2) true) = true
    ∧ mmaKind (mmaRead (mmaLab 16 2) 0x40000) = 0 ∧ mmaKind (mmaRead (mmaLab 17 2) 0x40000) = 1
    ∧ mmaKind (mmaRead (mmaLab 16 2) 0x400000000) = 2 ∧ mmaKind (mmaRead (mmaLab 16 2) 0x40004) = 3
    ∧ mget? (mxAt (mmaRead (mmaLab 16 3) 0x40000).2 0).recs 3 = none
    ∧ mget? (mxAt (mmaRead (mmaLab 16 2) 0x40000).2 0).recs 2 = some (resOf 9) ∧ fld (resOf 9) 46 2 = waveOf mxGrp
    ∧ tablePending (mxAt (mmaRead (mmaLab 16 2) 0x40000).2 0) (resOf 9) = false
    ∧ (Ty.ofCode (BitVec.ofNat 4 (recFmt (resOf 9)))).any (fun t => mmaTypes t t false
        && mmaBytesOk (mxAt (mmaRead (mmaLab 16 2) 0x40000).2 0) (resOf 9) t 16 32 && decide (8 + mmaNb t 32 ≤ regCount mxGrp)
        && decide (t ≠ .b4)) = true :=
  ⟨goes_of _ (by decide), by decide, by decide, by decide, by decide, by decide, by decide +kernel, by decide +kernel, by decide +kernel,
    by decide +kernel, by decide +kernel, by decide +kernel, by decide, by decide +kernel, by decide +kernel⟩

/-- An MMA and another operation at the head, with current. -/
def mmaK : MxKind := .mma 16 32 2 (resOf 9) .s8 8 0 0 false false 0 0
def opOf' (k : MxKind) : MxOp := { kind := k, uid := 2, team := 1, ctx := 1, sysT := true, sig := .none, ui := false, utag := 0, word := 0,
                                   prio := 0, lanes := 1, there := [0], req := 5 }
def opLab (o : MxOp) : State := grantLab (mxLab { ours with ops := [o] } (some 0)) (.mma 0)

/-- An ACCZ that has started, and the machine with the operation at the head started. -/
def acczGo : MxOp := { opOf' (.accz 0 1) with going := true }
def acczS : State := mxStart (opLab (opOf' (.accz 0 1))) 0
def movedS (invs : List InvS) : State := { mxStart (opLab { acczGo with moved := true }) 0 with invs := invs }
def mmaS : State := opLab { opOf' mmaK with going := true }

theorem test_meets_MatrixEvents :
    ((mxAt (mxPresent (opLab (opOf' mmaK)) 0) 0).ops = [opOf' mmaK] ∧ liveAt (mxPresent (opLab (opOf' mmaK)) 0) (coreDomain 0) 5 = true
      ∧ liveAt (mxPresent (mxLab { ours with ops := [opOf' mmaK] } (some 0)) 0) (coreDomain 0) 5 = false)
    ∧ ((mxAt acczS 0).ops = [acczGo] ∧ acczGo.dead = false ∧ mxHeld acczS 0 acczGo = false
      ∧ noInvs (modOp (mxTally (runMx acczS 0 acczGo) 0 acczGo) 0 fun o => { o with moved := true }) 0 = true
      ∧ (mxAt (movedS []) 0).ops = [{ acczGo with moved := true }] ∧ noInvs (movedS []) 0 = true
      ∧ noInvs (movedS [{ fl := 0, granule := 0, cores := [0] }]) 0 = false)
    ∧ ((mxAt mmaS 0).ops = [{ opOf' mmaK with going := true }]
      ∧ waveMembers mmaS { opOf' mmaK with going := true } 0 = some [some mxGrp, none, none, none]
      ∧ (∀ i, i < mmaNb .s8 32 → isEmpty mxGrp (i + 8) = false) ∧ (Ty.ofCode (BitVec.ofNat 4 (recFmt (resOf 9)))).isSome = true
      ∧ mmaPoison (mxAt mmaS 0) (resOf 9) .s8 16 32 = none) := by
  decide

/-! ### The same for barriers, time, phases, tasks and messages -/

theorem released {pre post : State} {sc : Scope} (h : (release pre 0 sc).1 = true) (hx : (groupAt pre 0).isSome = true)
    (hy : (groupAt post 0).isSome = true) (hw : (groupAt (release pre 0 sc).2 0).isSome = true) : ∃ u, ReleasedTo pre post 0 sc u := by
  obtain ⟨x, hx⟩ := Option.isSome_iff_exists.mp hx
  obtain ⟨y, hy⟩ := Option.isSome_iff_exists.mp hy
  obtain ⟨w, hw⟩ := Option.isSome_iff_exists.mp hw
  exact ⟨_, _, x, y, w, Prod.ext h rfl, hx, hy, hw, rfl⟩

/-- The release of the test group is complete at once at every scope that the statements use. -/
def freed (s : State) : State := { s with free := 1 }
def canRelease (s post : State) (sc : Scope) : Bool :=
  (release (freed s) 0 sc).1 && (groupAt (freed s) 0).isSome && (groupAt post 0).isSome && (groupAt (release (freed s) 0 sc).2 0).isSome

theorem releases {s post : State} {sc : Scope} (h : canRelease s post sc = true) : ∃ u, ReleasedTo (freed s) post 0 sc u := by
  unfold canRelease at h
  simp only [Bool.and_eq_true] at h
  exact released h.1.1.1 h.1.1.2 h.1.2 h.2

/-- What the issued machine with the release done is, and that it has a property. -/
def releasedAs (s post : State) (sc : Scope) : State :=
  let v := (release (freed s) 0 sc).2
  let x := (groupAt (freed s) 0).getD grp
  let w := (groupAt v 0).getD grp
  let y := (groupAt post 0).getD grp
  { setGroup v 0 { y with storeq := w.storeq, f := (List.range 12).map fun n => (n, flagOf y n - (flagOf x n - flagOf w n)) } with cur := none }

theorem releases_with {s post : State} {sc : Scope} (f : State → Bool) (h : (canRelease s post sc && f (releasedAs s post sc)) = true) :
    ∃ u, ReleasedTo (freed s) post 0 sc u ∧ f u = true := by
  simp only [canRelease, Bool.and_eq_true] at h
  obtain ⟨⟨⟨⟨h0, h1⟩, h2⟩, h3⟩, hf⟩ := h
  obtain ⟨x, hx⟩ := Option.isSome_iff_exists.mp h1
  obtain ⟨y, hy⟩ := Option.isSome_iff_exists.mp h2
  obtain ⟨w, hw⟩ := Option.isSome_iff_exists.mp h3
  refine ⟨releasedAs s post sc, ⟨_, x, y, w, Prod.ext h0 rfl, hx, hy, hw, ?_⟩, hf⟩
  simp only [releasedAs, hx, hy, hw, Option.getD_some]

def barInfo : Info := { h := bare, once := true }
def barTo : Env → List Dest := splitTo barInfo (fun e => nextPc e.pc bare.sp) fun _ => .bar .dev
def atBarGrp : Group := { grp with paths := [{ pc := 1, lanes := 3, wait := .bar .dev }] }
def instOf : Inst := { num := 1, ctx := 1, sysT := true, nodes := 0x50000, ncount := 1, gdone := 0, threads := [] }
/-- Context 1 has a live graph at flask 0, whose note table holds `notes`. -/
def graphLab (notes : List DWord) : State := { lab memGrp with flasks := [(0, { insts := [instOf], notes := notes })] }
def tnowInfo : Info := infoOf bare (.s 8) true none none []
def twaitTo (e : Env) : List Dest := [(nextPc e.pc bare.sp, if e.act = 0 then .run else .time (e.s 1), e.lanes)]

theorem test_meets_BarrierAndTimeResults :
    (Goes (lab grp) cur grp barInfo barTo (envOf (lab grp) cur grp barInfo) (postOf (lab grp) cur grp barInfo barTo)
      ∧ (envOf (lab grp) cur grp barInfo).act ≠ 0 ∧ ∃ u, ReleasedTo (freed (lab grp)) (postOf (lab grp) cur grp barInfo barTo) 0 .dev u)
    ∧ (release { freed (lab grp) with invs := [{ fl := 0, granule := 0, cores := [0] }] } 0 .dev).1 = false
    ∧ ((teamOf (still atBarGrp) 1).any (fun t => t.left == 1) = true ∧ (still atBarGrp).groups = [(0, atBarGrp)] ∧ atBar atBarGrp = true
      ∧ atBar grp = false)
    ∧ (Goes (lab memGrp) cur memGrp tnowInfo (nextWord { h := bare }) (envOf (lab memGrp) cur memGrp tnowInfo)
        (postOf (lab memGrp) cur memGrp tnowInfo (nextWord { h := bare })) ∧ actsIn (envOf (lab memGrp) cur memGrp tnowInfo) tnowInfo = true)
    ∧ Goes (lab memGrp) cur memGrp barInfo twaitTo (envOf (lab memGrp) cur memGrp barInfo) (postOf (lab memGrp) cur memGrp barInfo twaitTo)
    ∧ (Goes (graphLab []) cur memGrp (onceInfo true) (nextWord { h := bare }) (envOf (graphLab []) cur memGrp (onceInfo true))
        (onceAt (graphLab []) memGrp true) ∧ (0x40000 : DWord).toNat % 8 = 0 ∧ (sRaw queueGrp 1 + 4).toNat % 8 ≠ 0
      ∧ (∃ u, ReleasedTo (freed (graphLab [])) (onceAt (graphLab []) memGrp true) 0 .dev u
        ∧ (noteFlasks u 1).all (fun fl => decide ((flaskAt u fl).notes.length < 64)) = true)
      ∧ (noteFlasks (graphLab []) 1).filter (fun fl => !(flaskAt (graphLab []) fl).notes.contains 0x40000) = [0]
      ∧ (release (freed (graphLab (List.replicate 64 8))) 0 .dev).1 = true
      ∧ (noteFlasks (release (freed (graphLab (List.replicate 64 8))) 0 .dev).2 1).any (fun fl =>
          !(flaskAt (release (freed (graphLab (List.replicate 64 8))) 0 .dev).2 fl).notes.contains 0x40000
            && decide (64 ≤ (flaskAt (release (freed (graphLab (List.replicate 64 8))) 0 .dev).2 fl).notes.length)) = true) :=
  ⟨⟨goes_of _ (by decide), by decide, releases (by decide)⟩, by decide, by decide, ⟨goes_of _ (by decide), by decide⟩, goes_of _ (by decide),
    goes_of _ (by decide), by decide, by decide, releases_with _ (by decide), by decide⟩

/-- The team is that of a grid whose phase records stand at 0x200000; its task has three successors, the first sent. -/
def launchRec (base : Nat) : Launch :=
  { addr := 0x200000, entry := 0, regs := 64, groups := 1, lastLanes := 2, carry := 1024 + 4, scratch := 0, clw := 1, clh := 1, gx := 1, gy := 1,
    gz := 1, flags := 0, param := 0, prio := 0, gang := 0, ctx := 1, quota := 0, done := 0, donemsg := 0, phaseBase := BitVec.ofNat 64 base }
def gridGrp : Group := { grp with grid := 3, handle := 0x90000 }
def inGrid (x : Group) (s : State) : State :=
  { modTeam s 1 (fun t => { t with grid := 3 }) with
    groups := [(0, x)], grids := [{ uid := 3, launch := launchRec 0x200000, sysT := true, org := .core 0, left := 1 }],
    mem := memWrite s.mem 0x90000 (natBytes 12 0 ++ natBytes 2 1 ++ natBytes 26 0 ++ natBytes 8 0x91000 ++ natBytes 1 3) }
def phaseTo (e : Env) : List Dest := splitTo barInfo (fun e => e.pc) (fun _ => .phase 2) e
def phasePost (x : Group) (n : Nat) : State :=
  modGroup (atOnce (postOf (inGrid x (lab x)) cur x barInfo phaseTo) (envOf (inGrid x (lab x)) cur x barInfo) bare) 0 (joinPhase 0 n 3 0)
def atPhase (wait2 : Wait) : Group :=
  { gridGrp with paths := [{ pc := 0, lanes := 1, wait := .phase 2 }, { pc := 4, lanes := 2, wait := wait2 }] }
def onePhase : Group := { gridGrp with paths := [{ pc := 0, lanes := 3, wait := .phase 2 }] }

theorem test_meets_PhaseAndSignalResults :
    (Goes (lab grp) cur grp barInfo phaseTo (envOf (lab grp) cur grp barInfo) (postOf (lab grp) cur grp barInfo phaseTo)
      ∧ (envOf (lab grp) cur grp barInfo).act ≠ 0 ∧ launchFor (postOf (lab grp) cur grp barInfo phaseTo) grp = none)
    ∧ (Goes (inGrid gridGrp (lab gridGrp)) cur gridGrp barInfo phaseTo (envOf (inGrid gridGrp (lab gridGrp)) cur gridGrp barInfo)
        (postOf (inGrid gridGrp (lab gridGrp)) cur gridGrp barInfo phaseTo)
      ∧ launchFor (postOf (inGrid gridGrp (lab gridGrp)) cur gridGrp barInfo phaseTo) gridGrp ≠ none
      ∧ (groupAt (phasePost gridGrp 2) 0).any (fun y => !phaseBad (phasePost gridGrp 2) y) = true
      ∧ (groupAt (phasePost gridGrp 65536) 0).any (fun y => phaseBad (phasePost gridGrp 65536) y) = true)
    ∧ (launchFor (inGrid onePhase (still onePhase)) onePhase = some (launchRec 0x200000, 0) ∧ phaseWords gridGrp = []
      ∧ phaseWords onePhase = [0] ∧ phaseBad (inGrid onePhase (still onePhase)) onePhase = false ∧ phaseWords (atPhase (.phase 2)) = [0, 4]
      ∧ (∀ v, v ∈ carriedV (launchRec 0x200000).carry → isEmpty onePhase v = false)
      ∧ isEmpty { onePhase with empt := [4] } 4 = true ∧ 4 ∈ carriedV (launchRec 0x200000).carry
      ∧ phaseMissing (inGrid onePhase (still onePhase)) (launchRec 0x200000) 0 onePhase = none
      ∧ (release (stopStreams (endBurst (inGrid onePhase (still onePhase)) 0) 0) 0 .dev).1 = true
      ∧ (groupAt (release (stopStreams (endBurst (inGrid onePhase (still onePhase)) 0) 0) 0 .dev).2 0).isSome = true)
    ∧ (Goes (inGrid gridGrp (lab gridGrp)) cur gridGrp (onceInfo true) (nextWord { h := bare })
        (envOf (inGrid gridGrp (lab gridGrp)) cur gridGrp (onceInfo true)) (onceAt (inGrid gridGrp (lab gridGrp)) gridGrp true)
      ∧ taskSucc (onceAt (inGrid gridGrp (lab gridGrp)) gridGrp true) gridGrp = 3
      ∧ sentBit (onceAt (inGrid gridGrp (lab gridGrp)) gridGrp true) 1 0x90000 0 = true
      ∧ sentBit (onceAt (inGrid gridGrp (lab gridGrp)) gridGrp true) 1 0x90000 1 = false
      ∧ ∃ u, ReleasedTo (freed (inGrid gridGrp (lab gridGrp))) (onceAt (inGrid gridGrp (lab gridGrp)) gridGrp true) 0 .dev u) :=
  ⟨⟨goes_of _ (by decide), by decide, by decide⟩, ⟨goes_of _ (by decide), by decide, by decide, by decide⟩, by decide +kernel,
    goes_of _ (by decide), by decide, by decide, by decide, releases (by decide)⟩

def spawnInfo : Info := { h := bare, once := true, mem := true }
def taskBytes (regs : Nat) : List Byte := natBytes 8 (2 ^ 40) ++ natBytes 40 0 ++ natBytes 8 (regs * 2 ^ 16) ++ natBytes 8 0
def launchBytes (ctx base : Nat) : List Byte :=
  natBytes 4 0 ++ natBytes 2 64 ++ natBytes 1 1 ++ natBytes 1 2 ++ natBytes 12 0 ++ natBytes 1 1 ++ natBytes 1 1 ++ natBytes 2 0
    ++ natBytes 4 1 ++ natBytes 4 1 ++ natBytes 4 1 ++ natBytes 14 0 ++ natBytes 1 ctx ++ natBytes 29 0 ++ natBytes 8 base ++ natBytes 168 0
def graphBytes (start : Nat) : List Byte := natBytes 8 0x50000 ++ natBytes 4 1 ++ natBytes 4 start ++ natBytes 16 0
/-- The record in s1 at 0x40000. -/
def spawnLab (va : DWord) (bs : List Byte) (insts : List Inst) : State :=
  { lab { grp with s := [(1, va)] } with mem := memWrite (lab grp).mem 0x40000 bs, flasks := [(0, { insts := insts })] }
def spawnX (va : DWord) : Group := { grp with s := [(1, va)] }
def spawnRd (va : DWord) (bs : List Byte) (n : Nat) : RecRead × State :=
  readRec (onceAt (spawnLab va bs []) (spawnX va) true) (envOf (spawnLab va bs []) cur (spawnX va) spawnInfo) va 1 n
/-- The record is read and `f` holds of its bytes and of the machine after the read. -/
def readOk (r : RecRead × State) (f : List Byte → State → Bool) : Bool :=
  match r.1 with
  | .ok bs => f bs r.2
  | _ => false
def readBad (r : RecRead × State) : Nat :=
  match r.1 with
  | .ok _ => 0
  | .nonres => 1
  | .bad .. => 2
  | .held => 3

theorem test_meets_spawn_reads :
    (Goes (spawnLab 0x40000 (taskBytes 64) []) cur (spawnX 0x40000) spawnInfo (nextWord { h := bare })
        (envOf (spawnLab 0x40000 (taskBytes 64) []) cur (spawnX 0x40000) spawnInfo) (onceAt (spawnLab 0x40000 (taskBytes 64) []) (spawnX 0x40000) true)
      ∧ (envOf (spawnLab 0x40000 (taskBytes 64) []) cur (spawnX 0x40000) spawnInfo).act ≠ 0)
    ∧ readOk (spawnRd 0x40000 (taskBytes 64) 64) (fun bs _ => taskOk bs 0x40000 1 true) = true
    ∧ readOk (spawnRd 0x40000 (taskBytes 0) 64) (fun bs _ => !taskOk bs 0x40000 1 true) = true
    ∧ readOk (spawnRd 0x40000 (launchBytes 1 0x200000) 256)
        (fun bs v => launchOk v bs (launchOf bs 0x40000) 1 true && (slotMissing v (launchOf bs 0x40000)).isNone) = true
    ∧ readOk (spawnRd 0x40000 (launchBytes 2 0x200000) 256) (fun bs v => !launchOk v bs (launchOf bs 0x40000) 1 true) = true
    ∧ readOk (spawnRd 0x40000 (launchBytes 1 0x400000000) 256)
        (fun bs v => launchOk v bs (launchOf bs 0x40000) 1 true && (slotMissing v (launchOf bs 0x40000)).isSome) = true
    ∧ readBad (spawnRd 0x400000000 (taskBytes 64) 64) = 1 ∧ readBad (spawnRd 0x80000000_00000000 (taskBytes 64) 64) = 2 :=
  ⟨⟨goes_of _ (by decide), by decide⟩, by decide +kernel, by decide +kernel, by decide +kernel, by decide +kernel, by decide +kernel,
    by decide, by decide⟩

/-- A graph that may start, one that may not, a walker that is full; the releases. -/
theorem test_meets_spawn_graph :
    readOk (spawnRd 0x40000 (graphBytes 0) 32) (fun bs v => (recD bs 0).toNat % 32 == 0 && decide (recNat bs 0x0C 4 < recNat bs 8 4)
        && (recD bs 0x10).toNat % 8 == 0 && recNat bs 0x18 8 == 0 && decide ((flaskAt v 0).insts.length < 64)
        && decide (threadCount (flaskAt v 0) < 256)) = true
    ∧ readOk (spawnRd 0x40000 (graphBytes 1) 32) (fun bs _ => !decide (recNat bs 0x0C 4 < recNat bs 8 4)) = true
    ∧ 64 ≤ (flaskAt (spawnLab 0x40000 (graphBytes 0) (List.replicate 64 instOf)) 0).insts.length
    ∧ (∃ u, ReleasedTo (freed (spawnLab 0x40000 (taskBytes 64) [])) (spawnRd 0x40000 (taskBytes 64) 64).2 0 .dev u)
    ∧ (∃ u, ReleasedTo (freed (spawnLab 0x40000 (launchBytes 1 0x200000) [])) (spawnRd 0x40000 (launchBytes 1 0x200000) 256).2 0 .dev u) :=
  ⟨by decide +kernel, by decide +kernel, by decide +kernel, releases (by decide +kernel), releases (by decide +kernel)⟩

/-- A message of context 1 to `d`; port 0 is up in peer mode or not; `load` messages wait at core 5 and at the port. -/
def msgGrp (ctx d : Nat) : Group := { grp with s := [(1, BitVec.ofNat 64 (ctx * 2 ^ 8 + d * 2 ^ 48))] }
def msgInfo : Info := { h := bare, cB := (List.range 12).map (· + 20), mem := true }
def msgLab (x : Group) (up : Bool) (load : Nat) : State :=
  let q : List Msg := List.replicate load { bytes := [], dest := 5 }
  let s := modCore (lab x) 5 fun k => { k with msgs := q }
  { s with ports := [(0, { held := q })], sys := if up then mput s.sys (sel 4 0) 0x10010 else s.sys }
def msgPost (x : Group) (up : Bool) (load : Nat) : State := postOf (msgLab x up load) cur x msgInfo (nextWord { h := bare })
def msgBytes (d : Nat) : List Byte := messageBytes 0 1 0 0 0 d 0 (List.replicate 48 0)

theorem test_meets_SpawnResults :
    (Goes (msgLab (msgGrp 2 5) false 0) cur (msgGrp 2 5) msgInfo (nextWord { h := bare }) (envOf (msgLab (msgGrp 2 5) false 0) cur (msgGrp 2 5) msgInfo)
        (msgPost (msgGrp 2 5) false 0) ∧ (envOf (msgLab (msgGrp 2 5) false 0) cur (msgGrp 2 5) msgInfo).act ≠ 0 ∧ fld (sRaw (msgGrp 2 5) 1) 8 8 ≠ 1)
    ∧ (Goes (msgLab (msgGrp 1 5) false 0) cur (msgGrp 1 5) msgInfo (nextWord { h := bare }) (envOf (msgLab (msgGrp 1 5) false 0) cur (msgGrp 1 5) msgInfo)
        (msgPost (msgGrp 1 5) false 0) ∧ fld (sRaw (msgGrp 1 5) 1) 8 8 = 1 ∧ fld (sRaw (msgGrp 1 5) 1) 48 16 = 5
      ∧ msgLoad (msgPost (msgGrp 1 5) false 0) (msgCore (msgPost (msgGrp 1 5) false 0) (msgBytes 5)) < 64
      ∧ 64 ≤ msgLoad (msgPost (msgGrp 1 5) false 64) (msgCore (msgPost (msgGrp 1 5) false 64) (msgBytes 5)))
    ∧ (Goes (msgLab (msgGrp 1 0x1005) true 64) cur (msgGrp 1 0x1005) msgInfo (nextWord { h := bare })
        (envOf (msgLab (msgGrp 1 0x1005) true 64) cur (msgGrp 1 0x1005) msgInfo) (msgPost (msgGrp 1 0x1005) true 64)
      ∧ peerUp (msgPost (msgGrp 1 0x1005) true 64) 0 = true ∧ 64 ≤ portLoad (msgPost (msgGrp 1 0x1005) true 64) 0
      ∧ portLoad (msgPost (msgGrp 1 0x1005) true 0) 0 < 64 ∧ peerUp (msgPost (msgGrp 1 0x1005) false 0) 0 = false) :=
  ⟨⟨goes_of _ (by decide), by decide⟩, ⟨goes_of _ (by decide), by decide⟩, goes_of _ (by decide), by decide⟩

/-! ### The same for the fitting engine and the system instructions -/

/-- A legal region record; the table of context 1 stands at 0x70000 and holds it for region 2 or not. -/
def regRec (nobs : Nat) : List Byte :=
  natBytes 4 1 ++ natBytes 4 0x3F800000 ++ natBytes 4 0x3F800000 ++ natBytes 2 nobs ++ natBytes 2 1 ++ natBytes 1 0 ++ natBytes 1 1
    ++ natBytes 1 0 ++ natBytes 1 1 ++ natBytes 12 0
def fitMem (set : Bool) (m : List Cell) : List Cell :=
  let m := memWrite (memWrite m 0x80A0 (natBytes 8 0x70000)) 0x40000 (regRec 32)
  if set then memWrite m 0x70040 (regRec 32) else m
/-- A group whose lane 0 has an open region, its output full or empty. -/
def openGrp (empty : Bool) : Group :=
  { grp with s := [(1, 0x40000), (2, 256), (3, 0x400000000), (4, 0x40001), (5, 0x80000000_00000000)],
             apx := [(0, { id := 2, vout := 20, nout := 1, input := [7], pc := 0 })], empt := if empty then [20] else [] }
def fitLab (x : Group) : State := { lab x with mem := fitMem true (lab x).mem }
def apxbInfo : Info := { h := bare, cA := [16, 17], vw := [20] }
def apxbTo : Env → List Dest := splitTo apxbInfo (fun e => e.pc) fun _ => .apx 0
def fitU : State := drainAll (postOf (fitLab (openGrp false)) cur (openGrp false) (eng true) (nextWord (eng true))) 0
def fitE : Env := envOf (fitLab (openGrp false)) cur (openGrp false) (eng true)
def fitRd (va : DWord) : RecRead × State := readRec fitU fitE va 1 32

theorem test_meets_FitResults :
    (Goes (fitLab (openGrp false)) cur (openGrp false) apxbInfo apxbTo (envOf (fitLab (openGrp false)) cur (openGrp false) apxbInfo)
        (postOf (fitLab (openGrp false)) cur (openGrp false) apxbInfo apxbTo)
      ∧ (envOf (fitLab (openGrp false)) cur (openGrp false) apxbInfo).act ≠ 0 ∧ fitE.region (.imm 2) = some 2 ∧ fitE.region (.s 2) = none)
    ∧ (Goes (fitLab (openGrp false)) cur (openGrp false) { h := bare } (nextWord { h := bare })
        (envOf (fitLab (openGrp false)) cur (openGrp false) { h := bare })
        (postOf (fitLab (openGrp false)) cur (openGrp false) { h := bare } (nextWord { h := bare })) ∧ isEmpty (openGrp false) 20 = false)
    ∧ (Goes (fitLab (openGrp true)) cur (openGrp true) { h := bare } (nextWord { h := bare })
        (envOf (fitLab (openGrp true)) cur (openGrp true) { h := bare })
        (postOf (fitLab (openGrp true)) cur (openGrp true) { h := bare } (nextWord { h := bare })) ∧ isEmpty (openGrp true) 20 = true)
    ∧ (Goes (fitLab (openGrp false)) cur (openGrp false) (eng true) (nextWord (eng true)) fitE
        (postOf (fitLab (openGrp false)) cur (openGrp false) (eng true) (nextWord (eng true))) ∧ drained fitU 0 = true)
    ∧ readOk (fitRd 0x40000) (fun bs _ => regionOk bs) = true ∧ regionOk (regRec 31) = false
    ∧ (fitE.s 4).toNat % 32 ≠ 0 ∧ readBad (fitRd 0x400000000) = 1 ∧ readBad (fitRd 0x80000000_00000000) = 2
    ∧ Goes (fitLab (openGrp false)) cur (openGrp false) (eng false) (nextWord (eng false)) (envOf (fitLab (openGrp false)) cur (openGrp false) (eng false))
        (postOf (fitLab (openGrp false)) cur (openGrp false) (eng false) (nextWord (eng false))) :=
  ⟨⟨goes_of _ (by decide), by decide, by decide, by decide⟩, ⟨goes_of _ (by decide), by decide⟩, ⟨goes_of _ (by decide), by decide⟩,
    ⟨goes_of _ (by decide), by decide⟩, by decide +kernel, by decide, by decide, by decide, by decide, goes_of _ (by decide)⟩

/-- A request of region 2, answered or not; a slot of the region in SUBST or in IDLE; a sample. -/
def reqOf (reply : Option (List (Nat × List Word))) : FitReq :=
  { id := 9, uid := 2, ctx := 1, rid := 2, lanes := [(0, [0x3F800000])], nout := 1, vout := 20, fin := 3, pc := 0, granule := 0, sig := .none,
    reply := reply }
def fitLab2 (set : Bool) (st : Nat) (reply : Option (List (Nat × List Word))) : State :=
  { still grp with
    mem := fitMem set (lab grp).mem
    granules := [(1, 2, 0, 0)]
    flasks := [(0, { fit := [{ ctx := 1, id := 2, st := st, nin := 1, nout := 1 }], reqs := [reqOf reply],
                     samples := [{ ctx := 1, id := 2, xs := [], ys := [] }] })] }
def slotSt (set : Bool) (st : Nat) : Option Nat :=
  (regionRec (fitLab2 set st none) 1 2).bind fun r => (fitSlot (requestSlot (settleFit (fitLab2 set st none)) 0 (reqOf none) r) 0 1 2).map (·.st)

/-- The same with the engine occupied, and the machine once a sample has left the queue. -/
def slotSt' (set : Bool) (st : Nat) : Option Nat :=
  (regionRec (occupy (settleFit (fitLab2 set st none)) 0) 1 2).bind fun r =>
    (fitSlot (requestSlot (occupy (settleFit (fitLab2 set st none)) 0) 0 (reqOf none) r) 0 1 2).map (·.st)
def fitHead (set : Bool) : State :=
  modFlask (settleFit (fitLab2 set 4 none)) 0 fun f => { f with samples := [], fitNext := (settleFit (fitLab2 set 4 none)).fab + 8 }

theorem test_meets_FitEvents :
    ((flaskAt (settleFit (fitLab2 true 4 none)) 0).reqs.find? (fun q => q.reply.isNone) = some (reqOf none)
      ∧ slotSt true 4 = some 4 ∧ (slotSt true 1).any (fun n => n != 4) = true
      ∧ regionRec (settleFit (fitLab2 false 4 none)) 1 2 = none)
    ∧ (slotSt' true 4 = some 4 ∧ (slotSt' true 1).any (fun n => n != 4) = true ∧ regionRec (occupy (settleFit (fitLab2 false 4 none)) 0) 1 2 = none)
    ∧ ((settleFit (fitLab2 true 4 none)).fab < (flaskAt (modFlask (settleFit (fitLab2 true 4 none)) 0 fun f => { f with fitBusy := 8 }) 0).fitBusy
      ∧ (flaskAt (settleFit (fitLab2 true 4 none)) 0).fitBusy ≤ (settleFit (fitLab2 true 4 none)).fab
      ∧ (flaskAt (settleFit (fitLab2 true 4 none)) 0).fitNext ≤ (settleFit (fitLab2 true 4 none)).fab
      ∧ (regionRec (fitHead true) 1 2).isSome = true ∧ regionRec (fitHead false) 1 2 = none
      ∧ ((regionRec (fitHead true) 1 2).bind fun r => fitSlot (useSlot (fitHead true) 0 1 2 r) 0 1 2).isSome = true)
    ∧ (((fitLab2 true 4 (some [])).flasks.map fun p => p.2.reqs).flatten.find? (fun q => q.id == 9 && q.reply.isSome) = some (reqOf (some []))
      ∧ slotOf (fitLab2 true 4 (some [])) 2 = some 0 ∧ groupAt (fitLab2 true 4 (some [])) 0 = some grp ∧ grp.uiAct = false
      ∧ (flaskAt (settleFit (fitLab2 true 4 none)) 0).samples = [{ ctx := 1, id := 2, xs := [], ys := [] }]
      ∧ (regionRec (settleFit (fitLab2 true 4 none)) 1 2).isSome = true) := by
  decide +kernel

/-- Selectors, flasks, contexts and sizes, legal or not. -/
def sysGrp : Group :=
  { grp with s := [(1, 0x2_0000), (2, 0x5000), (3, 0x1F000), (4, 32), (5, 256), (6, 0x1001), (7, 0x1000), (8, 7), (9, 5), (10, 1), (11, 0)] }
def sysLab : State := lab sysGrp
def sysI : Info := sysInfo bare
def sysE (s : State) : Env := envOf s cur sysGrp sysI
def sysAt (s : State) : State := postOf s cur sysGrp sysI (nextWord sysI)
def sysGoes (s : State) : Prop := Goes s cur sysGrp sysI (nextWord sysI) (sysE s) (sysAt s)
def busyLab : State := { sysLab with sys := mput sysLab.sys (sel 1 0) 0x4104 }
def newCut : State := { sysLab with sys := mput sysLab.sys (sel 1 0) 0x4003 }

theorem test_meets_SystemResults :
    (sysGoes sysLab ∧ (sysE sysLab).act ≠ 0 ∧ 2 ^ 17 ≤ ((sysE sysLab).s 1).toNat ∧ ((sysE sysLab).s 2).toNat < 2 ^ 17
      ∧ selOk ((sysE sysLab).s 2).toNat = true ∧ selOk ((sysE sysLab).s 3).toNat = false ∧ 32 ≤ ((sysE sysLab).simm (.s 4)).toNat
      ∧ sysFld (sysAt sysLab) (sel 1 0) 8 1 ≠ 1 ∧ sysFld (sysAt sysLab) (sel 1 0) 0 4 = curL2 (sysAt sysLab) 0)
    ∧ (∃ u, ReleasedTo (freed sysLab) (sysAt sysLab) 0 .dev u ∧ (coveredSubs u 1 0 (2 ^ 56)).isEmpty = true)
    ∧ (drained (drainAll (sysAt sysLab) 0) 0 = true ∧ sysFld (drainAll (sysAt sysLab) 0) (sel 1 0) 8 1 ≠ 1
      ∧ sysFld (drainAll (sysAt sysLab) 0) (sel 1 0) 0 4 = curL2 (drainAll (sysAt sysLab) 0) 0
      ∧ drained (drainAll { lab heldGrp with subs := [{ subOf with line := 0, vline := 0x800 }] } 0) 0 = false)
    ∧ (release { freed sysLab with invs := [{ fl := 0, granule := 0, cores := [0] }] } 0 .dev).1 = false
    ∧ (sysGoes busyLab ∧ drained (drainAll (sysAt busyLab) 0) 0 = true ∧ sysFld (drainAll (sysAt busyLab) 0) (sel 1 0) 8 1 = 1)
    ∧ (sysGoes newCut ∧ sysFld (drainAll (sysAt newCut) 0) (sel 1 0) 8 1 ≠ 1
      ∧ sysFld (drainAll (sysAt newCut) 0) (sel 1 0) 0 4 ≠ curL2 (drainAll (sysAt newCut) 0) 0)
    ∧ ((sysE sysLab).simm (.imm 1)).toNat < 256 ∧ ¬ ((sysE sysLab).simm (.s 5)).toNat < 256
    ∧ (pageBits 0).getD 56 = 12 ∧ ((sysE sysLab).s 6).toNat % 2 ^ 12 ≠ 0 ∧ ((sysE sysLab).s 7).toNat % 2 ^ 12 = 0 :=
  ⟨⟨goes_of _ (by decide), by decide, by decide, by decide, by decide, by decide, by decide, by decide, by decide⟩, releases_with _ (by decide),
    by decide, by decide, ⟨goes_of _ (by decide), by decide⟩, ⟨goes_of _ (by decide), by decide, by decide⟩, by decide, by decide, by decide, by decide,
    by decide⟩

def cresInfo : Info := { h := bare, once := true, elect := true }
/-- An ordinary group with a current in s1. -/
def tenant : Group := { grp with sysT := false, s := [(1, 6)] }
def cresAt (x : Group) : State := postOf (lab x) cur x cresInfo (nextWord { h := bare })
/-- Context 3 resident; flask 5 gated or not. -/
def resLab (gated : Bool) : State :=
  { sysLab with mem := memWrite sysLab.mem 0x8180 (natBytes 1 1), flasks := [(5, { gated := gated })] }

theorem test_meets_CurrentAndHaltResults :
    (Goes (lab grp) cur grp cresInfo (nextWord { h := bare }) (envOf (lab grp) cur grp cresInfo) (cresAt grp)
      ∧ (envOf (lab grp) cur grp cresInfo).act ≠ 0 ∧ ((envOf (lab grp) cur grp cresInfo).simm (.imm 0)).toNat = 0
      ∧ 1 ≤ ((envOf (lab grp) cur grp cresInfo).simm (.imm 500)).toNat ∧ ((envOf (lab grp) cur grp cresInfo).simm (.imm 500)).toNat ≤ 1023
      ∧ grpPriv (cresAt grp) grp = true ∧ (teamOf (endBurst (cresAt grp) 0) 1).isSome = true)
    ∧ (grpPriv (lab grp) grp = true ∧ ((envOf (lab grp) cur grp cresInfo).simm (.imm 6)).toNat ≠ 0
      ∧ 1023 < ((envOf (lab { grp with s := [(1, 1024)] }) cur { grp with s := [(1, 1024)] } cresInfo).simm (.s 1)).toNat)
    ∧ (Goes (lab tenant) cur tenant cresInfo (nextWord { h := bare }) (envOf (lab tenant) cur tenant cresInfo) (cresAt tenant)
      ∧ grpPriv (lab tenant) tenant = false ∧ grpPriv (cresAt tenant) tenant = false
      ∧ ((envOf (lab tenant) cur tenant cresInfo).simm (.imm 6)).toNat ≠ 0 ∧ ((envOf (lab tenant) cur tenant cresInfo).simm (.s 1)).toNat ≠ 0)
    ∧ (sysGoes sysLab ∧ (1 : BitVec 9).toNat = sysGrp.ctx ∧ ((sysE sysLab).simm (.s 10)).toNat = sysGrp.ctx ∧ (0 : BitVec 9).toNat = coreFlask 0
      ∧ ((sysE sysLab).simm (.s 11)).toNat = coreFlask 0)
    ∧ (sysGoes (resLab false) ∧ 256 ≤ ((sysE (resLab false)).simm (.s 5)).toNat ∧ ((sysE (resLab false)).simm (.imm 3)).toNat ≠ 1
      ∧ drained (drainAll (sysAt (resLab false)) 0) 0 = true
      ∧ ctxResident (drainAll (sysAt (resLab false)) 0) 3 = true ∧ ctxResident (drainAll (sysAt (resLab false)) 0) 4 = false
      ∧ 32 ≤ ((sysE (resLab false)).simm (.s 4)).toNat ∧ ((sysE (resLab false)).simm (.imm 5)).toNat ≠ coreFlask 0
      ∧ (flaskAt (drainAll (sysAt (resLab false)) 0) 5).gated = false)
    ∧ (sysGoes (resLab true) ∧ drained (drainAll (sysAt (resLab true)) 0) 0 = true ∧ (flaskAt (drainAll (sysAt (resLab true)) 0) 5).gated = true) :=
  ⟨⟨goes_of _ (by decide), by decide, by decide, by decide, by decide, by decide, by decide⟩, by decide, ⟨goes_of _ (by decide), by decide⟩,
    ⟨goes_of _ (by decide), by decide⟩,
    ⟨goes_of _ (by decide), by decide, by decide, by decide, by decide, by decide, by decide, by decide, by decide⟩, goes_of _ (by decide), by decide⟩

/-! ### The same for the scheduler and the task machinery -/

theorem pickSlot_some {s : State} {core quarter : Nat} (h : freeSlots s core quarter ≠ []) : ∃ g, pickSlot s core quarter = some g := by
  refine ⟨_, List.getElem?_eq_getElem (l := freeSlots s core quarter) (i := Config.freeNat s.free 0 % max 1 (freeSlots s core quarter).length) ?_⟩
  have : 0 < (freeSlots s core quarter).length := List.length_pos_iff.mpr h
  have := Nat.mod_lt (Config.freeNat s.free 0) (y := max 1 (freeSlots s core quarter).length) (by omega)
  omega

theorem putBack_some {s : State} {i core quarter : Nat} {edit : Parked → Group → Group} {p : Parked} (hi : s.parked[i]? = some p)
    (h : hasPlace s p.g core quarter = true) : ∃ t, putBack s i core quarter edit = some t := by
  have hs : freeSlots s core quarter ≠ [] := by
    intro h0
    simp [hasPlace, h0] at h
  have hf : (fitTier s core quarter p.g.regs).isSome = true := by
    simp only [hasPlace, Bool.and_eq_true] at h
    exact h.1.1.1.2
  obtain ⟨g, hg⟩ := pickSlot_some hs
  obtain ⟨tier, ht⟩ := Option.isSome_iff_exists.mp hf
  unfold putBack
  rw [hi]
  simp only [h, Bool.not_true, Bool.false_eq_true, if_false, hg, ht]
  exact ⟨_, rfl⟩

/-- A saved group of the team; DBGCTL of core 0 asks for a step of all paths of any group; register 3 of the core matches word 0. -/
def parkedOf : Parked := { g := { grp with uid := 8 }, core := 0, quarter := 0, slot := 1, areaB := false, code := 0, pc := 0, lanes := 3 }
def debugLab : State :=
  { still grp with
    parked := [parkedOf]
    sys := mput (mput (still grp).sys (sel 27 0) (BitVec.ofNat 64 (6 + 0x3F * 256))) (sel 26 3) (BitVec.ofNat 64 (2 ^ 63 + 2 ^ 48)) }
/-- Register 3 matches word 2. -/
def sinkBreak : State := setSys debugLab (sel 26 3) (BitVec.ofNat 64 (2 ^ 63 + 2 ^ 48 + 2))
def causeOf : Cause := { code := 0x18 }
def stuckGrp : Group :=
  { grp with j := [(2, { mask := 3, arrived := 1 })], stall := 1048576,
             paths := [{ pc := 1, lanes := 1, wait := .join 2, via := 0 }, { pc := 4, lanes := 2, wait := .bar .core }] }
def uiGrp : Group := { grp with uiVec := 40, uiTags := [7, 8] }
def waitGrp : Group := { grp with paths := [{ pc := 1, lanes := 3, wait := .bar .core }] }
def eagerLab : State := { still waitGrp with sys := mput (still waitGrp).sys (sel 15 0) 2048 }

/-- Two groups of a quarter, of another GPRIO, that wait for space. -/
def recallHi : Group := { grp with tier := .tiered, prio := 3, elig := 9 }
def recallLo : Group := { grp with uid := 5, tier := .tiered, prio := 2, elig := 4 }
def recallLab : State := { still recallHi with groups := [(0, recallHi), (1, recallLo)] }

theorem test_meets_SchedulingEvents :
    (groupAt (still { grp with causes := [causeOf] }) 0 = some { grp with causes := [causeOf] }
      ∧ nextPath (still { grp with causes := [causeOf] }) 0 { grp with causes := [causeOf] } = some (0, 3) ∧ mayIssue grp = true)
    ∧ (breakReg debugLab 0 1 0 0 = some 3 ∧ breakReg sinkBreak 0 1 0 0x801C0000_00000030_00000004 = some 3 ∧ isLive cur.word = false ∧ ∀ p, p ∈ grp.paths → p.skipBp = false)
    ∧ (bit (sysVal debugLab (sel 27 0)) 1 = true ∧ stepPick debugLab 0 = some 0 ∧ debugLab.parked[0]? = some parkedOf)
    ∧ (sysFld (still stuckGrp) (sel 16 0) 0 32 ≠ 0 ∧ sysFld (still stuckGrp) (sel 16 0) 0 32 ≤ stuckGrp.stall ∧ watchdogOn stuckGrp = true
      ∧ stuckOn stuckGrp 2 = true)
    ∧ 4095 ≤ ({ grp with age := 4095 } : Group).age
    ∧ uiPath uiGrp = some { pc := 0, lanes := 3 }
    ∧ (groupAt eagerLab 0 = some waitGrp ∧ tierCand eagerLab 0 waitGrp = true ∧ sysFld eagerLab (sel 15 0) 32 1 ≠ 1
      ∧ backUsed eagerLab 0 + regCount waitGrp ≤ 32768)
    ∧ (recallReady (still { grp with tier := .tiered }) 0 { grp with tier := .tiered } = true
      ∧ fileUsed (still { grp with tier := .tiered }) 0 0 + regCount grp ≤ 2048
      ∧ ∀ p, p ∈ (still { grp with tier := .tiered }).groups → p.1 = 0)
    ∧ (recallReady recallLab 0 recallHi = true ∧ recallReady recallLab 1 recallLo = true
      ∧ recalledBefore recallLab (1, recallLo) (0, recallHi) = false ∧ recalledBefore recallLab (0, recallHi) (1, recallLo) = true
      ∧ (∀ p, p ∈ recallLab.groups → p.1 ≠ 0 → recalledBefore recallLab p (0, recallHi) = false)
      ∧ recalledBefore recallLab (1, { recallLo with lent := [5] }) (0, recallHi) = true
      ∧ recalledBefore recallLab (1, { recallLo with prio := 3 }) (0, recallHi) = true
      ∧ fileUsed recallLab (slotCore 0) (slotQuarter 0) + regCount recallHi ≤ 2048)
    ∧ uiPath { uiGrp with paths := [{ pc := 0, lanes := 3, wait := .apx 9 }] } = some { pc := 0, lanes := 3, wait := .apx 9 }
    ∧ recallReady (still { waitGrp with tier := .tiered, lent := [5] }) 0 { waitGrp with tier := .tiered, lent := [5] } = true := by
  decide +kernel

theorem test_meets_debugStep : ∃ t, putBack debugLab 0 0 parkedOf.quarter (stepEdit debugLab 0) = some t :=
  putBack_some (p := parkedOf) rfl (by decide)

/-- A READY task of 64 registers at 0x90000 with DEPS `deps`, at core 0; context 1 has images for eight groups and four teams; 15 of
the slots of the quarter are free. -/
def taskOf' : TaskE := { ctx := 1, handle := 0x90000, sysT := true, team := 1, core := 0, seq := 0, ready := some 0 }
def taskLab (t : TaskE) (deps : Nat) : State :=
  { still grp with
    tasks := [t]
    mem := memWrite (memWrite (lab grp).mem 0x90000 (natBytes 8 (2 ^ 40) ++ natBytes 2 deps ++ natBytes 38 0 ++ natBytes 8 (64 * 2 ^ 16)))
      0x8090 (natBytes 8 0xA0000)
    sys := mput (lab grp).sys (sel 23 1) (BitVec.ofNat 64 (8 * 2 ^ 48 + 4 * 2 ^ 38)) }

/-- A gang of one member, complete; and placed, its reservation live. -/
def gangLab : State :=
  let s := taskLab { taskOf' with gang := 5, counted := true } 0
  { s with sys := mput s.sys (sel 21 5) (BitVec.ofNat 64 (2 ^ 63 + 2 ^ 48 + 2 ^ 16 + 1)) }
/-- The same with an entry of another context; a decrement that the end of a task sent. -/
def foreignLab : State := setSys gangLab (sel 21 5) (BitVec.ofNat 64 (2 ^ 63 + 2 ^ 49 + 2 ^ 16 + 1))
def decOf : DecS := { ctx := 1, handle := 0x90000, bySrc := 0x91000, poison := true, batch := 4 }
/-- One that a SIGNAL of a task of core 5 sent. -/
def sigDec : DecS := { decOf with poison := false, batch := 0, src := 5 }
/-- Handler 3 of context 1: entry 40, 64 registers, home core 0; a message to it, and to handler 4, which is not valid. -/
def hdlMsg (k : Nat) : Msg := { bytes := messageBytes k 1 0 0 0xFFFF 0xFFFF 0 (List.replicate 48 0), dest := 0xFFFF }
def hdlLab (m : Msg) : State :=
  let s := modCore (taskLab taskOf' 0) 0 fun c => { c with msgs := [m] }
  { s with mem := memWrite s.mem 0xA0030 (natBytes 8 (40 + 64 * 2 ^ 32 + 2 ^ 63)), msgs := [m, { m with port := some 2 }] }

theorem groupFits_room {s : State} {t : Team} {core quarter regs : Nat} (h : groupFits s t core quarter regs = true) :
    freeSlots s core quarter ≠ [] ∧ (fitTier s core quarter regs).isSome = true := by
  simp only [groupFits, Bool.and_eq_true] at h
  refine ⟨?_, h.2⟩
  intro h0
  simp [h0] at h

theorem spawnHandler_some {s : State} {core : Nat} {bs : List Byte}
    (h : ((List.range 4).filter fun q => groupFits { s with free := s.free + 1, nextUid := s.nextUid + 1 }
      { uid := s.nextUid, ctx := bytesAt bs 1 1 } core q (handlerOf s (bytesAt bs 1 1) (bytesAt bs 0 1)).regs) ≠ []) :
    ∃ t, spawnHandler s core bs = some t := by
  have hl := List.length_pos_iff.mpr h
  unfold spawnHandler
  simp only [draw, freshUid]
  generalize hq : ((List.range 4).filter fun q => groupFits { s with free := s.free + 1, nextUid := s.nextUid + 1 }
      { uid := s.nextUid, ctx := bytesAt bs 1 1 } core q (handlerOf s (bytesAt bs 1 1) (bytesAt bs 0 1)).regs) = qs at h hl
  have hi : Config.freeNat s.free 0 % max 1 qs.length < qs.length := by
    have := Nat.mod_lt (Config.freeNat s.free 0) (y := max 1 qs.length) (by omega)
    omega
  have hm : qs[Config.freeNat s.free 0 % max 1 qs.length] ∈ qs := List.getElem_mem hi
  rw [List.getElem?_eq_getElem hi]
  generalize hg : qs[Config.freeNat s.free 0 % max 1 qs.length] = q at hm
  rw [← hq] at hm
  obtain ⟨hs, hf⟩ := groupFits_room (List.mem_filter.mp hm).2
  obtain ⟨g, hg⟩ := pickSlot_some hs
  obtain ⟨tier, ht⟩ := Option.isSome_iff_exists.mp hf
  simp only [hg, ht]
  exact ⟨_, rfl⟩

theorem test_meets_TaskEvents :
    (taskOf (taskLab taskOf' 0) 1 0x90000 = some taskOf' ∧ (teamOf (taskLab taskOf' 0) 1).any (fun x => !x.pin) = true
      ∧ mayAdmit (taskLab taskOf' 0) taskOf' 0 0 = true ∧ fitTier (taskLab taskOf' 0) 0 0 (taskRegs (taskLab taskOf' 0) taskOf') = some .resident
      ∧ freeSlots (taskLab taskOf' 0) 0 0 ≠ [])
    ∧ ((taskLab taskOf' 0).tasks.filter (fun t => stealLevel 1 t.core == some 0 && mayStealTask (taskLab taskOf' 0) t 1 0 0) = [taskOf']
      ∧ freeSlots (taskLab taskOf' 0) 1 0 ≠ [] ∧ fitTier (taskLab taskOf' 0) 1 0 (taskRegs (taskLab taskOf' 0) taskOf') = some .resident)
    ∧ (recField (taskLab taskOf' 0) 1 0x90000 8 2 = 0 ∧ recField (taskLab taskOf' 3) 1 0x90000 8 2 = 3
      ∧ recField (taskLab taskOf' 3) 1 0x90000 0x0A 1 = 0)
    ∧ (taskOf (taskLab { taskOf' with ready := none } 0) 1 0x90000 = some { taskOf' with ready := none }
      ∧ recField (taskLab { taskOf' with ready := none } 0) 1 0x90000 0x20 8 = 0)
    ∧ ((∃ y, y ∈ ([decOf, decOf] : List DecS).take 1 ∧ decBefore (taskLab taskOf' 3) y decOf = true) ∧ decOf.batch ≠ 0
      ∧ (∃ y, y ∈ ([sigDec, sigDec] : List DecS).take 1 ∧ decBefore (taskLab taskOf' 3) y sigDec = true) ∧ sigDec.src < 512
      ∧ recRouter (taskLab taskOf' 3) 1 0x90000 ≠ none
      ∧ decBefore (taskLab taskOf' 3) { sigDec with src := 7 } sigDec = false ∧ ctxLocked (taskLab taskOf' 3) 1 0x90000 64 = false
      ∧ ctxLocked { taskLab taskOf' 3 with subs := [{ keeper with line := 0x1200 }] } 1 0x90000 64 = true
      ∧ taskOf { taskLab taskOf' 3 with tasks := [] } 1 0x90000 = none)
    ∧ ((gangWaiting foreignLab 5).any (fun t => gangShut foreignLab 5 t.ctx) = true ∧ gangComplete foreignLab 5 = true
      ∧ gangBehind foreignLab 5 = false ∧ (gangWaiting gangLab 5).all (fun t => !gangShut gangLab 5 t.ctx) = true)
    ∧ (gangComplete gangLab 5 = true ∧ gangBehind gangLab 5 = false ∧ gangTasks gangLab 5 = [{ taskOf' with gang := 5, counted := true }]
      ∧ gangTooBig gangLab (gangTasks gangLab 5) = false ∧ placesAgree gangLab ((gangTasks gangLab 5).zip [(0, 0)]) = true)
    ∧ (msgBad (hdlLab (hdlMsg 3)) (hdlMsg 3).bytes = none ∧ msgBad (hdlLab (hdlMsg 4)) (hdlMsg 4).bytes = some 2
      ∧ (hdlLab (hdlMsg 3)).msgs[0]? = some (hdlMsg 3) ∧ (hdlLab (hdlMsg 3)).msgs[1]? = some { hdlMsg 3 with port := some 2 }
      ∧ (mget (hdlLab (hdlMsg 3)).ports 2 {}).retrain = false
      ∧ msgBefore (hdlLab (hdlMsg 3)) (hdlMsg 3) { hdlMsg 3 with port := some 2 } = false ∧ sysFld (hdlLab (hdlMsg 3)) (sel 4 2) 4 4 ≠ 1
      ∧ sysFld (setSys (hdlLab (hdlMsg 3)) (sel 4 2) 0x10010) (sel 4 2) 4 4 = 1
      ∧ isOver (hdlLab (hdlMsg 3)) 1 = false ∧ isOver (setSys (hdlLab (hdlMsg 3)) (sel 11 1) 2) 1 = true
      ∧ (coreAt (hdlLab (hdlMsg 3)) 0).msgs = [hdlMsg 3] ∧ quietStart (hdlLab (hdlMsg 3)) 1 0 = true) := by
  decide +kernel

theorem test_meets_gangPlace : ∃ u, placeAll ((gangTasks gangLab 5).zip [(0, 0)]) { gangLab with free := gangLab.free + 1 } = some u := by
  have ht : (gangTasks gangLab 5).zip [(0, 0)] = [({ taskOf' with gang := 5, counted := true }, 0, 0)] := by decide +kernel
  have hs : freeSlots { gangLab with free := gangLab.free + 1 } 0 0 ≠ [] := by decide +kernel
  obtain ⟨g, hg⟩ := pickSlot_some hs
  have hx : (teamOf { gangLab with free := gangLab.free + 1 } 1).any (fun x => quarterOk { taskOf' with gang := 5, counted := true } 0
      && groupFits { gangLab with free := gangLab.free + 1 } x 0 0
        (taskRegs { gangLab with free := gangLab.free + 1 } { taskOf' with gang := 5, counted := true })
      && fitTier { gangLab with free := gangLab.free + 1 } 0 0
        (taskRegs { gangLab with free := gangLab.free + 1 } { taskOf' with gang := 5, counted := true }) == some .resident) = true := by
    decide +kernel
  generalize hx1 : teamOf { gangLab with free := gangLab.free + 1 } 1 = o at hx
  cases o with
  | none => cases hx
  | some x =>
    rw [ht]
    unfold placeAll
    have hx3 : teamOf { gangLab with free := gangLab.free + 1 } ({ taskOf' with gang := 5, counted := true } : TaskE).team = some x := hx1
    simp only [Option.any_some] at hx
    rw [hx3, hg]
    simp only [hx, if_true]
    exact ⟨_, rfl⟩

theorem test_meets_handlerSpawn : ∃ t, spawnHandler (modCore (hdlLab (hdlMsg 3)) 0 fun c => { c with msgs := c.msgs.drop 1 }) 0 (hdlMsg 3).bytes
    = some t := spawnHandler_some (by decide +kernel)

/-! ### The same for the walkers and the kernel's acts -/

/-- Node 0 at 0x50000 of kind `kind`, with its INCOUNT, ADDR, MASK and CAP; a launch record at 0x40000; a condition word at 0x60000. -/
def nodeBytes (kind inc addr mask cap : Nat) : List Byte :=
  natBytes 1 kind ++ natBytes 1 0 ++ natBytes 2 inc ++ natBytes 4 0 ++ natBytes 8 addr ++ natBytes 8 mask ++ natBytes 4 0 ++ natBytes 4 cap
def thOf : Thread := { id := 0, node := 0 }
def walkInst (th : Thread) : Inst := { instOf with threads := [th] }
def walkLab (node : List Byte) (th : Thread) : State :=
  { still grp with
    flasks := [(0, { insts := [walkInst th] })]
    mem := memWrite (memWrite (memWrite (lab grp).mem 0x50000 node) 0x40000 (launchBytes 1 0x200000)) 0x60000 (natBytes 8 4) }
def found (node : List Byte) (th : Thread) : Option Node :=
  match findNode (walkLab node th) (walkInst th) th with
  | .node n => some n
  | _ => none
def foundBad (node : List Byte) (th : Thread) : Bool :=
  match findNode (walkLab node th) (walkInst th) th with
  | .bad => true
  | _ => false
def taskNode : List Byte := nodeBytes 0 0 0x40000 0xFFFFFFFF 0
def condNode (mask : Nat) : List Byte := nodeBytes 1 0 0x60000 mask 0
def whileNode (mask cap : Nat) : List Byte := nodeBytes 2 0 0x60000 mask cap
def condIs (node : List Byte) (kind : Nat) (f : DWord → Node → Bool) : Bool :=
  (found node thOf).any fun n => decide (n.kind = kind) && ((condWord (walkLab node thOf) 0 (walkInst thOf) n).any fun w => f w.1 n)

theorem test_meets_WalkerEvents :
    (Machine.instOf (walkLab taskNode thOf) 0 1 = some (walkInst thOf) ∧ (walkInst thOf).threads.find? (fun t => t.id == 0) = some thOf
      ∧ (walkInst thOf).stopped = false ∧ thOf.grid = none)
    ∧ foundBad (nodeBytes 5 0 0 0 0) thOf = true
    ∧ (found taskNode thOf).any (fun n => decide (n.kind = 0) && n.also.isNone
        && (ctxRead (walkLab taskNode thOf) 1 n.addr 256).any fun bs =>
            launchOk (walkLab taskNode thOf) bs (launchOf bs n.addr) 1 true && (slotMissing (walkLab taskNode thOf) (launchOf bs n.addr)).isNone) = true
    ∧ (found (nodeBytes 0 0 0x50000 0xFFFFFFFF 0) thOf).any (fun n =>
        (ctxRead (walkLab (nodeBytes 0 0 0x50000 0xFFFFFFFF 0) thOf) 1 n.addr 256).any fun bs =>
            !launchOk (walkLab (nodeBytes 0 0 0x50000 0xFFFFFFFF 0) thOf) bs (launchOf bs n.addr) 1 true) = true
    ∧ (found (nodeBytes 0 0 0x40000 0 0) thOf).any (fun n => n.also == some 0) = true
    ∧ condIs (condNode 4) 1 (fun w n => w &&& n.mask != 0) = true
    ∧ condIs (whileNode 8 2) 2 (fun w n => w &&& n.mask == 0) = true ∧ condIs (whileNode 4 2) 2 (fun w n => w &&& n.mask != 0 && decide (0 < n.cap)) = true
    ∧ condIs (whileNode 4 0) 2 (fun w n => w &&& n.mask != 0 && decide (n.cap ≤ 0)) = true
    ∧ (found (nodeBytes 3 2 0 0 0) thOf).any (fun n => decide (n.kind = 3) && decide (n.incount ≠ 1)) = true
    ∧ (found (nodeBytes 4 0 0 0 0) thOf).any (fun n => decide (n.kind = 4)) = true
    ∧ ({ thOf with ended := some 2 } : Thread).ended = some 2
    ∧ Machine.instOf (graphLab []) 0 1 = some instOf ∧ instOf.threads = [] := by
  decide +kernel

/-- A group held at its safe point for a park; a group that overruns; a saved group with a place. -/
def heldPath : Path := { pc := 0, lanes := 3, held := true, live := [0xFF000000_00000000_00000000] }
def parkGrp (why : ParkWhy) : Group := { grp with paths := [heldPath], park := some { why := why } }
def parkLab (x : Group) : State :=
  { still x with
    sys := mput (mput (still x).sys (sel 24 1) 0x40_00000000) (sel 14 0) 65536
    parked := [parkedOf]
    mem := memWrite (lab grp).mem 0x8098 (natBytes 8 0x20001)
    notices := [{ queue := 5, bytes := natBytes 64 7 }]
    preqs := [{ id := 6, uid := 2, ctx := 1, pages := [0x40, 0x41], sig := .none }] }
def parkU : State := settleFixed (stopStreams (endBurst (parkLab (parkGrp .preempt)) 0) 0) 2
def parkV : State := (release parkU 0 .dev).2
def overGrp : Group := { grp with park := some { why := .migrate, issued := 65536 } }
def haltedStream : Stream := { streamOf' 0x40000 with halted := some 0x40 }

theorem test_meets_ParkEvents :
    (groupAt (parkLab (parkGrp .quota)) 0 = some (parkGrp .quota) ∧ grpParked (parkGrp .quota) = true ∧ grpParked (parkGrp .preempt) = true)
    ∧ ((release parkU 0 .dev).1 = true ∧ groupAt parkV 0 = some (parkGrp .preempt) ∧ grpSafe (parkGrp .preempt) = true
      ∧ saveReady parkV (parkGrp .preempt) true = true ∧ saveArea parkV 1 = some false)
    ∧ (release { parkU with invs := [{ fl := 0, granule := 0, cores := [0] }] } 0 .dev).1 = false
    ∧ ((parkLab grp).parked[0]? = some parkedOf ∧ mayResume (parkLab grp) parkedOf 0 = true ∧ descField (parkLab grp) 1 0x30 4 ≠ 0xFFFFFFFF)
    ∧ (parkGrp .quota).causes = [] ∧ ({ parkGrp .quota with causes := [causeOf] } : Group).causes = [causeOf]
    ∧ (engineIdle (headLab cpyOf 0) 1 = false ∧ engineIdle (parkLab (parkGrp .migrate)) 1 = true ∧ grpParked (parkGrp .migrate) = true
      ∧ (parkLab (parkGrp .migrate)).groups = [(0, parkGrp .migrate)])
    ∧ (haltedStream.halted = some 0x40 ∧ pageMapped (parkLab grp) 1 0x40 = true)
    ∧ ((parkLab grp).notices[0]? = some { queue := 5, bytes := natBytes 64 7 }
      ∧ (queuePut { parkLab grp with notices := [] } 5 (natBytes 64 7)).isSome = true)
    ∧ ((parkLab grp).preqs.find? (fun q => q.id == 6)).any (fun q => q.pages == [0x40, 0x41]) = true
    ∧ (overran (parkLab overGrp) 0 overGrp { why := .migrate, issued := 65536 } = true ∧ (teamOf (parkLab overGrp) 1).any (fun t => !t.idem) = true
      ∧ (teamOf (modTeam (parkLab overGrp) 1 fun t => { t with idem := true }) 1).any (fun t => t.idem) = true)
    ∧ (keyTier (128 * 0x800) < 2 ∧ (lineFor (parkLab grp) 0 0x800).clear = false) := by
  decide +kernel

def resumeLab (core : Nat) : State :=
  modTeam (if ((teamOf (parkLab grp) 1).map fun t => t.saved).getD false = true then moveTeam (parkLab grp) 1 core else parkLab grp) 1
    (fun t => { t with moving := false })
theorem test_meets_groupResume : (∃ v, putBack (resumeLab 0) 0 0 0 passBreak = some v)
    ∧ ∃ v, putBack (resumeLab 0) 0 0 0 (redirect (BitVec.ofNat 32 (descField (parkLab grp) 1 0x30 4))) = some v :=
  ⟨putBack_some (p := parkedOf) rfl (by decide +kernel), putBack_some (p := parkedOf) rfl (by decide +kernel)⟩

/-- A team one of whose groups is held to migrate and the other runs on. -/
def mixedPark : State := { parkLab (parkGrp .migrate) with groups := [(0, parkGrp .migrate), (1, { grp with uid := 5 })] }
theorem test_meets_parks_wait : engineIdle mixedPark 1 = true
    ∧ (∃ p, p ∈ mixedPark.groups ∧ p.2.team = grp.team ∧ p.2.done = false ∧ grpParked p.2 = false) := by decide

/-- A team saved whole that migrates to flask 1. -/
def migParked : Parked := { parkedOf with why := some .migrate }
def migLab : State :=
  modTeam { parkLab grp with groups := [], parked := [migParked] } 1 fun t => { t with migTo := some 1, mig := true }
def migMoved (core : Nat) : State :=
  let s := modTeam (moveTeam { migLab with free := migLab.free + 1 } 1 core) 1 fun t => { t with migTo := none }
  { s with parked := s.parked.map fun p => if p.g.team == 1 then { p with core := core } else p }
/-- The same with a group of the team that pre-emption had saved. -/
def migMixed : State := { migLab with parked := [migParked, { migParked with g := { grp with uid := 6 }, why := some .preempt }] }

theorem test_meets_migrated :
    ((teamOf migLab 1).any (fun t => t.migTo == some 1) = true ∧ engineIdle migLab 1 = true ∧ migLab.parked = [migParked]
      ∧ migLab.groups = [] ∧ (∃ p, p ∈ migMixed.parked ∧ p.g.team = 1) ∧ engineIdle migMixed 1 = true)
    ∧ ∀ t, teamOf migLab 1 = some t → ∃ u, (((List.range 16).map fun k => 16 * 1 + (k + Config.freeNat migLab.free 0) % 16).findSome? fun c =>
        if coreOpen migLab c && mxFollows migLab t c then moveAll { migLab with free := migLab.free + 1 } 1 c else none) = some u := by
  refine ⟨by decide +kernel, ?_⟩
  intro t ht
  have h : ∀ k, k < 16 → (teamOf migLab 1).any (fun t => coreOpen migLab (16 + k) && mxFollows migLab t (16 + k)) = true
      ∧ hasPlace (migMoved (16 + k)) migParked.g (16 + k) 0 = true ∧ (migMoved (16 + k)).parked = [{ migParked with core := 16 + k }] := by decide +kernel
  have hk := Nat.mod_lt (0 + Config.freeNat migLab.free 0) (y := 16) (by omega)
  obtain ⟨h1, h2, h3⟩ := h _ hk
  rw [ht] at h1
  simp only [Option.any_some] at h1
  obtain ⟨u, hu⟩ := putBack_some (edit := fun _ x => x) (i := 0) (p := { migParked with core := 16 + (0 + Config.freeNat migLab.free 0) % 16 }) (by rw [h3]; rfl) h2
  have hm : moveAll { migLab with free := migLab.free + 1 } 1 (16 + (0 + Config.freeNat migLab.free 0) % 16) = some u := by
    unfold moveAll
    have hp : ({ migLab with free := migLab.free + 1 } : State).parked.filter (fun p => p.g.team == 1 && p.why == some .migrate) = [migParked] := by decide
    rw [hp]
    show ((migMoved _).parked.findIdx? fun q => q.g.uid == migParked.g.uid).bind _ = _
    rw [h3]
    exact hu
  rw [show (List.range 16).map (fun k => 16 * 1 + (k + Config.freeNat migLab.free 0) % 16)
    = (16 * 1 + (0 + Config.freeNat migLab.free 0) % 16) :: (List.range' 1 15).map (fun k => 16 * 1 + (k + Config.freeNat migLab.free 0) % 16) from rfl]
  rw [List.findSome?_cons, Nat.mul_one, if_pos h1, hm]
  exact ⟨u, rfl⟩

/-! ### The same for power, the fabric, the registers and the service -/

/-- A fabric cycle in which every flask's count passes 1,000; one in which none does. -/
def tickLab : State := { still grp with droneE := 8 * 500002, prevE := 0, sys := mput (still grp).sys (sel 3 0) 32 }
def quietLab : State := { still grp with droneE := 8, prevE := 8 }

theorem passes_of (fl p : Nat) (h1 : 0 < p) (h2 : p ≤ 500000) (h3 : 2 < p) : passes tickLab fl p = true := by
  have ha := (flaskDrone_of (s := tickLab) fl 500002 rfl).1
  have hb := (flaskDrone_of (s := { tickLab with droneE := tickLab.prevE }) fl 0 rfl).2
  have hc : flaskDrone { tickLab with droneE := tickLab.prevE } fl / p = 0 := Nat.div_eq_of_lt (by omega)
  have hd : 1 ≤ flaskDrone tickLab fl / p := (Nat.one_le_div_iff h1).mpr (by omega)
  simp only [passes, hc, bne_iff_ne, ne_eq]
  omega

theorem passes_not (fl p : Nat) : passes quietLab fl p = false := by
  have h : flaskDrone { quietLab with droneE := quietLab.prevE } fl = flaskDrone quietLab fl := rfl
  simp [passes, h]

def burstGrp : Group := { grp with burst := some { req := 5, ns := 100, hold := false, live := some 7, sig := .none } }
def burstLab (d : Nat) : State := { still burstGrp with droneE := 8 * d }
def hopLab (h : Option Hop) : State := { still grp with flasks := [(0, { hop := h })] }
/-- Port 5 is up; the first lock has been taken or not; no context is resident. -/
def syncLab (first ctx : Bool) : State :=
  { still grp with sys := mput (if ctx then (still grp).sys else []) (sel 4 5) 0x10220, firstLock := first }

theorem test_meets_PowerEvents :
    (passes tickLab (3 / 4) 1000 = true ∧ passes quietLab (3 / 4) 1000 = false ∧ passes tickLab 0 50000 = true ∧ passes quietLab 0 50000 = false)
    ∧ ((clusAt tickLab 3).piAt ≠ tickLab.fab + 1 ∧ (clusAt tickLab 3).stdAt ≠ tickLab.fab + 1 ∧ (clusAt tickLab 3).arbAt ≠ tickLab.fab + 1
      ∧ (flaskAt tickLab 0).govAt ≠ tickLab.fab + 1
      ∧ (clusAt (modClus tickLab 3 fun k => { k with piAt := 1, stdAt := 1, arbAt := 1 }) 3).arbAt = tickLab.fab + 1)
    ∧ (groupAt (burstLab 100) 0 = some burstGrp ∧ drone (burstLab 106) < 7 + 100 ∧ 7 + 100 ≤ drone (burstLab 107))
    ∧ (1 ≠ estOf tickLab 3 ∧ [(0, 1)] ≠ standUsed tickLab 3 ∧ 1 ≠ burstUsed (burstLab 107) 0 ∧ [] ≠ flaskSums tickLab 0
      ∧ true ≠ (flaskAt tickLab 0).busy)
    ∧ ((flaskAt (hopLab (some { target := 3, up := true })) 0).hop = some { target := 3, up := true }
      ∧ (flaskAt (hopLab (some { target := 3, up := false, switched := true })) 0).hop = some { target := 3, up := false, switched := true })
    ∧ (sysFld (still grp) (sel 13 0) 32 1 ≠ 1 ∧ sysFld (setSysFld (still grp) (sel 13 0) 32 1 1) (sel 13 0) 32 1 = 1)
    ∧ (sysFld (syncLab true true) (sel 4 5) 16 1 = 1 ∧ (syncLab true true).firstLock = true ∧ (syncLab false false).firstLock = false
      ∧ sysFld (syncLab false false) (sel 4 5) 16 1 = 1)
    ∧ ({ still grp with droneE := 8 * 10 ^ 9 } : State).lastSync + 8 * 10 ^ 9 ≤ ({ still grp with droneE := 8 * 10 ^ 9 } : State).droneE :=
  ⟨⟨passes_of _ _ (by decide) (by decide) (by decide), passes_not _ _, passes_of _ _ (by decide) (by decide) (by decide), passes_not _ _⟩,
    by decide, by decide, by decide, by decide, by decide, by decide, by decide⟩

theorem test_meets_first_lock :
    anyContext (setSysFld (setSysFld (setSysFld (setSysFld (syncLab false false) (sel 5 0) 48 8 5) (sel 5 0) 0 32 20000) (sel 5 0) 62 1 0)
      (sel 5 0) 61 1 0) = false ∧ (syncLab false false).ctxSeen = false := by decide +kernel

/-- Line 0x800 in REP at its home, dirty in core 0 or in the store queue of the group; a fill and an invalidation of its granule. -/
def repLine : L1Line := { asid := 1, vline := 0x800, line := 0x800, leaf := 0xF + 11 * 16 + 2 ^ 50 + 2 ^ 51, valid := 1, dirty := 1, data := 7 }
def repPa : Nat := 128 * 0x800
def repGrp : Group := { grp with storeq := [{ dst := .home 1 repPa (0xF + 11 * 16 + 2 ^ 50 + 2 ^ 51), bytes := [9], lane := 0, op := 0, word := 0 }] }
def repLab (l1 : List L1Line) : State :=
  let s := modCore (still repGrp) 0 fun c => { c with l1 := l1 }
  { modFlask s (homeFlask repPa) (fun f => { f with dir := [(granuleOf repPa, { rep := true })] }) with
    fills := [{ fl := 3, line := 0x800, data := 5 }], invs := [{ fl := 4, granule := granuleOf repPa, cores := [0] }] }
def dirtyIn (s : State) (bytes : List Byte) : Option (Nat × L1Line) :=
  ((List.range 16).map fun k => 16 * 0 + k).findSome? fun c =>
    ((coreAt s c).l1.find? fun x => x.line == keyLine repPa && dirtyAs x (repPa % 128) bytes).map fun x => (c, x)
def portLab (svc : Option DWord) : State :=
  { still grp with ports := [(2, { retrain := true, seq := 4 })], sys := mput (still grp).sys (sel 4 2) 0x10010, svc := svc }
def peerRes : Res := { id := 9, uid := 2, vregs := [5], vals := [(640, 7), (641, 8)], sig := .none, peer := [(0, 0x40000), (1, 0x40004)] }

/-- Flask 3 repartitions to one unit of L2, whose ways the quiet context 3 keeps. -/
def noWays : State :=
  setSys { still grp with flasks := [(3, { repart := some 1 })] } (sel 22 3) (BitVec.ofNat 64 (1 + 8 * 2 ^ 10))
/-- An atomic of two lanes that have each changed a byte. -/
def undoRes : Res := { peerRes with undo := [(0, pkey 0 0x40000, 7, 0), (1, pkey 0 0x40004, 8, 0)] }

/-- A store and a dirty line at a peer. -/
def peerLeaf : DWord := 0xF + 11 * 16 + 3 * 2 ^ 10 + 2 ^ 50 + 2 ^ 51
def peerEntry : StoreQ := { dst := .home 1 repPa peerLeaf, bytes := [9], lane := 0, op := 0, word := 0 }
def peerGrp : Group := { grp with storeq := [peerEntry] }
def peerLine : L1Line := { repLine with line := keyLine (leafKey peerLeaf repPa), leaf := peerLeaf }

theorem test_meets_FabricEvents :
    passes tickLab 0 (2 ^ sysFld tickLab (sel 3 0) 28 4 * 1000) = true
    ∧ (flaskAt tickLab 0).winAt ≠ tickLab.fab + 1
    ∧ (frameOk (still grp) repPa = true ∧ homeFlask repPa ≠ 1)
    ∧ (locked (repLab [repLine]) repLine.line = false ∧ locked { repLab [repLine] with subs := [keeper] } repLine.line = true
      ∧ lineFree (repLab [repLine]) 0 repLine.line = true ∧ lockedRun (portLab none) (pkey 0 0x40000) 4 = false
      ∧ sysFld (portLab none) (sel 4 2) 4 4 = 1)
    ∧ (peerStore peerGrp = some peerEntry ∧ slotOf (still peerGrp) 2 = some 0 ∧ canDrain (still peerGrp) 0 peerEntry = true
      ∧ atPeer peerLine.line = true ∧ peerLine.dirty ≠ 0 ∧ l1Find (coreAt (repLab [peerLine]) 0) 1 0x800 = some peerLine
      ∧ lineFree (repLab [peerLine]) 0 peerLine.line = true)
    ∧ ((mget (flaskAt (repLab [repLine]) (homeFlask repPa)).dir (granuleOf repPa) {}).rep = true
      ∧ dirtyIn (repLab [repLine]) [7] = some (0, repLine) ∧ dirtyIn (repLab []) [9] = none
      ∧ (repLab []).groups.find? (fun p => coreFlask (slotCore p.1) == 0 && headIs p.2 repPa [9]) = some (0, repGrp))
    ∧ ((repLab []).fills[0]? = some { fl := 3, line := 0x800, data := 5 }
      ∧ (mget? (flaskAt (repLab []) (homeFlask (128 * 0x800))).dir (granuleOf (128 * 0x800))).isSome = true)
    ∧ ((l2Place { repLab [] with fills := [] } 3 256 0x800).1.isSome = true ∧ (l2Place noWays 3 256 0x800).1 = none)
    ∧ ((repLab []).invs[0]? = some { fl := 4, granule := granuleOf repPa, cores := [0] }
      ∧ (∃ f, f ∈ (repLab []).fills ∧ granuleOf (128 * f.line) = granuleOf repPa)
      ∧ { repLab [] with fills := [] }.invs[0]? = some { fl := 4, granule := granuleOf repPa, cores := [0] })
    ∧ (l1Find (coreAt (repLab [repLine]) 0) 1 0x800 = some repLine ∧ shadowed (repLab [repLine]) 0 repLine.line = false)
    ∧ (mget (portLab none).ports 2 {}).retrain = true ∧ (portLab none).svc = none ∧ peerUp (portLab none) 2 = true
    ∧ ((mget { portLab none with ports := [] }.ports 2 {}).retrain = false ∧ peerUp { portLab none with ports := [] } 2 = true
      ∧ frameOk { portLab none with ports := [] } (pkey 0 0x40000) = true ∧ lockedRun { portLab none with ports := [] } (pkey 0 0x40000) 4 = false)
    ∧ frameOk (portLab none) (pkey 0 0x40000) = true ∧ frameOk (portLab none) (pkey 1 0x1000) = true ∧ frameOk (portLab none) (pkey 1 0x1003) = true
    ∧ (({ still grp with results := [peerRes] } : State).results.find? (fun r => r.id == 9) = some peerRes
      ∧ (1 : LaneMask) &&& ~~~ maskOf (peerRes.peer.map (·.1)) = 0)
    ∧ (({ still grp with results := [undoRes] } : State).results.find? (fun r => r.id == 9) = some undoRes
      ∧ ∀ u, u ∈ undoRes.undo → inLanes 1 u.1 = true → memByte (still grp).mem u.2.1 = u.2.2.2
        ∧ ∀ v, v ∈ undoRes.undo → v.2.1 = u.2.1 → inLanes 1 v.1 = true) := by
  refine ⟨passes_of _ _ ?_ ?_ ?_, ?_⟩ <;> decide +kernel

/-- Registers of flask 0, port 5 and context 3, and key 7 in each of its states. -/
def keyLab (st : Nat) : State := setSysFld (still grp) (sel 18 7) 0 2 st
def quietOn : DWord := BitVec.ofNat 64 (1 + 45 * 2 ^ 10)
def quietSet (x : DWord) : State := setSys (still grp) (sel 22 3) (plainWrite (sel 22 3) (sysVal (still grp) (sel 22 3)) x)

theorem test_meets_RegisterAndKeyEvents :
    (fld 13 0 4 = 13 ∧ 12 < fld 13 0 4 ∧ 1 ≤ fld 5 0 4 ∧ fld 5 0 4 ≤ 12
      ∧ sysFld (setSys (still grp) (sel 1 0) (plainWrite (sel 1 0) (sysVal (still grp) (sel 1 0)) 5)) (sel 1 0) 8 1 ≠ 1)
    ∧ (flaskAt { still grp with flasks := [(0, { repart := some 3 })] } 0).repart = some 3
    ∧ (fld 0 0 8 = 0 ∧ fld 32 0 8 ≠ 0)
    ∧ (3 ≤ fld 3 0 4 ∧ fld 2 0 4 = 2 ∧ sysFld (setSys (still grp) (sel 4 5) (plainWrite (sel 4 5) (sysVal (still grp) (sel 4 5)) 2)) (sel 4 5) 4 4 ≠ 2
      ∧ sysFld (setSys (still grp) (sel 4 5) (plainWrite (sel 4 5) (sysVal (still grp) (sel 4 5)) 0)) (sel 4 5) 4 4 = fld 0 0 4)
    ∧ (quietWays (quietSet quietOn) < quietUse (quietSet quietOn) ∧ quietUse (quietSet 0) ≤ quietWays (quietSet 0))
    ∧ ((-1 : DWord).toInt < 0 ∧ 0 ≤ (5 : DWord).toInt) ∧ selOk (sel 16 0) = true
    ∧ (sysFld (keyLab 0) (sel 18 7) 0 2 = 0 ∧ sysFld (keyLab 1) (sel 18 7) 0 2 = 1 ∧ sysFld (keyLab 2) (sel 18 7) 0 2 = 2) := by
  decide +kernel

/-- A service command of each kind under way. -/
def svcWord (kind fl idx lane : Nat) : DWord := BitVec.ofNat 64 (kind * 2 ^ 28 + fl * 2 ^ 23 + lane * 2 ^ 16 + idx * 2 ^ 8)
def svcLab (kind fl idx lane : Nat) : State := { still grp with svc := some (svcWord kind fl idx lane) }
/-- The boot has done stage `n`, stopped or not; context 1 has `n` host messages. -/
def bootLab (stage stop : Nat) (q : Nat) : State :=
  { setSysFld (setSysFld (still grp) (sel 28 0) 16 4 stage) (sel 28 0) 0 1 stop with
    boot := { linkUp := true, svn := some 5 }, ctxs := [(1, { hostq := List.replicate q [] })], staging := [(0, (0, 0))] }

/-- A boot image of version 1, there or not. -/
def imgOf (there : Bool) : BootImage := { present := there, bytes := [1], version := 1, key := [2], signature := [3], badDrags := [] }

theorem test_meets_ServiceAndHostEvents :
    (svcRuns (svcLab 1 0 3 0) 1 0 3 = true ∧ (coreAt (svcLab 1 0 3 0) 3).noAdmit = false
      ∧ (coreAt (modCore (svcLab 1 0 3 0) 3 fun k => { k with noAdmit := true }) 3).noAdmit = true
      ∧ coreEmpty (modCore (svcLab 1 0 3 0) 3 fun k => { k with noAdmit := true }) 3 = true)
    ∧ svcRuns (svcLab 2 0 3 0) 2 0 3 = true ∧ svcRuns (svcLab 3 9 3 0) 3 9 3 = true
    ∧ (svcRuns (svcLab 4 5 3 0) 4 5 3 = true ∧ (mget (svcLab 4 5 3 0).ports 5 {}).spare = false
      ∧ sysFld (svcLab 4 5 3 0) (sel 4 5) 4 4 = 0 ∧ sysFld (setSysFld (svcLab 4 5 3 0) (sel 4 5) 4 4 1) (sel 4 5) 4 4 ≠ 0)
    ∧ (svcRuns (svcLab 5 2 (64 * 1 + 16 * 3) 7) 5 2 (64 * 1 + 16 * 3) = true
      ∧ ((svcLab 5 2 (64 * 1 + 16 * 3) 7).svc.map fun v => fld v 16 6) = some 7)
    ∧ (svcLab 1 0 3 0).svcFin = false
    ∧ ((bootLab 3 0 0).boot.linkUp = true ∧ ctxResident (bootLab 3 0 0) 1 = true ∧ ctxResident (bootLab 3 0 0) 2 = false
      ∧ 32 ≤ (mget (bootLab 3 0 32).ctxs 1 {}).hostq.length ∧ (mget (bootLab 3 0 31).ctxs 1 {}).hostq.length < 32)
    ∧ (mget? (bootLab 3 0 0).staging (0x200000 / 2 ^ 21) = none ∧ mget? (bootLab 3 0 0).staging (5 / 2 ^ 21) = some (0, 0)
      ∧ stagingHeld (bootLab 3 0 0) 5 1 = false ∧ frameOk (bootLab 3 0 0) 5 = true ∧ keyLive (bootLab 3 0 0) 0 = true)
    ∧ (bootStat 16 4 (bootLab 0 0 0) = 0 ∧ bootStat 0 1 (bootLab 0 0 0) ≠ 1 ∧ bootStat 0 1 (bootLab 2 1 0) = 1 ∧ (bootLab 2 1 0).boot.recov = none)
    ∧ ((imgOf false).present = false ∧ (imgOf true).present = true ∧ (imgOf true).version.toNat < (svnOf (bootLab 3 0 0)).toNat)
    ∧ (svnOf (bootLab 3 0 0)).toNat = 5 := by
  decide +kernel

/-- One issue that IMULH names; places at the ends of the ranges. -/
theorem test_meets_ImulhHighHalf : MayIssue (lab grp) cur grp (info2 bare .s32 (.v 1) (.v 2) (.imm 3)) := may_sound (by decide)

theorem test_meets_RouterPlaces : routerOf (16 * (4 * 7 + 3) + 2 * 7 + 1) = (15, 15) ∧ routerOf 0 = (0, 0) := by decide

end Sys2Proof.Tests
end

section
/-! SUPPORT. What the registers hold right after reset (R399, R400): one rule for stored values, one for reads, then O7. -/

namespace Sys2Proof.Machine

/-- The number of a register is what its selector gives back (R399). -/
theorem sel_number (num : Nat) {inst : Nat} (h : inst < 4096) : sel num inst / 4096 = num := by
  unfold sel; omega

/-- The instance of a register is what its selector gives back (R399). -/
theorem sel_instance (num : Nat) {inst : Nat} (h : inst < 4096) : sel num inst % 4096 = inst := by
  unfold sel; omega

/-- No write has changed a register at reset: each holds the value of its table. -/
theorem sysVal_reset (x : Nat) : sysVal State.reset x = sysReset x := rfl

/-- All instances of a register other than KEYTAB (number 18) reset to one value. -/
theorem sysVal_reset_sel (num : Nat) {inst : Nat} (h : inst < 4096) (hk : num ≠ 18) :
    sysVal State.reset (sel num inst) = sysReset (sel num 0) := by
  rw [sysVal_reset]
  simp only [sysReset, sel_number num h, sel_number num (Nat.zero_lt_succ 4095)]
  split
  case h_17 => exact absurd rfl hk
  all_goals rfl

theorem sysFld_reset_sel (num : Nat) {inst : Nat} (lo n : Nat) (h : inst < 4096) (hk : num ≠ 18) :
    sysFld State.reset (sel num inst) lo n = fld (sysReset (sel num 0)) lo n := by
  rw [sysFld, sysVal_reset_sel num h hk]

/-- KEYTAB (R82): key 0 alone is live at reset. -/
theorem sysVal_reset_keytab {id : Nat} (h : id < 4096) :
    sysVal State.reset (sel 18 id) = if id = 0 then 1 else 0 := by
  rw [sysVal_reset]
  simp only [sysReset, sel_number 18 h, sel_instance 18 h]

/-- SLICECFG has no field that follows other state: a read gives what is stored (R400). -/
theorem sysRead_slicecfg (s : State) {fl : Nat} (h : fl < 4096) : sysRead s (sel 1 fl) = sysVal s (sel 1 fl) := by
  simp only [sysRead, sel_number 1 h]

/-- A read of HASHMASK puts into bit 63 whether the stored masks are other than the masks in force (R28). -/
theorem sysRead_hashmask (s : State) {fl : Nat} (h : fl < 4096) :
    sysRead s (sel 2 fl) = setFld (sysVal s (sel 2 fl)) 63 1
      (if (sysVal s (sel 2 fl)).setWidth 48 == (flaskAt s fl).masks then 0 else 1) := by
  simp only [sysRead, sel_number 2 h, sel_instance 2 h]

/-- The bit of HASHMASK that says whether other masks wait for a reset is 0 at reset: the masks in force are the stored ones (R28). -/
theorem sysRead_reset_hashmask {fl : Nat} (h : fl < 4096) : sysRead State.reset (sel 2 fl) = 0x888444222111 := by
  have inForce : (flaskAt State.reset fl).masks = 0x888444222111 := rfl
  rw [sysRead_hashmask _ h, sysVal_reset_sel 2 h (by decide), inForce]
  decide

theorem sysFld_reset_keytab {id : Nat} (h : id < 4096) :
    sysFld State.reset (sel 18 id) 0 2 = if id = 0 then 1 else 0 := by
  rw [sysFld, sysVal_reset_keytab h]
  split
  · decide
  · decide

/-- The registers of a flask at reset (R11, R28, R35, R58, R63, R120, R146). -/
theorem reset_flask_registers {fl : Nat} (hfl : fl < 32) :
    sysRead State.reset (sel 1 fl) = 0x4004 ∧ sysRead State.reset (sel 2 fl) = 0x888444222111 ∧
    sysFld State.reset (sel 3 fl) 0 8 = 32 ∧ sysFld State.reset (sel 13 fl) 0 4 = 15 ∧
    sysVal State.reset (sel 14 fl) = 65536 ∧ sysVal State.reset (sel 16 fl) = 1048576 ∧
    sysFld State.reset (sel 15 fl) 0 32 = 2048 := by
  have h : fl < 4096 := by omega
  rw [sysRead_slicecfg _ h, sysRead_reset_hashmask h, sysVal_reset_sel 1 h (by decide),
    sysVal_reset_sel 14 h (by decide), sysVal_reset_sel 16 h (by decide), sysFld_reset_sel 3 _ _ h (by decide),
    sysFld_reset_sel 13 _ _ h (by decide), sysFld_reset_sel 15 _ _ h (by decide)]
  decide

/-- The registers of a power cluster at reset (R44, R46). -/
theorem reset_cluster_registers {c : Nat} (hc : c < 128) :
    sysVal State.reset (sel 6 c) = 52500 ∧ sysFld State.reset (sel 9 c) 32 16 = 52500 ∧
    sysFld State.reset (sel 9 c) 0 10 = 48 := by
  have h : c < 4096 := by omega
  rw [sysVal_reset_sel 6 h (by decide), sysFld_reset_sel 9 _ _ h (by decide), sysFld_reset_sel 9 _ _ h (by decide)]
  decide

/-- FLUECTL of every port at reset (R38). -/
theorem reset_fluectl {p : Nat} (hp : p < 12) : sysVal State.reset (sel 4 p) = 0xF00 := by
  rw [sysVal_reset_sel 4 (by omega) (by decide)]
  decide

/-- VENDOR and PART stand above the assembly field (R4), which stays below 256 and so carries nothing into them. -/
theorem vendor_part_of_assembly {ident : DWord} {assy : Nat} (h : assy < 256)
    (hi : ident = BitVec.ofNat 64 (0x4B4D * 2 ^ 48 + 0x3251 * 2 ^ 32 + 1 * 2 ^ 28 + assy * 2 ^ 16 + 32 * 2 ^ 8)) :
    fld ident 48 16 = 0x4B4D ∧ fld ident 32 16 = 0x3251 := by
  rw [hi, fld, fld, BitVec.toNat_ofNat]
  constructor
  · omega
  · omega

/-- VENDOR and PART of DEVIDENT at reset (R4), whatever the fuses say. -/
theorem reset_devident :
    fld (sysVal State.reset (sel 0 0)) 48 16 = 0x4B4D ∧ fld (sysVal State.reset (sel 0 0)) 32 16 = 0x3251 := by
  have hval : sysVal State.reset (sel 0 0) = devident := sysVal_reset _
  have hassy : Config.assyFuse % 255 + 1 < 256 := Nat.succ_lt_succ (Nat.mod_lt _ (by decide))
  rw [hval]
  exact vendor_part_of_assembly hassy rfl

/-- Settles O7: each register holds its table's value in every instance, and the state lists nothing. -/
theorem resetRegisters : Obligations.ResetRegisters := by
  unfold Obligations.ResetRegisters
  refine ⟨fun _ hfl => reset_flask_registers hfl, fun _ hc => reset_cluster_registers hc, fun _ hp => reset_fluectl hp,
    fun _ hid => sysFld_reset_keytab hid, reset_devident.1, reset_devident.2, ?_⟩
  exact ⟨rfl, rfl, reset_mem_wf, rfl, rfl, rfl, rfl, rfl⟩

end Sys2Proof.Machine
end

section
/-! SUPPORT. System instructions where their stream may issue: what each does, case by case (R12, R13, R168, R399 to R403), then O49. -/

namespace Sys2Proof.Machine

open Host

/-! ### Pages and address ranges (R165, R168) -/

/-- No page is larger than 16 GiB (R165). -/
theorem pageBits_le_34 : ∀ code, code ≤ 11 → (pageBits code).getD 56 ≤ 34 := by decide

/-- Among the sizes that exist, only code 15, whose address is 0, names the whole address space of a context (R403). -/
theorem whole_range_iff_size_15 {size : BitVec 4} {va : DWord} (hsize : size.toNat ≤ 11 ∨ size = 15) (hva : size = 15 → va = 0) :
    (va.toNat % 2 ^ 56 + 2 ^ (pageBits size.toNat).getD 56 = 2 ^ 56 ∧ va.toNat % 2 ^ 56 = 0) ↔ size = 15 := by
  constructor
  · rintro ⟨hhi, hlo⟩
    rcases hsize with hle | h15
    · have hpow : 2 ^ (pageBits size.toNat).getD 56 ≤ 2 ^ 34 := Nat.pow_le_pow_right (by decide) (pageBits_le_34 _ hle)
      omega
    · exact h15
  · intro h15
    rw [hva h15, h15]
    decide

/-! ### SLCFG (R13, R402) -/

/-- While a flask repartitions, SLCFG waits for the end of it (R402). -/
theorem applySlicecfg_busy {s : State} {fl : Nat} (hbusy : sysFld s (sel 1 fl) 8 1 = 1) (sg : Sig) :
    applySlicecfg s fl sg = wait s (.slcfg fl) sg := by
  simp only [applySlicecfg, hbusy, if_true]

/-- A partition that stands is complete at once (R402). -/
theorem applySlicecfg_stands {s : State} {fl : Nat} (hidle : sysFld s (sel 1 fl) 8 1 ≠ 1) (hn : sysFld s (sel 1 fl) 0 4 = curL2 s fl)
    (sg : Sig) : applySlicecfg s fl sg = fall s sg := by
  simp only [applySlicecfg, hidle, hn, if_true, if_false]

/-- Another partition starts a repartition: BUSY is 1, L2 is limited, and the flag waits for the end (R13, R402). -/
theorem applySlicecfg_starts {s : State} {fl : Nat} (hidle : sysFld s (sel 1 fl) 8 1 ≠ 1) (hn : sysFld s (sel 1 fl) 0 4 ≠ curL2 s fl)
    (sg : Sig) : applySlicecfg s fl sg =
      wait (modFlask (limitL2 (cutFor (setSysFld s (sel 1 fl) 8 1 1) fl (sysFld s (sel 1 fl) 0 4)) fl (sysFld s (sel 1 fl) 0 4)) fl
        fun f => { f with repart := some (sysFld s (sel 1 fl) 0 4) }) (.notBusy fl) sg := by
  simp only [applySlicecfg, hidle, hn, if_false]

/-! ### TLBINV (R168, R241, R403) -/

/-- Once its entries, lines and stores are gone, and the slots of a range that is the `whole` address space of a context no longer
resident, TLBINV is complete where no sub-block runs under a dropped entry and no line or store is held back; otherwise it waits
(R241, R403). -/
theorem invalidate'_eq {s w v : State} {ctx lo hi : Nat} {ids : List Nat} {sg : Sig} {whole : Prop} [Decidable whole]
    (hwhole : (hi = 2 ^ 56 ∧ lo = 0) ↔ whole) (hw : w = flushPages (dropEntries s ctx lo hi) ctx lo hi)
    (hv : v = if whole ∧ ctxResident w ctx = false then dropFit w ctx else w) (hids : ids = coveredSubs v ctx lo hi) :
    invalidate' s ctx lo hi sg =
      if ids = [] ∧ pagesHeld v ctx lo hi = false then fall v sg else wait v (.subs ctx lo hi ids) sg := by
  have hteardown : (if (hi = 2 ^ 56 && lo = 0 && !ctxResident w ctx) = true then dropFit w ctx else w) = v := by
    rw [hv]
    simp only [Bool.and_eq_true, decide_eq_true_eq, Bool.not_eq_true', hwhole]
  rw [invalidate', ← hw, hteardown, ← hids]
  cases ids with
  | nil => cases pagesHeld v ctx lo hi <;> rfl
  | cons id rest => rfl

/-! ### The instructions as they issue -/

section
variable {s : State} {c : Cur} {x : Group} {h : Hdr} {e : Env} {post pre : State}
  (hg : Goes s c x (sysInfo h) (nextWord (sysInfo h)) e post) (ha : e.act ≠ 0) (hp : pre = { s with free := s.free + 1 })
include hg ha hp

/-- SYSRD (R399, R400). -/
theorem exec_sysrd_goes (d sa : BitVec 6) : exec (.sysrd h d sa) s = .next (
    if 2 ^ 17 ≤ (e.s sa.toNat).toNat ∨ selOk (e.s sa.toNat).toNat = false then trapReserved pre e.elect
    else varResult post e h [] [] (some (d.toNat, sysRead post (e.s sa.toNat).toNat)) 0 false) := by
  rw [exec_sysrd, execSysrd, goes_once hg ha hp]
  simp only [Bool.or_eq_true, decide_eq_true_eq, Bool.not_eq_true']

/-- SYSWR (R399, R401). -/
theorem exec_syswr_goes (sa sb : BitVec 6) : exec (.syswr h sa sb) s = .next (
    if 2 ^ 17 ≤ (e.s sa.toNat).toNat ∨ selOk (e.s sa.toNat).toNat = false then trapReserved pre e.elect
    else afterRelease e pre post .dev fun u => atOnce (regWrite u e.core (e.s sa.toNat).toNat (e.s sb.toNat)) e h) := by
  rw [exec_syswr, execSyswr, goes_once hg ha hp]
  simp only [Bool.or_eq_true, decide_eq_true_eq, Bool.not_eq_true']

/-- SLCFG (R402). -/
theorem exec_slcfg_goes (a : SImm) : exec (.slcfg h a) s = .next (
    if 32 ≤ (e.simm a).toNat then trapReserved pre e.elect
    else if drained (drainAll post c.g) c.g = true then applySlicecfg (drainAll post c.g) (e.simm a).toNat (sigOf x.uid h.set)
    else pre) := by
  obtain ⟨hslot, -, huid, -⟩ := env_facts hg
  rw [exec_slcfg, execSlcfg, goes_once hg ha hp]
  simp only [Env.num64, afterDrain, hslot, huid]

/-- TLBINV (R403). -/
theorem exec_tlbinv_goes (ctx : SImm) (sa : BitVec 6) (size : BitVec 4) {k bits lo : Nat} {va : DWord} (hk : k = (e.simm ctx).toNat)
    (hva : va = e.s sa.toNat) (hbits : bits = (pageBits size.toNat).getD 56) (hlo : lo = va.toNat % 2 ^ 56) :
    exec (.tlbinv h ctx sa size) s = .next (
      if k < 256 ∧ (size.toNat ≤ 11 ∨ size = 15) ∧ (size = 15 → va = 0) then
        if size ≠ 15 ∧ va.toNat % 2 ^ bits ≠ 0 then takeTrap pre c.g { code := 0x05, lanes := e.elect, addr := va } c.pc
        else afterRelease e pre post .dev fun u => invalidate' u k lo (lo + 2 ^ bits) (sigOf x.uid h.set)
      else trapReserved pre e.elect) := by
  obtain ⟨-, -, huid, -⟩ := env_facts hg
  have hrefused : (256 ≤ k || (11 < size.toNat && size != 15) || (size == 15 && va != 0)) = true ↔
      ¬ (k < 256 ∧ (size.toNat ≤ 11 ∨ size = 15) ∧ (size = 15 → va = 0)) := by
    simp only [Bool.or_eq_true, Bool.and_eq_true, decide_eq_true_eq, bne_iff_ne, beq_iff_eq, ne_eq, Classical.not_and_iff_not_or_not,
      not_or, Classical.not_imp, Nat.not_lt, Nat.not_le, or_assoc]
  have hodd : ∀ n, (size != 15 && va.toNat % 2 ^ n != 0) = true ↔ size ≠ 15 ∧ va.toNat % 2 ^ n ≠ 0 := by
    simp only [Bool.and_eq_true, bne_iff_ne, implies_true]
  rw [exec_tlbinv, execTlbinv, goes_once hg ha hp, hbits]
  simp only [Env.num64, ← hk, ← hva, ← hlo, huid, hrefused, hodd, trapAt_eq hg hp, ite_not]
  cases pageBits size.toNat <;> rfl

end

/-- Settles O49: each instruction issues once, and its effect is the case of its operands. -/
theorem systemResults : Obligations.SystemResults := by
  unfold Obligations.SystemResults
  intro s c x h e post pre hg ha hp
  obtain ⟨hslot, -⟩ := env_facts hg
  refine ⟨?sysrdSyswr, ?slcfg, ?tlbinv⟩
  case sysrdSyswr =>
    rintro d sa sb k rfl
    refine ⟨?noRegister, fun hk hok => ?register⟩
    case noRegister =>
      rintro hbad i (rfl | rfl)
      · rw [exec_sysrd_goes hg ha hp, if_pos hbad]
      · rw [exec_syswr_goes hg ha hp, if_pos hbad]
    case register =>
      have hgood : ¬ (2 ^ 17 ≤ (e.s sa.toNat).toNat ∨ selOk (e.s sa.toNat).toNat = false) :=
        not_or.mpr ⟨Nat.not_le_of_lt hk, by rw [hok]; decide⟩
      rw [exec_sysrd_goes hg ha hp, exec_syswr_goes hg ha hp, if_neg hgood, if_neg hgood, ← hslot]
      exact ⟨rfl, fun u hu => by rw [afterRelease_done hu], fun hr => by rw [afterRelease_waits hr]⟩
  case slcfg =>
    rintro a fl n p rfl rfl rfl
    rw [exec_slcfg_goes hg ha hp]
    refine ⟨fun hfl => by rw [if_pos hfl], fun hfl hd => ?undrained, fun hfl hd hbusy => ?busy, fun hfl hd hidle => ?idle⟩
    case undrained => rw [if_neg (Nat.not_le_of_lt hfl), hd, if_neg Bool.false_ne_true]
    case busy => rw [if_neg (Nat.not_le_of_lt hfl), if_pos hd, applySlicecfg_busy hbusy, wait]
    case idle =>
      rw [if_neg (Nat.not_le_of_lt hfl), if_pos hd]
      exact ⟨fun hn => by rw [applySlicecfg_stands hidle hn], fun hn => ⟨_, _, rfl, rfl, by rw [applySlicecfg_starts hidle hn, wait]⟩⟩
  case tlbinv =>
    rintro ctx sa size k bits lo va legal hk hva hbits hlo hlegal
    rw [exec_tlbinv_goes hg ha hp ctx sa size hk hva hbits hlo]
    refine ⟨fun hl => by rw [if_neg ((not_congr hlegal).mp hl)], fun hl h15 hodd => by rw [if_pos (hlegal.mp hl), if_pos ⟨h15, hodd⟩], ?page⟩
    case page =>
      rintro u w v ids hl hpage hu hw hv hids
      obtain ⟨-, hsize, hzero⟩ := hlegal.mp hl
      have heven : ¬ (size ≠ 15 ∧ va.toNat % 2 ^ bits ≠ 0) := by
        rcases hpage with h15 | hmod
        · exact fun hne => hne.1 h15
        · exact fun hne => hne.2 hmod
      rw [← hslot] at hu
      have hwhole : (lo + 2 ^ bits = 2 ^ 56 ∧ lo = 0) ↔ size = 15 := by
        rw [hlo, hbits]
        exact whole_range_iff_size_15 hsize hzero
      rw [if_pos (hlegal.mp hl), if_neg heven, afterRelease_done hu, invalidate'_eq hwhole hw hv hids, wait]

end Sys2Proof.Machine
end

section
/-! SUPPORT. Writes of the registers with rules of their own (R12, R28, R35, R38, R57, R131), the end of a repartition (R13) and the
life of a key (R82, R83), case by case, then O57. -/

namespace Sys2Proof.Machine

open Host

/-! ### The registers of a flask, a port and a context -/

/-- L2UNITS that does not exist, or one while a flask repartitions, is refused (R12). -/
theorem writeSlicecfg_refused {s t : State} {fl : Nat} {x : DWord} (ht : t = setSys s (sel 1 fl) (plainWrite (sel 1 fl) (sysVal s (sel 1 fl)) x))
    (hbad : fld x 0 4 = 0 ∨ 12 < fld x 0 4 ∨ sysFld t (sel 1 fl) 8 1 = 1) : writeSlicecfg s fl x = setSysFld t (sel 1 fl) 9 1 1 := by
  rw [writeSlicecfg, ← ht]
  exact if_pos (by simpa only [Bool.or_eq_true, decide_eq_true_eq, or_assoc] using hbad)

/-- L2UNITS from 1 to 12 is taken while the flask does not repartition (R12). -/
theorem writeSlicecfg_taken {s t : State} {fl : Nat} {x : DWord} (ht : t = setSys s (sel 1 fl) (plainWrite (sel 1 fl) (sysVal s (sel 1 fl)) x))
    (hlo : 1 ≤ fld x 0 4) (hhi : fld x 0 4 ≤ 12) (hidle : sysFld t (sel 1 fl) 8 1 ≠ 1) :
    writeSlicecfg s fl x = setSysFld t (sel 1 fl) 0 4 (fld x 0 4) := by
  rw [writeSlicecfg, ← ht]
  refine if_neg ?_
  simp only [Bool.or_eq_true, decide_eq_true_eq]
  omega

/-- HASHMASK has no rule of its own: the write is plain (R28, R401). -/
theorem regWrite_hashmask (s : State) (core : Nat) {fl : Nat} (h : fl < 4096) (x : DWord) :
    regWrite s core (sel 2 fl) x = setSys s (sel 2 fl) (plainWrite (sel 2 fl) (sysVal s (sel 2 fl)) x) := by
  simp only [regWrite, sel_number 2 h]

/-- A threshold other than 0 is a plain write (R35). -/
theorem writeRthresh_plain {s : State} {core fl : Nat} {x : DWord} (hx : fld x 0 8 ≠ 0) :
    writeRthresh s core fl x = setSys s (sel 3 fl) (plainWrite (sel 3 fl) (sysVal s (sel 3 fl)) x) :=
  if_pos (bne_iff_ne.mpr hx)

/-- A threshold of 0 returns the replicated granules to one owner (R35). -/
theorem writeRthresh_zero {s t : State} {core fl : Nat} {x : DWord} (ht : t = setSys s (sel 3 fl) (plainWrite (sel 3 fl) (sysVal s (sel 3 fl)) x))
    (hx : fld x 0 8 = 0) :
    writeRthresh s core fl x = ((flaskAt t fl).dir.filter fun p => p.2.rep).foldl (fun u p => toMs u p.1 p.2 none core p.2.w) t := by
  rw [ht]
  exact if_neg (by rw [hx]; decide)

/-- A mode that a port has not is refused (R38). -/
theorem writeFluectl_refused {s t : State} {port : Nat} {x : DWord} (ht : t = setSys s (sel 4 port) (plainWrite (sel 4 port) (sysVal s (sel 4 port)) x))
    (hbad : 3 ≤ fld x 0 4 ∨ (fld x 0 4 = 2 ∧ port ≠ 5 ∧ port ≠ 11)) : writeFluectl s port x = setSysFld t (sel 4 port) 17 1 1 := by
  rw [writeFluectl, ← ht]
  exact if_pos (by simpa only [Bool.or_eq_true, Bool.and_eq_true, decide_eq_true_eq, bne_iff_ne, and_assoc] using hbad)

/-- A mode that a port has: the present one leaves the link, another drops it and the port trains anew (R38). -/
theorem writeFluectl_taken {s t : State} {port : Nat} {x : DWord} (ht : t = setSys s (sel 4 port) (plainWrite (sel 4 port) (sysVal s (sel 4 port)) x))
    (hm : fld x 0 4 < 3) (hhost : fld x 0 4 = 2 → port = 5 ∨ port = 11) :
    writeFluectl s port x =
      if fld x 0 4 = sysFld t (sel 4 port) 4 4 then setSysFld t (sel 4 port) 0 4 (fld x 0 4)
      else
        let u := setSysFld (setSysFld (setSysFld t (sel 4 port) 0 4 (fld x 0 4)) (sel 4 port) 4 4 (fld x 0 4)) (sel 4 port) 16 1 0
        { u with ports := mmod u.ports port {} fun (p : Port) => { p with retrain := fld x 0 4 != 0 } } := by
  rw [writeFluectl, ← ht]
  refine if_neg ?_
  simp only [Bool.or_eq_true, Bool.and_eq_true, decide_eq_true_eq, bne_iff_ne]
  omega

/-- A quota below zero is charged against, and OVER stays (R57). -/
theorem writeQuota_negative {s : State} {ctx : Nat} {x : DWord} (hx : x.toInt < 0) : writeQuota s ctx x = setCount s ctx x.toInt :=
  if_pos hx

/-- A quota of zero or above ends OVER, and the stops that it caused are withdrawn (R57). -/
theorem writeQuota_nonneg {s : State} {ctx : Nat} {x : DWord} (hx : 0 ≤ x.toInt) :
    writeQuota s ctx x = dropParks (setSysFld (setCount s ctx x.toInt) (sel 11 ctx) 1 1 0) (fun y => y.ctx == ctx) .quota :=
  if_neg (Int.not_lt.mpr hx)

/-! ### The events of a unit that exists: each is the write of its register -/

theorem exec_slicecfgWrite_next {fl : Nat} (h : fl < 32) (x : DWord) (s : State) :
    exec (.slicecfgWrite fl x) s = .next (writeSlicecfg s fl x) := by
  rw [exec_slicecfgWrite, execSlicecfgWrite, if_neg (Nat.not_le_of_lt h)]

theorem exec_hashmaskWrite_next {fl : Nat} (h : fl < 32) (x : DWord) (s : State) :
    exec (.hashmaskWrite fl x) s = .next (regWrite s 512 (sel 2 fl) x) := by
  rw [exec_hashmaskWrite, execHashmaskWrite, if_neg (Nat.not_le_of_lt h)]

theorem exec_rthreshWrite_next {fl : Nat} (h : fl < 32) (x : DWord) (s : State) :
    exec (.rthreshWrite fl x) s = .next (writeRthresh s 512 fl x) := by
  rw [exec_rthreshWrite, execRthreshWrite, if_neg (Nat.not_le_of_lt h)]

theorem exec_fluectlModeWrite_next {port : Nat} (h : port < 12) (x : DWord) (s : State) :
    exec (.fluectlModeWrite port x) s = .next (writeFluectl s port x) := by
  rw [exec_fluectlModeWrite, execFluectlModeWrite, if_neg (Nat.not_le_of_lt h)]

theorem exec_quietctlWrite_next {ctx : Nat} (h : ctx < 256) (x : DWord) (s : State) :
    exec (.quietctlWrite ctx x) s = .next (writeQuietctl s ctx x) := by
  rw [exec_quietctlWrite, execQuietctlWrite, if_neg (Nat.not_le_of_lt h)]

theorem exec_quotaWrite_next {ctx : Nat} (h : ctx < 256) (x : DWord) (s : State) :
    exec (.quotaWrite ctx x) s = .next (writeQuota s ctx x) := by
  rw [exec_quotaWrite, execQuotaWrite, if_neg (Nat.not_le_of_lt h)]

theorem exec_registerWrite_next {k : BitVec 17} (h : selOk k.toNat = true) (x : DWord) (s : State) :
    exec (.registerWrite k x) s = .next (regWrite s 512 k.toNat x) := by
  rw [exec_registerWrite, execRegisterWrite, h]
  rfl

/-- The end of a repartition: the units that change hands are zeroed, CURL2 and BUSY follow, quiet partitions are cut, the flags of
the SLCFG that started it fall, and each SLCFG that waits applies L2UNITS (R13). -/
theorem exec_repartitionDone_next {s u v w : State} {fl n : Nat} (h : fl < 32) (hn : (flaskAt s fl).repart = some n)
    (hu : u = zeroUnits s fl (min n (curL2 s fl)) (max n (curL2 s fl)) (decide (n < curL2 s fl)))
    (hv : v = fallFor (cutQuiet (modFlask (setSysFld (setSysFld u (sel 1 fl) 12 4 n) (sel 1 fl) 8 1 0) fl fun f => { f with repart := none })) (.notBusy fl))
    (hw : w = { v with waiters := v.waiters.filter fun x => x.what != .slcfg fl }) :
    exec (.repartitionDone fl) s = .next ((v.waiters.filter fun x => x.what == .slcfg fl).foldl (fun s x => applySlicecfg s fl x.sig) w) := by
  rw [exec_repartitionDone, execRepartitionDone, if_neg (Nat.not_le_of_lt h), hn, hw, hv, hu]

/-! ### Keys (R82, R83) -/

section
variable {id : Nat} (hid : id < 4096) (s : State)
include hid

theorem exec_keyIssue_next : exec (.keyIssue id) s = .next (if sysFld s (sel 18 id) 0 2 = 0 then
    setSysFld (setSysFld s (sel 18 id) 16 8 (sysFld s (sel 18 id) 16 8 + 1)) (sel 18 id) 0 2 1 else s) := by
  rw [exec_keyIssue, execKeyIssue, if_neg (Nat.not_le_of_lt hid), issueKey]
  simp only [bne_iff_ne, ite_not]

theorem exec_keyRetire_next : exec (.keyRetire id) s = .next (
    if id = 0 ∨ sysFld s (sel 18 id) 0 2 ≠ 1 then s else setSysFld s (sel 18 id) 0 2 2) := by
  rw [exec_keyRetire, execKeyRetire, if_neg (Nat.not_le_of_lt hid), retireKey]
  simp only [Bool.or_eq_true, decide_eq_true_eq, bne_iff_ne]

theorem exec_keyRetireDone_next (hretiring : sysFld s (sel 18 id) 0 2 = 2) :
    exec (.keyRetireDone id) s = .next (setSysFld (sweepKey s id) (sel 18 id) 0 2 0) := by
  rw [exec_keyRetireDone, execKeyRetireDone, if_neg (Nat.not_le_of_lt hid), hretiring]
  rfl

end

/-- Settles O57: each event is the write of its register, and each write the case of its value. -/
theorem registerAndKeyEvents : Obligations.RegisterAndKeyEvents := by
  unfold Obligations.RegisterAndKeyEvents
  intro s
  refine ⟨?slicecfg, ?repartition, ?hashmask, ?rthresh, ?fluectl, ?quietctl, ?quota, ?register, ?keys⟩
  case slicecfg =>
    intro fl x t hfl ht
    rw [exec_slicecfgWrite_next hfl]
    exact ⟨fun hbad => by rw [writeSlicecfg_refused ht hbad], fun hlo hhi hidle => by rw [writeSlicecfg_taken ht hlo hhi hidle]⟩
  case repartition => exact fun fl n u v w hfl hn hu hv hw => exec_repartitionDone_next hfl hn hu hv hw
  case hashmask =>
    intro fl x hfl
    rw [exec_hashmaskWrite_next hfl, regWrite_hashmask s 512 (by omega)]
  case rthresh =>
    intro fl x t hfl ht
    rw [exec_rthreshWrite_next hfl]
    exact ⟨fun hx => by rw [writeRthresh_plain hx, ht], fun hx => by rw [writeRthresh_zero ht hx]⟩
  case fluectl =>
    rintro port x t m hport ht rfl
    rw [exec_fluectlModeWrite_next hport]
    refine ⟨fun hbad => by rw [writeFluectl_refused ht hbad], fun hm hhost hsame => ?same, fun hm hhost hother => ?other⟩
    case same => rw [writeFluectl_taken ht hm hhost, if_pos hsame]
    case other => exact ⟨_, rfl, by rw [writeFluectl_taken ht hm hhost, if_neg hother]⟩
  case quietctl =>
    rintro ctx x t hctx rfl
    rw [exec_quietctlWrite_next hctx, writeQuietctl]
    exact ⟨fun hmany => by rw [if_pos hmany], fun hfits => by rw [if_neg (Nat.not_lt_of_le hfits)]⟩
  case quota =>
    intro ctx x hctx
    rw [exec_quotaWrite_next hctx]
    exact ⟨fun hneg => by rw [writeQuota_negative hneg], fun hpos => by rw [writeQuota_nonneg hpos]⟩
  case register => exact fun k x hk => exec_registerWrite_next hk x s
  case keys =>
    intro id hid
    rw [exec_keyIssue_next hid, exec_keyRetire_next hid]
    refine ⟨fun hfree => by rw [if_pos hfree], fun hused => by rw [if_neg hused], fun hne hlive => ?retired, fun hkept => by rw [if_pos hkept],
      exec_keyRetireDone_next hid s⟩
    case retired =>
      have hmay : ¬ (id = 0 ∨ sysFld s (sel 18 id) 0 2 ≠ 1) := not_or.mpr ⟨hne, not_not_intro hlive⟩
      rw [if_neg hmay]

end Sys2Proof.Machine
end

section
/-! SUPPORT. The mesh of the module (R21): where a router stands, and that the core's flask and router number can be read off it, then O60. -/

namespace Sys2Proof.Machine

/-- The router of a core of the flask at row `y` and column `x` (R21). -/
theorem routerOf_flask_router {x k i : Nat} (y : Nat) (hx : x < 4) (hk : k < 8) (hi : i < 2) :
    routerOf (16 * (4 * y + x) + 2 * k + i) = (4 * x + (k &&& 3), 2 * y + (k >>> 2)) := by
  have hand : k &&& 3 = k % 4 := Nat.and_two_pow_sub_one_eq_mod k 2
  have hshift : k >>> 2 = k / 4 := Nat.shiftRight_eq_div_pow k 2
  have hflask : (16 * (4 * y + x) + 2 * k + i) / 16 = 4 * y + x := by omega
  have hrouter : (16 * (4 * y + x) + 2 * k + i) % 16 / 2 = k := by omega
  rw [routerOf, hflask, hrouter, hand, hshift, Prod.mk.injEq]
  omega

/-- A place of the mesh has one router, and so two cores: column and row give the flask and the router's number (R21). -/
theorem routerOf_eq_iff {c d : Nat} : routerOf c = routerOf d ↔ c / 2 = d / 2 := by
  rw [routerOf, routerOf, Prod.mk.injEq]
  omega

/-- Settles O60: the place of a router spelled out, and each place that of one router. -/
theorem routerPlaces : Obligations.RouterPlaces := by
  unfold Obligations.RouterPlaces
  refine ⟨fun x y k i hx _ hk hi => routerOf_flask_router y hx hk hi, fun X Y hX hY => ?_⟩
  have hplace : routerOf (16 * (4 * (Y / 2) + X / 4) + 2 * (4 * (Y % 2) + X % 4)) = (X, Y) := by
    rw [routerOf, Prod.mk.injEq]
    omega
  refine ⟨_, ?_, hplace, fun d _ hd => routerOf_eq_iff.mp (hd.trans hplace.symm)⟩
  omega

end Sys2Proof.Machine
end

section
/-! SUPPORT. The barrier (R304), time (R39, R309, R310) and notes (R108, R311): what each instruction does where its stream issues, then
O44. -/

namespace Sys2Proof.Machine

open Host

/-! ### A release that has to find room as well -/

/-- A release touches no flask (R191). -/
theorem ReleasedTo.flasks {pre post u : State} {g : Nat} {sc : Scope} (h : ReleasedTo pre post g sc u) :
    (release pre g sc).2.flasks = u.flasks := by
  obtain ⟨v, x, y, w, hv, -, -, -, rfl⟩ := h
  rw [hv]
  rfl

/-- Where there is room after a complete release, the instruction goes on (R191, R311). -/
theorem afterReleaseWhen_done {e : Env} {pre post u : State} {sc : Scope} {room : State → Bool} (h : ReleasedTo pre post e.g sc u)
    (hroom : room (release pre e.g sc).2 = true) (k : State → State) : afterReleaseWhen e pre post sc room k = k u := by
  obtain ⟨v, x, y, w, hv, hx, hy, hw, rfl⟩ := h
  rw [hv] at hroom
  simp only [afterReleaseWhen, hv, hx, hy, hw, hroom, Bool.and_self, Bool.not_true, Bool.false_eq_true, if_false]

/-- Where there is none, the instruction waits with its release done (R311). -/
theorem afterReleaseWhen_full {e : Env} {pre post v : State} {sc : Scope} {room : State → Bool} (h : release pre e.g sc = (true, v))
    (hroom : room v = false) (k : State → State) : afterReleaseWhen e pre post sc room k = v := by
  simp only [afterReleaseWhen, h, hroom, Bool.and_false, Bool.not_false, if_true]
  split <;> rfl

/-! ### The barrier of a team (R304) -/

section
variable {u : State} {uid : Nat} {t : Team} {gs : List (Nat × Group)} (ht : teamOf u uid = some t)
  (hgs : gs = u.groups.filter fun p => p.2.team == uid && !p.2.done)
include ht hgs

/-- While a group of the team stands elsewhere, or is saved, the barrier waits. -/
theorem barStep_waits (hwait : gs.length ≠ t.left ∨ ∃ p, p ∈ gs ∧ atBar p.2 = false) : barStep u uid = u := by
  have habsent : (gs.length != t.left || !gs.all fun p => atBar p.2) = true := by
    simpa only [Bool.or_eq_true, bne_iff_ne, Bool.not_eq_true', List.all_eq_false, Bool.not_eq_true] using hwait
  simp only [barStep, ht, ← hgs]
  rw [Bool.or_assoc, habsent, Bool.or_true, if_pos rfl]

/-- With every group of the team at it, the barrier completes: each acquires at the scope of its own BAR and goes on. -/
theorem barStep_completes (hne : gs ≠ []) (hall : gs.length = t.left) (hbar : ∀ p, p ∈ gs → atBar p.2 = true) :
    barStep u uid = gs.foldl (fun v p => modGroup (p.2.paths.foldl (fun v q => match q.wait with
      | .bar sc => acquire v (slotCore p.1) sc
      | _ => v) v) p.1 leaveBar) u := by
  have hthere : ¬ (gs.isEmpty || gs.length != t.left || !gs.all fun p => atBar p.2) = true := by
    simpa only [Bool.or_eq_true, List.isEmpty_iff, bne_iff_ne, Bool.not_eq_true', List.all_eq_false, Bool.not_eq_true, not_or, not_exists, not_and,
      Bool.not_eq_false, ne_eq, Classical.not_not] using ⟨⟨hne, hall⟩, hbar⟩
  simp only [barStep, ht, ← hgs]
  exact if_neg hthere

end

/-! ### The note tables of a context (R108) -/

/-- The tables that an address enters have room exactly where none of them is full without holding it. -/
theorem noteTables_room {v u : State} (hf : v.flasks = u.flasks) (ctx : Nat) (va : DWord) :
    ((noteTables v ctx va).all fun fl => (flaskAt v fl).notes.length < 64) = true ↔
      ∀ fl, fl ∈ noteFlasks u ctx → va ∉ (flaskAt u fl).notes → (flaskAt u fl).notes.length < 64 := by
  simp only [noteTables, noteFlasks, flaskAt, hf, List.all_filter, List.all_eq_true, Bool.or_eq_true, Bool.not_not, List.contains_iff_mem,
    decide_eq_true_eq, Classical.or_iff_not_imp_left]

/-! ### The instructions as they issue -/

section
variable {s : State} {c : Cur} {x : Group} {h : Hdr} {e : Env} {post pre : State} (hp : pre = { s with free := s.free + 1 })

include hp in
/-- BAR (R304). -/
theorem exec_bar_goes {sc : Scope}
    (hg : Goes s c x { h := h, once := true } (splitTo { h := h, once := true } (fun e => nextPc e.pc h.sp) fun _ => .bar sc) e post)
    (ha : e.act ≠ 0) : exec (.bar h sc) s = .next (afterRelease e pre post sc fun v => barStep (atOnce v e h) x.team) := by
  obtain ⟨-, -, -, hteam, -⟩ := env_facts hg
  rw [exec_bar, execBar, goesTo_gate hg, once_act ha, hp, hteam]
  rfl

/-- TNOW (R39, R309). -/
theorem exec_tnow_goes {d : Reg} {a : SImm} (hg : Goes s c x (infoOf h d true none none []) (nextWord { h := h }) e post)
    (hact : actsIn e (infoOf h d true none none []) = true) :
    exec (.tnow h d a) s = .next (fixTail (writeD (modGroup post c.g fun y => { y with tnow := max x.tnow (flaskDrone post (coreFlask e.core)) })
      e d true 6 fun _ => (BitVec.ofNat 64 (max x.tnow (flaskDrone post (coreFlask e.core))) + e.simm a).toNat) e h 6 0) := by
  have hnow : e.grp.tnow = x.tnow := by rw [hg.env]; rfl
  obtain ⟨hslot, -⟩ := env_facts hg
  rw [exec_tnow, execTnow, goes_gate hg, hact, if_pos rfl]
  simp only [hnow, hslot]

/-- TWAIT (R310). -/
theorem exec_twait_goes {sa : BitVec 6} (hg : Goes s c x { h := h, once := true }
    (fun e => [(nextPc e.pc h.sp, if e.act = 0 then .run else .time (e.s sa.toNat), e.lanes)]) e post) (ha : e.act ≠ 0) :
    exec (.twait h sa) s = .next (wakeTimes (atOnce post e h) c.g) := by
  obtain ⟨hslot, -⟩ := env_facts hg
  rw [exec_twait, execTwait, goesTo_gate hg, once_act ha, if_pos rfl, hslot]

include hp in
/-- GWNOTE (R108, R311). -/
theorem exec_gwnote_goes {sa : BitVec 6} {va : DWord} (hg : Goes s c x { h := h, once := true, mem := true } (nextWord { h := h }) e post)
    (ha : e.act ≠ 0) (hva : va = e.s sa.toNat) :
    exec (.gwnote h sa) s = .next (if va.toNat % 8 ≠ 0 then takeTrap pre c.g { code := 0x05, lanes := e.act, addr := va } c.pc
      else afterReleaseWhen e pre post .dev (fun v => (noteTables v x.ctx va).all fun fl => (flaskAt v fl).notes.length < 64) fun v =>
        atOnce ((noteTables v x.ctx va).foldl (fun v fl => modFlask v fl fun f => { f with notes := f.notes ++ [va] }) v) e h) := by
  obtain ⟨-, hctx, -⟩ := env_facts hg
  rw [exec_gwnote, execGwnote, goes_once hg ha hp]
  simp only [← hva, hctx, trapAt_eq hg hp, bne_iff_ne]

end

/-- Settles O44: each instruction issues once; BAR and GWNOTE go on once their release is complete, and the barrier's step is the case of
where the team's groups stand. -/
theorem barrierAndTimeResults : Obligations.BarrierAndTimeResults := by
  unfold Obligations.BarrierAndTimeResults
  intro s c x h e post pre u hp
  refine ⟨?bar, fun t gs ht hgs => ⟨barStep_waits ht hgs, barStep_completes ht hgs⟩, ?tnow, fun sa hg ha => exec_twait_goes hg ha, ?gwnote⟩
  case bar =>
    intro sc hg ha
    obtain ⟨hslot, -⟩ := env_facts hg
    rw [exec_bar_goes hp hg ha, ← hslot]
    exact ⟨fun hu => by rw [afterRelease_done hu], fun hr => by rw [afterRelease_waits hr]⟩
  case tnow =>
    rintro d a n hg hact rfl
    exact exec_tnow_goes hg hact
  case gwnote =>
    intro sa va hg ha hva
    obtain ⟨hslot, -⟩ := env_facts hg
    rw [exec_gwnote_goes hp hg ha hva, ← hslot]
    refine ⟨fun hodd => by rw [if_pos hodd], fun heven => ?even⟩
    rw [if_neg (not_not_intro heven)]
    refine ⟨fun v hv hfull => ?full, fun hu hroom => ?entered⟩
    case full =>
      rw [afterReleaseWhen_full hv]
      rw [← Bool.not_eq_true, noteTables_room rfl]
      obtain ⟨fl, hfl, hnot, hlen⟩ := hfull
      exact fun hroom => Nat.not_le_of_lt (hroom fl hfl hnot) hlen
    case entered => rw [afterReleaseWhen_done hu ((noteTables_room hu.flasks _ _).mpr hroom), noteTables]

end Sys2Proof.Machine
end

section
/-! SUPPORT. Current and energy (R46, R47, R50 to R53, R56), points and droop (R58 to R61) and drone time (R40 to R42): what each event does,
case by case, then O55. -/

namespace Sys2Proof.Machine

open Host

/-! ### What a cluster does once in a fabric cycle (R46, R47, R50, R51, R53, R56) -/

section
variable {s : State} {c : Nat}

/-- The controller steps at a microsecond, and once: PCSTAT shows what it leaves (R46, R47). -/
theorem piController_steps (hat : passes s (c / 4) 1000 = true) (honce : (clusAt s c).piAt ≠ s.fab + 1) {est integ ceil : Nat} {u : State}
    (hest : est = estOf s c)
    (hpi : piStep (sysFld s (sel 6 c) 0 16) (sysFld s (sel 7 c) 0 16) (sysFld s (sel 8 c) 0 16) (sysFld s (sel 9 c) 32 16) est (vmv s (c / 4))
      = (integ, ceil))
    (hu : u = modClus s c fun k => { k with piAt := s.fab + 1, events := [], ests := (est :: k.ests).take 50 }) :
    piController s c = setSysFld (setSysFld (setSysFld (setSysFld u (sel 9 c) 48 16 est) (sel 9 c) 32 16 integ)
      (sel 9 c) 16 10 (grantedOf u c)) (sel 9 c) 0 10 ceil := by
  have hdue : ¬ ((clusAt s c).piAt == s.fab + 1 || !passes s (c / 4) 1000) = true := by
    simpa only [hat, Bool.not_true, Bool.or_false, beq_iff_eq] using honce
  rw [piController, if_neg hdue]
  simp only [← hest, hpi, ← hu]

theorem piController_rests (h : passes s (c / 4) 1000 = false ∨ (clusAt s c).piAt = s.fab + 1) : piController s c = s := by
  refine if_pos ?_
  simpa only [Bool.or_eq_true, beq_iff_eq, Bool.not_eq_true'] using h.symm

/-- Standing grants are trued up and made anew at a microsecond, and once (R56). -/
theorem standingGrants_renews (hat : passes s (c / 4) 1000 = true) (honce : (clusAt s c).stdAt ≠ s.fab + 1) :
    standingGrants s c = standNow (modClus (trueUp s c) c fun k => { k with stdAt := s.fab + 1 }) c := by
  refine if_neg ?_
  simpa only [hat, Bool.not_true, Bool.or_false, beq_iff_eq] using honce

theorem standingGrants_rests (h : passes s (c / 4) 1000 = false ∨ (clusAt s c).stdAt = s.fab + 1) : standingGrants s c = s := by
  refine if_pos ?_
  simpa only [Bool.or_eq_true, beq_iff_eq, Bool.not_eq_true'] using h.symm

/-- The arbiter grants once in a fabric cycle (R50, R51). -/
theorem arbitrate_again (h : (clusAt s c).arbAt = s.fab + 1) : arbitrate s c = s :=
  if_pos (beq_iff_eq.mpr h)

theorem arbitrate_first (h : (clusAt s c).arbAt ≠ s.fab + 1) {u : State} (hu : u = present (modClus s c fun k => { k with arbAt := s.fab + 1 }) c) :
    arbitrate s c = grantRun c (presented u c) u := by
  rw [hu]
  exact if_neg (by rwa [beq_iff_eq])

variable (hc : c < 128)
include hc

theorem exec_piControllerStep_next (est : Nat) :
    exec (.piControllerStep c est) s = .next (if est = estOf s c then piController s c else s) := by
  rw [exec_piControllerStep, execPiControllerStep, if_neg (Nat.not_le_of_lt hc)]

theorem exec_standingGrant_next (used : List (Nat × Nat)) :
    exec (.standingGrant c used) s = .next (if used = standUsed s c then standingGrants s c else s) := by
  rw [exec_standingGrant, execStandingGrant, if_neg (Nat.not_le_of_lt hc)]

theorem exec_arbiterGrant_next : exec (.arbiterGrant c) s = .next (arbitrate s c) := by
  rw [exec_arbiterGrant, execArbiterGrant, if_neg (Nat.not_le_of_lt hc)]

theorem exec_currentRamp_next : exec (.currentRamp c) s = .next (ramp s c) := by
  rw [exec_currentRamp, execCurrentRamp, if_neg (Nat.not_le_of_lt hc)]

/-- A controller event out of its time, or with another estimate, changes nothing (log entry 7). -/
theorem exec_piControllerStep_idle {est : Nat}
    (h : passes s (c / 4) 1000 = false ∨ (clusAt s c).piAt = s.fab + 1 ∨ est ≠ estOf s c) : exec (.piControllerStep c est) s = .next s := by
  rw [exec_piControllerStep_next hc]
  rcases or_assoc.mpr h with hrest | hest
  · rw [piController_rests hrest, ite_self]
  · rw [if_neg hest]

/-- A standing grant event out of its time, or with other energies, changes nothing (log entry 7). -/
theorem exec_standingGrant_idle {used : List (Nat × Nat)}
    (h : passes s (c / 4) 1000 = false ∨ (clusAt s c).stdAt = s.fab + 1 ∨ used ≠ standUsed s c) : exec (.standingGrant c used) s = .next s := by
  rw [exec_standingGrant_next hc]
  rcases or_assoc.mpr h with hrest | hused
  · rw [standingGrants_rests hrest, ite_self]
  · rw [if_neg hused]

end

/-! ### Bursts (R52) -/

/-- A live burst ends after its duration, and its current passes on (R52). -/
theorem burstOver_eq {s : State} {g t : Nat} {x : Group} {b : Burst} (hx : groupAt s g = some x) (hb : x.burst = some b) (ht : b.live = some t) :
    burstOver s g = if drone s < t + b.ns then s else passOn (setGroup s g { x with burst := none }) (coreDomain (slotCore g)) b.req := by
  simp only [burstOver, hx, Option.bind_some, hb, ht, modGroup_eq hx]

theorem exec_burstEnd_next (s : State) (g used : Nat) :
    exec (.burstEnd g used) s = .next (if used = burstUsed s g then burstOver s g else s) := by
  rw [exec_burstEnd, execBurstEnd]

/-! ### The governor, points and droop (R58 to R61) -/

/-- A reading of the temperature moves no threshold: FGOV is another register than FSTAT (R58). -/
theorem warnTemp_setSysFld_fstat (s : State) (fl lo n v : Nat) : warnTemp (setSysFld s (sel 13 fl) lo n v) fl = warnTemp s fl := by
  have hother : sel 12 fl ≠ sel 13 fl := by unfold sel; omega
  simp only [warnTemp, sysFld_setSysFld_reg s _ _ lo n v _ _ hother]

section
variable {fl : Nat} (hfl : fl < 32)
include hfl

/-- The governor steps at 50 us, and once, on the sums and the residency that the state gives (R59, R64). -/
theorem exec_governorStep_steps {s u v : State} {temp : Nat} {hot : Bool} (hat : passes s fl 50000 = true)
    (honce : (flaskAt s fl).govAt ≠ s.fab + 1) (hu : u = setSysFld s (sel 13 fl) 40 8 (min temp 255))
    (hv : v = migStep u fl (hot && decide (warnTemp u fl ≤ min temp 255))) :
    exec (.governorStep fl temp (flaskSums s fl) hot (flaskAt s fl).busy) s =
      .next (startHop (modFlask v fl fun f => { f with govAt := v.fab + 1, busy := groupHere v fl }) fl (targetPt v fl)) := by
  have hdue : ¬ ((flaskAt s fl).govAt == s.fab + 1 || !passes s fl 50000 || flaskSums s fl != flaskSums s fl
      || (flaskAt s fl).busy != (flaskAt s fl).busy) = true := by
    simpa only [hat, Bool.not_true, Bool.or_false, bne_self_eq_false, beq_iff_eq] using honce
  rw [exec_governorStep, execGovernorStep, if_neg (Nat.not_le_of_lt hfl), if_neg hdue, hv, hu, warnTemp_setSysFld_fstat]

/-- A governor event out of its time, or with other sums or another residency, changes nothing (log entry 7). -/
theorem exec_governorStep_idle {s : State} {temp : Nat} {sums : List Nat} {hot busy : Bool}
    (h : passes s fl 50000 = false ∨ (flaskAt s fl).govAt = s.fab + 1 ∨ sums ≠ flaskSums s fl ∨ busy ≠ (flaskAt s fl).busy) :
    exec (.governorStep fl temp sums hot busy) s = .next s := by
  have hidle : ((flaskAt s fl).govAt == s.fab + 1 || !passes s fl 50000 || sums != flaskSums s fl || busy != (flaskAt s fl).busy) = true := by
    simpa only [Bool.or_eq_true, beq_iff_eq, bne_iff_ne, Bool.not_eq_true', or_assoc] using or_left_comm.mp h
  rw [exec_governorStep, execGovernorStep, if_neg (Nat.not_le_of_lt hfl), if_pos hidle]

/-- The clock switches to the target of a change under way; going up, the voltage is there already (R60). -/
theorem exec_pointChangeSwitch_next {s : State} {p : Hop} (hhop : (flaskAt s fl).hop = some p) (hbefore : p.switched = false) :
    exec (.pointChangeSwitch fl) s = .next (if p.up = true then endHop (setSysFld s (sel 13 fl) 0 4 p.target) fl p.target
      else modFlask (setSysFld s (sel 13 fl) 0 4 p.target) fl fun f => { f with hop := some { p with switched := true } }) := by
  rw [exec_pointChangeSwitch, execPointChangeSwitch, if_neg (Nat.not_le_of_lt hfl)]
  simp only [hhop, hbefore, Bool.false_eq_true, if_false]

/-- The voltage follows, and the change is over (R60). -/
theorem exec_pointChangeComplete_next {s : State} {p : Hop} (hhop : (flaskAt s fl).hop = some p) (hafter : p.switched = true) :
    exec (.pointChangeComplete fl) s = .next (endHop s fl p.target) := by
  rw [exec_pointChangeComplete, execPointChangeComplete, if_neg (Nat.not_le_of_lt hfl)]
  simp only [hhop, hafter, if_true]

/-- A droop is counted, and the first stretches the clock of the flask's cores (R61). -/
theorem exec_droopDetect_next {s u v : State} (hu : u = setSysFld s (sel 13 fl) 48 16 (min 65535 (sysFld s (sel 13 fl) 48 16 + 1)))
    (hv : v = setSysFld u (sel 13 fl) 32 1 1) : exec (.droopDetect fl) s = .next (if sysFld u (sel 13 fl) 32 1 = 1 then u
      else { v with cores := v.cores.map fun p => if coreFlask p.1 == fl then (p.1, { p.2 with skip := 0 }) else p }) := by
  rw [exec_droopDetect, execDroopDetect, if_neg (Nat.not_le_of_lt hfl), hv, hu, apply_ite Outcome.next]

theorem exec_droopClear_next (s : State) : exec (.droopClear fl) s = .next (setSysFld s (sel 13 fl) 32 1 0) := by
  rw [exec_droopClear, execDroopClear, if_neg (Nat.not_le_of_lt hfl)]

end

/-! ### Drone time (R40 to R42) -/

section
variable {s u : State} {port : Nat} {offset : Int} (hport : port < 12) (hup : sysFld s (sel 4 port) 16 1 = 1)
  (hu : u = setSysFld (setSysFld (setSysFld (setSysFld s (sel 5 0) 48 8 port) (sel 5 0) 0 32 (BitVec.ofInt 32 offset).toNat) (sel 5 0) 62 1 0)
    (sel 5 0) 61 1 0)
include hport hup hu

/-- A message of a port that is up sets the offset to be slewed (R41, R42). -/
theorem exec_syncMessage_slews (hslew : u.firstLock = true ∨ offset ≤ 10000 ∨ u.ctxSeen = true ∨ anyContext u = true) :
    exec (.syncMessage port offset) s = .next (setSysFld { u with slew := offset * 8, lastSync := u.droneE, firstLock := true } (sel 5 0) 63 1
      (if offset.natAbs ≤ 20 then 1 else 0)) := by
  have hno : (!u.firstLock && decide (10000 < offset) && !u.ctxSeen && !anyContext u) = false := by
    simpa only [Bool.and_eq_false_iff, Bool.not_eq_false', decide_eq_false_iff_not, Int.not_lt, or_assoc] using hslew
  rw [exec_syncMessage, execSyncMessage, if_neg (Nat.not_le_of_lt hport), hup]
  simp only [bne_self_eq_false, ← hu, hno, Bool.false_eq_true, Bool.or_false, decide_eq_true_eq, if_false]

/-- At the first lock, with no context created yet, a source far ahead sets the time forward at once (R42; log entry 30). -/
theorem exec_syncMessage_steps (hfirst : u.firstLock = false) (hfar : 10000 < offset) (hseen : u.ctxSeen = false) (hnone : anyContext u = false) :
    exec (.syncMessage port offset) s = .next (setSysFld
      { u with droneE := u.droneE + offset.toNat * 8, slew := 0, lastSync := u.droneE + offset.toNat * 8, firstLock := true } (sel 5 0) 63 1 1) := by
  have hjump : (!u.firstLock && decide (10000 < offset) && !u.ctxSeen && !anyContext u) = true := by
    rw [hfirst, decide_eq_true hfar, hseen, hnone]
    rfl
  rw [exec_syncMessage, execSyncMessage, if_neg (Nat.not_le_of_lt hport), hup]
  simp only [bne_self_eq_false, ← hu, hjump, Bool.false_eq_true, Bool.or_true, if_true, if_false]

end

/-- A second without a message, and the drone holds over (R41, R42; log entry 30). -/
theorem holdover_due {s : State} (h : s.lastSync + 8 * 10 ^ 9 ≤ s.droneE) :
    holdover s = { setSysFld (setSysFld s (sel 5 0) 62 1 1) (sel 5 0) 63 1 0 with slew := 0 } :=
  if_neg (Nat.not_lt_of_le h)

/-- Settles O55: each event is the step of its unit, which acts at its time and once, and on the figures that the state gives. -/
theorem powerEvents : Obligations.PowerEvents := by
  unfold Obligations.PowerEvents
  intro s
  refine ⟨?cluster, ?burst, ?flask, ?sync, ?holdover⟩
  case cluster =>
    intro c hc
    refine ⟨?controller, ?standing, fun _ hidle => exec_piControllerStep_idle hc hidle, fun _ hidle => exec_standingGrant_idle hc hidle,
      fun hagain => ?again, fun hfirst u hu => ?first, exec_currentRamp_next hc⟩
    case controller =>
      intro hat honce est integ ceil u hest hpi hu
      rw [exec_piControllerStep_next hc, if_pos hest, piController_steps hat honce hest hpi hu]
    case standing =>
      intro hat honce
      rw [exec_standingGrant_next hc, if_pos rfl, standingGrants_renews hat honce]
    case again => rw [exec_arbiterGrant_next hc, arbitrate_again hagain]
    case first => rw [exec_arbiterGrant_next hc, arbitrate_first hfirst hu]
  case burst =>
    intro g x b t hx hb ht
    refine ⟨fun used hearly => ?early, fun hended => ?ended⟩
    case early =>
      rw [exec_burstEnd_next, burstOver_eq hx hb ht]
      rcases hearly with hlive | hused
      · rw [if_pos hlive, ite_self]
      · rw [if_neg hused]
    case ended => rw [exec_burstEnd_next, if_pos rfl, burstOver_eq hx hb ht, if_neg (Nat.not_lt_of_le hended)]
  case flask =>
    intro fl hfl
    refine ⟨fun temp hot u v hat honce hu hv => exec_governorStep_steps hfl hat honce hu hv,
      fun temp sums hot busy hidle => exec_governorStep_idle hfl hidle,
      fun p hhop => ⟨exec_pointChangeSwitch_next hfl hhop, exec_pointChangeComplete_next hfl hhop⟩, ?droop, exec_droopClear_next hfl s⟩
    case droop =>
      intro u v hu
      refine ⟨fun hstretched => ?counted, fun hclear hv => ?stretches⟩
      case counted => rw [exec_droopDetect_next hfl hu rfl, if_pos hstretched]
      case stretches => rw [exec_droopDetect_next hfl hu hv, if_neg hclear]
  case sync =>
    intro port offset u hport hup hu
    exact ⟨fun hslew => ⟨_, rfl, exec_syncMessage_slews hport hup hu hslew⟩,
      fun hfirst hfar hseen hnone => ⟨_, rfl, exec_syncMessage_steps hport hup hu hfirst hfar hseen hnone⟩⟩
  case holdover =>
    intro hdue
    rw [exec_holdover, execHoldover, holdover_due hdue]

end Sys2Proof.Machine
end

section
/-! SUPPORT. How tasks are admitted and stolen (R93, R110, R115), counted down (R94, R96) and made READY (R40, R93), how gangs are placed
(R128 to R130) and how messages move (R111, R113): what each event does, case by case, then O52. -/

namespace Sys2Proof.Machine

open Host

/-! ### Admission and stealing (R93, R110, R115) -/

/-- With a slot and a place for its registers, an admitted task starts. -/
theorem admitTask_starts {s : State} {t : TaskE} {core quarter g : Nat} {tier : Tier} (hslot : pickSlot s core quarter = some g)
    (htier : fitTier s core quarter (taskRegs s t) = some tier) : admitTask s t core quarter = startTask s t g tier := by
  simp only [admitTask, hslot, htier]

/-- Among three levels, the first that holds a candidate is found (R110). -/
theorem find?_first_level {α : Type} {at' : Nat → List α} {level : Nat} {t : α} {ts : List α} (hlevel : level < 3)
    (hnearer : ∀ k, k < level → at' k = []) (hhere : at' level = t :: ts) :
    [at' 0, at' 1, at' 2].find? (fun xs => !xs.isEmpty) = some (t :: ts) := by
  match level, hlevel with
  | 0, _ => simp [hhere]
  | 1, _ => simp [hhere, hnearer 0 (by decide)]
  | 2, _ => simp [hhere, hnearer 0 (by decide), hnearer 1 (by decide)]

section
variable {s : State} {core quarter : Nat} (hcore : core < 512) (hquarter : quarter < 4)
include hcore hquarter

theorem place_exists : ¬ (decide (512 ≤ core) || decide (4 ≤ quarter)) = true := by
  simp only [Bool.or_eq_true, decide_eq_true_eq]
  omega

/-- A task is admitted on the core of its pinned team, or else on its own (R93, R115). -/
theorem exec_taskAdmit_next {ctx : Nat} {handle : DWord} {t : TaskE} {x : Team} (htask : taskOf s ctx handle = some t)
    (hteam : teamOf s t.team = some x)
    (hhome : (x.pin = true ∧ x.core = some core) ∨ ((x.pin = false ∨ x.core = none) ∧ t.core = core))
    (hmay : mayAdmit s t core quarter = true) : exec (.taskAdmit core quarter ctx handle) s = .next (admitTask s t core quarter) := by
  rw [exec_taskAdmit, execTaskAdmit, if_neg (place_exists hcore hquarter)]
  simp only [htask, hteam, Option.map_some, hmay, Bool.and_true, decide_eq_true_eq]
  rcases hhome with ⟨hpin, hbound⟩ | ⟨hfree | hfree, hown⟩
  · simp only [hpin, hbound, if_true]
  · simp only [hfree, hown, if_true]
  · cases hpin : x.pin <;> simp only [hfree, hown, if_true]

/-- A quarter steals the best candidate of the nearest level that holds one (R110). -/
theorem exec_steal_next {level : Nat} {t : TaskE} {ts : List TaskE} (hlevel : level < 3)
    (hnearer : ∀ k, k < level → ∀ t, t ∈ s.tasks → stealLevel core t.core = some k → mayStealTask s t core quarter k = false)
    (hhere : s.tasks.filter (fun t => stealLevel core t.core == some level && mayStealTask s t core quarter level) = t :: ts) :
    exec (.steal core quarter) s =
      .next (admitTask s (ts.foldl (fun a b => if stealsBefore s core b a then b else a) t) core quarter) := by
  have hempty : ∀ k, k < level → s.tasks.filter (fun t => stealLevel core t.core == some k && mayStealTask s t core quarter k) = [] := by
    intro k hk
    simpa only [List.filter_eq_nil_iff, Bool.and_eq_true, beq_iff_eq, not_and, Bool.not_eq_true] using hnearer k hk
  have hfound := find?_first_level (at' := fun level => s.tasks.filter fun t =>
    stealLevel core t.core == some level && mayStealTask s t core quarter level) hlevel hempty hhere
  rw [exec_steal, execSteal, if_neg (place_exists hcore hquarter)]
  simp only [hfound]

end

/-! ### Decrements (R94, R96) -/

section
variable {s : State} {i : Nat} {d : DecS} (hi : s.decs[i]? = some d)
include hi

/-- A decrement that another goes before, or whose record is kept, waits (R95, R96). -/
theorem decStep_waits (hkept : (∃ y, y ∈ s.decs.take i ∧ decBefore s y d = true) ∨ ctxLocked s d.ctx d.handle 64 = true) (poison : Bool) :
    decStep s i poison = s := by
  have hbar : (d.poison == poison && !(s.decs.take i).any (fun y => decBefore s y d) && !ctxLocked s d.ctx d.handle 64) = false := by
    rcases hkept with hbefore | hlocked
    · rw [List.any_eq_true.mpr hbefore, Bool.not_true, Bool.and_false, Bool.false_and]
    · rw [hlocked, Bool.not_true, Bool.and_false]
  simp only [decStep, hi, hbar, Bool.false_eq_true, if_false]

/-- A decrement that nothing keeps back is performed by the event of its kind (R94, R96). -/
theorem exec_decrement_next (hfirst : ∀ y, y ∈ s.decs.take i → decBefore s y d = false) (hfree : ctxLocked s d.ctx d.handle 64 = false) :
    exec (if d.poison = true then .poisonedDecrement i else .depsDecrement i) s =
      .next (performDec { s with decs := s.decs.eraseIdx i } d) := by
  have hnone : (s.decs.take i).any (fun y => decBefore s y d) = false := by
    simpa only [List.any_eq_false, Bool.not_eq_true] using hfirst
  have hgoes : decStep s i d.poison = performDec { s with decs := s.decs.eraseIdx i } d := by
    simp only [decStep, hi, hnone, hfree, beq_self_eq_true, Bool.not_false, Bool.and_self, if_true]
  split
  next hpoison => rw [exec_poisonedDecrement, execPoisonedDecrement, ← hgoes, hpoison]
  next hplain => rw [exec_depsDecrement, execDepsDecrement, ← hgoes, Bool.eq_false_iff.mpr hplain]

end

/-- A decrement that arrives after all of its task's, or after the task's start, is dropped with a notice (R94; log entry 37). -/
theorem performDec_dropped {u : State} {d : DecS} (hlate : recField u d.ctx d.handle 8 2 = 0 ∨ recField u d.ctx d.handle 0x0A 1 / 2 % 2 = 1) :
    performDec u d = taskNotice (fall u d.sig) 1 d.ctx 0xFFFF 0xFF d.handle d.bySrc := by
  refine if_pos ?_
  simpa only [Bool.or_eq_true, decide_eq_true_eq] using hlate

section
variable {u v : State} {d : DecS} (hdeps : recField u d.ctx d.handle 8 2 ≠ 0) (hnew : recField u d.ctx d.handle 0x0A 1 / 2 % 2 ≠ 1)
  (hv : v = putRec (fall u d.sig) d.ctx d.handle 8 2 (recField u d.ctx d.handle 8 2 - 1))
include hdeps hnew hv

/-- A decrement counts DEPS down (R94). -/
theorem performDec_plain (hplain : d.poison = false) : performDec u d = tryReady v d.ctx d.handle := by
  simp only [performDec, hdeps, hnew, hplain, hv, decide_false, Bool.or_self, Bool.false_eq_true, if_false]

variable {w : State} (hpoison : d.poison = true)
  (hw : w = putRec v d.ctx d.handle 0x0A 1 (recField u d.ctx d.handle 0x0A 1 / 2 * 2 + 1))
include hpoison hw

/-- A poisoned one sets poison, and the task keeps the first source (R96, R97). -/
theorem performDec_poisons (htask : taskOf w d.ctx d.handle ≠ none) : performDec u d = tryReady (modTask w d.ctx d.handle
    fun t => { t with poison := if t.poison = none then some d.bySrc else t.poison }) d.ctx d.handle := by
  have hor : ∀ p : Option DWord, p.or (some d.bySrc) = if p = none then some d.bySrc else p := by
    rintro (_ | _) <;> rfl
  obtain ⟨t, ht⟩ := Option.ne_none_iff_exists'.mp htask
  simp only [performDec, hdeps, hnew, hpoison, ← hv, ← hw, ht, hor, decide_false, Bool.or_self, Bool.false_eq_true, if_false, if_true]

/-- For a record that no task has yet, the source is kept for it (log entry 37). -/
theorem performDec_early (htask : taskOf w d.ctx d.handle = none) :
    performDec u d = tryReady { w with early := w.early ++ [(d.ctx, d.handle, d.bySrc)] } d.ctx d.handle := by
  simp only [performDec, hdeps, hnew, hpoison, ← hv, ← hw, htask, decide_false, Bool.or_self, Bool.false_eq_true, if_false, if_true]

end

/-- What makes a decrement wait for another (R24, R95, R96): one task's end, or one way between routers. -/
theorem decBefore_of_batch {s : State} {y d : DecS} (hd : d.batch ≠ 0) (hy : y.batch = d.batch) : decBefore s y d = true := by
  rw [decBefore, hy, beq_self_eq_true, bne_iff_ne.mpr hd]
  rfl

theorem decBefore_of_way {s : State} {y d : DecS} (hsrc : d.src < 512) (hsame : y.src / 2 = d.src / 2) (hthere : recRouter s d.ctx d.handle ≠ none)
    (hto : recRouter s y.ctx y.handle = recRouter s d.ctx d.handle) : decBefore s y d = true := by
  rw [decBefore, hto, hsame, decide_eq_true hsrc, Option.isSome_iff_ne_none.mpr hthere, beq_self_eq_true, beq_self_eq_true]
  exact Bool.or_true _

/-- A task whose DEPS is 0, not poisoned, and whose time has come is READY (R40, R93). -/
theorem tryReady_ready {s : State} {ctx : Nat} {handle : DWord} {t : TaskE} (htask : taskOf s ctx handle = some t) (hidle : t.running = false)
    (hnew : t.ready = none) (hdeps : recField s ctx handle 8 2 = 0) (hclean : recField s ctx handle 0x0A 1 % 2 = 0)
    (htime : recField s ctx handle 0x20 8 ≤ flaskDrone s (coreFlask t.core)) :
    tryReady s ctx handle = gangCount (modTask { s with nextUid := s.nextUid + 1 } ctx handle fun t => { t with ready := some s.nextUid }) t := by
  simp only [tryReady, htask, hidle, hnew, hdeps, hclean, Nat.not_lt_of_le htime, freshUid, Option.isSome_none, Bool.or_self, bne_self_eq_false,
    Nat.zero_ne_one, decide_false, Bool.false_and, Bool.false_eq_true, if_false]

/-! ### Gangs (R128 to R130) -/

section
variable {s : State} {gang : Nat} (hlo : 1 ≤ gang) (hhi : gang < 256)
include hlo hhi

theorem gang_exists : ¬ (decide (gang = 0) || decide (256 ≤ gang)) = true := by
  simp only [Bool.or_eq_true, decide_eq_true_eq]
  omega

theorem exec_gangRelease_next : exec (.gangRelease gang) s = .next (gangGo s gang) := by
  rw [exec_gangRelease, execGangRelease, if_neg (gang_exists hlo hhi)]

theorem exec_droneTimedStart_gang : exec (.droneTimedStart (.gang gang)) s = .next (gangGo s gang) := by
  rw [exec_droneTimedStart, execDroneTimedStart, if_neg (gang_exists hlo hhi)]

variable (hcomplete : gangComplete s gang = true) (hturn : gangBehind s gang = false) (places : List (Nat × Nat))
include hcomplete hturn

/-- Members that the entry no longer admits leave a complete gang (R128; log entry 41). -/
theorem exec_gangPlace_drops (hshut : ∃ t, t ∈ gangWaiting s gang ∧ gangShut s gang t.ctx = true) :
    exec (.gangPlace gang places) s = .next (dropForeign s gang) := by
  rw [exec_gangPlace, execGangPlace, if_neg (gang_exists hlo hhi), hcomplete, hturn]
  exact if_pos (List.any_eq_true.mpr hshut)

/-- A complete gang whose members fit the places is placed, and each of its teams asks for its current (R129). -/
theorem exec_gangPlace_places {ts : List TaskE} {ps : List (TaskE × Nat × Nat)} {u v w : State} {rs : List (Nat × Nat)}
    (hopen : ∀ t, t ∈ gangWaiting s gang → gangShut s gang t.ctx = false) (hts : ts = gangTasks s gang) (hne : ts ≠ [])
    (hsmall : gangTooBig s ts = false) (hlen : places.length = ts.length) (hps : ps = ts.zip places) (hagree : placesAgree s ps = true)
    (hplaced : placeAll ps { s with free := s.free + 1 } = some u)
    (hv : v = setSysFld u (sel 21 gang) 0 12 (gangReady u gang - gangMembers u gang))
    (hrw : (rs, w) = (dedup (ts.map fun t => t.team)).foldl (fun (acc : List (Nat × Nat) × State) k =>
      let q := gangRequest acc.2 gang k (((ps.find? fun p => p.1.team == k).map fun p => p.2.1).getD 0)
      (acc.1 ++ [(k, q.1)], q.2)) ([], v)) :
    exec (.gangPlace gang places) s = .next { w with
      gangs := w.gangs ++ [{ gang := gang, members := ts.map fun t => (t.ctx, t.handle), teams := rs }]
      gangStuck := w.gangStuck.filter fun k => k != gang
      gangAt := mdel w.gangAt gang } := by
  have hadmits : (gangWaiting s gang).any (fun t => gangShut s gang t.ctx) = false := by
    simpa only [List.any_eq_false, Bool.not_eq_true] using hopen
  have hsome : ts.isEmpty = false := by simpa only [List.isEmpty_eq_false_iff] using hne
  rw [exec_gangPlace, execGangPlace, if_neg (gang_exists hlo hhi), hcomplete, hturn, hadmits]
  simp only [← hts, hsmall, ← hps, hlen, hagree, hplaced, ← hv, ← hrw, hsome, bne_self_eq_false, Bool.not_true, Bool.or_self, Bool.false_eq_true,
    if_false]

end

/-! ### Messages (R24, R36, R111, R113) -/

section
variable {s u : State} {i : Nat} {m : Msg} (hi : s.msgs[i]? = some m) (hu : u = { s with msgs := s.msgs.eraseIdx i })
  (hfirst : ∀ y, y ∈ s.msgs.take i → msgBefore s y m = false)

include hfirst in
theorem msgBefore_none : (s.msgs.take i).any (fun y => msgBefore s y m) = false := by
  simpa only [List.any_eq_false, Bool.not_eq_true] using hfirst

include hi hfirst in
/-- A flue link takes no message while its port is in another mode than peer mode (R36, R113). -/
theorem exec_messageArrival_shut {p : Nat} (hport : m.port = some p) (hmode : sysFld s (sel 4 p) 4 4 ≠ 1) :
    exec (.messageArrival i) s = .next s := by
  rw [exec_messageArrival, execMessageArrival]
  simp only [hi, msgBefore_none hfirst, hport, bne_iff_ne.mpr hmode, Bool.false_eq_true, if_false, if_true]

include hi hu hfirst in
/-- A link in peer mode that does not retrain sends it (R36, R113). -/
theorem exec_messageArrival_sent {p : Nat} (hport : m.port = some p) (hmode : sysFld s (sel 4 p) 4 4 = 1)
    (hup : (mget s.ports p {}).retrain = false) : exec (.messageArrival i) s =
      .next (opPart { u with ports := mmod u.ports p {} fun x => { x with seq := x.seq + 1 } } m.op) := by
  rw [exec_messageArrival, execMessageArrival, hu]
  simp only [hi, msgBefore_none hfirst, hport, hmode, hup, bne_self_eq_false, Bool.false_eq_true, if_false]

include hi hu hfirst in
/-- A message that no core can take is dropped with a notice (R74, R113). -/
theorem exec_messageArrival_dropped {cause : Nat} (hport : m.port = none) (hbad : msgBad s m.bytes = some cause) :
    exec (.messageArrival i) s = .next (opPart (badMsg u (msgCore s m.bytes) m.bytes cause) m.op) := by
  rw [exec_messageArrival, execMessageArrival, hu]
  simp only [hi, msgBefore_none hfirst, hport, hbad, Bool.false_eq_true, if_false]

include hi hu hfirst in
/-- A core whose queue has room takes it (R113). -/
theorem exec_messageArrival_queued (hport : m.port = none) (hgood : msgBad s m.bytes = none)
    (hroom : (coreAt s (msgCore s m.bytes)).msgs.length < 64) : exec (.messageArrival i) s =
      .next (opPart (modCore u (msgCore s m.bytes) fun c => { c with msgs := c.msgs ++ [m] }) m.op) := by
  rw [exec_messageArrival, execMessageArrival, hu]
  simp only [hi, msgBefore_none hfirst, hport, hgood, Nat.not_le_of_lt hroom, Bool.false_eq_true, if_false]

end

section
variable {s u : State} {core : Nat} {m : Msg} {rest : List Msg} (hcore : core < 512) (hhead : (coreAt s core).msgs = m :: rest)
  (hu : u = modCore s core fun c => { c with msgs := c.msgs.drop 1 })

include hcore hhead in
/-- Of a context that is overdrawn, no message leaves the queue of a core (R57). -/
theorem exec_handlerSpawn_over (hover : isOver s (bytesAt m.bytes 1 1) = true) : exec (.handlerSpawn core none) s = .next s := by
  rw [exec_handlerSpawn, execHandlerSpawn, if_neg (Nat.not_le_of_lt hcore)]
  simp only [hhead, List.head?_cons, Option.map_some, hover, Bool.true_or, if_true]

include hcore hhead hu in
/-- A message that has become bad is dropped with a notice (R74, R113). -/
theorem exec_handlerSpawn_dropped {cause : Nat} (hpaid : isOver s (bytesAt m.bytes 1 1) = false) (hbad : msgBad s m.bytes = some cause) :
    exec (.handlerSpawn core none) s = .next (badMsg u core m.bytes cause) := by
  rw [exec_handlerSpawn, execHandlerSpawn, if_neg (Nat.not_le_of_lt hcore), hu]
  simp only [hhead, List.head?_cons, Option.map_some, Option.any_none, hpaid, hbad, Bool.or_self, Bool.false_eq_true, if_false]

include hcore hhead hu in
/-- The oldest message of a core starts its handler group where it fits (R113). -/
theorem exec_handlerSpawn_starts {t : State} (hpaid : isOver s (bytesAt m.bytes 1 1) = false) (hgood : msgBad s m.bytes = none)
    (hquiet : quietStart s (bytesAt m.bytes 1 1) core = true) (hfits : spawnHandler u core m.bytes = some t) :
    exec (.handlerSpawn core none) s = .next t := by
  rw [exec_handlerSpawn, execHandlerSpawn, if_neg (Nat.not_le_of_lt hcore)]
  simp only [hhead, List.head?_cons, Option.map_some, Option.any_none, hpaid, hgood, hquiet, ← hu, hfits, Option.isSome_none, Option.getD_some,
    Bool.false_and, Bool.not_true, Bool.or_self, Bool.false_eq_true, if_false]

end

/-! ### The obligation -/

/-- Settles O52: each event finds what it names, waits for what goes before it, and then does what its case says. -/
theorem taskEvents : Obligations.TaskEvents := by
  unfold Obligations.TaskEvents
  intro s
  refine ⟨?admission, ?steal, fun i d hi hkept => ?kept, fun y d => ⟨decBefore_of_batch, decBefore_of_way⟩, ?decrement, ?ready,
    fun gang places hlo hhi hcomplete hturn => exec_gangPlace_drops hlo hhi hcomplete hturn places,
    fun gang places ts ps u v rs w hlo hhi hcomplete hturn => exec_gangPlace_places hlo hhi hcomplete hturn places, ?release, ?copy,
    fun g => rfl, ?message, ?handler⟩
  case admission =>
    intro core quarter ctx handle t x g tier hcore hquarter htask hteam hhome hmay hslot htier
    rw [exec_taskAdmit_next hcore hquarter htask hteam hhome hmay, admitTask_starts hslot htier]
  case steal =>
    rintro core quarter level t ts g tier best hcore hquarter hlevel hnearer hhere rfl hslot htier
    rw [exec_steal_next hcore hquarter hlevel hnearer hhere, admitTask_starts hslot htier]
  case kept =>
    rw [exec_poisonedDecrement, execPoisonedDecrement, exec_depsDecrement, execDepsDecrement, decStep_waits hi hkept, decStep_waits hi hkept]
    exact ⟨rfl, rfl⟩
  case decrement =>
    rintro i d u deps fl hi rfl rfl rfl hfirst hfree e rfl
    rw [exec_decrement_next hi hfirst hfree]
    refine ⟨fun hlate => by rw [performDec_dropped hlate], fun hdeps hnew v w hv hw => ?counts⟩
    exact ⟨fun hplain => by rw [performDec_plain hdeps hnew hv hplain],
      fun hpoison htask => by rw [performDec_poisons hdeps hnew hv hpoison hw htask],
      fun hpoison htask => by rw [performDec_early hdeps hnew hv hpoison hw htask]⟩
  case ready =>
    intro ctx handle t htask hidle hnew hdeps hclean htime e he
    rw [← tryReady_ready htask hidle hnew hdeps hclean htime]
    rcases he with rfl | rfl
    · rw [exec_taskReleaseTime, execTaskReleaseTime]
    · rw [exec_droneTimedStart, execDroneTimedStart]
  case release =>
    rintro gang p u hlo hhi rfl rfl e (rfl | rfl)
    · rw [exec_gangRelease_next hlo hhi, gangGo]
    · rw [exec_droneTimedStart_gang hlo hhi, gangGo]
  case copy =>
    intro core hcore
    rw [exec_droneTimedStart, execDroneTimedStart, exec_cpyStart, execCpyStart]
  case message =>
    intro i m u hi hu hfirst
    exact ⟨fun p => exec_messageArrival_shut hi hfirst, fun p => exec_messageArrival_sent hi hu hfirst,
      fun cause => exec_messageArrival_dropped hi hu hfirst, exec_messageArrival_queued hi hu hfirst⟩
  case handler =>
    intro core m rest u t hcore hhead hu
    exact ⟨exec_handlerSpawn_over hcore hhead, fun cause => exec_handlerSpawn_dropped hcore hhead hu,
      exec_handlerSpawn_starts hcore hhead hu⟩

end Sys2Proof.Machine
end

section
/-! SUPPORT. Why O56 fails: a map of groups that lists one slot twice. The refusal of a store finds the group by its uid (R36, R423), while the
statement reads it at the slot that the uid gives; where the keys of the map do not rise (`Rising`) these may be two groups. -/

namespace Sys2Proof.Machine

open Host

/-! ### Where the keys rise, the clause holds -/

/-- In a map whose keys rise, the slot that a uid gives holds the group of that uid. -/
theorem groupOf_of_slotOf {s : State} {uid g : Nat} {x : Group} (hrise : Rising s.groups) (hslot : slotOf s uid = some g)
    (hx : groupAt s g = some x) : groupOf s uid = some x := by
  obtain ⟨⟨k, y⟩, hfound, rfl⟩ := Option.map_eq_some_iff.mp hslot
  have hy : groupAt s k = some y := mget?_of_mem hrise (List.mem_of_find?_eq_some hfound)
  rw [groupOf, hfound, ← hx, hy]
  rfl

/-- The oldest store of the group leaves its queue and is refused (R36, R423). -/
theorem exec_peerRefusal_store {s : State} {uid g : Nat} {x : Group} {e : StoreQ} {r : List StoreQ} (hrise : Rising s.groups)
    (hslot : slotOf s uid = some g) (hx : groupAt s g = some x) (hqueue : x.storeq = e :: r) (hpeer : peerStore x = some e)
    (hfree : canDrain s (slotCore g) e = true) (lanes : LaneMask) :
    exec (.peerRefusal (.store uid) lanes) s = .next (refuseStore (setGroup s g { x with storeq := r }) g e) := by
  rw [exec_peerRefusal, execPeerRefusal]
  simp only [hslot, groupOf_of_slotOf hrise hslot hx, Option.bind_some, hpeer, hfree, modGroup_eq hx, hqueue, List.drop_one, List.tail_cons, if_true]

/-! ### Where a slot is listed twice, it fails -/

/-- A store of one byte to a peer module. -/
def storeToPeer : StoreQ := { dst := .home 1 0 (BitVec.ofNat 64 (3 * 2 ^ 10)), bytes := [9], lane := 0, op := 0, word := 0 }

/-- A group with nothing in its store queue. -/
def emptyQueue : Group := { uid := 3, ctx := 1, sysT := true, team := 1, nlanes := 1, regs := 64, paths := [{ pc := 0, lanes := 1 }] }

/-- Another group, whose oldest store goes to a peer module. -/
def peerQueue : Group := { emptyQueue with uid := 2, storeq := [storeToPeer] }

/-- Slot 0 is listed for both groups. -/
def slotListedTwice : State := { State.reset with groups := [(0, peerQueue), (0, emptyQueue)] }

/-- The refusal is for the second group by its uid, and that group has no store to a peer. -/
theorem exec_peerRefusal_slotListedTwice : exec (.peerRefusal (.store 3) 0) slotListedTwice = .next slotListedTwice := rfl

/-- The slot that the uid gives reads as the first group, whose store may be performed now. -/
theorem slotListedTwice_reads_peerQueue : slotOf slotListedTwice 3 = some 0 ∧ groupAt slotListedTwice 0 = some peerQueue
    ∧ peerStore peerQueue = some storeToPeer ∧ canDrain slotListedTwice (slotCore 0) storeToPeer = true := by
  decide

/-- Refutes O56, by its clause on the refusal of a store: a state may list one slot twice, and then the clause takes the store from the queue
of a group that the event does not name. -/
theorem not_fabricEvents : ¬ Obligations.FabricEvents := by
  unfold Obligations.FabricEvents
  intro h
  obtain ⟨-, -, -, -, -, hstore, -⟩ := h slotListedTwice
  obtain ⟨hslot, hgroup, hpeer, hfree⟩ := slotListedTwice_reads_peerQueue
  have hrefused := hstore 3 0 peerQueue storeToPeer [] hslot hgroup rfl hpeer hfree 0
  rw [exec_peerRefusal_slotListedTwice] at hrefused
  have hqueue : (groupAt slotListedTwice 0).map (·.storeq)
      = (groupAt (refuseStore (setGroup slotListedTwice 0 { peerQueue with storeq := [] }) 0 storeToPeer) 0).map (·.storeq) :=
    congrArg (fun t => (groupAt t 0).map (·.storeq)) (Outcome.next.inj hrefused)
  exact absurd hqueue (by decide)

end Sys2Proof.Machine
end

section
/-! SUPPORT. The matrix unit at work on its queue (R220, R225, R227, R382, R390 to R392): the operation at the head starts, runs and completes,
then O43. -/

namespace Sys2Proof.Machine

open Host

section
variable {core : Nat} {o : MxOp} {r : List MxOp}

/-- The operation at the head starts in the moment in which its current is live (R53). -/
theorem mxLive_head {u : State} (hops : (mxAt u core).ops = o :: r) :
    mxLive u core = if liveAt u (coreDomain core) o.req = true then modOp u core fun o => { o with going := true } else u := by
  simp only [mxLive, hops]

variable (hcore : core < 512)
include hcore

theorem exec_mmaStart_next (s : State) : exec (.mmaStart core) s = .next (mxLive (mxPresent s core) core) := by
  rw [exec_mmaStart, execMmaStart, if_neg (Nat.not_le_of_lt hcore), mxStart]

/-- An operation other than an MMA runs once its current is live and no line of it is kept from it, and is complete once its bytes are at home
(R382). -/
theorem exec_matrixOpComplete_next {s u v : State} (hu : u = mxStart s core) (hops : (mxAt u core).ops = o :: r)
    (hkind : ∀ m k ah rc b vb acc bs z sat d w, o.kind ≠ .mma m k ah rc b vb acc bs z sat d w) (hdead : o.dead = false)
    (hlive : o.req = 0 ∨ o.going = true) (hfree : o.moved = true ∨ mxHeld u core o = false)
    (hv : v = if o.moved = true then u else modOp (mxTally (runMx u core o) core o) core fun o => { o with moved := true }) :
    exec (.matrixOpComplete core) s = .next (if noInvs v core = true then mxDone v core o else v) := by
  have hcurrent : (o.req != 0 && !o.going) = false := by
    rcases hlive with hreq | hgoing
    · rw [hreq]; rfl
    · rw [hgoing, Bool.not_true, Bool.and_false]
  have hline : (!o.moved && mxHeld u core o) = false := by
    rcases hfree with hmoved | hheld
    · rw [hmoved]; rfl
    · rw [hheld, Bool.and_false]
  rw [exec_matrixOpComplete, execMatrixOpComplete, if_neg (Nat.not_le_of_lt hcore)]
  -- `hkind` rules the arm of the MMA out
  simp only [← hu, hops, hdead, hcurrent, hline, Bool.or_self, Bool.false_eq_true, if_false, ← hv]
  cases noInvs v core <;> rfl

/-- An MMA whose wave is there with its lent registers full: the registers return, the tile takes the products, MSTAT their flags, and the
count at DONETASK falls (R220, R225, R227, R390). -/
theorem exec_mmaComplete_next {s v : State} {m k ah : Nat} {rc : DWord} {aty bty : Ty} {vb acc bs : Nat} {z sat : Bool} {done : DWord} {w : Nat}
    {ms : List (Option Group)} {tile : SMap Word} {fl : MFl} (hops : (mxAt s core).ops = o :: r)
    (hkind : o.kind = .mma m k ah rc bty vb acc bs z sat done w) (hdead : o.dead = false) (hgoing : o.going = true)
    (hms : waveMembers s o w = some ms) (hfull : ∀ y, some y ∈ ms → ∀ i, i < mmaNb bty k → isEmpty y (i + vb) = false)
    (haty : Ty.ofCode (BitVec.ofNat 4 (recFmt rc)) = some aty) (hsound : mmaPoison (mxAt s core) rc aty m k = none)
    (htile : mmaTile (mxAt s core) ms aty bty rc m k vb acc bs z sat = (tile, fl))
    (hv : v = orMstat (modMx (returnWave (mxTally s core o) o w ((List.range (mmaNb bty k)).map (· + vb))) core fun q => { q with acc := tile })
      o.uid fl) :
    exec (.mmaComplete core) s = .next (mxDone (if done = 0 then v else sendDec v o.ctx done 0 false core) core o) := by
  rw [exec_mmaComplete, execMmaComplete, if_neg (Nat.not_le_of_lt hcore)]
  simp only [hops, hkind, hdead, hgoing, hms, haty, Option.getD_some, hsound, htile, ← hv, Bool.not_true, Bool.false_eq_true, if_false]
  refine if_neg ?_
  simp only [List.any_eq_true, not_exists, not_and]
  rintro (_ | y) hy
  · exact Bool.false_ne_true
  · simpa only [List.any_eq_true, List.mem_map, List.mem_range, not_exists, not_and, Bool.not_eq_true, forall_exists_index, and_imp,
      forall_apply_eq_imp_iff₂] using hfull y hy

end

/-- Settles O43: each event is the step of the operation at the head of the queue. -/
theorem matrixEvents : Obligations.MatrixEvents := by
  unfold Obligations.MatrixEvents
  intro s u core o r hcore
  refine ⟨fun hu hops => ?start, fun hu hops hkind hdead hlive hfree => ⟨_, rfl, fun hhome => ?complete, fun haway => ?away⟩,
    fun m k ah rc aty bty vb acc bs z sat done w ms hops hkind hdead hgoing hms hfull haty hsound =>
      ⟨_, _, _, rfl, rfl, exec_mmaComplete_next hcore hops hkind hdead hgoing hms hfull haty hsound rfl rfl⟩⟩
  case start => rw [exec_mmaStart_next hcore, ← hu, mxLive_head hops]
  case complete => rw [exec_matrixOpComplete_next hcore hu hops hkind hdead hlive hfree rfl, if_pos hhome]
  case away => rw [exec_matrixOpComplete_next hcore hu hops hkind hdead hlive hfree rfl, haway, if_neg Bool.false_ne_true]

end Sys2Proof.Machine
end

section
/-! SUPPORT. Vector bursts and held currents (R48, R49, R404, R405), QUIESCE (R257, R406) and HALT (R407): what each does where its stream
issues or is stopped at the gate, then O50. -/

namespace Sys2Proof.Machine

open Host

/-! ### A stream that the gate stops -/

/-- Neither DIST nor WAIT holds a stream that may issue (R151, R152). -/
theorem MayIssue.nothing_awaited {s : State} {c : Cur} {x : Group} {i : Info} (hm : MayIssue s c x i) (cyc : Nat) :
    (distMet s c (retire cyc x) i.h.dist.toNat && waitMet (c.flags (retire cyc x)) i.h.wait) = true := by
  have hflags : ∀ k, flagOf (c.flags (retire cyc x)) k = flagOf (c.flags x) k := fun k => by unfold Cur.flags; split <;> rfl
  have hdist : distMet s c (retire cyc x) i.h.dist.toNat = true := distMet_of hm.dist
  have hwait : waitMet (c.flags (retire cyc x)) i.h.wait = true := waitMet_of fun k hk hb => (hflags k).trans (hm.wait k hk hb)
  rw [hdist, hwait]
  rfl

/-- A stream of a group that is not privileged is stopped before any other check (R275). -/
theorem MayIssue.verdict_unprivileged {s : State} {c : Cur} {x : Group} {i : Info} (hm : MayIssue s c x i) (hpriv : grpPriv s x = false)
    (cyc : Nat) : verdict s c (retire cyc x) { i with priv := true } = .trap 0x04 0 := by
  simp only [verdict, hm.nothing_awaited, grpPriv_retire, hpriv, Bool.not_true, Bool.not_false, Bool.and_self, Bool.false_eq_true, if_true, if_false]

/-- A case that the description of the instruction names RESERVED_FIELD stops a stream that may issue otherwise (R275). -/
theorem MayIssue.verdict_bad {s : State} {c : Cur} {x : Group} {i : Info} (hm : MayIssue s c x i) (cyc : Nat) :
    verdict s c (retire cyc x) { i with bad := true } = .trap 0x02 (c.word.extractLsb' 32 64) := by
  have hpriv : (i.priv && !grpPriv s x) = false := by
    cases hi : i.priv
    · rfl
    · rw [hm.priv hi]; rfl
  have hregs : ((i.reads (retire cyc x) ++ i.vw).any fun r => decide (regCount (retire cyc x) ≤ r)) = false := by
    simp only [List.any_eq_false, decide_eq_true_eq, Nat.not_le]
    simpa only [Info.reads, srcRegs_retire, regCount_retire] using hm.regs
  simp only [Info.reads] at hregs
  simp only [verdict, Info.reads, hm.nothing_awaited, grpPriv_retire, hpriv, hregs, Bool.not_true, Bool.true_or, Bool.false_eq_true, if_true,
    if_false, BitVec.setWidth_eq]

/-- A check that fails takes its trap, in the elected lane or in every lane whose guard is true (R380). -/
theorem gate_traps {s : State} {c : Cur} {x : Group} {i j : Info} {dsts : Env → List Dest} {e : Env} {post : State} (hg : Goes s c x i dsts e post)
    {code : Nat} {aux : DWord} (hv : verdict s c (retire (coreAt s (slotCore c.g)).cycle x) j = .trap code aux) (hh : j.h = i.h)
    (act : Env → State → State → State) :
    gate j s act = .next (takeTrap s c.g
      { code := code, lanes := if j.elect = true then e.act &&& (0 - e.act) else e.act, aux := aux } c.pc) := by
  have hgrp : (issueEnv s c x i.h).grp = retire (coreAt s (slotCore c.g)).cycle x := rfl
  rw [hg.env, gate]
  simp only [gateTo, hg.may.cur, hg.may.group, hh, hgrp, hv, trapAt]

/-- The group under way is that of the stream. -/
theorem Goes.curGroup {s : State} {c : Cur} {x : Group} {i : Info} {dsts : Env → List Dest} {e : Env} {post : State}
    (hg : Goes s c x i dsts e post) : curGroup s = some x := by
  rw [Machine.curGroup, hg.may.cur, Option.bind_some, hg.may.group]

/-- A stream of a privileged group issues a privileged instruction as any other (R275). -/
theorem Goes.privileged {s : State} {c : Cur} {x : Group} {i : Info} {dsts : Env → List Dest} {e : Env} {post : State}
    (hg : Goes s c x i dsts e post) (hpriv : grpPriv s x = true) : Goes s c x { i with priv := true } dsts e post :=
  ⟨{ hg.may with priv := fun _ => hpriv }, hg.env, hg.post⟩

/-- An immediate below 256 is the number that its ten bits spell. -/
theorem simm_imm_toNat {e : Env} {n : BitVec 10} (h : (e.simm (.imm n)).toNat < 256) : (e.simm (.imm n)).toNat = n.toNat := by
  have hn : n.toNat < 1024 := n.isLt
  simp only [Env.simm, BitVec.toNat_signExtend, BitVec.toNat_setWidth] at h ⊢
  cases hmsb : n.msb <;> simp only [hmsb, if_true, Bool.false_eq_true, if_false] at h ⊢ <;> omega

/-! ### Bursts and held currents (R404, R405) -/

section
variable {s : State} {c : Cur} {x : Group} {h : Hdr} {e : Env} {post pre : State}
  (hg : Goes s c x { h := h, once := true, elect := true } (nextWord { h := h }) e post) (ha : e.act ≠ 0) (hp : pre = { s with free := s.free + 1 })
include hg ha hp

/-- CRREL (R405). -/
theorem exec_crrel_goes : exec (.crrel h) s = .next (atOnce (endBurst post c.g) e h) := by
  obtain ⟨hslot, -⟩ := env_facts hg
  rw [exec_crrel, execCrrel, goes_once hg ha hp, hslot]

/-- CRES in either form, where the gate lets its stream issue (R404). -/
theorem cresForm_goes (a : SImm) {held : Bool} {b : Env → Nat} (hheld : held = true → grpPriv s x = true) :
    cresForm h a held b s = .next (
      if b e ≠ 0 ∧ grpPriv post e.grp = false then takeTrap pre c.g { code := 0x04, lanes := e.elect } c.pc
      else if (e.simm a).toNat = 0 ∨ 1048575 < (e.simm a).toNat ∨ 1023 < b e then trapReserved pre e.elect
      else startBurst post e h (e.simm a).toNat (if b e = 0 then 6 else b e) (b e != 0)) := by
  have hgate : ∀ act, gate { h := h, once := true, elect := true, priv := held } s act = .next (act e pre post) := by
    cases held
    · exact goes_once hg ha hp
    · exact goes_once (hg.privileged (hheld rfl)) ha hp
  rw [cresForm, hgate]
  simp only [trapAt_eq hg hp, Bool.and_eq_true, Bool.or_eq_true, bne_iff_ne, Bool.not_eq_true', decide_eq_true_eq, or_assoc, ne_eq]
  rfl

/-- A vector burst is open to every team (R404). -/
theorem exec_cres_goes (a : SImm) : exec (.cres h a) s = .next (
    if (e.simm a).toNat = 0 ∨ 1048575 < (e.simm a).toNat then trapReserved pre e.elect else startBurst post e h (e.simm a).toNat 6 false) := by
  rw [exec_cres, execCres, cresForm_goes hg ha hp a (fun hno => absurd hno Bool.false_ne_true)]
  simp only [ne_eq, not_true_eq_false, false_and, Nat.not_lt_zero, or_false, bne_self_eq_false, if_true, if_false]

/-- A held current, where the gate lets its stream issue (R404). -/
theorem exec_cresHold_goes (a b : SImm) (hheld : (∃ n, b = .imm n) → grpPriv s x = true) (hunits : (e.simm b).toNat ≠ 0) :
    exec (.cresHold h a b) s = .next (
      if grpPriv post e.grp = false then takeTrap pre c.g { code := 0x04, lanes := e.elect } c.pc
      else if (e.simm a).toNat = 0 ∨ 1048575 < (e.simm a).toNat ∨ 1023 < (e.simm b).toNat then trapReserved pre e.elect
      else startBurst post e h (e.simm a).toNat (e.simm b).toNat true) := by
  rw [exec_cresHold]
  unfold execCresHold
  rw [cresForm_goes hg ha hp a]
  · have hheld : ((e.simm b).toNat != 0) = true := bne_iff_ne.mpr hunits
    simp only [Env.num64, ne_eq, hunits, hheld, not_false_eq_true, true_and, if_false]
  · cases b with
    | s r => exact fun hno => absurd hno Bool.false_ne_true
    | imm n => exact fun _ => hheld ⟨n, rfl⟩

omit ha hp in
/-- A current that an immediate names is held, and checked with the word (R275, log entry 15). -/
theorem exec_cresHold_unprivileged (a : SImm) {n : BitVec 10} (hpriv : grpPriv s x = false) (hunits : (e.simm (.imm n)).toNat ≠ 0) :
    exec (.cresHold h a (.imm n)) s = .next (takeTrap s c.g { code := 0x04, lanes := e.act &&& (0 - e.act) } c.pc) := by
  have hn : (n != 0) = true := by
    rw [bne_iff_ne]
    rintro rfl
    exact hunits rfl
  rw [exec_cresHold, execCresHold, cresForm]
  simp only [hn]
  exact gate_traps hg (hg.may.verdict_unprivileged hpriv _) rfl _

end

/-- A burst that starts ends the one before it, and requests its current for its duration (R48, R404). -/
theorem startBurst_eq {post u v : State} {e : Env} {h : Hdr} {r ns units : Nat} {hold : Bool} {t : Team} (hu : u = endBurst post e.g)
    (ht : teamOf u e.grp.team = some t)
    (hr : request u (coreDomain e.core)
      { kind := .burst e.grp.uid, ctx := e.grp.ctx, team := t.uid, prio := e.grp.prio.toNat, i15 := units, dur := ns,
        gang := t.gang != 0 } = (r, v)) :
    startBurst post e h ns units hold = modGroup v e.g fun y =>
      { y with burst := some { req := r, ns := ns, hold := hold, sig := sigOf e.grp.uid h.set } } := by
  simp only [startBurst, ← hu, ht, Option.getD_some, hr]

/-! ### Another context, another flask (R406, R407) -/

/-- Both forms of QUIESCE name a context. -/
theorem exec_quiesce_forms {h : Hdr} {a : SImm} {i : Instr} (hi : i = .quiesce h a ∨ i = .quiesceResume h a) (s : State) :
    ∃ K, exec i s = quiesceForm h a K s := by
  rcases hi with rfl | rfl
  · exact ⟨_, exec_quiesce h a s⟩
  · exact ⟨_, exec_quiesceResume h a s⟩

/-- Both forms of HALT name a flask. -/
theorem exec_halt_forms {h : Hdr} {a : SImm} {i : Instr} (hi : i = .halt h a ∨ i = .haltRelease h a) (s : State) :
    ∃ K, exec i s = haltForm h a K s := by
  rcases hi with rfl | rfl
  · exact ⟨_, exec_halt h a s⟩
  · exact ⟨_, exec_haltRelease h a s⟩

section
variable {s : State} {c : Cur} {x : Group} {h : Hdr} {e : Env} {post pre : State}
  (hg : Goes s c x (sysInfo h) (nextWord (sysInfo h)) e post)
include hg

/-- An immediate that names the group's own context is refused with the word (log entry 15). -/
theorem quiesceForm_own {n : BitVec 10} (hown : n.toNat = x.ctx) (K : State → Nat → Sig → State) :
    quiesceForm h (.imm n) K s = .next (takeTrap s c.g
      { code := 0x02, lanes := e.act &&& (0 - e.act), aux := c.word.extractLsb' 32 64 } c.pc) := by
  have hbad : (Machine.curGroup s).any (fun x => x.ctx == n.toNat) = true := by rw [hg.curGroup, Option.any_some, hown, beq_self_eq_true]
  rw [quiesceForm]
  simp only [hbad]
  exact gate_traps hg (hg.may.verdict_bad _) rfl _

/-- An immediate that names the group's own flask is refused with the word (log entry 15). -/
theorem haltForm_own {n : BitVec 10} (hown : n.toNat = coreFlask e.core) (K : State → Nat → Sig → State) :
    haltForm h (.imm n) K s = .next (takeTrap s c.g
      { code := 0x02, lanes := e.act &&& (0 - e.act), aux := c.word.extractLsb' 32 64 } c.pc) := by
  obtain ⟨-, -, -, -, -, -, hcore⟩ := env_facts hg
  have hbad : s.cur.any (fun c => coreFlask (slotCore c.g) == n.toNat) = true := by rw [hg.may.cur, Option.any_some, hown, hcore, beq_self_eq_true]
  rw [haltForm]
  simp only [hbad]
  exact gate_traps hg (hg.may.verdict_bad _) rfl _

variable (ha : e.act ≠ 0) (hp : pre = { s with free := s.free + 1 }) {a : SImm} {k : Nat} {p : State} (hk : k = (e.simm a).toNat)
  (hdrain : p = drainAll post c.g)
include ha hp hk hdrain

/-- QUIESCE of a context that no immediate names as the group's own (R406). -/
theorem quiesceForm_goes (hother : ∀ n, a = .imm n → n.toNat ≠ x.ctx) (K : State → Nat → Sig → State) :
    quiesceForm h a K s = .next (if 256 ≤ k ∨ k = x.ctx then trapReserved pre e.elect
      else if drained p c.g = true then if ctxResident p k = false then atOnce p e h else K p k (sigOf x.uid h.set) else pre) := by
  obtain ⟨hslot, hctx, huid, -⟩ := env_facts hg
  have hgate : ∀ act, gate { sysInfo h with bad := match a with
      | .imm n => (Machine.curGroup s).any fun x => x.ctx == n.toNat
      | .s _ => false } s act = .next (act e pre post) := by
    intro act
    cases a with
    | s r => exact goes_once hg ha hp act
    | imm n =>
      simp only [hg.curGroup, Option.any_some, beq_eq_false_iff_ne.mpr (hother n rfl).symm]
      exact goes_once hg ha hp act
  unfold quiesceForm
  refine (hgate _).trans ?_
  simp only [Env.num64, ← hk, hctx, huid, afterDrain, hslot, ← hdrain, Bool.or_eq_true, decide_eq_true_eq, Bool.not_eq_true']

/-- HALT of a flask that no immediate names as the group's own (R407). -/
theorem haltForm_goes (hother : ∀ n, a = .imm n → n.toNat ≠ coreFlask e.core) (K : State → Nat → Sig → State) :
    haltForm h a K s = .next (if 32 ≤ k ∨ k = coreFlask e.core then trapReserved pre e.elect
      else if drained p c.g = true then K p k (sigOf x.uid h.set) else pre) := by
  obtain ⟨hslot, -, huid, -, -, -, hcore⟩ := env_facts hg
  have hgate : ∀ act, gate { sysInfo h with bad := match a with
      | .imm n => s.cur.any fun c => coreFlask (slotCore c.g) == n.toNat
      | .s _ => false } s act = .next (act e pre post) := by
    intro act
    cases a with
    | s r => exact goes_once hg ha hp act
    | imm n =>
      simp only [hg.may.cur, Option.any_some, ← hcore, beq_eq_false_iff_ne.mpr (hother n rfl).symm]
      exact goes_once hg ha hp act
  unfold haltForm
  refine (hgate _).trans ?_
  simp only [Env.num64, ← hk, huid, afterDrain, hslot, ← hdrain, Bool.or_eq_true, decide_eq_true_eq]

omit hg ha hp hdrain in
/-- A number below 256 that is not the group's own is not named as its own by an immediate either. -/
theorem imm_other {own : Nat} (hsmall : k < 256) (hne : k ≠ own) : ∀ n, a = .imm n → n.toNat ≠ own := by
  rintro n rfl
  rw [hk] at hsmall hne
  rwa [← simm_imm_toNat hsmall]

end

/-- Settles O50: each instruction is stopped at the gate, traps on its operands, or does what the state of its target asks for. -/
theorem currentAndHaltResults : Obligations.CurrentAndHaltResults := by
  unfold Obligations.CurrentAndHaltResults
  intro s c x h e post pre ha hp
  refine ⟨fun hg => ⟨exec_crrel_goes hg ha hp, ?current⟩, fun u v r ns units hold t hu ht hr => startBurst_eq hu ht hr, ?target⟩
  case current =>
    rintro a ns rfl
    refine ⟨fun hbad => ?cresBad, fun hlo hhi => ?cres, ?hold⟩
    case cresBad => rw [exec_cres_goes hg ha hp, if_pos hbad]
    case cres => rw [exec_cres_goes hg ha hp, if_neg (by omega)]
    case hold =>
      rintro b u rfl hunits
      refine ⟨?word, ?register, fun hpriv hprivNow => ?privileged⟩
      case word =>
        rintro ⟨n, rfl⟩ hpriv
        exact exec_cresHold_unprivileged hg a hpriv hunits
      case register =>
        rintro ⟨n, rfl⟩ hpriv
        rw [exec_cresHold_goes hg ha hp a _ (by rintro ⟨m, hm⟩; cases hm) hunits, if_pos hpriv]
      case privileged =>
        rw [exec_cresHold_goes hg ha hp a b (fun _ => hpriv) hunits, if_neg (by rw [hprivNow]; decide)]
        exact ⟨fun hbad => by rw [if_pos hbad], fun hlo hhi hmost => by rw [if_neg (by omega)]⟩
  case target =>
    rintro a k p bad hg hk hdrain rfl
    refine ⟨fun i hi => ?quiesceTraps, fun hsmall hne hd => ?quiesce, fun i hi => ?haltTraps, fun hsmall hne hd => ?halt⟩
    case quiesceTraps =>
      obtain ⟨K, hform⟩ := exec_quiesce_forms hi s
      rw [hform]
      refine ⟨?_, fun hother hbad => by rw [quiesceForm_goes hg ha hp hk hdrain hother, if_pos hbad]⟩
      rintro ⟨n, rfl, hown⟩
      exact quiesceForm_own hg hown K
    case haltTraps =>
      obtain ⟨K, hform⟩ := exec_halt_forms hi s
      rw [hform]
      refine ⟨?_, fun hother hbad => by rw [haltForm_goes hg ha hp hk hdrain hother, if_pos hbad]⟩
      rintro ⟨n, rfl, hown⟩
      exact haltForm_own hg hown K
    case quiesce =>
      have hgoes : ∀ K, quiesceForm h a K s = .next (if ctxResident p k = false then atOnce p e h else K p k (sigOf x.uid h.set)) := fun K => by
        rw [quiesceForm_goes hg ha hp hk hdrain (imm_other hk hsmall hne), if_neg (not_or.mpr ⟨Nat.not_le_of_lt hsmall, hne⟩), if_pos hd]
      refine ⟨fun haway i hi => ?away, fun hhere => ?here⟩
      case away =>
        obtain ⟨K, hform⟩ := exec_quiesce_forms hi s
        rw [hform, hgoes, if_pos haway]
      case here =>
        rw [exec_quiesceResume, execQuiesceResume, hgoes, exec_quiesce, execQuiesce, hgoes, hhere]
        exact ⟨rfl, fun u hu => by rw [hu]; rfl⟩
    case halt =>
      have hgoes : ∀ K, haltForm h a K s = .next (K p k (sigOf x.uid h.set)) := fun K => by
        rw [haltForm_goes hg ha hp hk hdrain (imm_other hk (Nat.lt_trans hsmall (by decide)) hne),
          if_neg (not_or.mpr ⟨Nat.not_le_of_lt hsmall, hne⟩), if_pos hd]
      rw [exec_halt, execHalt, hgoes, exec_haltRelease, execHaltRelease, hgoes]
      refine ⟨fun hgated => ?gated, fun hruns => ?runs⟩
      case gated =>
        rw [hgated]
        exact ⟨rfl, rfl⟩
      case runs =>
        rw [hruns]
        exact ⟨rfl, fun u hu => by rw [hu]; rfl⟩

end Sys2Proof.Machine
end

section
/-! SUPPORT. The copy engine of a core (R48, R52, R183, R368, R369) and the bellows (R54, R125, R155, R375, R376) at work, case by case, then
O35. -/

namespace Sys2Proof.Machine

open Host

/-! ### The copy at the head starts (R48, R53, R368) -/

section
variable {s : State} {core : Nat} {k : Copy} {rest : List Copy} (hhead : (coreAt s core).copies = k :: rest)
include hhead

theorem modHead_eq (f : Copy → Copy) : modHead s core f = modCore s core fun q => { q with copies := f k :: rest } := by
  simp only [modHead, modCore, hhead]

/-- More than a microsecond before its time, a copy claims nothing (R368). -/
theorem copyNear_early (hearly : flaskDrone s (coreFlask core) + 1000 < k.start.toNat) : copyNear s core = (false, s) := by
  simp only [copyNear, hhead, hearly, if_true]

/-- A copy near its time that needs no slot of a buffer, or has claimed one, is ready for its current (R183, R368). -/
theorem copyNear_claimed (hnear : k.start.toNat ≤ flaskDrone s (coreFlask core) + 1000) (hslot : k.dsp ≠ 2 ∨ k.claim ≠ none) :
    copyNear s core = (true, s) := by
  have hclaimed : (k.dsp != 2 || k.claim.isSome) = true := by
    simpa only [Bool.or_eq_true, bne_iff_ne, Option.isSome_iff_ne_none] using hslot
  simp only [copyNear, hhead, Nat.not_lt.mpr hnear, hclaimed, if_true, if_false]

/-- A copy goes once its time has come and its current is live; one of zero bytes needs no current (R53, R369). -/
theorem copyGo_goes (hidle : k.going = false) (htime : k.start.toNat ≤ flaskDrone s (coreFlask core))
    (hcurrent : k.none' = true ∨ (k.req ≠ 0 ∧ liveAt s (coreDomain core) k.req = true)) :
    copyGo s core = modCore s core fun q => { q with copies := { k with going := true } :: rest } := by
  have hready : (!k.going && (k.none' || k.req != 0 && liveAt s (coreDomain core) k.req) && reached s (coreFlask core) k.start) = true := by
    simpa only [hidle, reached, Bool.not_false, Bool.true_and, Bool.and_eq_true, Bool.or_eq_true, bne_iff_ne, decide_eq_true_eq]
      using And.intro hcurrent htime
  simp only [copyGo, hhead, hready, if_true]
  exact modHead_eq hhead _

variable (hidle : k.going = false)
include hidle

theorem cpyStart_early (hearly : flaskDrone s (coreFlask core) + 1000 < k.start.toNat) : cpyStart s core = s := by
  simp only [cpyStart, hhead, hidle, copyNear_early hhead hearly, Bool.not_false, Bool.false_eq_true, if_true, if_false]

variable (hnear : k.start.toNat ≤ flaskDrone s (coreFlask core) + 1000) (hslot : k.dsp ≠ 2 ∨ k.claim ≠ none)
include hnear hslot

/-- A copy that has asked for its current, or needs none, asks for no other (R48, R369). -/
theorem cpyStart_asked (hasked : k.none' = true ∨ k.req ≠ 0) : cpyStart s core = copyGo s core := by
  have hno : (k.none' || k.req != 0) = true := by
    simpa only [Bool.or_eq_true, bne_iff_ne] using hasked
  simp only [cpyStart, hhead, hidle, copyNear_claimed hhead hnear hslot, hno, Bool.not_true, Bool.false_eq_true, if_true, if_false]

/-- A copy that moves bytes asks for its current (R48, R368). -/
theorem cpyStart_asks (hbytes : k.none' = false) (hreq : k.req = 0) {id : Nat} {u : State}
    (hu : request s (coreDomain core) (copyNeed s core k) = (id, u)) :
    cpyStart s core = copyGo (modHead u core fun q => { q with req := id }) core := by
  have hno : (k.none' || k.req != 0) = false := by rw [hbytes, hreq]; rfl
  simp only [cpyStart, hhead, hidle, copyNear_claimed hhead hnear hslot, hno, hu, Bool.not_true, Bool.false_eq_true, if_false]

end

theorem exec_cpyStart_next {core : Nat} (hcore : core < 512) (s : State) : exec (.cpyStart core) s = .next (cpyStart s core) := by
  rw [exec_cpyStart, execCpyStart, if_neg (Nat.not_le_of_lt hcore)]

/-! ### A copy under way completes (R196, R368, R369) -/

/-- A copy whose bytes are at home waits for the line of its STATUS word, or stores it, counts its slot filled, completes, stops its group where
it has failed, and hands its reservation on. -/
theorem exec_cpyComplete_next {s u v : State} {core : Nat} {k q : Copy} {rest r : List Copy} (hcore : core < 512)
    (hhead : (coreAt s core).copies = k :: rest) (hgoing : k.going = true) (hheld : copyHeld s core k = false)
    (hu : u = if k.moved = true then s else copyMove s core k) (hq : (coreAt u core).copies = q :: r) (hhome : k.dsp ≠ 0 ∨ noInvs u core = true)
    (hv : v = complete (modCore (if q.claim.isSome = true then resave (modBuf (copyStatus u core q) core q.buf
        fun b => { b with filled := b.filled + 1, copying := b.copying - 1 }) q.team else copyStatus u core q) core
        fun m => { m with copies := m.copies.drop 1 }) q.uid q.sig q.ui (BitVec.ofNat 64 q.utag)) :
    exec (.cpyComplete core) s = .next (if statusHeld u core q = true then u else
      copyNext ((copyFault u core q).elim v fun a => deferCause v q.uid { code := 0x18, lanes := q.lanes, addr := a, origin := q.word })
        core q.req) := by
  have hthere : (decide (k.dsp = 0) && !noInvs u core) = false := by
    rcases hhome with hdsp | hno
    · rw [decide_eq_false hdsp, Bool.false_and]
    · rw [hno, Bool.not_true, Bool.and_false]
  rw [exec_cpyComplete, execCpyComplete, if_neg (Nat.not_le_of_lt hcore)]
  simp only [hhead, hgoing, hheld, Bool.not_true, Bool.or_self, Bool.false_eq_true, if_false, ← hu, hthere, hq, ← hv]
  cases statusHeld u core q
  · cases copyFault u core q <;> rfl
  · rfl

/-! ### A stream reads an element (R54, R125, R155, R175, R187, R375, R376) -/

section
variable {s u : State} {g : Nat} {q : BitVec 2} {x : Group} {r : Ring} {st : Stream} {vals : List (List EngB)} {m : Met}
  (hx : groupAt s g = some x) (hr : r = ringOf x q.toNat) (hst : r.stream = some st)
  (hlive : liveAt s (coreDomain (slotCore g)) st.req = true) (hgoes : st.halted = none) (hroom : x.done = true ∨ r.tail - r.head < r.depth)
  (hread : elementRead { core := slotCore g, ctx := x.ctx, sysT := x.sysT, slot := g % 64, no := st.no } st { s with free := s.free + 1 } =
    (vals, m, u))
include hlive hgoes hroom

/-- Nothing holds the next element of a stream whose current is live and whose ring has room, or whose group has been killed. -/
theorem element_due :
    (!liveAt s (coreDomain (slotCore g)) st.req || st.halted.isSome || (!x.done && decide (r.depth ≤ r.tail - r.head))) = false := by
  have hfits : (!x.done && decide (r.depth ≤ r.tail - r.head)) = false := by
    rcases hroom with hdone | hspace
    · rw [hdone]; rfl
    · rw [decide_eq_false (Nat.not_le_of_lt hspace), Bool.and_false]
  rw [hlive, hgoes, hfits]
  rfl

include hx hr hst hread

/-- A line that a sub-block has to itself keeps the element waiting (R175). -/
theorem exec_bellowsElement_held (hlock : m.lock = true) : exec (.bellowsElement g q) s = .next s := by
  rw [exec_bellowsElement, execBellowsElement]
  simp only [hx, ← hr, hst, element_due hlive hgoes hroom, draw, hread, hlock, Bool.false_eq_true, if_true, if_false]

variable (hfree : m.lock = false)
include hfree

/-- A page that failed ends the stream and stops its group (R375; log entry 33). -/
theorem exec_bellowsElement_fails {a : DWord} (hfault : m.fault = some a) : exec (.bellowsElement g q) s = .next (deferCause
    (endStream u g q.toNat false) x.uid { code := 0x18, lanes := aliveLanes x, addr := a, origin := st.word }) := by
  rw [exec_bellowsElement, execBellowsElement]
  simp only [hx, ← hr, hst, element_due hlive hgoes hroom, draw, hread, hfree, hfault, Bool.false_eq_true, if_false]

variable (hsound : m.fault = none)
include hsound

/-- A page that is not resident halts the stream with a notice (R375). -/
theorem exec_bellowsElement_halts {y : Nat × DWord × Nat} (hmiss : m.miss.find? (fun y => !st.refused.contains y.1) = some y) :
    exec (.bellowsElement g q) s = .next (putRing (residNotice u 5 0 x.ctx 0 (slotCore g) (g % 64) y.2.1) g q.toNat
      fun k => { k with stream := some { st with halted := some y.1 } }) := by
  rw [exec_bellowsElement, execBellowsElement]
  simp only [hx, ← hr, hst, element_due hlive hgoes hroom, draw, hread, hfree, hsound, hmiss, Bool.false_eq_true, if_false]

/-- The next register of the ring takes an element for every lane and is full; the tail and the count rise, and the stream ends with its last
(R125, R375, R376). -/
theorem exec_bellowsElement_fills {v : State} (hthere : m.miss.find? (fun y => !st.refused.contains y.1) = none) (hclean : m.poison = none)
    (hv : v = putRing (modGroup u g fun y => markFull [r.rbase + st.k % max 1 r.depth]
        (elementPut st vals s.free (r.rbase + st.k % max 1 r.depth) y)) g q.toNat
      fun k => { k with tail := k.tail + 1, stream := some { st with k := st.k + 1 } }) :
    exec (.bellowsElement g q) s = .next (if st.k + 1 = st.n then endStream v g q.toNat true else v) := by
  rw [exec_bellowsElement, execBellowsElement]
  simp only [hx, ← hr, hst, element_due hlive hgoes hroom, draw, hread, hfree, hsound, hthere, hclean, Bool.false_eq_true, if_false, ← hv]

end

/-- Settles O35: the copy at the head starts and completes case by case, and a stream reads its next element case by case. -/
theorem copyAndStreamEvents : Obligations.CopyAndStreamEvents := by
  unfold Obligations.CopyAndStreamEvents
  refine ⟨?copy, ?stream⟩
  case copy =>
    intro s core k rest hcore hhead
    refine ⟨fun hidle hearly => ?early, fun hidle htime hslot hcurrent => ?starts, fun hidle hnear hdsp hbytes hreq => ?asks,
      fun u v q r hgoing hheld hu hq hhome => ⟨fun hstatus => ?statusHeld,
        fun hstatus hv => ⟨fun hsound => ?completes, fun a hfault => ?fails⟩⟩⟩
    case early => rw [exec_cpyStart_next hcore, cpyStart_early hhead hidle hearly]
    case starts =>
      rw [exec_cpyStart_next hcore, cpyStart_asked hhead hidle (Nat.le_add_right_of_le htime) hslot (hcurrent.imp_right And.left),
        copyGo_goes hhead hidle htime hcurrent]
    case asks =>
      obtain ⟨⟨id, u⟩, hu⟩ : ∃ p, request s (coreDomain core) (copyNeed s core k) = p := ⟨_, rfl⟩
      exact ⟨id, u, hu, by rw [exec_cpyStart_next hcore, cpyStart_asks hhead hidle hnear (.inl hdsp) hbytes hreq hu]⟩
    case statusHeld => rw [exec_cpyComplete_next hcore hhead hgoing hheld hu hq hhome rfl, if_pos hstatus]
    case completes =>
      rw [exec_cpyComplete_next hcore hhead hgoing hheld hu hq hhome hv, hstatus, if_neg Bool.false_ne_true, hsound, Option.elim_none]
    case fails =>
      rw [exec_cpyComplete_next hcore hhead hgoing hheld hu hq hhome hv, hstatus, if_neg Bool.false_ne_true, hfault, Option.elim_some]
  case stream =>
    intro s u g q x r st vals m hx hr hst hlive hgoes hroom hread
    exact ⟨exec_bellowsElement_held hx hr hst hlive hgoes hroom hread,
      fun a hfree hfault => exec_bellowsElement_fails hx hr hst hlive hgoes hroom hread hfree hfault,
      fun hfree hsound => ⟨fun y hmiss => exec_bellowsElement_halts hx hr hst hlive hgoes hroom hread hfree hsound hmiss,
        fun hthere hclean => ⟨_, rfl, exec_bellowsElement_fills hx hr hst hlive hgoes hroom hread hfree hsound hthere hclean rfl⟩⟩⟩

end Sys2Proof.Machine
end

section
/-! SUPPORT. How groups are parked and saved (R246, R251), come back (R252), move (R64) and lose to errors (R187), and what the kernel's answers
and the notices do (R72, R170, R257, R356, R375), case by case, then O54. -/

namespace Sys2Proof.Machine

open Host

/-! ### Parks and saves (R57, R86, R246, R251, R407) -/

section
variable {s : State} {g : Nat} {x : Group} {r : ParkReq} (hx : groupAt s g = some x) (hpark : x.park = some r) (hparked : grpParked x = true)
include hx hpark hparked

/-- A deferred cause goes before the park (R251). -/
theorem exec_groupParked_deferred {c : Cause} {rest : List Cause} (hcauses : x.causes = c :: rest) :
    exec (.groupParked g) s = .next (takeTrap (setGroup s g { x with causes := rest }) g c (mainPath x).1) := by
  rw [exec_groupParked, execGroupParked]
  simp only [hx, hparked, hpark, hcauses, Bool.not_true, Bool.false_eq_true, if_false]

/-- A QUOTA stop is a trap at a safe point (R57, R250). -/
theorem exec_groupParked_quota (hnone : x.causes = []) (hwhy : r.why = .quota) : exec (.groupParked g) s = .next (takeTrap s g
    { code := 0x0C, lanes := aliveLanes x, aux := sysVal s (sel 10 x.ctx) } (mainPath x).1) := by
  rw [exec_groupParked, execGroupParked]
  simp only [hx, hparked, hpark, hnone, hwhy, Bool.not_true, Bool.false_eq_true, if_false]

/-- Any other park is a save (R246). -/
theorem exec_groupParked_saved (hnone : x.causes = []) (hwhy : r.why ≠ .quota) :
    exec (.groupParked g) s = .next (saveParked s g r.why) := by
  rw [exec_groupParked, execGroupParked]
  -- `hwhy` rules the arm of the QUOTA stop out
  simp only [hx, hparked, hpark, hnone, Bool.not_true, Bool.false_eq_true, if_false]

end

/-- The parks that take the whole team (R64, R86, R407). -/
theorem wholePark_iff (why : ParkWhy) : wholePark why = true ↔ why = .migrate ∨ why = .retire ∨ why = .halt := by
  cases why <;> decide

/-- A team has parked once its engine operations are over and each of its groups stands parked or is saved (R64). -/
theorem teamParked_iff (s : State) (uid : Nat) : teamParked s uid = true ↔
    engineIdle s uid = true ∧ ∀ p, p ∈ s.groups → p.2.team = uid → p.2.done = false → grpParked p.2 = true := by
  simp only [teamParked, Bool.and_eq_true, List.all_eq_true, List.mem_filter, beq_iff_eq, Bool.not_eq_true', and_imp]

/-- Where lanes stand does not rest on the results still due. -/
theorem mainPath_recents (y : Group) (rs : List Recent) : mainPath { y with recents := rs } = mainPath y := rfl

/-- A save goes ahead where its park takes one group, or the team has parked (R64, R86, R407). -/
theorem save_goes_ahead {s : State} {uid : Nat} {why : ParkWhy} (hgoes : wholePark why = true → teamParked s uid = true) :
    (wholePark why && !teamParked s uid) = false := by
  cases hwhole : wholePark why
  · rfl
  · rw [hgoes hwhole]; rfl

section
variable {s : State} {g : Nat} {x : Group} {why : ParkWhy} (hx : groupAt s g = some x)
include hx

/-- A park that takes the whole team waits for the rest of it (R64). -/
theorem saveParked_waits (hwhole : wholePark why = true) (hteam : teamParked s x.team = false) : saveParked s g why = s := by
  simp only [saveParked, hx, hwhole, hteam, Bool.not_false, Bool.and_self, if_true]

variable (hgoes : wholePark why = true → teamParked s x.team = true) {u v : State} {y : Group} {ok : Bool}
  (hu : u = settleFixed (stopStreams (endBurst s g) g) x.uid) (hrel : release u g .dev = (ok, v)) (hy : groupAt v g = some y)
include hgoes hu hrel hy

/-- A release that is not complete leaves the group where it is (R246). -/
theorem saveParked_releasing (hok : ok = false) : saveParked s g why = v := by
  simp only [saveParked, hx, save_goes_ahead hgoes, ← hu, hrel, hy, hok, Bool.not_false, Bool.true_or, Bool.false_eq_true, if_true,
    if_false]

/-- A group whose release is complete and whose save conditions hold is saved for its reason (R153, R246). -/
theorem saveParked_saves (hok : ok = true) {liveOnly : Bool} (hlive : liveOnly = (why != .debug && grpSafe y)) {st : Stop}
    (hst : st =
      { code := 0, pc := (mainPath y).1, lanes := 0, addr := 0, aux := 0, word := 0, origin := 0,
        drone := BitVec.ofNat 64 (flaskDrone v (coreFlask (slotCore g))), flags := if liveOnly = true then 2 else 0 })
    (hready : saveReady v y liveOnly = true) {b : Bool} {t : State} (himage : writeImage v g { y with recents := [] } st liveOnly = (some b, t)) :
    saveParked s g why = parkAs t g { y with recents := [] } b st (some why) liveOnly := by
  subst hlive hst
  simp only [saveParked, hx, save_goes_ahead hgoes, ← hu, hrel, hy, hok, hready, mainPath_recents, himage, Bool.not_true,
    Bool.or_self, Bool.false_eq_true, if_false]

end

/-! ### The kernel brings a group back or kills it (R252) -/

section
variable {s : State} {i : Nat} {p : Parked} (hp : s.parked[i]? = some p)
include hp

theorem exec_groupKill_next : exec (.groupKill i) s = .next (killParked s p.g.uid) := by
  rw [exec_groupKill, execGroupKill]
  simp only [hp]

variable {core quarter : Nat} {u v : State} (hmay : mayResume s p core = true)
  (hu : u = modTeam (if ((teamOf s p.g.team).map fun t => t.saved).getD false = true then moveTeam s p.g.team core else s) p.g.team
    fun t => { t with moving := false })
include hmay hu

/-- A saved group comes back on a core that may have it, and a team that is saved whole takes its binding along (R252; log entry 42). -/
theorem kernelResume_eq {edit : Parked → Group → Group} (hput : putBack u i core quarter edit = some v) :
    kernelResume s i core quarter edit = v := by
  simp only [kernelResume, hp, hmay, Bool.not_true, Bool.false_eq_true, if_false, ← hu, hput, Option.getD_some]

theorem exec_groupResume_next (hput : putBack u i core quarter passBreak = some v) : exec (.groupResume i core quarter) s = .next v := by
  rw [exec_groupResume, execGroupResume, kernelResume_eq hp hmay hu hput]

/-- A context with a trap handler is redirected to it (R252). -/
theorem exec_groupRedirect_next (hhandler : descField s p.g.ctx 0x30 4 ≠ 0xFFFFFFFF)
    (hput : putBack u i core quarter (redirect (BitVec.ofNat 32 (descField s p.g.ctx 0x30 4))) = some v) :
    exec (.groupRedirect i core quarter) s = .next v := by
  rw [exec_groupRedirect, execGroupRedirect]
  simp only [hp, if_neg hhandler, kernelResume_eq hp hmay hu hput]

end

/-! ### The kernel's answers and the notices (R72, R170, R257, R356, R375) -/

theorem exec_ctxctlPark_next {ctx : Nat} (hctx : ctx < 256) (s : State) : exec (.ctxctlPark ctx) s = .next (parkCtx s ctx) := by
  rw [exec_ctxctlPark, execCtxctlPark, if_neg (Nat.not_le_of_lt hctx)]

theorem exec_ctxctlResume_next {ctx : Nat} (hctx : ctx < 256) (s : State) : exec (.ctxctlResume ctx) s = .next (resumeCtx s ctx) := by
  rw [exec_ctxctlResume, execCtxctlResume, if_neg (Nat.not_le_of_lt hctx)]

theorem exec_residencyResolved_group (g : Nat) (mapped : Bool) (s : State) :
    exec (.residencyResolved (.group g) mapped) s = .next (resumeGroup s g mapped) := by
  rw [exec_residencyResolved, execResidencyResolved]

/-- A stream goes on once the page on which it halted is mapped (R375). -/
theorem exec_residencyResolved_stream {s : State} {g q page : Nat} {x : Group} {t : Stream} (hx : groupAt s g = some x)
    (hst : (ringOf x q).stream = some t) (hhalted : t.halted = some page) (hmapped : pageMapped s x.ctx page = true) :
    exec (.residencyResolved (.stream g q) true) s = .next (putRing s g q fun r => { r with stream := some { t with halted := none } }) := by
  rw [exec_residencyResolved, execResidencyResolved]
  simp only [resumeStream, hx, hst, hhalted, hmapped, Option.bind_some, Option.map_some, Bool.not_true, Bool.and_false, Bool.false_eq_true,
    if_true, if_false]

/-- A producer writes the entry that it holds once its queue has room (R72). -/
theorem exec_noticeWrite_next {s u v : State} {i : Nat} {n : NoticeS} (hn : s.notices[i]? = some n)
    (hu : u = { s with notices := s.notices.eraseIdx i }) (hput : queuePut u n.queue n.bytes = some v) : exec (.noticeWrite i) s = .next v := by
  rw [exec_noticeWrite, execNoticeWrite]
  simp only [hn, ← hu, hput, Option.getD_some]

/-- A page request is complete with its last page (R356). -/
theorem exec_preqComplete_next {s : State} {id page : Nat} {q : Preq} {rest : List Nat} (hq : s.preqs.find? (fun q => q.id == id) = some q)
    (hpage : page ∈ q.pages) (hmapped : pageMapped s q.ctx page = true) (hrest : rest = q.pages.filter fun p => p != page) :
    exec (.preqComplete id page true) s = .next (if rest = [] then fall { s with preqs := s.preqs.filter fun r => r.id != id } q.sig
      else { s with preqs := updFirst (fun r => r.id == id) (fun r => { r with pages := rest }) s.preqs }) := by
  rw [exec_preqComplete, execPreqComplete]
  simp only [hq, List.contains_iff_mem.mpr hpage, hmapped, Bool.not_true, Bool.and_false, Bool.or_self, Bool.false_eq_true, if_false, ← hrest,
    List.isEmpty_iff]
  exact (apply_ite Outcome.next _ _ _).symm

/-! ### Overruns and migration (R64) -/

section
variable {s : State} {g : Nat} {x : Group} {r : ParkReq} {t : Team} (hx : groupAt s g = some x) (hpark : x.park = some r)
  (ht : teamOf s x.team = some t) (hover : overran s g x r = true)
include hx hpark ht hover

/-- A region that overruns starts again, on the flask chosen for it if one was, where its team may (R64). -/
theorem exec_regionOverrun_again (hidem : t.idem = true) {core : Nat}
    (hcore : core = t.migTo.elim (t.core.getD (slotCore g)) fun fl => 16 * fl + t.core.getD (slotCore g) % 16) :
    exec (.regionOverrun g) s = .next (relaunchTeam (dropMig s t.uid) t.uid core) := by
  rw [exec_regionOverrun, execRegionOverrun, hcore]
  simp only [hx, hpark, ht, hover, hidem, Bool.not_true, Bool.false_eq_true, if_true, if_false]
  cases t.migTo <;> rfl

/-- Another is killed with a record (R64). -/
theorem exec_regionOverrun_killed (hidem : t.idem = false) : exec (.regionOverrun g) s =
    .next (killTeam (killRecord (withdrawMig s x 0x0D) g x 0x0D (BitVec.ofNat 64 r.issued) false) t.uid) := by
  rw [exec_regionOverrun, execRegionOverrun]
  simp only [hx, hpark, ht, hover, hidem, Bool.not_true, Bool.false_eq_true, if_false]

end

/-- A team that has parked whole to migrate goes on on the first core of the flask chosen that has room for it, with a notice (R64). -/
theorem exec_migrated_next {s u : State} {team fl : Nat} {t : Team} (hfl : fl < 32) (ht : teamOf s team = some t) (hto : t.migTo = some fl)
    (hidle : engineIdle s team = true) (hsaved : ∃ p, p ∈ s.parked ∧ p.g.team = team)
    (hnone : ∀ p, p ∈ s.groups → p.2.team = team → p.2.done = true)
    (hcore : (((List.range 16).map fun k => 16 * fl + (k + Config.freeNat s.free 0) % 16).findSome? fun c =>
      if coreOpen s c && mxFollows s t c then moveAll { s with free := s.free + 1 } team c else none) = some u) :
    exec (.migrated team fl) s = .next (powerNotice (dropMig u team) 2 t.ctx (((teamOf u team).bind fun t => t.core).getD 0) fl
      (BitVec.ofNat 64 t.index) (BitVec.ofNat 64 ((t.core.map coreFlask).getD 0 + 256 * fl))) := by
  have hparked : (!(s.parked.filter fun p => p.g.team == team).isEmpty && !s.groups.any fun p => p.2.team == team && !p.2.done) = true := by
    simpa only [Bool.and_eq_true, Bool.not_eq_true', List.isEmpty_eq_false_iff, ne_eq, List.filter_eq_nil_iff, beq_iff_eq, Classical.not_forall,
      Classical.not_not, exists_prop, List.any_eq_false, not_and, Bool.not_eq_false] using And.intro hsaved hnone
  rw [exec_migrated, execMigrated, if_neg (Nat.not_le_of_lt hfl)]
  simp only [ht, hto, hparked, hidle, hcore, bne_self_eq_false, Bool.not_true, Bool.or_self, Bool.false_eq_true, if_false]

/-! ### Errors (R187) -/

/-- A line below L1 that has not been cleared is poisoned (R187). -/
theorem exec_uncorrectableError_line {s : State} {line : Nat} (htier : keyTier (128 * line) < 2) (hclear : (lineFor s 0 line).clear = false) :
    exec (.uncorrectableError (.line line)) s = .next (poisonLine s 0 line) := by
  rw [exec_uncorrectableError, execUncorrectableError]
  simp only [decide_eq_false (Nat.not_le_of_lt htier), hclear, Bool.or_self, Bool.false_eq_true, if_false]

/-- A corrected error of storage of a core is counted, with a notice for every 256th (R74, R187; log entry 43). -/
theorem exec_corrected_core {s u : State} {kind unit n : Nat} (hkind : kind < 5) (hn : n = mget s.corrected (kind * 2 ^ 32 + unit) 0 + 1)
    (hu : u = { s with corrected := mput s.corrected (kind * 2 ^ 32 + unit) n }) (line : Nat) :
    exec (.corrected kind unit line) s = .next (if n % 256 = 0
      then serviceNotice u 1 0xFF (unit % 512) (unit % 512 / 16) (BitVec.ofNat 64 kind) (BitVec.ofNat 64 0) else u) := by
  rw [exec_corrected, execCorrected, if_neg (by omega)]
  simp only [hkind, if_true, ← hn, ← hu]

/-- Settles O54: each event is the step of its unit on the group, the team or the storage that it names. -/
theorem parkEvents : Obligations.ParkEvents := by
  unfold Obligations.ParkEvents
  intro s g x hx
  refine ⟨fun r hpark hparked => ⟨fun c rest => exec_groupParked_deferred hx hpark hparked, exec_groupParked_quota hx hpark hparked,
      exec_groupParked_saved hx hpark hparked⟩,
    fun why hwhole hrest => ?waits, fun u v y ok b t hu hrel hy why hgoes => ?saves,
    fun i core quarter p u v hp => ⟨exec_groupKill_next hp,
      fun hmay hu => ⟨exec_groupResume_next hp hmay hu, exec_groupRedirect_next hp hmay hu⟩⟩,
    fun ctx hctx => ⟨exec_ctxctlPark_next hctx s, exec_ctxctlResume_next hctx s⟩, fun mapped => ?pageOfGroup,
    fun q t page => exec_residencyResolved_stream hx, fun i n u v => exec_noticeWrite_next, fun id page q rest hq hpage hmapped hrest => ?preq,
    fun r t hpark ht hover => ⟨fun hidem => exec_regionOverrun_again hx hpark ht hover hidem ?core, exec_regionOverrun_killed hx hpark ht hover⟩,
    fun team fl t u => exec_migrated_next, fun uid gid kind => exec_uncorrectableError _ s, fun uid kind => exec_uncorrectableError _ s,
    fun line => exec_uncorrectableError_line, fun kind unit line n u hkind hn hu => exec_corrected_core hkind hn hu line⟩
  case waits =>
    refine saveParked_waits hx ((wholePark_iff why).mpr hwhole) ?_
    rw [← Bool.not_eq_true, teamParked_iff]
    rintro ⟨hidle, hall⟩
    rcases hrest with hbusy | ⟨p, hp, hteam, hdone, hstands⟩
    · exact Bool.false_ne_true (hbusy.symm.trans hidle)
    · exact Bool.false_ne_true (hstands.symm.trans (hall p hp hteam hdone))
  case saves =>
    have hparked : wholePark why = true → teamParked s x.team = true := by
      rw [wholePark_iff, teamParked_iff]
      rcases hgoes with ⟨hmigrate, hretire, hhalt⟩ | hparked
      · rintro (h | h | h) <;> contradiction
      · exact fun _ => hparked
    exact ⟨saveParked_releasing hx hparked hu hrel hy, fun hok hready himage => saveParked_saves hx hparked hu hrel hy hok rfl rfl hready himage⟩
  case pageOfGroup => exact (exec_residencyResolved_group g mapped s).trans (congrArg Outcome.next (modGroup_eq hx _))
  case preq =>
    rw [exec_preqComplete_next hq hpage hmapped hrest]
    exact ⟨fun hlast => by rw [if_pos hlast], fun hmore => by rw [if_neg hmore]⟩
  case core => cases t.migTo <;> rfl

end Sys2Proof.Machine
end

section
/-! SUPPORT. Reservations of the operand buffer (R84, R215, R217, R384, R385) and the baton (R224, R393): what each instruction does where its
stream issues, case by case, then O40. -/

namespace Sys2Proof.Machine

open Host

/-- A team is listed under its own identity. -/
theorem uid_of_teamOf {s : State} {uid : Nat} {t : Team} (ht : teamOf s uid = some t) : t.uid = uid := by
  simpa only [beq_iff_eq] using List.find?_some ht

/-- The unit is another team's, or has an operation of another team that is not complete (log entry 34). -/
theorem unit_elsewhere_iff (mx : Matrix) (uid : Nat) :
    ((mx.holder.isSome && mx.holder != some uid) || mx.ops.any fun o => o.team != uid) = true ↔
      (mx.holder ≠ none ∧ mx.holder ≠ some uid) ∨ ∃ o, o ∈ mx.ops ∧ o.team ≠ uid := by
  simp only [Bool.or_eq_true, Bool.and_eq_true, Option.isSome_iff_ne_none, bne_iff_ne, List.any_eq_true]

section
variable {s : State} {c : Cur} {x : Group} {h : Hdr} {e : Env} {post pre : State} {t : Team}
  (hg : Goes s c x (engInfo h) (nextWord (engInfo h)) e post) (hp : pre = { s with free := s.free + 1 }) (ht : teamOf post x.team = some t)

include hg in
/-- The team of the stream under way. -/
theorem Goes.myTeam_eq (ht : teamOf post x.team = some t) : myTeam post e = t := by
  obtain ⟨-, -, -, hteam, -⟩ := env_facts hg
  rw [myTeam, hteam, ht, Option.getD_some]

include hg hp in
/-- OB_RANGE names the elected lane and the slot (R250). -/
theorem trapOb_eq (slot : Nat) : trapOb pre e slot =
    takeTrap pre c.g { code := 0x12, lanes := e.elect, aux := BitVec.ofNat 64 slot } c.pc :=
  trapAt_eq hg hp ..

variable (ha : e.act ≠ 0)
include hg hp ht ha

/-! ### Reservations (R84, R215, R217, R384, R385) -/

/-- OBRES waits, traps, or takes the unit, zeroed where it was last another context's, and the slot. -/
theorem exec_obres_goes (k : BitVec 4) (sa : BitVec 6) {mx : Matrix} (hmx : mx = mxAt post e.core) : exec (.obres h k sa) s = .next (
    if (mx.holder ≠ none ∧ mx.holder ≠ some t.uid) ∨ ∃ o, o ∈ mx.ops ∧ o.team ≠ t.uid then pre
    else if recOk mx.recs k.toNat (e.s sa.toNat) (ceilDiv t.ngroups 4) = false then
      takeTrap pre c.g { code := 0x12, lanes := e.elect, aux := BitVec.ofNat 64 k.toNat } c.pc
    else if mx.last = some x.ctx then atOnce (modMx post e.core fun m =>
      { m with holder := some t.uid, last := some x.ctx, recs := mput m.recs k.toNat (e.s sa.toNat) }) e h
    else atOnce (modMx post e.core fun m =>
      { m with ob := [], acc := [], scale := [], table := [], poison := [],
               holder := some t.uid, last := some x.ctx, recs := mput m.recs k.toNat (e.s sa.toNat) }) e h) := by
  obtain ⟨-, hctx, -⟩ := env_facts hg
  rw [exec_obres, execObres, goes_once hg ha hp]
  simp only [hg.myTeam_eq ht, ← hmx, hctx, unit_elsewhere_iff, trapOb_eq hg hp, Bool.not_eq_true', bne_iff_ne]
  by_cases hlast : mx.last = some x.ctx
  · simp only [hlast, ne_eq, not_true_eq_false, if_false, if_true]
  · simp only [hlast, ne_eq, not_false_eq_true, if_false, if_true]

/-- OBREL traps, waits for what uses the slot, or gives it up, and the unit with the last one. -/
theorem exec_obrel_goes (k : BitVec 4) {mx : Matrix} (hmx : mx = mxAt post e.core) : exec (.obrel h k) s = .next (
    if mx.holder ≠ some t.uid ∨ mget? mx.recs k.toNat = none then
      takeTrap pre c.g { code := 0x12, lanes := e.elect, aux := BitVec.ofNat 64 k.toNat } c.pc
    else if slotBusy post e.core t.uid k.toNat = true then pre
    else atOnce (modMx post e.core fun m =>
      { m with recs := mdel m.recs k.toNat, holder := if (mdel m.recs k.toNat).isEmpty then none else m.holder }) e h) := by
  obtain ⟨-, -, -, hteam, -⟩ := env_facts hg
  rw [exec_obrel, execObrel, goes_once hg ha hp]
  simp only [hteam, ← hmx, uid_of_teamOf ht, trapOb_eq hg hp, Bool.or_eq_true, bne_iff_ne, Option.isNone_iff_eq_none]

/-! ### The baton (R224, R393) -/

/-- BATON.take of a free baton, of its own, and of one that another wave holds. -/
theorem exec_batonTake_goes : exec (.batonTake h) s = .next (
    if t.baton = none then atOnce (modTeam post t.uid fun t => { t with baton := some (waveOf e.grp) }) e h
    else if t.baton = some (waveOf e.grp) then atOnce post e h
    else pre) := by
  obtain ⟨-, -, -, hteam, -⟩ := env_facts hg
  rw [exec_batonTake, execBatonTake, goes_once hg ha hp]
  simp only [hg.myTeam_eq ht, hteam, uid_of_teamOf ht]
  cases t.baton with
  | none => simp only [if_true]
  | some w => simp only [reduceCtorEq, if_false, Option.some.injEq]

/-- BATON.pass traps where its wave does not hold the baton, and gives it to the next wave of the rotation where it does. -/
theorem exec_batonPass_goes : exec (.batonPass h) s = .next (
    if t.baton ≠ some (waveOf e.grp) then
      takeTrap pre c.g { code := 0x11, lanes := e.elect, aux := BitVec.ofNat 64 (t.baton.getD 0xFF) } c.pc
    else atOnce (modTeam post t.uid fun t => { t with baton := nextWave t (waveOf e.grp) }) e h) := by
  obtain ⟨-, -, -, hteam, -⟩ := env_facts hg
  rw [exec_batonPass, execBatonPass, goes_once hg ha hp]
  simp only [hg.myTeam_eq ht, hteam, uid_of_teamOf ht, trapAt_eq hg hp, bne_iff_ne]

end

/-- Settles O40: each instruction waits, traps or acts as the unit and the baton of its team ask. -/
theorem reservationResults : Obligations.ReservationResults := by
  unfold Obligations.ReservationResults
  intro s c x h k sa e post pre t mx hg ha hp ht hmx
  refine ⟨⟨fun haway => ?obresWaits, fun hheld hops => ?obres⟩, fun hdead => ?obrelTraps, fun hheld hlive => ?obrel, fun hfree => ?takeFree,
    fun hown => ?own, fun w hw hother => ?takeWaits, fun hother => ?passTraps⟩
  case obresWaits => rw [exec_obres_goes hg hp ht ha k sa hmx, if_pos haway]
  case obres =>
    have hhere : ¬ ((mx.holder ≠ none ∧ mx.holder ≠ some t.uid) ∨ ∃ o, o ∈ mx.ops ∧ o.team ≠ t.uid) := by
      rintro (⟨hsome, hne⟩ | ⟨o, ho, hne⟩)
      · exact hheld.elim hsome hne
      · exact hne (hops o ho)
    rw [exec_obres_goes hg hp ht ha k sa hmx, if_neg hhere]
    refine ⟨fun hbad => by rw [if_pos hbad], fun hok => ?_⟩
    rw [if_neg (by rw [hok]; decide)]
    exact ⟨fun hlast => by rw [if_pos hlast], fun hlast => by rw [if_neg hlast]⟩
  case obrelTraps => rw [exec_obrel_goes hg hp ht ha k hmx, if_pos hdead]
  case obrel =>
    rw [exec_obrel_goes hg hp ht ha k hmx, if_neg (not_or.mpr ⟨fun hother => hother hheld, hlive⟩)]
    exact ⟨fun hbusy => by rw [if_pos hbusy], fun hquiet => by rw [if_neg (by rw [hquiet]; decide)]⟩
  case takeFree => rw [exec_batonTake_goes hg hp ht ha, if_pos hfree]
  case own =>
    rw [exec_batonTake_goes hg hp ht ha, exec_batonPass_goes hg hp ht ha, hown, if_neg (Option.some_ne_none _), if_pos rfl,
      if_neg (fun hother => hother rfl)]
    exact ⟨rfl, rfl⟩
  case takeWaits =>
    have hfree : t.baton ≠ none := by rw [hw]; exact Option.some_ne_none w
    have hown : t.baton ≠ some (waveOf e.grp) := by rw [hw]; exact fun hsame => hother (Option.some.inj hsame)
    rw [exec_batonTake_goes hg hp ht ha, if_neg hfree, if_neg hown]
  case passTraps => rw [exec_batonPass_goes hg hp ht ha, if_pos hother]

end Sys2Proof.Machine
end

section
/-! SUPPORT. Retirements in service (R85 to R89), what the host writes (R66 to R68), the management port (R75, R80), and boot, recovery and
reset (R75 to R78): what each does, case by case, then O58. -/

namespace Sys2Proof.Machine

open Host

/-! ### Retirements in service (R85 to R89) -/

section
variable {s : State}

/-- A core stops admitting and parks, waits until it is empty, and then gives its number to a spare (R86). -/
theorem exec_svcRetireCore_next {fl c core : Nat} (hfl : fl < 32) (hc : c < 16) (hcore : core = 16 * fl + c) (hruns : svcRuns s 1 fl c = true) :
    exec (.svcRetireCore fl c) s = .next (
      if (coreAt s core).noAdmit = false then parkCores (modCore s core fun k => { k with noAdmit := true }) (fun x => x == core) .retire
      else if coreEmpty s core = false then s
      else bringBack (settleTeams (svcWorked (applyRetired
        (modCore (cleanCore s core) core fun k => { k with noAdmit := false, l1 := [], lastBy := [] }) (s.svc.getD 0))) core) .retire core) := by
  have hunit : ¬ (decide (32 ≤ fl) || decide (16 ≤ c)) = true := by simp only [Bool.or_eq_true, decide_eq_true_eq]; omega
  rw [exec_svcRetireCore, execSvcRetireCore, if_neg hunit, if_neg (by rw [hruns]; decide)]
  simp only [← hcore, Bool.not_eq_true', apply_ite Outcome.next]

/-- A slice gives its lines to the spare, dirty ones written back (R87). -/
theorem exec_svcRetireSlice_next {fl k : Nat} (hfl : fl < 32) (hk : k < 16) (hruns : svcRuns s 2 fl k = true) :
    exec (.svcRetireSlice fl k) s = .next (svcWorked (applyRetired { s with lines := s.lines.map (fun p =>
      if homeFlask (128 * p.1) == fl && homeSlice s (128 * p.1) == k then (p.1, { p.2 with dirty := false }) else p) } (s.svc.getD 0))) := by
  have hunit : ¬ (decide (32 ≤ fl) || decide (16 ≤ k)) = true := by simp only [Bool.or_eq_true, decide_eq_true_eq]; omega
  rw [exec_svcRetireSlice, execSvcRetireSlice, if_neg hunit, if_neg (by rw [hruns]; decide)]

/-- A pseudo-channel is retired at once (R88). -/
theorem exec_svcRetirePseudoChannel_next {stack p : Nat} (hstack : stack < 16) (hp : p < 32) (hruns : svcRuns s 3 stack p = true) :
    exec (.svcRetirePseudoChannel stack p) s = .next (svcWorked (applyRetired s (s.svc.getD 0))) := by
  have hunit : ¬ (decide (16 ≤ stack) || decide (32 ≤ p)) = true := by simp only [Bool.or_eq_true, decide_eq_true_eq]; omega
  rw [exec_svcRetirePseudoChannel, execSvcRetirePseudoChannel, if_neg hunit, if_neg (by rw [hruns]; decide)]

/-- The spare lane of a port is swapped in; the port trains again where it has a link (R36, R89). -/
theorem exec_svcRetireFlueLane_next {port lane : Nat} {u : State} (hport : port < 12) (hlane : lane < 8) (hruns : svcRuns s 4 port lane = true)
    (hspare : (mget s.ports port {}).spare = false) (hu : u = applyRetired s (s.svc.getD 0)) :
    exec (.svcRetireFlueLane port lane) s = .next (if sysFld u (sel 4 port) 4 4 = 0 then svcWorked u
      else { u with ports := mmod u.ports port {} fun (p : Port) => { p with retrain := true } }) := by
  have hunit : ¬ (decide (12 ≤ port) || decide (8 ≤ lane)) = true := by simp only [Bool.or_eq_true, decide_eq_true_eq]; omega
  rw [exec_svcRetireFlueLane, execSvcRetireFlueLane, if_neg hunit, if_neg (by rw [hruns]; decide), if_neg (by rw [hspare]; decide)]
  simp only [← hu, apply_ite Outcome.next]

/-- A lane between flasks is retired at once (R22, R89). -/
theorem exec_svcRetireUcieLane_next {fl edge md lane : Nat} (hfl : fl < 32) (hedge : edge < 4) (hmd : md < 4) (hlane : lane < 64)
    (hruns : svcRuns s 5 fl (64 * edge + 16 * md) = true) (hnamed : (s.svc.map fun v => fld v 16 6) = some lane) :
    exec (.svcRetireUcieLane fl edge md lane) s = .next (svcWorked (applyRetired s (s.svc.getD 0))) := by
  have hunit : ¬ (decide (32 ≤ fl) || decide (4 ≤ edge) || decide (4 ≤ md) || decide (64 ≤ lane)) = true := by
    simp only [Bool.or_eq_true, decide_eq_true_eq]; omega
  rw [exec_svcRetireUcieLane, execSvcRetireUcieLane, if_neg hunit, if_neg (by rw [hruns, hnamed, bne_self_eq_false]; decide)]

/-- A command is reported once its work is done (R85). -/
theorem exec_svcDone_next {v : DWord} (hv : s.svc = some v) : exec .svcDone s = .next (if s.svcFin = true then svcEnd s v 0 else s) := by
  simp only [exec_svcDone, execSvcDone, hv]

end

/-! ### Messages of the host (R67, R68) -/

section
variable {s : State} {ctx off : Nat} {bytes : List Byte} (hctx : ctx < 256) (hoff : off < 4096) (hup : s.boot.linkUp = true)

include hctx hoff in
theorem aperture_exists : ¬ (decide (256 ≤ ctx) || decide (4096 ≤ off)) = true := by
  simp only [Bool.or_eq_true, decide_eq_true_eq]; omega

include hup in
/-- Bytes that the host writes while its link is up come in (R67). -/
theorem hostWrite_comes (hbytes : bytes ≠ []) : ¬ (!s.boot.linkUp || bytes.isEmpty) = true := by
  simp only [hup, Bool.not_true, Bool.false_or, List.isEmpty_iff, hbytes, not_false_eq_true]

include hctx hoff hup

/-- A write that is not one aligned block of the aperture is counted as bad, whether or not the context is resident (log entry 45). -/
theorem exec_hostMessage_bad (hbytes : bytes ≠ []) (hbad : bytes.length ≠ 64 ∨ off % 64 ≠ 0 ∨ 0xFC0 < off + bytes.length) :
    exec (.hostMessage ctx off bytes) s = .next (hmCount s ctx 16) := by
  rw [exec_hostMessage, execHostMessage, if_neg (aperture_exists hctx hoff), if_neg (hostWrite_comes hup hbytes), if_pos]
  simpa only [Bool.or_eq_true, bne_iff_ne, decide_eq_true_eq, or_assoc] using hbad

/-- One aligned block is refused, counted as over, or joins the queue of its context. -/
theorem exec_hostMessage_block (hlen : bytes.length = 64) (halign : off % 64 = 0) (hroom : off + 64 ≤ 0xFC0) :
    exec (.hostMessage ctx off bytes) s = .next (
      if ctxResident s ctx = false then hmCount s 0 48
      else if 32 ≤ (mget s.ctxs ctx {}).hostq.length then hmCount s ctx 32
      else setSysFld { s with ctxs := mmod s.ctxs ctx {} fun (x : CtxS) => { x with
          hostq := x.hostq ++ [bytes.take 2 ++ natBytes 1 2 ++ (bytes.drop 3).take 1 ++ natBytes 2 0xFFFF ++ bytes.drop 6] } }
        (sel 17 ctx) 0 6 (32 - ((mget s.ctxs ctx {}).hostq.length + 1))) := by
  have hbytes : bytes ≠ [] := by rintro rfl; cases hlen
  have hgood : ¬ (bytes.length != 64 || off % 64 != 0 || decide (0xFC0 < off + bytes.length)) = true := by
    simp only [Bool.or_eq_true, bne_iff_ne, decide_eq_true_eq]; omega
  rw [exec_hostMessage, execHostMessage, if_neg (aperture_exists hctx hoff), if_neg (hostWrite_comes hup hbytes), if_neg hgood]
  simp only [Bool.not_eq_true', apply_ite Outcome.next]

end

/-! ### Staging (R66) -/

/-- One byte lies in one line. -/
theorem linePieces_one (a : Nat) : linePieces a 1 = [(0, 1)] := by
  have hmin : min 1 (128 - a % 128) = 1 := by omega
  simp only [linePieces, pieces, hmin, List.map_nil]

/-- A byte written to the staging window goes to the device page mapped there, or nowhere (R66). -/
theorem exec_hostStagingWrite_byte {s : State} {off : Nat} {b : Byte} (hoff : off < 2 ^ 36) (hup : s.boot.linkUp = true)
    (hfree : stagingHeld s off 1 = false) :
    (mget? s.staging (off / 2 ^ 21) = none → exec (.hostStagingWrite off [b]) s = .next s) ∧
    (∀ k kid, mget? s.staging (off / 2 ^ 21) = some (k, kid) → frameOk s (k + off % 2 ^ 21) = true →
      (2 ≤ keyTier (k + off % 2 ^ 21) ∨ keyLive s kid = true) →
      exec (.hostStagingWrite off [b]) s = .next (homeWriteRun s 32 512 256 kid (k + off % 2 ^ 21) [b])) := by
  have hroom : ¬ 2 ^ 36 < off + [b].length := by rw [List.length_singleton]; omega
  have hopen : ¬ (!s.boot.linkUp || stagingHeld s off [b].length) = true := by rw [hup, List.length_singleton, hfree]; decide
  rw [exec_hostStagingWrite, execHostStagingWrite, if_neg hroom, if_neg hopen, List.length_singleton, linePieces_one]
  simp only [List.foldl_cons, List.foldl_nil, Nat.add_zero, List.drop_zero]
  refine ⟨fun hnone => by rw [hnone], fun k kid hpage hframe hread => ?_⟩
  have hreach : (frameOk s (k + off % 2 ^ 21) && (decide (2 ≤ keyTier (k + off % 2 ^ 21)) || keyLive s kid)) = true := by
    simpa only [hframe, Bool.true_and, Bool.or_eq_true, decide_eq_true_eq] using hread
  rw [hpage]
  exact congrArg _ (if_pos hreach)

/-! ### The management port and the host link (R75, R77, R80) -/

theorem exec_mgmtReadRegister_next {s : State} {k : BitVec 17} (hk : selOk k.toNat = true) :
    exec (.mgmtReadRegister k) s = .next { s with mgmtOut := natBytes 8 (sysRead s k.toNat).toNat } := by
  rw [exec_mgmtReadRegister, execMgmtReadRegister, if_neg (by rw [hk]; decide)]

theorem exec_attestationQuote_next {nonce : List Byte} (hlen : nonce.length = 32) (s : State) :
    exec (.attestationQuote nonce) s = .next { s with mgmtOut := Config.mlDsaSign (quoteMessage s nonce) } := by
  rw [exec_attestationQuote, execAttestationQuote, if_neg (by rw [hlen]; decide)]

/-- A version only rises (R76). -/
theorem exec_antiRollbackAdvance_next (v : BitVec 32) (s : State) : exec (.antiRollbackAdvance v) s =
    .next (if v.toNat ≤ (svnOf s).toNat then s else { s with boot := { s.boot with svn := some v } }) := by
  rw [exec_antiRollbackAdvance, execAntiRollbackAdvance, apply_ite Outcome.next]

/-! ### Boot (R76 to R78) -/

theorem bootStat_setBoot_same (s : State) {lo n v : Nat} (h : lo + n ≤ 64) (hv : v < 2 ^ n) : bootStat lo n (setBoot s lo n v) = v := by
  rw [bootStat, setBoot, sysFld_setSysFld_same _ _ _ _ _ h, Nat.mod_eq_of_lt hv]

theorem bootStat_setBoot_ne (s : State) {lo n lo' n' : Nat} (v : Nat) (h : lo + n ≤ 64) (hapart : lo' + n' ≤ lo ∨ lo + n ≤ lo') :
    bootStat lo' n' (setBoot s lo n v) = bootStat lo' n' s :=
  sysFld_setSysFld_ne _ _ _ _ _ _ _ h hapart

/-- A stopped boot shows its stage (R78). -/
theorem bootStop_stage (s : State) {k : Nat} (cause : Nat) (hk : k < 16) : bootStat 16 4 (bootStop s k cause) = k := by
  rw [bootStop, bootStat_setBoot_ne _ _ (by decide) (by decide), bootStat_setBoot_ne _ _ (by decide) (by decide),
    bootStat_setBoot_same _ (by decide) hk]

/-- A stopped boot shows its cause (R78). -/
theorem bootStop_cause (s : State) (k : Nat) {cause : Nat} (hcause : cause < 16) : bootStat 8 4 (bootStop s k cause) = cause := by
  rw [bootStop, bootStat_setBoot_ne _ _ (by decide) (by decide), bootStat_setBoot_same _ (by decide) hcause]

/-- A stopped boot shows that it is stopped (R78). -/
theorem bootStop_stopped (s : State) (k cause : Nat) : bootStat 0 1 (bootStop s k cause) = 1 := by
  rw [bootStop, bootStat_setBoot_same _ (by decide) (by decide)]

/-- The checks of an image in their order: there, signed, not too old (R76, R77, log entry 49). -/
theorem bootStage_stops (s : State) (k : Nat) (x : BootImage) :
    (x.present = false → bootStage s k x = bootStop s k 4) ∧
    (x.present = true → signed s k x = false → bootStage s k x = bootStop s k 1) ∧
    (x.present = true → signed s k x = true → x.version.toNat < (svnOf s).toNat → bootStage s k x = bootStop s k 2) := by
  refine ⟨fun habsent => ?absent, fun hthere hforged => ?forged, fun hthere hsigned hold => ?old⟩
  case absent => rw [bootStage, if_pos (by rw [habsent]; rfl)]
  case forged => rw [bootStage, if_neg (by rw [hthere]; decide), if_pos (by rw [hforged]; rfl)]
  case old => rw [bootStage, if_neg (by rw [hthere]; decide), if_neg (by rw [hsigned]; decide), if_pos hold]

/-- A machine that has been reset boots through its four images from stage 1 on (R76). -/
theorem exec_powerOn_four {s : State} (a b c d : BootImage) (hreset : bootStat 16 4 s = 0) (hruns : bootStat 0 1 s ≠ 1) :
    exec (.powerOn [a, b, c, d]) s = .next (bootFrom 1 [a, b, c, d] (extend s 0 Config.stage0Rom)) := by
  have hidle : ¬ (bootStat 16 4 s != 0 || decide (bootStat 0 1 s = 1)) = true := by
    simp only [hreset, bne_self_eq_false, Bool.false_or, decide_eq_true_eq, hruns, not_false_eq_true]
  rw [exec_powerOn, execPowerOn, if_neg hidle]
  rfl

/-- A stopped boot takes one recovery image at a time (R77). -/
theorem exec_recoveryImage_next {s : State} (img : BootImage) (hstopped : bootStat 0 1 s = 1) (hnone : s.boot.recov = none) :
    exec (.recoveryImage img) s = .next (setBoot { s with boot := { s.boot with recov := some img } } 1 1 1) := by
  rw [exec_recoveryImage, execRecoveryImage, if_neg (by rw [hstopped, hnone]; decide)]

/-- The boot goes on from the recovery image, at the stage where it stopped (R77); RECOV, CAUSE and STOPPED are clear from then on
(log entry 49). -/
theorem recoveryVerified_goes {s u : State} {img : BootImage} (himg : s.boot.recov = some img)
    (hu : u = setBoot (setBoot (setBoot { s with boot := { s.boot with recov := none } } 1 1 0) 8 4 0) 0 1 0) :
    recoveryVerified s = bootFrom (bootStat 16 4 u) (img :: s.boot.images) u := by
  rw [recoveryVerified, himg, hu]
  rfl

/-- Settles O58: each event finds its unit, and does what the state of the unit asks for. -/
theorem serviceAndHostEvents : Obligations.ServiceAndHostEvents := by
  unfold Obligations.ServiceAndHostEvents
  intro s
  refine ⟨fun fl c hfl hc hruns => ?core, fun fl k hfl hk hruns => exec_svcRetireSlice_next hfl hk hruns,
    fun stack p hstack hp hruns => exec_svcRetirePseudoChannel_next hstack hp hruns, fun port lane u hport hlane hruns hspare hu => ?flueLane,
    fun fl edge md lane hfl hedge hmd hlane hruns hnamed => exec_svcRetireUcieLane_next hfl hedge hmd hlane hruns hnamed, fun v hv => ?done,
    fun ctx off bytes hctx hoff hup hbytes => ?message, fun off b hoff hup hfree => exec_hostStagingWrite_byte hoff hup hfree,
    fun k hk => exec_mgmtReadRegister_next hk, fun nonce hlen => exec_attestationQuote_next hlen s, exec_hostLinkReset s,
    fun a b c d hreset hruns => exec_powerOn_four a b c d hreset hruns, fun img hstopped hnone => exec_recoveryImage_next img hstopped hnone,
    fun img u himg hu => recoveryVerified_goes himg hu, bootStage_stops s,
    fun k cause hk hcause => ⟨bootStop_stage s cause hk, bootStop_cause s k hcause, bootStop_stopped s k cause⟩, fun v => ?version,
    _, exec_moduleReset s, rfl⟩
  case core =>
    rw [exec_svcRetireCore_next hfl hc rfl hruns]
    refine ⟨fun hadmits => by rw [if_pos hadmits], fun hclosed hempty => ?_⟩
    rw [if_neg (by rw [hclosed]; decide), if_neg (by rw [hempty]; decide)]
  case flueLane =>
    rw [exec_svcRetireFlueLane_next hport hlane hruns hspare hu]
    exact ⟨fun hoff => by rw [if_pos hoff], fun hon => by rw [if_neg hon]⟩
  case done =>
    rw [exec_svcDone_next hv]
    exact ⟨fun hfin => by rw [if_pos hfin], fun hbusy => by rw [if_neg (by rw [hbusy]; decide)]⟩
  case message =>
    refine ⟨fun hbad => exec_hostMessage_bad hctx hoff hup hbytes hbad, fun hlen halign hroom => ?_⟩
    rw [exec_hostMessage_block hctx hoff hup hlen halign hroom]
    refine ⟨fun haway => by rw [if_pos haway], fun hhere hfull => ?full, fun hhere hspace => ?queued⟩
    case full => rw [if_neg (by rw [hhere]; decide), if_pos hfull]
    case queued => rw [if_neg (by rw [hhere]; decide), if_neg (Nat.not_le_of_lt hspace)]
  case version =>
    rw [exec_antiRollbackAdvance_next]
    exact ⟨fun hlow => by rw [if_pos hlow], fun hhigh => by rw [if_neg (Nat.not_le_of_lt hhigh)]⟩

end Sys2Proof.Machine
end

section
/-! SUPPORT. The graph walkers (R103, R106 to R109): a thread finds the node where it stands and acts on it, then O53. -/

namespace Sys2Proof.Machine

open Host

/-- A thread acts on a node of any of the five kinds in one way (R107). -/
theorem exec_walker_forms {fl inst th : Nat} {e : Instr}
    (he : e = .walkerTask fl inst th ∨ e = .walkerCond fl inst th ∨ e = .walkerWhile fl inst th ∨ e = .walkerJoin fl inst th ∨
      e = .walkerEnd fl inst th) (s : State) : ∃ kind act, exec e s = actNode fl inst th kind s act := by
  rcases he with rfl | rfl | rfl | rfl | rfl
  · exact ⟨_, _, exec_walkerTask fl inst th s⟩
  · exact ⟨_, _, exec_walkerCond fl inst th s⟩
  · exact ⟨_, _, exec_walkerWhile fl inst th s⟩
  · exact ⟨_, _, exec_walkerJoin fl inst th s⟩
  · exact ⟨_, _, exec_walkerEnd fl inst th s⟩

section
variable {s : State} {fl inst th : Nat} {i : Inst} {t : Thread} (hfl : fl < 32) (hinst : instOf s fl inst = some i)
  (hth : i.threads.find? (fun t => t.id == th) = some t)

section
variable (hruns : i.stopped = false) (hfree : t.grid = none)
include hfl hinst hth hruns hfree

/-- A node that the walker cannot act on ends the thread, whatever it was to do there (R109). -/
theorem actNode_bad (hbad : findNode s i t = .bad) (kind : Nat) (act : Inst → Thread → Node → State → State) :
    actNode fl inst th kind s act = .next (badNode s fl i t) := by
  rw [actNode, if_neg (Nat.not_le_of_lt hfl), hinst]
  simp only [hth, hruns, hfree, Option.isSome_none, Bool.or_self, Bool.false_eq_true, if_false, hbad]

variable {n : Node} (hnode : findNode s i t = .node n)
include hnode

/-- A thread acts on a node of the kind named (R107). -/
theorem actNode_acts {kind : Nat} (hkind : n.kind = kind) (act : Inst → Thread → Node → State → State) :
    actNode fl inst th kind s act = .next (act i t n s) := by
  rw [actNode, if_neg (Nat.not_le_of_lt hfl), hinst]
  simp only [hth, hruns, hfree, Option.isSome_none, Bool.or_self, Bool.false_eq_true, if_false, hnode, if_pos hkind]

/-! ### TASK nodes (R103, R107) -/

section
variable (hkind : n.kind = 0) {bs : List Byte} (hread : ctxRead s i.ctx n.addr 256 = some bs) {l : Launch} (hl : l = launchOf bs n.addr)
include hkind hread hl

theorem exec_walkerTask_refused (hno : launchOk s bs l i.ctx i.sysT = false) : exec (.walkerTask fl inst th) s = .next (badNode s fl i t) := by
  rw [exec_walkerTask, execWalkerTask, actNode_acts hfl hinst hth hruns hfree hnode hkind]
  simp only [hread, ← hl, hno, Bool.not_false, if_true]

/-- The grid starts, and with it a thread at ALSO where the node names one and the walker has room. -/
theorem exec_walkerTask_launches (hok : launchOk s bs l i.ctx i.sysT = true) (hroom : n.also = none ∨ threadCount (flaskAt s fl) < 256)
    (hslots : slotMissing s l = none) {g : Nat} {u v : State} (hgrid : launchGrid s l i.sysT (.walker fl inst th) = (g, u))
    (hv : v = modThread u fl inst th fun t => { t with grid := some g, told := false }) :
    (n.also = none → exec (.walkerTask fl inst th) s = .next v) ∧
    (∀ k, n.also = some k → exec (.walkerTask fl inst th) s = .next (modInst v fl inst fun i =>
      { i with threads := i.threads ++ [{ id := i.nextTh, node := k }], nextTh := i.nextTh + 1 })) := by
  have hfits : ¬ (n.also.isSome && decide (256 ≤ threadCount (flaskAt s fl))) = true := by
    rcases hroom with hnone | hlt
    · rw [hnone]
      exact Bool.false_ne_true
    · rw [decide_eq_false (Nat.not_le_of_lt hlt), Bool.and_false]
      exact Bool.false_ne_true
  rw [exec_walkerTask, execWalkerTask, actNode_acts hfl hinst hth hruns hfree hnode hkind]
  simp only [hread, ← hl, hok, Bool.not_true, Bool.false_eq_true, if_false, if_neg hfits, hslots, hgrid, ← hv]
  refine ⟨fun halso => ?alone, fun k halso => ?forks⟩
  case alone => rw [halso]
  case forks => rw [halso]

end

/-! ### COND, WHILE, JOIN and END nodes (R107) -/

theorem exec_walkerCond_goes (hkind : n.kind = 1) {w : DWord} {u : State} (hcond : condWord s fl i n = some (w, u)) :
    exec (.walkerCond fl inst th) s = .next (goNode u fl inst th (if w &&& n.mask = 0 then n.alt else n.next)) := by
  rw [exec_walkerCond, execWalkerCond, actNode_acts hfl hinst hth hruns hfree hnode hkind]
  simp only [hcond, bne_iff_ne, ne_eq, ite_not]

theorem exec_walkerWhile_goes (hkind : n.kind = 2) {w : DWord} {u : State} (hcond : condWord s fl i n = some (w, u)) {k : Nat}
    (hk : k = mget i.counts t.node 0) : exec (.walkerWhile fl inst th) s = .next (
      if w &&& n.mask = 0 then goNode (modInst u fl inst fun i => { i with counts := mput i.counts t.node 0 }) fl inst th n.next
      else if k < n.cap then goNode (modInst u fl inst fun i => { i with counts := mput i.counts t.node (k + 1) }) fl inst th n.alt
      else goNode (taskNotice (modInst u fl inst fun i => { i with counts := mput i.counts t.node 0 }) 2 i.ctx 0xFFFF fl i.nodes
        (nodeArg inst t.node)) fl inst th n.next) := by
  rw [exec_walkerWhile, execWalkerWhile, actNode_acts hfl hinst hth hruns hfree hnode hkind]
  simp only [hcond, ← hk]

theorem exec_walkerJoin_goes (hkind : n.kind = 3) {k : Nat} (hk : k = mget i.counts t.node 0 + 1) :
    exec (.walkerJoin fl inst th) s = .next (if k = n.incount
      then goNode (modInst s fl inst fun i => { i with counts := mput i.counts t.node 0 }) fl inst th n.next
      else endThread (modInst s fl inst fun i => { i with counts := mput i.counts t.node k }) fl inst th) := by
  rw [exec_walkerJoin, execWalkerJoin, actNode_acts hfl hinst hth hruns hfree hnode hkind]
  simp only [← hk]

theorem exec_walkerEnd_goes (hkind : n.kind = 4) : exec (.walkerEnd fl inst th) s = .next (endThread s fl inst th) := by
  rw [exec_walkerEnd, execWalkerEnd, actNode_acts hfl hinst hth hruns hfree hnode hkind]

end

/-! ### Grids that complete, and the end of a graph (R105, R109) -/

include hfl hinst hth in
/-- The thread goes on once its grid has completed, and its graph is bad where the grid was. -/
theorem exec_walkerTaskDone_goes {v : Nat} {n : Node} {u : State} (hended : t.ended = some v) (hruns : i.stopped = false)
    (hu : u = if v = 2 then modInst s fl inst (fun i => { i with bad := true }) else s) (hnode : findNode u i t = .node n) :
    exec (.walkerTaskDone fl inst th) s = .next (goNode u fl inst th n.next) := by
  rw [exec_walkerTaskDone, execWalkerTaskDone, if_neg (Nat.not_le_of_lt hfl), hinst]
  simp only [hth, hended, ← hu, hruns, Bool.false_eq_true, if_false, hnode]

include hfl in
/-- With its last thread gone, a graph writes its done word and ends. -/
theorem exec_instanceEnd_ends {k : Nat} {j : Inst} {u : State} (hj : instOf s fl k = some j) (hnone : j.threads = [])
    (hu : u = modFlask s fl (fun f => { f with insts := f.insts.filter fun x => x.num != k })) :
    exec (.instanceEnd fl k) s =
      .next (if j.gdone = 0 then u else ctxWrite u j.ctx j.gdone (natBytes 8 (if j.bad = true then 2 else 1))) := by
  rw [exec_instanceEnd, execInstanceEnd, if_neg (Nat.not_le_of_lt hfl), hj]
  simp only [hnone, List.any_nil, Bool.or_false, Bool.false_eq_true, if_false, ← hu]

end

/-- Settles O53: each thread acts as the kind of its node says. -/
theorem walkerEvents : Obligations.WalkerEvents := by
  unfold Obligations.WalkerEvents
  intro s fl inst th i t hfl hinst hth
  refine ⟨fun hruns hfree => ⟨fun hbad e he => ?bad, fun n hnode => ⟨?task, ?cond, ?loop, ?join, ?last⟩⟩, ?done, ?instanceEnd⟩
  case bad =>
    obtain ⟨kind, act, hact⟩ := exec_walker_forms he s
    rw [hact, actNode_bad hfl hinst hth hruns hfree hbad]
  case task =>
    intro bs l hkind hread hl
    exact ⟨exec_walkerTask_refused hfl hinst hth hruns hfree hnode hkind hread hl, fun g u v hok hroom hslots hgrid hv =>
      exec_walkerTask_launches hfl hinst hth hruns hfree hnode hkind hread hl hok hroom hslots hgrid hv⟩
  case cond => exact fun w u hkind hcond => exec_walkerCond_goes hfl hinst hth hruns hfree hnode hkind hcond
  case loop =>
    intro w u k hkind hcond hk
    rw [exec_walkerWhile_goes hfl hinst hth hruns hfree hnode hkind hcond hk]
    refine ⟨fun hclear => by rw [if_pos hclear], fun hset hlow => ?again, fun hset hcap => ?capped⟩
    case again => rw [if_neg hset, if_pos hlow]
    case capped => rw [if_neg hset, if_neg (Nat.not_lt_of_le hcap)]
  case join => exact fun k hkind hk => exec_walkerJoin_goes hfl hinst hth hruns hfree hnode hkind hk
  case last => exact exec_walkerEnd_goes hfl hinst hth hruns hfree hnode
  case done => exact fun v n u hended hruns hu hnode => exec_walkerTaskDone_goes hfl hinst hth hended hruns hu hnode
  case instanceEnd => exact fun k j u hj hnone hu => exec_instanceEnd_ends hfl hj hnone hu

end Sys2Proof.Machine
end

section
/-! SUPPORT. SPAWN (R92, R103, R106, R307, R425) and AMSG (R111, R113, R308) where their stream issues: what becomes of each case of the
record or of the destination, then O46. -/

namespace Sys2Proof.Machine

open Host

/-- Every SPAWN reads its record, of its own size, before anything else (R307). -/
theorem exec_spawn_forms {h : Hdr} {sa : BitVec 6} {pk : BitVec 3} {i : Instr} {n : Nat}
    (hi : (i = .spawnTask h sa pk ∧ n = 64) ∨ (i = .spawnGrid h sa pk ∧ n = 256) ∨ (i = .spawnGraph h sa pk ∧ n = 32)) (s : State) :
    ∃ k, exec i s = spawnRead h sa pk n s k := by
  rcases hi with ⟨rfl, rfl⟩ | ⟨rfl, rfl⟩ | ⟨rfl, rfl⟩
  · exact ⟨_, exec_spawnTask h sa pk s⟩
  · exact ⟨_, exec_spawnGrid h sa pk s⟩
  · exact ⟨_, exec_spawnGraph h sa pk s⟩

section
variable {s : State} {c : Cur} {x : Group} {h : Hdr} {sa : BitVec 6} {pk : BitVec 3} {e : Env} {post pre v : State}
  (hg : Goes s c x { h := h, once := true, mem := true } (nextWord { h := h }) e post) (ha : e.act ≠ 0)
  (hp : pre = { s with free := s.free + 1 })
include hg ha hp

/-! ### The record of a SPAWN (R307) -/

/-- A record that cannot be read traps. -/
theorem spawnRead_bad {n code : Nat} {a aux : DWord} (hread : readRec post e (e.s sa.toNat) 1 n = (.bad code a aux, v))
    (k : Env → State → State → DWord → List Byte → State) :
    spawnRead h sa pk n s k = .next (takeTrap pre c.g { code := code, lanes := e.act, addr := a, aux := aux } c.pc) := by
  rw [spawnRead, goes_once hg ha hp]
  simp only [hread, trapAt_eq hg hp]

/-- A record on a page that is not resident is not published: no flag counts, and the residency predicate is 0. -/
theorem spawnRead_nonres {n : Nat} (hread : readRec post e (e.s sa.toNat) 1 n = (.nonres, v))
    (k : Env → State → State → DWord → List Byte → State) :
    spawnRead h sa pk n s k = .next (clearRes (uncount v e h) c.g pk.toNat (lanesOf e.act)) := by
  obtain ⟨hslot, -⟩ := env_facts hg
  rw [spawnRead, goes_once hg ha hp]
  simp only [hread, hslot]

/-- A record that has been read goes to the checks of its kind. -/
theorem spawnRead_ok {n : Nat} {bs : List Byte} (hread : readRec post e (e.s sa.toNat) 1 n = (.ok bs, v))
    (k : Env → State → State → DWord → List Byte → State) : spawnRead h sa pk n s k = .next (k e pre v (e.s sa.toNat) bs) := by
  rw [spawnRead, goes_once hg ha hp]
  simp only [hread]

/-! ### Tasks, grids and graphs -/

/-- SPAWN of a task traps, or publishes it after its release (R92, R425). -/
theorem exec_spawnTask_goes {bs : List Byte} (hread : readRec post e (e.s sa.toNat) 1 64 = (.ok bs, v)) :
    exec (.spawnTask h sa pk) s = .next (if taskOk bs (e.s sa.toNat) x.ctx e.grp.sysT = false then trapReserved pre e.act
      else afterRelease e pre v .dev fun u => publishTask (atOnce u e h) e.core x.ctx (e.s sa.toNat) (recD bs 0)) := by
  obtain ⟨-, hctx, -⟩ := env_facts hg
  rw [exec_spawnTask, execSpawnTask, spawnRead_ok hg ha hp hread]
  simp only [hctx, Bool.not_eq_true']

section
variable {bs : List Byte} (hread : readRec post e (e.s sa.toNat) 1 256 = (.ok bs, v)) {l : Launch} (hl : l = launchOf bs (e.s sa.toNat))
include hread hl

theorem exec_spawnGrid_refused (hno : launchOk v bs l x.ctx e.grp.sysT = false) :
    exec (.spawnGrid h sa pk) s = .next (trapReserved pre e.act) := by
  obtain ⟨-, hctx, -⟩ := env_facts hg
  rw [exec_spawnGrid, execSpawnGrid, spawnRead_ok hg ha hp hread]
  simp only [hctx, ← hl, hno, Bool.not_false, if_true]

variable (hok : launchOk v bs l x.ctx e.grp.sysT = true)
include hok

/-- A record slot that is not resident parks the SPAWN at its own word (R307). -/
theorem exec_spawnGrid_parks {a : DWord} {u : State} (hmissing : slotMissing v l = some a)
    (hu : u = residNotice pre 3 0 x.ctx 1 e.core (c.g % 64) a) :
    exec (.spawnGrid h sa pk) s = .next (modGroup { u with cur := none } c.g fun x => holdPaths (mapWait x fun p =>
      if p.lanes &&& e.lanes != 0 then { p with wait := .resid (a.toNat % 2 ^ 56 / 4096), live := [], whole := true } else p)) := by
  obtain ⟨hslot, hctx, -⟩ := env_facts hg
  rw [exec_spawnGrid, execSpawnGrid, spawnRead_ok hg ha hp hread]
  simp only [hctx, hslot, ← hl, hok, Bool.not_true, Bool.false_eq_true, if_false, hmissing, ← hu]

theorem exec_spawnGrid_launches (hslots : slotMissing v l = none) :
    exec (.spawnGrid h sa pk) s =
      .next (afterRelease e pre v .dev fun u => (launchGrid (atOnce u e h) l e.grp.sysT (.core e.core)).2) := by
  obtain ⟨-, hctx, -⟩ := env_facts hg
  rw [exec_spawnGrid, execSpawnGrid, spawnRead_ok hg ha hp hread]
  simp only [hctx, ← hl, hok, Bool.not_true, Bool.false_eq_true, if_false, hslots]

end

/-- SPAWN of a graph traps where its record breaks a rule, waits while the walker of the flask is full, and otherwise starts the graph
after its release (R103, R106). -/
theorem exec_spawnGraph_goes {bs : List Byte} (hread : readRec post e (e.s sa.toNat) 1 32 = (.ok bs, v)) {fl : Nat} (hfl : fl = coreFlask e.core) :
    exec (.spawnGraph h sa pk) s = .next (
      if (recD bs 0).toNat % 32 = 0 ∧ recNat bs 0x0C 4 < recNat bs 8 4 ∧ (recD bs 0x10).toNat % 8 = 0 ∧ recNat bs 0x18 8 = 0 then
        if 64 ≤ (flaskAt v fl).insts.length ∨ 256 ≤ threadCount (flaskAt v fl) then pre
        else afterRelease e pre v .dev fun u => modFlask (atOnce u e h) fl fun f => { f with
          insts := f.insts ++ [{ num := f.inst, ctx := x.ctx, sysT := e.grp.sysT, nodes := recD bs 0, ncount := recNat bs 8 4,
                                 gdone := recD bs 0x10, threads := [{ id := 0, node := recNat bs 0x0C 4 }] }],
          inst := f.inst + 1 }
      else trapReserved pre e.act) := by
  obtain ⟨-, hctx, -⟩ := env_facts hg
  have hrefused : ((recD bs 0).toNat % 32 != 0 || decide (recNat bs 8 4 ≤ recNat bs 0x0C 4) || (recD bs 0x10).toNat % 8 != 0 ||
      recNat bs 0x18 8 != 0) = true ↔ ¬ ((recD bs 0).toNat % 32 = 0 ∧ recNat bs 0x0C 4 < recNat bs 8 4 ∧
        (recD bs 0x10).toNat % 8 = 0 ∧ recNat bs 0x18 8 = 0) := by
    simp only [Bool.or_eq_true, bne_iff_ne, decide_eq_true_eq, Classical.not_and_iff_not_or_not, Nat.not_lt, or_assoc, ne_eq]
  rw [exec_spawnGraph, execSpawnGraph, spawnRead_ok hg ha hp hread]
  simp only [hrefused, ite_not, ← hfl, hctx, Bool.or_eq_true, decide_eq_true_eq]

end

/-! ### AMSG (R111, R113, R308) -/

/-- No core's number, nor that of the handler's home, names a port. -/
theorem core_dest_no_port {d : Nat} (hcore : d < 512 ∨ d = 0xFFFF) :
    (if 0x1000 ≤ d ∧ d < 0x1000 + 512 * 12 then some ((d - 0x1000) / 512) else none) = none :=
  if_neg (by omega)

section
variable {s : State} {c : Cur} {x : Group} {h : Hdr} {sa : BitVec 6} {vb : BitVec 10} {e : Env} {post pre : State}
  (hg : Goes s c x { h := h, cB := (List.range 12).map (· + vb.toNat), mem := true } (nextWord { h := h }) e post) (ha : e.act ≠ 0)
  (hp : pre = { s with free := s.free + 1 }) {w : DWord} (hw : w = e.s sa.toNat)
include hg ha hp hw

/-- AMSG for another context (R308). -/
theorem exec_amsg_foreign (hctx : fld w 8 8 ≠ x.ctx) :
    exec (.amsg h sa vb) s = .next (takeTrap pre c.g { code := 0x06, lanes := e.act } c.pc) := by
  obtain ⟨-, hown, -⟩ := env_facts hg
  rw [exec_amsg, execAmsg, goes_once hg ha hp]
  simp only [if_neg ha, ← hw, hown, bne_iff_ne, if_pos hctx, trapAt_eq hg hp]

variable {d : Nat} (hd : d = fld w 48 16) {port : Option Nat}
  (hport : port = if 0x1000 ≤ d ∧ d < 0x1000 + 512 * 12 then some ((d - 0x1000) / 512) else none) {msg : Nat → Nat → Msg}
  (hmsg : msg = fun op l =>
    { bytes := messageBytes (fld w 0 8) (fld w 8 8) 0 (fld w 24 8) e.core (if port.isSome then d % 512 else d) 0
        ((List.range 12).map fun k => natBytes 4 (e.v (vb.toNat + k) l).toNat).flatten,
      dest := if port.isSome then d % 512 else d, op := op, src := e.core, port := port })
  (hctx : fld w 8 8 = x.ctx)
include hd hport hmsg hctx

/-- AMSG for its own context traps where its target does not exist, waits where the target is full, and otherwise sends a message for
each lane (R308). -/
theorem exec_amsg_goes {id : Nat} {u : State} (hop : newOp post x.uid (sigOf x.uid h.set) (lanesOf e.act).length = (id, u)) :
    exec (.amsg h sa vb) s = .next (
      if d < 512 ∨ d = 0xFFFF ∨ port.any (peerUp post) = true then
        if port.elim (decide (64 ≤ msgLoad post (msgCore post (msg 0 0).bytes))) (fun p => decide (64 ≤ portLoad post p)) = true then pre
        else { u with msgs := u.msgs ++ (lanesOf e.act).map (msg id) }
      else takeTrap pre c.g { code := 0x18, lanes := e.act } c.pc) := by
  obtain ⟨-, hown, huid, -⟩ := env_facts hg
  have hsame : (fld w 8 8 != x.ctx) = false := by rw [hctx, bne_self_eq_false]
  have hthere : (!(decide (d < 512) || decide (d = 0xFFFF) || port.any (peerUp post))) = true ↔
      ¬ (d < 512 ∨ d = 0xFFFF ∨ port.any (peerUp post) = true) := by
    simp only [Bool.not_eq_true', ← Bool.not_eq_true, Bool.or_eq_true, decide_eq_true_eq, or_assoc]
  rw [exec_amsg, execAmsg, goes_once hg ha hp, hmsg]
  simp only [if_neg ha, ← hw, ← hd, hown, huid, hsame, Bool.false_eq_true, if_false, Bool.and_eq_true, decide_eq_true_eq, ← hport, hthere,
    ite_not, hop, trapAt_eq hg hp]
  cases port with
  | none => rfl
  | some p => rfl

/-- A target that does not exist (R308). -/
theorem exec_amsg_nowhere (hfar : 512 ≤ d) (hhome : d ≠ 0xFFFF) (hdown : ∀ p, port = some p → peerUp post p = false) :
    exec (.amsg h sa vb) s = .next (takeTrap pre c.g { code := 0x18, lanes := e.act } c.pc) := by
  rw [exec_amsg_goes hg ha hp hw hd hport hmsg hctx rfl, if_neg]
  rintro (hlt | heq | hup)
  · exact Nat.not_lt_of_le hfar hlt
  · exact hhome heq
  · obtain ⟨p, hp, hup⟩ := (Option.any_eq_true _ _).mp hup
    exact Bool.false_ne_true ((hdown p hp).symm.trans hup)

/-- A core waits for room for the messages on their way to it too (log entry 38). -/
theorem exec_amsg_core (hcore : d < 512 ∨ d = 0xFFFF) {id : Nat} {u : State}
    (hop : newOp post x.uid (sigOf x.uid h.set) (lanesOf e.act).length = (id, u)) :
    exec (.amsg h sa vb) s = .next (if 64 ≤ msgLoad post (msgCore post (msg 0 0).bytes) then pre
      else { u with msgs := u.msgs ++ (lanesOf e.act).map (msg id) }) := by
  rw [exec_amsg_goes hg ha hp hw hd hport hmsg hctx hop, if_pos (or_assoc.mp (.inl hcore)), hport.trans (core_dest_no_port hcore)]
  simp only [Option.elim_none, decide_eq_true_eq]

theorem exec_amsg_port {p : Nat} (hsome : port = some p) (hup : peerUp post p = true) {id : Nat} {u : State}
    (hop : newOp post x.uid (sigOf x.uid h.set) (lanesOf e.act).length = (id, u)) :
    exec (.amsg h sa vb) s = .next (if 64 ≤ portLoad post p then pre
      else { u with msgs := u.msgs ++ (lanesOf e.act).map (msg id) }) := by
  rw [exec_amsg_goes hg ha hp hw hd hport hmsg hctx hop, hsome, if_pos (.inr (.inr hup))]
  simp only [Option.elim_some, decide_eq_true_eq]

end

/-- Settles O46: each instruction issues once; a SPAWN is the case of what its record holds, an AMSG that of its destination. -/
theorem spawnResults : Obligations.SpawnResults := by
  unfold Obligations.SpawnResults
  intro s c x h sa e post pre v hp ha
  refine ⟨fun pk hg => ⟨fun i n hi => ?unread, fun bs hread => ?task, fun bs l hread hl => ?grid, fun bs fl legal hread hfl hlegal => ?graph⟩,
    fun vb w d port msg hg hw hd hport hmsg => ⟨fun hctx => exec_amsg_foreign hg ha hp hw hctx, fun hctx => ⟨?nowhere, ?full, ?room, ?port⟩⟩⟩
  case unread =>
    obtain ⟨k, hk⟩ := exec_spawn_forms hi s
    rw [hk]
    exact ⟨fun code a aux hread => spawnRead_bad hg ha hp hread k, fun hread => spawnRead_nonres hg ha hp hread k⟩
  case task =>
    obtain ⟨hslot, -⟩ := env_facts hg
    rw [exec_spawnTask_goes hg ha hp hread, ← hslot]
    refine ⟨fun hno => by rw [if_pos hno], fun u hok hu => ?published⟩
    case published => rw [if_neg (by rw [hok]; decide), afterRelease_done hu]
  case grid =>
    obtain ⟨hslot, -⟩ := env_facts hg
    refine ⟨exec_spawnGrid_refused hg ha hp hread hl, fun hok => ⟨fun a u hmissing hu => exec_spawnGrid_parks hg ha hp hread hl hok hmissing hu,
      fun u hslots hu => ?launched⟩⟩
    case launched =>
      rw [← hslot] at hu
      rw [exec_spawnGrid_launches hg ha hp hread hl hok hslots, afterRelease_done hu]
  case graph =>
    obtain ⟨hslot, -⟩ := env_facts hg
    rw [exec_spawnGraph_goes hg ha hp hread hfl, ← hslot]
    refine ⟨fun hill => by rw [if_neg (mt hlegal.mpr hill)], fun hleg hfull => ?waits, fun u hleg hinsts hthreads hu => ?started⟩
    case waits => rw [if_pos (hlegal.mp hleg), if_pos hfull]
    case started =>
      have hroom : ¬ (64 ≤ (flaskAt v fl).insts.length ∨ 256 ≤ threadCount (flaskAt v fl)) :=
        not_or.mpr ⟨Nat.not_le_of_lt hinsts, Nat.not_le_of_lt hthreads⟩
      rw [if_pos (hlegal.mp hleg), if_neg hroom, afterRelease_done hu]
  case nowhere => exact fun hfar hhome hdown => exec_amsg_nowhere hg ha hp hw hd hport hmsg hctx hfar hhome hdown
  case full => exact fun hcore hfull => by rw [exec_amsg_core hg ha hp hw hd hport hmsg hctx hcore rfl, if_pos hfull]
  case room =>
    exact fun hcore hroom => ⟨_, _, rfl, by
      rw [exec_amsg_core hg ha hp hw hd hport hmsg hctx hcore rfl, if_neg (Nat.not_le_of_lt hroom)]⟩
  case port =>
    refine fun p hsome hup => ⟨fun hfull => ?_, fun hroom => ⟨_, _, rfl, ?_⟩⟩
    · rw [exec_amsg_port hg ha hp hw hd hport hmsg hctx hsome hup rfl, if_pos hfull]
    · rw [exec_amsg_port hg ha hp hw hd hport hmsg hctx hsome hup rfl, if_neg (Nat.not_le_of_lt hroom)]

end Sys2Proof.Machine
end

section
/-! SUPPORT. PHASE (R98 to R100, R305) and SIGNAL (R95, R306): what each does where its stream issues, how far a phase goes, and the decrement
of a successor, then O45. -/

namespace Sys2Proof.Machine

open Host

/-! ### How far a PHASE goes (R100, R305) -/

section
variable {u : State} {g : Nat} {y : Group} {l : Launch} {t : Nat} (hy : groupAt u g = some y)
include hy

/-- While a lane stands elsewhere, the phase waits. -/
theorem phaseStep_absent (hnone : phaseWords y = []) : phaseStep u g = u := by
  rw [phaseStep, hy]
  simp only [hnone]

variable (hl : launchFor u y = some (l, t)) {w : Nat} {r : List Nat} (hwords : phaseWords y = w :: r) (hgood : phaseBad u y = false)
include hl hwords hgood

/-- A phase waits for what it has lent, for a fence under way and for what it carries (log entry 37). -/
theorem phaseStep_waits (hwait : y.lent ≠ [] ∨ y.fence ≠ none ∨ ∃ v, v ∈ carriedV l.carry ∧ isEmpty y v = true) : phaseStep u g = u := by
  have hheld : (!y.lent.isEmpty || y.fence.isSome || (carriedV l.carry).any (isEmpty y)) = true := by
    simpa only [Bool.or_eq_true, Bool.not_eq_true', List.isEmpty_eq_false_iff, Option.isSome_iff_ne_none, List.any_eq_true, or_assoc] using hwait
  rw [phaseStep, hy]
  simp only [hwords, hl, hgood, hheld, Bool.false_eq_true, if_false, if_true]

/-- With nothing to wait for, the phase ends once its release at dev scope is complete. -/
theorem phaseStep_ends (hlent : y.lent = []) (hfence : y.fence = none) (hfull : ∀ v, v ∈ carriedV l.carry → isEmpty y v = false)
    (hslots : phaseMissing u l t y = none) {ok : Bool} {v : State} (hrel : release (stopStreams (endBurst u g) g) g .dev = (ok, v))
    {z : Group} (hz : groupAt v g = some z) : phaseStep u g = if ok = true then endPhase v g z l t (BitVec.ofNat 32 w) else v := by
  have hfree : (!y.lent.isEmpty || y.fence.isSome || (carriedV l.carry).any (isEmpty y)) = false := by
    rw [hlent, hfence, List.any_eq_false.mpr fun v hv => Bool.not_eq_true _ ▸ hfull v hv]
    rfl
  rw [phaseStep, hy]
  simp only [hwords, hl, hgood, hfree, Bool.false_eq_true, if_false, hslots, hrel, hz]

end

/-! ### The decrement of a successor (R95, R96) -/

/-- A successor that has not been sent to is marked as sent to, and its decrement goes out. -/
theorem deliver_unsent {u v : State} {ctx : Nat} {handle : DWord} {k : Nat} (poison : Bool) (sg : Sig) (hunsent : sentBit u ctx handle k = false)
    (hv : v = putRec u ctx handle 0x0C 2 (recField u ctx handle 0x0C 2 + 2 ^ k)) : deliver u ctx handle poison k sg =
      { v with decs := v.decs ++ [{ ctx := ctx, handle := successor u ctx handle k, bySrc := handle, poison := poison, sig := sg,
                                    src := ((taskOf v ctx handle).map fun t => t.core).getD 0xFFFF }] } := by
  rw [deliver, if_neg (by rw [hunsent]; decide), hv]

/-! ### The instructions as they issue -/

/-- The extra count that the operand of PHASE names (R305). -/
def phaseCount (n : SImm) (e : Env) : Nat :=
  match n with
  | .imm k => k.toNat
  | .s k => (e.s k.toNat).toNat % 65536

/-- The successor that the operand of SIGNAL names (R306). -/
def signalIndex (i : SImm) (e : Env) : Nat :=
  match i with
  | .imm k => k.toNat
  | .s k => (e.s k.toNat).toNat % 16

section
variable {s : State} {c : Cur} {x : Group} {h : Hdr} {e : Env} {post pre : State} (ha : e.act ≠ 0) (hp : pre = { s with free := s.free + 1 })
include ha hp

/-- PHASE traps for a task without a grid, and at words or counts that do not fit; otherwise its lanes stand at it, and the phase goes on
as far as it can (R305). -/
theorem exec_phase_goes {n : SImm} {v : State}
    (hg : Goes s c x { h := h, once := true } (splitTo { h := h, once := true } (fun e => e.pc) fun e => .phase (phaseCount n e)) e post)
    (hv : v = modGroup (atOnce post e h) c.g (joinPhase c.pc (phaseCount n e) e.act (c.word.extractLsb' 32 64))) :
    exec (.phase h n) s = .next (if launchFor post e.grp = none ∨ (groupAt v c.g).any (phaseBad v) = true then trapReserved pre e.act
      else phaseStep v c.g) := by
  obtain ⟨hslot, -, -, -, -, hpc, -⟩ := env_facts hg
  have hcur : pre.cur = some c := by rw [hp]; exact hg.may.cur
  rw [exec_phase, execPhase]
  refine (goesTo_gate hg _).trans ?_
  rw [once_act ha, if_pos rfl, ← hp]
  simp only [hslot, hpc, hcur, Option.map_some, Option.getD_some]
  by_cases hgrid : launchFor post e.grp = none
  · rw [if_pos (Option.isNone_iff_eq_none.mpr hgrid), if_pos (.inl hgrid)]
  · rw [if_neg (mt Option.isNone_iff_eq_none.mp hgrid), hv]
    simp only [hgrid, false_or]
    rfl

/-- SIGNAL traps, counts nothing, or delivers its successor after its release (R95, R306). -/
theorem exec_signal_goes {i : SImm} {k : Nat} (hg : Goes s c x { h := h, once := true, mem := true } (nextWord { h := h }) e post)
    (hk : k = signalIndex i e) : exec (.signal h i) s = .next (
      if taskSucc post e.grp ≤ k then trapReserved pre e.act
      else if sentBit post x.ctx e.grp.handle k = true then
        if h.set.toNat < 12 then modGroup post c.g fun x => setFlag x h.set.toNat (flagOf x h.set.toNat - 1) else post
      else afterRelease e pre post .dev fun u => deliver u x.ctx e.grp.handle false k (sigOf x.uid h.set)) := by
  obtain ⟨hslot, hctx, huid, -⟩ := env_facts hg
  rw [exec_signal, execSignal, goes_once hg ha hp]
  simp only [hctx, huid, uncount, hslot, hk]
  rfl

end

/-- Settles O45: each instruction issues once, and does the case of its operand; a phase is the case of what it waits for. -/
theorem phaseAndSignalResults : Obligations.PhaseAndSignalResults := by
  unfold Obligations.PhaseAndSignalResults
  intro s c x h e post pre hp ha
  refine ⟨fun n extra v y hextra hg => ?phase, fun u g y z l t w r hy hl => ⟨phaseStep_absent hy, fun hwords hgood =>
    ⟨phaseStep_waits hy hl hwords hgood, fun hlent hfence hfull hslots ok v hrel hz =>
      phaseStep_ends hy hl hwords hgood hlent hfence hfull hslots hrel hz⟩⟩, fun i k hg hk => ?signal⟩
  case phase =>
    obtain rfl : extra = phaseCount n := hextra
    refine ⟨fun hgrid => by rw [exec_phase_goes ha hp hg rfl, if_pos (.inl hgrid)], fun hgrid hv hy => ?_⟩
    rw [exec_phase_goes ha hp hg hv, hy, Option.any_some]
    refine ⟨fun hbad => by rw [if_pos (.inr hbad)], fun hgood => ?stands⟩
    case stands => rw [if_neg (not_or.mpr ⟨hgrid, by rw [hgood]; decide⟩)]
  case signal =>
    obtain ⟨hslot, -⟩ := env_facts hg
    rw [exec_signal_goes ha hp hg hk, ← hslot]
    refine ⟨fun hnone => by rw [if_pos hnone], fun hthere => ?_⟩
    rw [if_neg (Nat.not_le_of_lt hthere)]
    refine ⟨fun hsent => by rw [if_pos hsent], fun u hunsent hu hunsent' => ⟨_, rfl, ?sends⟩⟩
    case sends => rw [if_neg (by rw [hunsent]; decide), afterRelease_done hu, deliver_unsent false _ hunsent' rfl]

end Sys2Proof.Machine
end

section
/-! SUPPORT. EXIT (R95, R143, R154, R288): the group once lanes have left it, why a team's barrier does not complete while one of its lanes
runs, then O18. -/

namespace Sys2Proof.Machine

open Host

/-- What a map reads is among its entries. -/
theorem mem_of_mget? {α : Type} {m : SMap α} {k : Nat} {x : α} (h : mget? m k = some x) : (k, x) ∈ m := by
  induction m with
  | nil => exact absurd h (Option.some_ne_none x).symm
  | cons p r ih =>
    obtain ⟨a, y⟩ := p
    rw [mget?] at h
    split at h
    case isTrue hkey => rw [Option.some.inj h, hkey]; exact List.mem_cons_self
    case isFalse =>
      split at h
      case isTrue => exact absurd h (Option.some_ne_none x).symm
      case isFalse => exact List.mem_cons_of_mem _ (ih h)

/-- A map whose values all become `f` of them. -/
theorem mget?_map {α β : Type} (f : α → β) (m : SMap α) (k : Nat) : mget? (m.map fun p => (p.1, f p.2)) k = (mget? m k).map f := by
  induction m with
  | nil => rfl
  | cons p r ih =>
    obtain ⟨a, y⟩ := p
    simp only [List.map_cons, mget?, ih]
    split
    · rfl
    · split
      · rfl
      · rfl

/-! ### The group that lanes leave (R143, R288) -/

/-- A rejoin register that lanes have left. -/
def leaveJoin (m : LaneMask) (q : Join) : Join := { mask := q.mask &&& ~~~ m, arrived := q.arrived &&& ~~~ m }

/-- Lanes stand nowhere, their regions are closed, and they are in no rejoin register. -/
def withoutLanes (m : LaneMask) (y : Group) : Group :=
  { y with paths := regang (removeLanes y.paths m), apx := y.apx.filter fun p => !inLanes m p.1,
           j := y.j.map fun p => (p.1, leaveJoin m p.2) }

/-- The group after lanes have left it: its joins, and the handler under way, may complete. -/
def afterExit (cyc : Nat) (m : LaneMask) (y : Group) : Group := uiCheck (joinAll cyc (withoutLanes m y))

/-- An exit leaves a group with no path to retire, and tests the team's barrier for any other. -/
theorem exitLanes_eq {s : State} {g : Nat} {y : Group} (hy : groupAt s g = some y) (m : LaneMask) {z : Group}
    (hz : z = afterExit (coreAt s (slotCore g)).cycle m y) :
    exitLanes s g m = if z.paths.isEmpty = true then retireGroup (setGroup s g z) g else barStep (setGroup s g z) z.team := by
  rw [exitLanes, modGroup_eq hy, hz]
  simp only [groupAt_setGroup_same]
  rfl

theorem placed_withoutLanes (m : LaneMask) (y : Group) (l : Nat) (pc : Pc) (w : Wait) :
    Placed (withoutLanes m y).paths l pc w ↔ Placed y.paths l pc w ∧ inLanes m l = false := by
  rw [withoutLanes, placed_regang, placed_removeLanes]

section
variable (cyc : Nat) (m : LaneMask) (y : Group)

/-- Of the group, an exit changes where lanes stand, its joins, its handler and its open regions. -/
theorem afterExit_frame : afterExit cyc m y = { y with
    paths := (afterExit cyc m y).paths, j := (afterExit cyc m y).j, stall := (afterExit cyc m y).stall,
    uiAct := (afterExit cyc m y).uiAct, uiSet := (afterExit cyc m y).uiSet, apx := y.apx.filter fun p => !inLanes m p.1 } := by
  obtain ⟨hjoin, -⟩ := joinAll_kept cyc (withoutLanes m y)
  obtain ⟨hui, -⟩ := uiCheck_kept (joinAll cyc (withoutLanes m y))
  rw [afterExit]
  generalize uiCheck (joinAll cyc (withoutLanes m y)) = z at *
  generalize joinAll cyc (withoutLanes m y) = w at *
  rw [hui, hjoin, withoutLanes]

theorem flagOf_afterExit (k : Nat) : flagOf (afterExit cyc m y) k = flagOf y k := by
  have hf : (afterExit cyc m y).f = y.f := by rw [afterExit_frame]
  rw [flagOf, flagOf, hf]

/-- Lanes of the group that run stay where they are. -/
theorem afterExit_keeps_running {l : Nat} {pc : Pc} (hstays : inLanes m l = false) (hruns : Placed y.paths l pc .run) :
    Placed (afterExit cyc m y).paths l pc .run := by
  obtain ⟨-, hjoin, -⟩ := joinAll_kept cyc (withoutLanes m y)
  obtain ⟨-, hui, -⟩ := uiCheck_kept (joinAll cyc (withoutLanes m y))
  exact hui l pc (hjoin l pc ((placed_withoutLanes m y l pc .run).mpr ⟨hruns, hstays⟩))

/-- The lanes that have left stand nowhere. -/
theorem afterExit_ends {l : Nat} (hleaves : inLanes m l = true) (pc : Pc) (w : Wait) : ¬ Placed (afterExit cyc m y).paths l pc w := by
  obtain ⟨-, -, hjoin⟩ := joinAll_kept cyc (withoutLanes m y)
  obtain ⟨-, -, hui⟩ := uiCheck_kept (joinAll cyc (withoutLanes m y))
  intro hplaced
  obtain ⟨pc', w', hthere⟩ := hjoin l (hui l ⟨pc, w, hplaced⟩)
  obtain ⟨-, hstays⟩ := (placed_withoutLanes m y l pc' w').mp hthere
  exact Bool.false_ne_true (hstays.symm.trans hleaves)

end

/-- A test of the joins puts no lane into a mask. -/
theorem joinAll_mask_apart (cyc : Nat) {m : LaneMask} {g : Group} (hg : ∀ n, (mget g.j n {}).mask &&& m = 0) (n : Nat) :
    (mget (joinAll cyc g).j n {}).mask &&& m = 0 := by
  rw [joinAll]
  generalize List.range 8 = ks
  induction ks generalizing g with
  | nil => exact hg n
  | cons k r ih =>
    refine ih fun i => ?_
    have htest := joinStep_tested cyc g k
    by_cases hopen : waitsOn g k = true ∧ pending g (mget g.j k {}) = 0
    · obtain ⟨hj, -⟩ := htest.opens hopen
      rw [hj]
      split
      · exact BitVec.zero_and
      · exact hg i
    · obtain ⟨-, hj, -⟩ := htest.idle hopen
      rw [hj]
      exact hg i

/-- The lanes that have left are in no rejoin mask. -/
theorem afterExit_mask_apart (cyc : Nat) (m : LaneMask) (y : Group) (n : Nat) : (mget (afterExit cyc m y).j n {}).mask &&& m = 0 := by
  have hui : (afterExit cyc m y).j = (joinAll cyc (withoutLanes m y)).j := by
    obtain ⟨hkept, -⟩ := uiCheck_kept (joinAll cyc (withoutLanes m y))
    rw [afterExit, hkept]
  rw [hui]
  refine joinAll_mask_apart cyc (fun k => ?_) n
  have hmap : mget? (withoutLanes m y).j k = (mget? y.j k).map (leaveJoin m) := mget?_map (leaveJoin m) y.j k
  rw [mget, hmap]
  cases mget? y.j k with
  | none => exact BitVec.zero_and
  | some q =>
    rw [Option.map_some, Option.getD_some, leaveJoin, BitVec.and_assoc, BitVec.and_comm (~~~ m), BitVec.and_not_self]
    exact BitVec.and_zero

/-! ### A lane that runs keeps the barrier of its team shut (R304) -/

theorem atBar_running {z : Group} {l : Nat} {pc : Pc} (hruns : Placed z.paths l pc .run) : atBar z = false := by
  obtain ⟨p, hp, -, -, hwait⟩ := hruns
  rw [atBar, Bool.and_eq_false_iff]
  exact .inr (List.all_eq_false.mpr ⟨p, hp, by simp only [hwait, Bool.false_eq_true, not_false_eq_true]⟩)

theorem barStep_running {u : State} {g : Nat} {z : Group} (hz : groupAt u g = some z) (hlive : z.done = false) {l : Nat} {pc : Pc}
    (hruns : Placed z.paths l pc .run) : barStep u z.team = u := by
  cases ht : teamOf u z.team with
  | none => rw [barStep, ht]
  | some t =>
    have hmember : (g, z) ∈ u.groups.filter fun p => p.2.team == z.team && !p.2.done :=
      List.mem_filter.mpr ⟨mem_of_mget? hz, by rw [hlive, beq_self_eq_true]; rfl⟩
    exact barStep_waits ht rfl (.inr ⟨(g, z), hmember, atBar_running hruns⟩)

/-- While a lane of the group runs, an exit changes the group alone. -/
theorem exitLanes_running {s : State} {g : Nat} {y : Group} (hy : groupAt s g = some y) (hlive : y.done = false) {m : LaneMask} {l : Nat} {pc : Pc}
    (hstays : inLanes m l = false) (hruns : Placed y.paths l pc .run) :
    exitLanes s g m = setGroup s g (afterExit (coreAt s (slotCore g)).cycle m y) := by
  have hz := afterExit_keeps_running (coreAt s (slotCore g)).cycle m y hstays hruns
  have hlive' : (afterExit (coreAt s (slotCore g)).cycle m y).done = false := by rw [afterExit_frame]; exact hlive
  have hpaths : ¬ (afterExit (coreAt s (slotCore g)).cycle m y).paths.isEmpty = true := by
    rw [List.isEmpty_iff]
    intro hnil
    rw [hnil, placed_nil] at hz
    exact hz
  rw [exitLanes_eq hy m rfl, if_neg hpaths, barStep_running (groupAt_setGroup_same ..) hlive' hz]

/-! ### EXIT as it issues (R288) -/

/-- The last lanes go after their release (R95, log entry 19), others at once. -/
theorem exec_exit_goes {s : State} {c : Cur} {x : Group} {h : Hdr} {e : Env} {post : State}
    (hg : Goes s c x { h := h } (nextWord { h := h }) e post) : exec (.exit h) s = .next (
    if aliveLanes e.grp &&& ~~~ e.act = 0 then
      afterRelease e { s with free := s.free + 1 } post .dev fun u => exitLanes (atOnce u e h) c.g e.act
    else exitLanes (atOnce post e h) c.g e.act) := by
  obtain ⟨hslot, -⟩ := env_facts hg
  have hacts : actsIn e { h := h } = true := rfl
  rw [exec_exit, execExit, goes_gate hg, hacts, if_pos rfl, hslot]

/-- Settles O18: while a lane of the group runs, neither the end of the group nor the barrier of its team follows. -/
theorem exitEnds : Obligations.ExitEnds := by
  unfold Obligations.ExitEnds
  intro s c x y h e post hg hy hlive
  refine ⟨fun l0 pc0 hsome hruns hstays => ?running, fun _ hsome => by rw [exec_exit_goes hg, if_neg hsome],
    fun hlast => by rw [exec_exit_goes hg, if_pos hlast]⟩
  case running =>
    obtain ⟨-, hcounted, hslot, -⟩ := goes_facts hg hy
    obtain ⟨f, hdrop⟩ := dropFlag_frame h.set y
    have hpaths : (dropFlag h.set y).paths = y.paths := by rw [hdrop]
    have hdone : (dropFlag h.set y).done = false := by rw [hdrop]; exact hlive
    rw [exec_exit_goes hg, if_neg hsome, atOnce_eq (by rw [hslot]; exact hy), hslot,
      exitLanes_running (groupAt_setGroup_same ..) hdone hstays (by rw [hpaths]; exact hruns), setGroup_twice]
    generalize (coreAt _ (slotCore c.g)).cycle = cyc
    refine ⟨_, _, rfl, rfl, fun k hk => groupAt_setGroup_ne _ _ _ _ hk, groupAt_setGroup_same _ _ _, fun k => ?flags, ?frame,
      fun l pc w hleaves => afterExit_ends cyc _ _ hleaves pc w, afterExit_mask_apart cyc _ _,
      fun l pc hl hrun => afterExit_keeps_running cyc _ _ hl (by rw [hpaths]; exact hrun)⟩
    case flags =>
      have hacts : actsIn e { h := h } = true := rfl
      rw [flagOf_afterExit]
      exact dropFlag_countSet x y h.set (fun k => by simpa only [hacts, and_true] using hcounted k) k
    case frame =>
      have hframe := afterExit_frame cyc e.act (dropFlag h.set y)
      generalize afterExit cyc e.act (dropFlag h.set y) = z at *
      rw [hdrop] at hframe
      rw [hframe]

end Sys2Proof.Machine
end

section
/-! SUPPORT. What the issue of a stream changes (R126, R137, R152, R265): O14. -/

namespace Sys2Proof.Machine

open Host

/-- Without a queue among its sources, an issue pops none (R126). -/
theorem issued_queuesKept (c : Cur) (i : Info) (x : Group) (cyc : Nat) (count : Bool) (ds : List Dest) :
    QueuesKept i x (issued c cyc i count i.queues ds (retire cyc x)) := by
  intro hnone
  rw [hnone]
  exact issued_queues c cyc i count ds (retire cyc x)

section
variable {s : State} {c : Cur} {x : Group} {i : Info} {dsts : Env → List Dest} {e : Env} {post : State} (hg : Goes s c x i dsts e post)
include hg

/-- The group of a stream that has issued: it has issued as it stood with its results due settled (R151). -/
theorem Goes.groupAt_post : groupAt post c.g = some (issued c e.cyc i (actsIn e i) i.queues (dsts e) (retire e.cyc x)) := by
  rw [hg.post, afterIssue_group]

/-- An issue changes its own slot alone. -/
theorem Goes.others : OthersKept s post c.g := by
  intro k hk
  rw [hg.post, afterIssue_others s c x i e (dsts e) k hk]

end

/-- Settles O14: the slot holds the issued group, field by field. -/
theorem issueMoves : Obligations.IssueMoves := by
  unfold Obligations.IssueMoves
  intro s c x i dsts e post hg
  have hy := hg.groupAt_post
  obtain ⟨hmoved, hcounted, -, -⟩ := goes_facts hg hy
  refine ⟨by rw [hg.post]; rfl, hg.others, _, hy, hmoved, hcounted, issued_queuesKept c i x _ _ _, ?recents, ?placed⟩
  case recents =>
    intro q hq
    rw [issued_recents] at hq
    exact mem_retire _ x q hq
  case placed => exact fun l pc w => issued_placed c _ i _ _ _ (retire _ x) l pc w

end Sys2Proof.Machine
end

section
/-! SUPPORT. Queue rings (R125, R126, R373, R374, R376) and the start of a stream (R375): QCFG, BLWS and BLWSTOP case by case, then O37. -/

namespace Sys2Proof.Machine

open Host

/-- Two ranges meet exactly where each begins before the other ends. -/
theorem spansMeet_iff (b m b' m' : Nat) : spansMeet b m b' m' = true ↔ b < b' + m' ∧ b' < b + m := by
  simp only [spansMeet, Bool.and_eq_true, decide_eq_true_eq]

/-- The current that a stream of group `x` asks for (R375). -/
def streamNeed (v : State) (e : Env) (x : Group) (t : Ty) (q : BitVec 2) (n : Nat) : Need :=
  { kind := .stream x.uid q.toNat, ctx := x.ctx, team := (myTeam v e).uid, prio := x.prio.toNat, i15 := 2,
    dur := cycleTime v (coreFlask e.core) (n * 128 * t.size) 512, gang := (myTeam v e).gang != 0 }

section
variable {s : State} {c : Cur} {x : Group} {h : Hdr} {q : BitVec 2} {e : Env} {post pre : State} {r : Ring}
  (hg : Goes s c x { h := h, once := true, mem := true } (nextWord { h := h }) e post) (hact : e.act ≠ 0)
  (hpre : pre = { s with free := s.free + 1 }) (hr : r = ringOf e.grp q.toNat)
include hg hpre

/-- QUEUE_CONFIG of the stream under way (R250). -/
theorem trapQueue_goes : trapQueue pre e q = takeTrap pre c.g { code := 0x15, lanes := e.act, aux := q.setWidth 64 } c.pc :=
  trapAt_eq hg hpre 0x15 e.act 0 (q.setWidth 64)

include hact hr

/-- QCFG (R125, R373; log entry 16). -/
theorem exec_qcfg_goes (rbase depth : SImm) {b n : Nat} (hb : b = (e.simm rbase).toNat) (hn : n = (e.simm depth).toNat) :
    exec (.qcfg h q rbase depth) s = .next (
      if r.stream ≠ none ∨ 256 < n then trapQueue pre e q
      else if n = 0 then atOnce (modGroup post c.g fun y =>
        { markFull (if r.conf = true then ringSpan r.rbase r.depth else []) y with q := mput y.q q.toNat {} }) e h
      else if regCount e.grp < b + n ∨
          ∃ p, p ∈ e.grp.q ∧ p.1 ≠ q.toNat ∧ p.2.conf = true ∧ b < p.2.rbase + p.2.depth ∧ p.2.rbase < b + n then trapQueue pre e q
      else atOnce (modGroup post c.g fun y =>
        { markEmpty (ringSpan b n) y with q := mput y.q q.toNat { rbase := b, depth := n, conf := true } }) e h) := by
  obtain ⟨hslot, -⟩ := env_facts hg
  rw [exec_qcfg, execQcfg, goes_once hg hact hpre]
  simp only [← hb, ← hn, ← hr, hslot, Bool.or_eq_true, Option.isSome_iff_ne_none, decide_eq_true_eq, List.any_eq_true, List.mem_filter,
    Bool.and_eq_true, bne_iff_ne, spansMeet_iff, and_assoc]

/-- BLWSTOP (R376). -/
theorem exec_blwstop_goes : exec (.blwstop h q) s = .next (
    if r.conf = true then atOnce (endStream post c.g q.toNat false) e h else trapQueue pre e q) := by
  obtain ⟨hslot, -⟩ := env_facts hg
  rw [exec_blwstop, execBlwstop, goes_once hg hact hpre]
  simp only [← hr, hslot, Bool.not_eq_true', ite_not, Bool.eq_false_iff]

/-- BLWS whose record is there (R374, R375; log entry 33). -/
theorem exec_blws_goes (t : Ty) (sa : BitVec 6) {u v : State} {bs : List Byte} {st : Stream} (hu : u = drainAll post c.g)
    (hdrained : drained u c.g = true) (hread : readRec u e (e.s sa.toNat) 64 64 = (.ok bs, v))
    (hst : st = streamOf e t (sigOf x.uid h.set) bs) {id : Nat} {w : State}
    (hreq : request v (coreDomain e.core) (streamNeed v e x t q st.n) = (id, w)) :
    exec (.blws h t q sa) s = .next (
      if 2 ^ 48 < st.n then trapReserved pre e.act
      else if r.conf = false ∨ r.stream ≠ none ∨ r.head ≠ r.tail then trapQueue pre e q
      else if st.n = 0 then atOnce (putRing v c.g q.toNat fun k => { k with head := 0, tail := 0 }) e h
      else putRing w c.g q.toNat fun k => { k with head := 0, tail := 0, stream := some { st with req := id } }) := by
  obtain ⟨hslot, hctx, huid, -⟩ := env_facts hg
  have hprio : e.grp.prio = x.prio := by rw [hg.env]; rfl
  rw [exec_blws, execBlws, goes_once hg hact hpre, afterDrain, hslot]
  rw [streamNeed] at hreq
  simp only [← hu, hdrained, hread, hctx, huid, hprio, ← hst, ← hr, hreq, if_true, Bool.or_eq_true, Bool.not_eq_true',
    Option.isSome_iff_ne_none, bne_iff_ne, or_assoc]

end

/-- Settles O37: each instruction issues once, and its effect is the case of its ring, its operands and its record. -/
theorem queueResults : Obligations.QueueResults := by
  unfold Obligations.QueueResults
  intro s c x h q e post pre trap r hact hpre hr htrap
  refine ⟨fun hg => ⟨fun rbase depth b n hb hn => ?qcfg, ?blwstop⟩, fun t sa u v bs st hg hu hdrained hread hst => ?blws⟩
  case qcfg =>
    rw [exec_qcfg_goes hg hact hpre hr rbase depth hb hn, trapQueue_goes hg hpre, ← htrap]
    refine ⟨fun hno => by rw [if_pos hno], fun hidle hzero => ?off, fun hidle hlow hhigh => ?on⟩
    case off => rw [if_neg (by rw [hidle, hzero]; decide), if_pos hzero]
    case on =>
      rw [if_neg (not_or.mpr ⟨fun hbusy => hbusy hidle, Nat.not_lt.mpr hhigh⟩), if_neg (Nat.pos_iff_ne_zero.mp hlow)]
      refine ⟨fun hmeets => by rw [if_pos hmeets], fun hfits hapart => ?sets⟩
      have hclear : ¬ (regCount e.grp < b + n ∨
          ∃ p, p ∈ e.grp.q ∧ p.1 ≠ q.toNat ∧ p.2.conf = true ∧ b < p.2.rbase + p.2.depth ∧ p.2.rbase < b + n) := by
        rintro (hpast | ⟨p, hp, hother, hconf, hbelow, habove⟩)
        · exact Nat.not_le_of_lt hpast hfits
        · rcases hapart p hp hother hconf with hle | hle
          · exact Nat.not_le_of_lt hbelow hle
          · exact Nat.not_le_of_lt habove hle
      rw [if_neg hclear]
  case blwstop =>
    rw [exec_blwstop_goes hg hact hpre hr, trapQueue_goes hg hpre, ← htrap]
    exact ⟨fun hoff => by rw [hoff, if_neg Bool.false_ne_true], fun hon => by rw [if_pos hon]⟩
  case blws =>
    obtain ⟨⟨id, w⟩, hreq⟩ : ∃ p, request v (coreDomain e.core) (streamNeed v e x t q st.n) = p := ⟨_, rfl⟩
    rw [exec_blws_goes hg hact hpre hr t sa hu hdrained hread hst hreq, trapQueue_goes hg hpre, ← htrap]
    refine ⟨fun hlong => by rw [if_pos hlong], fun hshort hbad => by rw [if_neg (Nat.not_lt.mpr hshort), if_pos hbad],
      fun hshort hconf hidle hempty => ?starts⟩
    have hgood : ¬ (r.conf = false ∨ r.stream ≠ none ∨ r.head ≠ r.tail) := by
      rintro (hoff | hbusy | hfull)
      · exact Bool.false_ne_true (hoff.symm.trans hconf)
      · exact hbusy hidle
      · exact hfull hempty
    rw [if_neg (Nat.not_lt.mpr hshort), if_neg hgood]
    refine ⟨fun hzero => by rw [if_pos hzero], fun hsome => ⟨id, w, hreq, by rw [if_neg hsome]⟩⟩

end Sys2Proof.Machine
end

section
/-! SUPPORT. What stops, turns or moves a group (R119, R121 to R123, R139, R145, R156 to R158, R249, R310): each event case by case, then
O51. -/

namespace Sys2Proof.Machine

open Host

section
variable {s : State} {g : Nat} {x : Group} (hx : groupAt s g = some x)
include hx

/-! ### Traps (R145, R156, R249) -/

/-- The oldest deferred cause stops a group that may issue, at the path that it issues next (R249, R251). -/
theorem exec_deferredTrap_next {k : Cause} {rest : List Cause} {pc : Pc} {l : LaneMask} (hcauses : x.causes = k :: rest)
    (hnext : nextPath s g x = some (pc, l)) (hmay : mayIssue x = true) :
    exec (.deferredTrap g) s = .next (takeTrap (setGroup s g { x with causes := rest }) g k pc) := by
  simp only [exec_deferredTrap, execDeferredTrap, hx, hcauses, hnext, hmay, if_true]

/-- A debug register that matches stops the stream under way, unless its path goes past the match (R156, R258). -/
theorem exec_breakpoint_next {c : Cur} {n : Nat} (hcur : s.cur = some c) (hslot : c.g = g)
    (hmatch : breakReg s (slotCore g) x.ctx c.pc c.word = some n) (hlive : isLive c.word = false)
    (hstops : ∀ p, p ∈ x.paths → p.pc = c.pc → p.lanes &&& c.lanes ≠ 0 → p.skipBp = false) :
    exec (.breakpoint g) s = .next (takeTrap s g { code := 0x0A, lanes := c.lanes, aux := BitVec.ofNat 64 n } c.pc) := by
  have hskip : (x.paths.any fun p => p.pc == c.pc && p.lanes &&& c.lanes != 0 && p.skipBp) = false := by
    rw [List.any_eq_false]
    intro p hp
    simp only [Bool.and_eq_true, beq_iff_eq, bne_iff_ne, not_and, Bool.not_eq_true, and_imp]
    exact hstops p hp
  simp only [exec_breakpoint, execBreakpoint, hcur, hx, hmatch, hslot, hskip, hlive, bne_self_eq_false, Bool.or_self, Bool.false_eq_true,
    if_false, trapAt]

/-- The watchdog stops a group whose lanes wait on jk for lanes that are parked (R145, R146; log entry 17). -/
theorem exec_joinStall_next {k : BitVec 3} {limit : Nat} (hlimit : limit = sysFld s (sel 16 (coreFlask (slotCore g))) 0 32)
    (hon : limit ≠ 0) (hdue : limit ≤ x.stall) (hcounts : watchdogOn x = true) (hstuck : stuckOn x k.toNat = true) {ws : List Path}
    (hws : ws = x.paths.filter fun p => p.wait == .join k) :
    exec (.joinStall g k) s = .next (takeTrap s g
      { code := 0x08, lanes := ws.foldl (fun (m : LaneMask) p => m ||| p.lanes) 0, aux := k.setWidth 64 } ((ws.head?.map (·.via)).getD 0)) := by
  have hstops : (decide (limit = 0) || decide (x.stall < limit) || !watchdogOn x || !stuckOn x k.toNat) = false := by
    rw [decide_eq_false hon, decide_eq_false (Nat.not_lt.mpr hdue), hcounts, hstuck]; rfl
  simp only [exec_joinStall, execJoinStall, hx, ← hlimit, hstops, Bool.false_eq_true, if_false, ← hws]

/-! ### Ages (R119, R139) -/

/-- A group's count comes to 4,096 (R119). -/
theorem exec_ageBoost_next (hage : 4095 ≤ x.age) : exec (.ageBoost g) s = .next (setGroup s g { x with age := 4096 }) := by
  rw [exec_ageBoost, execAgeBoost, modGroup_eq hx, if_pos hage]

/-- The count of a path comes to 4,096 (R139). -/
theorem exec_pathAgeBoost_next (pc : Pc) : exec (.pathAgeBoost g pc) s = .next (setGroup s g { x with paths := x.paths.map fun p =>
    if p.pc == pc && p.wait == .run && !p.frozen && 4095 ≤ p.age then { p with age := 4096 } else p }) := by
  rw [exec_pathAgeBoost, execPathAgeBoost, modGroup_eq hx]

/-! ### User interrupts (R158, R295) -/

/-- A tag redirects its path to the vector and freezes the others (R158; log entry 25). -/
theorem exec_uiDeliver_next {p : Path} {tag : DWord} {rest : List DWord} (hpath : uiPath x = some p) (htags : x.uiTags = tag :: rest) :
    exec (.uiDeliver g) s = .next (setGroup s g (putS { x with
      paths := x.paths.map fun q =>
        if q == p then { q with pc := x.uiVec.setWidth 32, wait := .run, live := [], whole := false, via := p.pc, skipBp := false }
        else { q with frozen := true }
      uiPc := p.pc, uiSet := p.lanes, uiWait := p.wait, uiAct := true, uiTags := rest } 63 tag)) := by
  simp only [exec_uiDeliver, execUiDeliver, hx, hpath, htags]

/-! ### Tiering (R121 to R123, R418) -/

/-- A candidate for tiering begins its move out where it is wanted and the back of the file has room (R121). -/
theorem exec_tierOut_next (hcand : tierCand s g x = true)
    (hwanted : sysFld s (sel 15 (coreFlask (slotCore g))) 32 1 ≠ 1 ∨ spaceWanted s (slotCore g) = true)
    (hroom : backUsed s (slotCore g) + regCount x ≤ 32768) :
    exec (.tierOut g) s = .next (placeRegs (setGroup s g { x with tier := .movingOut }) g .movingOut) := by
  have hdemand : (!(sysFld s (sel 15 (coreFlask (slotCore g))) 32 1 == 1) || spaceWanted s (slotCore g)) = true := by
    simpa only [Bool.or_eq_true, Bool.not_eq_true', beq_eq_false_iff_ne] using hwanted
  simp only [exec_tierOut, execTierOut, hx, hcand, hdemand, decide_eq_true hroom, Bool.and_self, if_true]

/-- A tiered group begins its move in where its quarter has room and no other of the core goes before it (R123). -/
theorem exec_tierRecall_next (hready : recallReady s g x = true)
    (hroom : fileUsed s (slotCore g) (slotQuarter g) + regCount x ≤ 2048)
    (hfirst : ∀ p, p ∈ s.groups → p.1 ≠ g → recallReady s p.1 p.2 = true → recalledBefore s p (g, x) = false) :
    exec (.tierRecall g) s = .next (placeRegs (setGroup s g { x with tier := .movingIn }) g .movingIn) := by
  have hnone : (s.groups.any fun p => p.1 != g && recallReady s p.1 p.2 && recalledBefore s p (g, x)) = false := by
    rw [List.any_eq_false]
    intro p hp
    simp only [Bool.and_eq_true, bne_iff_ne, not_and, Bool.not_eq_true, and_imp]
    exact hfirst p hp
  have hfits : recallFits s g x = true := decide_eq_true hroom
  simp only [exec_tierRecall, execTierRecall, hx, hready, hnone, hfits, Bool.not_false, Bool.and_self, if_true]

/-- A move out that is done frees the place in the file (R122). -/
theorem exec_tierMoveDone_out (htier : x.tier = .movingOut) : exec (.tierMoveDone g) s =
    .next (setGroup s g { x with tier := .tiered, units := x.units.filter fun u => 2048 ≤ u }) := by
  rw [exec_tierMoveDone, execTierMoveDone, modGroup_eq hx, htier]

/-- A move in that is done frees the place behind the file (R122). -/
theorem exec_tierMoveDone_in (htier : x.tier = .movingIn) : exec (.tierMoveDone g) s =
    .next (setGroup s g { x with tier := .resident, units := x.units.filter fun u => u < 2048 }) := by
  rw [exec_tierMoveDone, execTierMoveDone, modGroup_eq hx, htier]

/-! ### TWAIT (R310) -/

/-- Lanes whose time the count of their flask has reached go on (R40, R310). -/
theorem exec_twaitRelease_next : exec (.twaitRelease g) s = .next (setGroup s g (mapWait x fun p => match p.wait with
    | .time t => if reached s (coreFlask (slotCore g)) t = true then { p with wait := .run } else p
    | _ => p)) := by
  rw [exec_twaitRelease, execTwaitRelease]
  exact congrArg Outcome.next (modGroup_eq hx _)

end

/-- A recall for lent registers goes ahead of every other of its core (R418). -/
theorem recalledBefore_lent {s : State} {p q : Nat × Group} (hcore : slotCore p.1 = slotCore q.1) (hlent : p.2.lent ≠ [])
    (hnone : q.2.lent = []) : recalledBefore s p q = true := by
  have hp : p.2.lent.isEmpty = false := List.isEmpty_eq_false_iff.mpr hlent
  have hq : q.2.lent.isEmpty = true := List.isEmpty_iff.mpr hnone
  simp only [recalledBefore, hcore, hp, hq, beq_self_eq_true, Bool.true_and]
  rfl

/-- Of two recalls that want space alike, the higher GPRIO goes first, then the older wait (R123). -/
theorem recalledBefore_prio {s : State} {p q : Nat × Group} (hcore : slotCore p.1 = slotCore q.1) (hlent : p.2.lent = [] ↔ q.2.lent = [])
    (hspace : slotQuarter p.1 = slotQuarter q.1 ∨ fileUsed s (slotCore p.1) (slotQuarter p.1) + regCount p.2 ≤ 2048)
    (hfirst : q.2.prio.toNat < p.2.prio.toNat ∨ (q.2.prio = p.2.prio ∧ p.2.elig < q.2.elig)) : recalledBefore s p q = true := by
  have halike : (p.2.lent.isEmpty != q.2.lent.isEmpty) = false := by
    rw [bne_eq_false_iff_eq, Bool.eq_iff_iff, List.isEmpty_iff, List.isEmpty_iff]
    exact hlent
  simp only [recalledBefore, hcore, halike, beq_self_eq_true, Bool.true_and, Bool.false_eq_true, if_false, recallFits, Bool.and_eq_true,
    Bool.or_eq_true, beq_iff_eq, decide_eq_true_eq]
  exact ⟨hcore ▸ hspace, hfirst⟩

/-- The stopped group that DBGCTL selects is resumed for one step, and the request is done (R157, R258). -/
theorem exec_debugStep_next {s t : State} {core i : Nat} {p : Parked} (hcore : core < 512) (hasked : bit (sysVal s (sel 27 core)) 1 = true)
    (hpick : stepPick s core = some i) (hp : s.parked[i]? = some p) (hput : putBack s i core p.quarter (stepEdit s core) = some t) :
    exec (.debugStep core) s = .next (setSysFld t (sel 27 core) 1 1 0) := by
  simp only [exec_debugStep, execDebugStep, Nat.not_le_of_lt hcore, hasked, hpick, hp, hput, Bool.not_true, Bool.false_eq_true, if_false]

/-- Settles O51: each event is the case of what it finds. -/
theorem schedulingEvents : Obligations.SchedulingEvents := by
  unfold Obligations.SchedulingEvents
  intro s g x hx
  refine ⟨fun k rest pc l hcauses hnext hmay => exec_deferredTrap_next hx hcauses hnext hmay,
    fun c n hcur hslot hmatch hlive hstops => exec_breakpoint_next hx hcur hslot hmatch hlive hstops,
    fun core i p t hcore hasked hpick hp hput => exec_debugStep_next hcore hasked hpick hp hput,
    fun k ws hws hon hdue hcounts hstuck => exec_joinStall_next hx rfl hon hdue hcounts hstuck hws,
    exec_ageBoost_next hx, exec_pathAgeBoost_next hx,
    fun p tag rest hpath htags => exec_uiDeliver_next hx hpath htags,
    exec_tierOut_next hx, exec_tierRecall_next hx,
    fun p hcore => ⟨recalledBefore_lent (q := (g, x)) hcore, recalledBefore_prio (q := (g, x)) hcore⟩,
    exec_tierMoveDone_out hx, exec_tierMoveDone_in hx, exec_twaitRelease_next hx⟩

end Sys2Proof.Machine
end

section
/-! SUPPORT. Fetching and translating do not read the slots: a change of `groups` changes no word fetched (R167, R169). -/

namespace Sys2Proof.Machine

open Host

section
variable (s : State) (gs : SMap Group)

theorem homeBytes_groups (kid n k : Nat) : homeBytes { s with groups := gs } kid k n = homeBytes s kid k n := by
  induction n generalizing k with
  | zero => rfl
  | succ n ih => exact congrArg _ (ih (k + 1))

theorem physRead_groups (k n : Nat) : physRead { s with groups := gs } k n = physRead s k n :=
  congrArg (fun bs => if frameOk s k then bs else List.replicate n 0) (homeBytes_groups s gs 0 n k)

theorem descField_groups (ctx off n : Nat) : descField { s with groups := gs } ctx off n = descField s ctx off n := by
  unfold descField
  simp only [physRead_groups]
  rfl

theorem walkFrom_groups (va n t : Nat) : walkFrom { s with groups := gs } va n t = walkFrom s va n t := by
  induction n generalizing t with
  | zero => rfl
  | succ n ih => simp only [walkFrom, ih, physRead_groups]; rfl

theorem entryLines_groups (va n t : Nat) : entryLines { s with groups := gs } va n t = entryLines s va n t := by
  induction n generalizing t with
  | zero => rfl
  | succ n ih => simp only [entryLines, ih, physRead_groups]

theorem ctxResident_groups (ctx : Nat) : ctxResident { s with groups := gs } ctx = ctxResident s ctx := by
  simp only [ctxResident, descField_groups]

theorem walk_groups (ctx va : Nat) : walk { s with groups := gs } ctx va = walk s ctx va := by
  simp only [walk, ctxResident_groups, descField_groups, walkFrom_groups]

/-- The translation found is the same, and what it installs is installed beside the change. -/
theorem translate_groups (core ctx : Nat) (va : DWord) : translate { s with groups := gs } core ctx va =
    ((translate s core ctx va).1, { (translate s core ctx va).2 with groups := gs }) := by
  have hclus : clusAt { s with groups := gs } = clusAt s := rfl
  have hflask : flaskAt { s with groups := gs } = flaskAt s := rfl
  unfold translate
  simp only [hclus, hflask, walk_groups]
  cases tlbHit (clusAt s (coreDomain core)).tlb ctx (va.toNat % 2 ^ 56) with
  | some l => rfl
  | none =>
    cases tlbHit (flaskAt s (coreFlask core)).tlb2 ctx (va.toNat % 2 ^ 56) with
    | some l => rfl
    | none => cases walk s ctx (va.toNat % 2 ^ 56) <;> rfl

/-- The checks on a byte come out the same. -/
theorem look_groups (core ctx : Nat) (priv : Bool) (a : Acc) (va : DWord) :
    (look { s with groups := gs } core ctx priv a va).1 = (look s core ctx priv a va).1 := by
  unfold look
  split
  · rfl
  · simp only [translate_groups]
    cases (translate s core ctx va).1 <;> rfl

theorem walkHeld_groups (core ctx : Nat) (va : DWord) : walkHeld { s with groups := gs } core ctx va = walkHeld s core ctx va := by
  have hkept : keptHome { s with groups := gs } = keptHome s := rfl
  have hclus : clusAt { s with groups := gs } = clusAt s := rfl
  have hflask : flaskAt { s with groups := gs } = flaskAt s := rfl
  simp only [walkHeld, walkKept, hkept, hclus, hflask, ctxResident_groups, descField_groups, entryLines_groups]

theorem grpPriv_groups (x : Group) : grpPriv { s with groups := gs } x = grpPriv s x := by
  simp only [grpPriv, ctxPriv, ctxResident_groups, descField_groups]

theorem fetchWord_groups (core ctx : Nat) (priv : Bool) (pc : Pc) :
    fetchWord { s with groups := gs } core ctx priv pc = fetchWord s core ctx priv pc := by
  have hva : codeVa { s with groups := gs } ctx pc = codeVa s ctx pc := rfl
  have hlocked : locked { s with groups := gs } = locked s := rfl
  unfold fetchWord
  simp only [hva, hlocked, look_groups, homeBytes_groups, walkHeld_groups]

/-- A slot fetches the same words whatever stands in the slots. -/
theorem fetchFor_groups (g : Nat) (x : Group) (pc : Pc) : fetchFor { s with groups := gs } g x pc = fetchFor s g x pc := by
  have hkept : keptHome { s with groups := gs } = keptHome s := rfl
  unfold fetchFor
  simp only [fetchWord_groups, grpPriv_groups, hkept]

end

end Sys2Proof.Machine
end

section
/-! SUPPORT. An issue turn (R117 to R119, R138, R139, R149, R275): a quarter whose one group has one ready path chooses it, and its word runs;
then O4. -/

namespace Sys2Proof.Machine

open Host

/-! ### What taking the turn of a quarter leaves as it was -/

/-- A core changed is the core that it has become, and every other is as it was. -/
theorem coreAt_modCore (s : State) (c k : Nat) (f : Core → Core) :
    coreAt (modCore s c f) k = if k = c then f (coreAt s c) else coreAt s k := by
  split
  case isTrue hsame => rw [hsame]; exact mget_mput_same _ _ _ _
  case isFalse hother => exact mget_mput_ne _ _ _ _ _ hother

/-- The turn of the quarter is taken, and the group's ages start anew (R118, R119). -/
def turnTaken (s : State) (core quarter g : Nat) : State :=
  modGroup (modCore s core fun k => { k with qlast := mput k.qlast quarter k.cycle }) g
    fun y => { y with age := 0, elig := (coreAt s core).cycle }

section
variable {s : State} {g : Nat} {x : Group} (hx : groupAt s g = some x) (core quarter : Nat)
include hx

theorem turnTaken_eq : turnTaken s core quarter g = setGroup (modCore s core fun k => { k with qlast := mput k.qlast quarter k.cycle }) g
    { x with age := 0, elig := (coreAt s core).cycle } :=
  modGroup_eq (s := modCore s core _) hx _

theorem groupAt_turnTaken : groupAt (turnTaken s core quarter g) g = some { x with age := 0, elig := (coreAt s core).cycle } := by
  rw [turnTaken_eq hx, groupAt_setGroup_same]

/-- The pipes of every quarter are as before. -/
theorem pipesBusy_turnTaken (k : Nat) : pipesBusy (turnTaken s core quarter g) k = pipesBusy s k := by
  have hcore : coreAt (turnTaken s core quarter g) (slotCore k) =
      if slotCore k = core then { coreAt s core with qlast := mput (coreAt s core).qlast quarter (coreAt s core).cycle }
      else coreAt s (slotCore k) := by
    rw [turnTaken_eq hx]
    exact coreAt_modCore s core (slotCore k) fun q => { q with qlast := mput q.qlast quarter q.cycle }
  simp only [pipesBusy, hcore]
  split
  case isTrue hown => rw [hown]
  case isFalse => rfl

/-- The words that a slot fetches are as before. -/
theorem fetchFor_turnTaken (k : Nat) (y : Group) (pc : Pc) : fetchFor (turnTaken s core quarter g) k y pc = fetchFor s k y pc := by
  rw [turnTaken_eq hx]
  exact (fetchFor_groups _ _ k y pc).trans (fetchFor_cores s _ k y pc)

/-- A debug register stops the same words as before. -/
theorem breaks_turnTaken (k : Nat) (y : Group) (p : Path) (w : IWord) : breaks (turnTaken s core quarter g) k y p w = breaks s k y p w := by
  rw [turnTaken_eq hx]
  rfl

end

/-! ### One path and its word (R117, R138, R275) -/

/-- A path whose word is fetched, decodes, and finds a pipe where it needs one, runs its instruction. -/
theorem tryPath_runs {s : State} {g : Nat} {x : Group} {p : Path} {w n : IWord} {away : Option (Option (Nat × DWord × DWord))} {i : Instr}
    (hfetch : fetchFor s g x p.pc = .ok w n away) (hdec : decode w = .ok i) (hpipe : vecWord w = true → pipeFree s g x = true) :
    tryPath s g x p none = some {
      word := w
      out := exec i { s with cur := some { g := g, pc := p.pc, lanes := p.lanes, word := w, next := n, away := away } } } := by
  have hfree : ¬ (vecWord w && (none : Option Second).isNone && !pipeFree s g x) = true := by
    cases hvec : vecWord w with
    | false => exact Bool.false_ne_true
    | true => rw [hpipe hvec]; exact Bool.false_ne_true
  rw [tryPath, hfetch]
  simp only [hfree, if_false, runWord, hdec, Bool.false_eq_true]

/-- One path is its own first, whatever its age (R138, R139). -/
theorem streamA_one (p : Path) : streamA [p] = some p := by
  by_cases hage : 4096 ≤ p.age
  · simp only [streamA, List.filter_cons, hage, decide_true, if_true, List.filter_nil, firstPath]
  · simp only [streamA, List.filter_cons, hage, decide_false, Bool.false_eq_true, if_false, List.filter_nil, firstPath]

/-- No group goes before itself (R118). -/
theorem groupBefore_irrefl (x : Group) : groupBefore x x = false := by
  simp only [groupBefore, bne_self_eq_false, Bool.false_eq_true, if_false, Nat.lt_irrefl, decide_false]

/-- One group is the best (R118). -/
theorem bestGroups_one (s : State) (e : Nat × List Path) : bestGroups s [e] = [e] := by
  refine List.filter_eq_self.mpr fun f hf => ?_
  rw [List.mem_singleton.mp hf, List.all_cons, List.all_nil, Bool.and_true]
  cases groupAt s e.1 with
  | none => rfl
  | some x => simp only [groupBefore_irrefl, Bool.not_false]

/-- What follows where the word of path `p` has made `s` into `t` in a slot with no stream B: its events count, a vector word takes a pipe,
and then the kill of an overrun and the stop of a step come (R46, R64, R140, R157, R251). -/
def afterWord (s t : State) (g : Nat) (x : Group) (p : Path) (w : IWord) : State :=
  let v := tallyWord (trapOver s t g x p w) g x p w
  stepStop (overrunStop (if vecWord w = true then takePipe v g p.lanes else v) g) g p.lanes

theorem issueStreams_one (s t : State) (g : Nat) (x : Group) (p : Path) (w : IWord) :
    issueStreams s g x p { word := w, out := .next t } none = .next (afterWord s t g x p w) := by
  simp only [issueStreams, ite_self, afterWord]

/-! ### The turn of a quarter (R117, R118) -/

section
variable {s : State} {core quarter g : Nat} {x : Group} {p : Path} {w n : IWord}
  {away : Option (Option (Nat × DWord × DWord))} {i : Instr} {c : Cur} (hx : groupAt s g = some x) (hstep : x.stepPc = none)
  (hfetch : fetchFor s g x p.pc = .ok w n away) (hdec : decode w = .ok i)
  (hpipe : vecWord w = true → pipeFree s g x = true) (hc : c = { g := g, pc := p.pc, lanes := p.lanes, word := w, next := n, away := away })

section
variable {u : State} (hmay : mayIssue x = true) (hopen : openPaths x = [p]) (hrun : exec i { s with cur := some c } = .next u) (hready : u.cur = none)
include hx hstep hfetch hdec hpipe hc hmay hopen hrun hready

/-- A group with one open path, whose word issues, has that path ready, and the scan leaves the machine as it was (R117). -/
theorem readyPaths_one : readyPaths s g = (s, [p]) := by
  have htry := tryPath_runs hfetch hdec hpipe
  rw [← hc, hrun] at htry
  have hslot : slotPaths x = [p] := by simp only [slotPaths, hmay, hstep, hopen, Bool.not_true, Bool.false_eq_true, if_false]
  have hissues : Tried.ready { word := w, out := .next u } = true := by simp only [Tried.ready, hready, Option.isNone_none]
  simp only [readyPaths, hx, hslot, List.foldl_cons, List.foldl_nil, htry, hissues, if_true, List.nil_append]

/-- A quarter whose one group has one ready path issues that path (R118). -/
theorem issueTurn_one (hcore : core < 512) (hquarter : quarter < 4) (hclock : (flaskAt s (coreFlask core)).gated = false)
    (hturn : mget? (coreAt s core).qlast quarter ≠ some (coreAt s core).cycle) (hgroups : quarterGroups s core quarter = [g]) :
    issueTurn s core quarter = issueGroup (turnTaken s core quarter g) g [p] := by
  have hgoes : ¬ (decide (512 ≤ core) || decide (4 ≤ quarter) || (flaskAt s (coreFlask core)).gated ||
      mget? (coreAt s core).qlast quarter == some (coreAt s core).cycle) = true := by
    simp only [hclock, Bool.or_false, Bool.or_eq_true, decide_eq_true_eq, beq_iff_eq]
    rintro ((hpast | hpast) | htaken)
    · exact Nat.not_le_of_lt hcore hpast
    · exact Nat.not_le_of_lt hquarter hpast
    · exact hturn htaken
  have hscan : scanQuarter s core quarter = (s, [(g, [p])]) := by
    simp only [scanQuarter, hgroups, List.foldl_cons, List.foldl_nil, readyPaths_one hx hstep hfetch hdec hpipe hc hmay hopen hrun hready,
      List.isEmpty_cons, Bool.false_eq_true, if_false, List.nil_append]
  have halone : ([(g, [p])].map (·.1)).filter (fun k => k != g) = [] := by
    simp only [List.map_cons, List.map_nil, List.filter_cons, bne_self_eq_false, Bool.false_eq_true, if_false, List.filter_nil]
  rw [issueTurn, if_neg hgoes, hscan]
  simp only [bestGroups_one, halone, ageGroups, List.foldl_nil]
  rfl

end

/-! ### The slot of the one path -/

section
variable {t : State} (hpoison : x.poison = none) (hui : uiPath x = none) (hcauses : x.causes = []) (hrun : exec i { s with cur := some c } = .next t)
include hx hpoison hui hcauses hfetch hdec hpipe hc hrun

/-- With nothing that goes before its word, the slot of one path is its word, and what follows on it (R64, R119, R149, R157, R251). -/
theorem issueGroup_one (hbreaks : breaks s g x p w = false) : issueGroup s g [p] =
    .next (if atTrapped t g x.uid = true then t else afterWord s t g x p w) := by
  have htry := tryPath_runs hfetch hdec hpipe
  rw [← hc, hrun] at htry
  have hrest : [p].filter (fun q => q != p) = [] := by
    simp only [List.filter_cons, bne_self_eq_false, Bool.false_eq_true, if_false, List.filter_nil]
  rw [issueGroup, hx, streamA_one]
  simp only [hpoison, hui, htry, hrest, hcauses, hbreaks, firstPath, stateOf, Option.isSome_none, Option.bind_none, ite_self,
    Option.filter_none, issueStreams_one, agePaths, List.foldl_nil, List.isEmpty_nil, Bool.not_true, Bool.false_eq_true, if_false,
    apply_ite Outcome.next]

end

end

/-- A step is what the next agent of the agenda does, and what then goes on by itself (log entry 1). -/
theorem step_next {s v : State} {a : Turn} {rest : List Turn} (hagenda : s.agenda = a :: rest)
    (hact : act { s with agenda := rest, cur := none } a = .next v) : step s = .next (sweep v) := by
  simp only [step, turn, hagenda, hact]

/-- Settles O4: the turn goes to the one ready path, whose word finds after the turn is taken what it found before. -/
theorem stepRunsDecoded : Obligations.StepRunsDecoded := by
  unfold Obligations.StepRunsDecoded
  intro s s1 s2 u t core quarter g rest x p w n away i c hagenda hs1 hs2 hcore hquarter hclock hturn hgroups hx hmay hstep hopen hpoison hui
    hcauses hfetch hdec hbreaks hpipe hc hfirst hready hrun _
  have htaken : s2 = turnTaken s1 core quarter g := hs2
  have hslot := issueTurn_one hx hstep hfetch hdec hpipe hc hmay hopen hfirst hready hcore hquarter hclock hturn hgroups
  have hword := issueGroup_one (s := s2) (x := { x with age := 0, elig := (coreAt s1 core).cycle }) (t := t)
    (by rw [htaken, groupAt_turnTaken hx]) (by rw [htaken, fetchFor_turnTaken hx]; exact hfetch) hdec
    (by intro hvec; rw [htaken, pipeFree, pipesBusy_turnTaken hx]; exact hpipe hvec) hc hpoison hui hcauses hrun
    (by rw [htaken, breaks_turnTaken hx]; exact hbreaks)
  refine step_next hagenda ?_
  rw [← hs1, act, hslot, ← htaken]
  exact hword

end Sys2Proof.Machine
end

section
/-! SUPPORT. The invariant of every step (R154): the end of a step frees the slots of ended groups, so O5 and O6. -/

namespace Sys2Proof.Machine

open Host

/-- What a group still has under way is no matter of the slots, nor of the issue under way. -/
theorem outstanding_slots (s : State) (gs : SMap Group) (c : Option Cur) (g : Nat) (x : Group) :
    outstanding { s with cur := c, groups := gs } g x = outstanding s g x := rfl

theorem settled_vacate (s : State) : Settled (vacate s) := by
  refine ⟨rfl, fun p hp hdone => ?_⟩
  obtain ⟨-, hstays⟩ := List.mem_filter.mp hp
  rw [vacate, outstanding_slots]
  rw [hdone] at hstays
  exact hstays

theorem settled_seeContext {s : State} (h : Settled s) : Settled (seeContext s) := by
  unfold seeContext
  split
  · exact h
  · exact h

/-- However the step went, its end settles the machine. -/
theorem settled_sweep (s : State) : Settled (sweep s) := settled_seeContext (settled_vacate _)

/-- A step that has a next state has ended with a sweep. -/
theorem step_sweeps {s t : State} (h : step s = .next t) : ∃ u, t = sweep u := by
  unfold step turn at h
  dsimp only at h
  split at h
  case h_1 u _ => exact ⟨u, (Outcome.next.inj h).symm⟩
  case h_2 o hnot => exact absurd h (hnot t)

/-- Settles O5: every step ends with a sweep, whatever went before. -/
theorem stepSettles : Obligations.StepSettles := by
  unfold Obligations.StepSettles
  intro s t _ hstep
  obtain ⟨u, rfl⟩ := step_sweeps hstep
  exact settled_sweep u

/-- Settles O6: no issue and no group stands at reset. -/
theorem resetSettled : Obligations.ResetSettled := by
  unfold Obligations.ResetSettled
  exact ⟨rfl, fun p hp => absurd hp List.not_mem_nil⟩

end Sys2Proof.Machine
end


section
/-! SUPPORT. The computing instructions are of their forms (R224, R296 to R302, R315 to R346, R362, R365); what the issue of a form does,
`laneForm_done` and `varForm_done` say: O8 to O11. -/

namespace Sys2Proof.Machine

open Host

/-- An instruction of this form with an s destination acts once for its stream (R265). -/
def LaneForm.OnceToS (φ : LaneForm) : Prop := ∀ n, φ.d = some (.s n) → φ.info.once = true

/-- What an instruction of a form does where its stream may issue (R151, R265). -/
theorem laneDone_of_form {i : Instr} {φ : LaneForm} {s : State} {c : Cur} {x : Group} (hexec : exec i s = φ.exec s) (honce : φ.OnceToS)
    (hm : MayIssue s c x φ.info) : ∃ t, exec i s = .next t ∧ LaneDone s t c x φ := by
  rw [hexec]
  exact laneForm_done φ honce hm

/-- DQBLK is of its form. -/
theorem execDqblk_eq (h : Hdr) (d : BitVec 10) (a : Src) (s : State) : execDqblk h d a s =
    (dForm (infoOf h (.v d) false (some (a, false)) none []) (.v d) false 8 fun e l => dqblkOut (fun m => (e.src32 a m).toNat) l).exec s := rfl

section
variable {i : Instr} {φ : LaneForm}

/-! ### Classes 1 and 2 (R315 to R327) -/

theorem exec_integerForm (h : integerForm i = some φ) (s : State) : exec i s = φ.exec s := by
  unfold integerForm at h
  split at h <;> cases h
  all_goals
    simp only [exec_iadd, execIadd, exec_isub, execIsub, exec_imul, execImul, exec_imulh, execImulh, exec_imad, execImad, exec_imin, execImin,
      exec_imax, execImax, exec_iabs, execIabs, exec_ineg, execIneg, exec_idp4, execIdp4, exec_idp2, execIdp2, exec_iadd3, execIadd3,
      intBin, intTri, dotExec, intOp_eq]

theorem integerForm_onceToS (h : integerForm i = some φ) : φ.OnceToS := by
  unfold integerForm at h
  split at h <;> cases h
  all_goals rintro n ⟨⟩
  all_goals rfl

theorem exec_carryForm (h : carryForm i = some φ) (s : State) : exec i s = φ.exec s := by
  unfold carryForm at h
  split at h <;> cases h
  case h_1 => rw [exec_iaddc]; rfl
  case h_2 => rw [exec_isubb]; rfl

theorem carryForm_onceToS (h : carryForm i = some φ) : φ.OnceToS := by
  unfold carryForm at h
  split at h <;> cases h
  all_goals rintro n ⟨⟩
  all_goals rfl

theorem exec_bitForm (h : bitForm i = some φ) (s : State) : exec i s = φ.exec s := by
  unfold bitForm bitForm.two bitForm.shift bitForm.count at h
  split at h <;> cases h
  all_goals
    simp only [exec_and, execAnd, exec_or, execOr, exec_xor, execXor, exec_andn, execAndn, exec_not, execNot, exec_bmix3, execBmix3, exec_shl,
      execShl, exec_shr, execShr, exec_sar, execSar, exec_rotl, execRotl, exec_rotr, execRotr, exec_dshr, execDshr, exec_ones, execOnes,
      exec_clz, execClz, exec_ctz, execCtz, exec_brev, execBrev, exec_fxtr, execFxtr, exec_fins, execFins, exec_clmul, execClmul, exec_clmulh,
      execClmulh, exec_bsel, execBsel, bitBin, shiftExec, countExec, intOp_eq]

theorem bitForm_onceToS (h : bitForm i = some φ) : φ.OnceToS := by
  unfold bitForm bitForm.two bitForm.shift bitForm.count at h
  split at h <;> cases h
  all_goals rintro n ⟨⟩
  all_goals rfl

/-! ### Classes 3 and 4, moves, compares and predicates (R296 to R300, R329 to R340) -/

theorem exec_floatForm (h : floatForm i = some φ) (s : State) : exec i s = φ.exec s := by
  unfold floatForm floatForm.two at h
  split at h <;> cases h
  all_goals
    simp only [exec_fadd, execFadd, exec_fsub, execFsub, exec_fmul, execFmul, exec_ffma, execFfma, exec_fmin, execFmin, exec_fmax, execFmax,
      exec_frnd, execFrnd, exec_fscale, execFscale, exec_fclass, execFclass, exec_fabs, execFabs, exec_fneg, execFneg, exec_fcpys, execFcpys,
      fpBin, fixedOp_eq, fForm_plain]

theorem floatForm_onceToS (h : floatForm i = some φ) : φ.OnceToS := by
  unfold floatForm floatForm.two at h
  split at h <;> cases h
  all_goals rintro n ⟨⟩
  all_goals rfl

theorem exec_halfForm (h : halfForm i = some φ) (s : State) : exec i s = φ.exec s := by
  unfold halfForm halfForm.two at h
  split at h <;> cases h
  all_goals
    simp only [exec_hadd2, execHadd2, exec_hmul2, execHmul2, exec_hfma2, execHfma2, exec_hmin2, execHmin2, exec_hmax2, execHmax2, exec_cvt,
      execCvt, exec_cvtpk, execCvtpk, exec_qblk, execQblk, exec_dqblk, execDqblk_eq, halfBin, fixedOp_eq]

theorem halfForm_onceToS (h : halfForm i = some φ) : φ.OnceToS := by
  unfold halfForm halfForm.two at h
  split at h <;> cases h
  all_goals rintro n ⟨⟩
  all_goals rfl

theorem exec_moveForm (h : moveForm i = some φ) (s : State) : exec i s = φ.exec s := by
  unfold moveForm at h
  split at h <;> cases h
  all_goals
    simp only [exec_mov, execMov, exec_movi, execMovi, exec_movh, execMovh, exec_sel, execSel, exec_icmp, execIcmp, exec_fcmp, execFcmp,
      exec_plog, execPlog, exec_pxfr, execPxfr, exec_poll, execPoll, exec_peers, execPeers, intOp_eq, predOp_eq]

theorem moveForm_onceToS (h : moveForm i = some φ) : φ.OnceToS := by
  unfold moveForm at h
  split at h <;> cases h
  all_goals rintro n ⟨⟩
  all_goals rfl

/-! ### Status, and results of variable latency (R224, R301, R302, R318, R342 to R346, R362, R365) -/

theorem exec_statusForm {s : State} (h : statusForm s i = some φ) : exec i s = φ.exec s := by
  unfold statusForm at h
  split at h <;> cases h
  case h_1 => rw [exec_srec, execSrec, intOp_eq]
  case h_2 => rw [exec_cstat]; rfl
  case h_3 => rw [exec_batonQuery]; rfl

theorem statusForm_onceToS {s : State} (h : statusForm s i = some φ) : φ.OnceToS := by
  unfold statusForm at h
  split at h <;> cases h
  all_goals rintro n ⟨⟩
  all_goals rfl

theorem exec_lateForm {φ : VarForm} {s : State} (h : lateForm s i = some φ) : exec i s = φ.exec s := by
  unfold lateForm lateForm.one at h
  split at h <;> cases h
  all_goals
    simp only [exec_idiv, execIdiv, exec_irem, execIrem, exec_frcp, execFrcp, exec_frsq, execFrsq, exec_fsqrt, execFsqrt, exec_fexp2, execFexp2,
      exec_flog2, execFlog2, exec_fsin, execFsin, exec_fcos, execFcos, exec_ftanh, execFtanh, exec_lxch, execLxch, exec_redux, execRedux,
      exec_scan, execScan, exec_rdsys, rdsys_eq, special, varOp_eq]

end

/-- Settles O8: an instruction of classes 1 and 2 is of the integer, the carry or the bit forms. -/
theorem integerResults : Obligations.IntegerResults := by
  unfold Obligations.IntegerResults
  intro s c x i φ hform hm
  simp only [wholeForm, Option.or_eq_some_iff] at hform
  obtain hint | ⟨-, hcarry | ⟨-, hbit⟩⟩ := hform
  · exact laneDone_of_form (exec_integerForm hint s) (integerForm_onceToS hint) hm
  · exact laneDone_of_form (exec_carryForm hcarry s) (carryForm_onceToS hcarry) hm
  · exact laneDone_of_form (exec_bitForm hbit s) (bitForm_onceToS hbit) hm

/-- Settles O9: an instruction of these classes is of the float, the half or the move forms. -/
theorem floatResults : Obligations.FloatResults := by
  unfold Obligations.FloatResults
  intro s c x i φ hform hm
  simp only [floatMoveForm, Option.or_eq_some_iff] at hform
  obtain hfloat | ⟨-, hhalf | ⟨-, hmove⟩⟩ := hform
  · exact laneDone_of_form (exec_floatForm hfloat s) (floatForm_onceToS hfloat) hm
  · exact laneDone_of_form (exec_halfForm hhalf s) (halfForm_onceToS hhalf) hm
  · exact laneDone_of_form (exec_moveForm hmove s) (moveForm_onceToS hmove) hm

/-- Settles O10: the three are of the status forms. -/
theorem statusResults : Obligations.StatusResults := by
  unfold Obligations.StatusResults
  intro s c x i φ hform hm
  exact laneDone_of_form (exec_statusForm hform) (statusForm_onceToS hform) hm

/-- Settles O11: each is of a variable-latency form. -/
theorem lateResults : Obligations.LateResults := by
  unfold Obligations.LateResults
  intro s c x i φ hform hm
  rw [exec_lateForm hform]
  exact varForm_done φ hm

end Sys2Proof.Machine
end

section
/-! SUPPORT. POLL.mask (R149, R299): the two halves of a mask to an s pair, then O12. -/

namespace Sys2Proof.Machine

open Host

/-- An s register written where stream A of the slot has not written it (R149). -/
theorem scalar_written {s : State} {g : Nat} {y : Group} (hy : groupAt s g = some y) (e : Env) (due k : Nat) (w : DWord) :
    ∃ z, (if e.mayS k then modGroup s g (fixS due k w) else s) = setGroup s g z ∧ z = { y with s := z.s, recents := z.recents } ∧
      ∀ m, sRaw z m = if m = k ∧ e.mayS m = true then w else sRaw y m := by
  by_cases hmay : e.mayS k = true
  · refine ⟨fixS due k w y, by rw [if_pos hmay, modGroup_eq hy], rfl, fun m => ?_⟩
    have hsame : m = k ∧ e.mayS m = true ↔ m = k := and_iff_left_of_imp fun hm => hm ▸ hmay
    simp only [sRaw_fixS, hsame]
  · refine ⟨y, ?_, rfl, fun m => (if_neg fun ⟨hm, hmay'⟩ => hmay (hm ▸ hmay')).symm⟩
    rw [if_neg hmay, setGroup, mput_self _ _ _ hy]

/-- A result that raises no FSTAT flag brings the fall of the flag of SET alone (R271). -/
theorem fixTail_plain (s : State) (e : Env) (h : Hdr) (lat : Nat) : fixTail s e h lat 0 = { s with
    nextUid := (fixTail s e h lat 0).nextUid,
    results := s.results ++ if h.set.toNat < 12 then
      [{ id := s.nextUid, uid := e.grp.uid, sig := .grp e.grp.uid h.set.toNat, due := some (e.cyc + lat) }] else [] } := by
  rw [fixTail_eq]
  by_cases hset : h.set.toNat < 12
  · rw [if_neg fun hnone => Nat.not_le_of_lt hset hnone.2, if_pos hset, sigOf, if_pos hset]
    rfl
  · rw [if_pos ⟨rfl, Nat.le_of_not_lt hset⟩, if_neg hset, List.append_nil]

/-- The lanes that a poll finds are those whose guard and predicate are true (R299). -/
theorem poll_eq {e : Env} {pa : BitVec 3} {T : LaneMask} (hT : ∀ l, inLanes T l = true ↔ (inLanes e.act l = true ∧ e.p pa.toNat l = true)) :
    e.poll pa = T := by
  refine BitVec.eq_of_getLsbD_eq fun l _ => Bool.eq_iff_iff.mpr ?_
  have hlanes : inLanes (e.poll pa) l = true ↔ inLanes e.act l = true ∧ e.p pa.toNat l = true := by
    rw [Env.poll, inLanes_maskOf _ _ fun m hm => lanesOf_lt e.act m (List.mem_filter.mp hm).1, List.mem_filter, mem_lanesOf]
  exact hlanes.trans (hT l).symm

/-- Settles O12: the high half is written after the low half, to another register. -/
theorem pollMask : Obligations.PollMask := by
  unfold Obligations.PollMask
  intro s c x y h n pa e post T hg hy hT
  obtain ⟨hslot, -⟩ := env_facts hg
  by_cases hact : e.act = 0
  case pos =>
    have hidle : actsIn e { h := h, once := true } = false := by simp only [actsIn, hact]; rfl
    refine ⟨post, y, ?_, ?_, fun _ _ => rfl, hy, rfl, fun k => by rw [if_pos (.inl hact)]⟩
    · rw [exec_poll, execPoll, goes_gate hg, hidle, if_neg Bool.false_ne_true]
    · rw [if_neg fun hacts => hacts.1 hact, List.append_nil]
  case neg =>
    obtain ⟨lo, hlo, hloFrame, hloS⟩ := scalar_written hy e (e.cyc + 6) n.toNat (T.extractLsb' 0 64)
    obtain ⟨hi, hhi, hhiFrame, hhiS⟩ := scalar_written (groupAt_setGroup_same post c.g lo) e (e.cyc + 6) (n.toNat + 1) (T.extractLsb' 64 64)
    have hexec : exec (.poll h .mask (.s n) pa) s = .next (fixTail (setGroup post c.g hi) e h 6 0) := by
      rw [exec_poll, execPoll, goes_once hg hact rfl]
      simp only [poll_eq hT, hslot, hlo, hhi, setGroup_twice]
    have htail := fixTail_plain (setGroup post c.g hi) e h 6
    generalize fixTail (setGroup post c.g hi) e h 6 0 = t at hexec htail
    have hgroups : t.groups = (setGroup post c.g hi).groups := by rw [htail]
    have hat : ∀ k, groupAt t k = groupAt (setGroup post c.g hi) k := fun k => by rw [groupAt, groupAt, hgroups]
    refine ⟨t, hi, hexec, ?machine, fun k hk => ?others, by rw [hat, groupAt_setGroup_same], ?frame, fun k => ?value⟩
    case machine =>
      have hset : (e.act ≠ 0 ∧ h.set.toNat < 12) ↔ h.set.toNat < 12 := and_iff_right hact
      rw [hgroups, ite_congr (propext hset) (fun _ => rfl) (fun _ => rfl)]
      exact htail
    case others => rw [hat, groupAt_setGroup_ne _ _ _ _ hk]
    case frame =>
      rw [hloFrame] at hhiFrame
      exact hhiFrame
    case value =>
      rw [hhiS, hloS]
      by_cases hmay : e.mayS k = true
      · rw [if_neg (not_or.mpr ⟨hact, by rw [hmay]; exact Bool.noConfusion⟩)]
        simp only [hmay, and_true]
      · have hlocked : e.mayS k = false := Bool.eq_false_iff.mpr hmay
        simp only [hlocked, Bool.false_eq_true, and_false, if_false, or_true, if_true]

end Sys2Proof.Machine
end

section
/-! SUPPORT. A variable-latency result arrives (R151, R152, R209): what is still due keeps its place, and the group of the result keeps its
slot; then O15. -/

namespace Sys2Proof.Machine

open Host

/-! ### Results still due (R151) -/

/-- A result still due, but for what an early read of its place gives. -/
def Recent.withoutOld (q : Recent) : Recent := { q with old := 0 }

/-- The same results are still due for the same places. -/
def SameDue (ps qs : List Recent) : Prop := ps.map Recent.withoutOld = qs.map Recent.withoutOld

theorem SameDue.trans {ps qs rs : List Recent} (h : SameDue ps qs) (h' : SameDue qs rs) : SameDue ps rs := Eq.trans h h'

/-- A result for this place is not yet due at this cycle (R151). -/
def lateAt (cyc kind r l : Nat) (rs : List Recent) : Bool :=
  rs.any fun q => q.kind == kind && q.reg == r && q.lane == l && decide (cyc < q.due)

theorem SameDue.lateAt_eq {ps qs : List Recent} (h : SameDue ps qs) (cyc kind r l : Nat) : lateAt cyc kind r l ps = lateAt cyc kind r l qs := by
  have hdue : ∀ rs : List Recent, lateAt cyc kind r l rs = lateAt cyc kind r l (rs.map Recent.withoutOld) := by
    intro rs
    rw [lateAt, lateAt, List.any_map]
    rfl
  rw [hdue ps, hdue qs, h]

theorem SameDue.mem {ps qs : List Recent} (h : SameDue ps qs) {q : Recent} (hq : q ∈ ps) : ∃ p, p ∈ qs ∧ q = { p with old := q.old } := by
  obtain ⟨p, hp, hpq⟩ := List.mem_map.mp (h ▸ List.mem_map_of_mem (f := Recent.withoutOld) hq)
  refine ⟨p, hp, ?_⟩
  have hold : { Recent.withoutOld p with old := q.old } = { Recent.withoutOld q with old := q.old } := by rw [hpq]
  exact hold.symm

theorem sameDue_updFirst (late : Recent → Bool) (w : DWord) (rs : List Recent) : SameDue (updFirst late (fun q => { q with old := w }) rs) rs := by
  induction rs with
  | nil => rfl
  | cons q rs ih =>
    rw [updFirst]
    split
    · rfl
    · rw [SameDue, List.map_cons, List.map_cons, ih]

/-- A value that arrives leaves what is still due for its place, and is written where nothing is (R151, R152). -/
theorem arrive_eq (cyc kind r l : Nat) (w : DWord) (put : Group → Group) (g : Group) : ∃ rs, SameDue rs g.recents ∧
    arrive cyc kind r l w put g = if lateAt cyc kind r l g.recents = true then { g with recents := rs } else put g := by
  refine ⟨_, ?_, rfl⟩
  rw [SameDue, List.map_reverse, sameDue_updFirst, List.map_reverse, List.reverse_reverse]

/-! ### Lane values and the s register -/

theorem vRaw_putV (g : Group) (r l : Nat) (w : Word) (k m : Nat) :
    vRaw (putV g r l w) k m = if k * 128 + m = r * 128 + l then w else vRaw g k m := by
  split
  case isTrue hplace => simp only [vRaw, putV, hplace, mget?_mput_same]
  case isFalse hplace => simp [vRaw, putV, mget?_mput_ne _ _ _ _ hplace]

theorem sRaw_putS (g : Group) (k : Nat) (w : DWord) (m : Nat) : sRaw (putS g k w) m = if m = k then w else sRaw g m := by
  split
  case isTrue hplace => simp only [sRaw, putS, hplace, mget?_mput_same]
  case isFalse hplace => simp [sRaw, putS, mget?_mput_ne _ _ _ _ hplace]

/-- The lane values of a result arrive in a group. -/
def arriveVals (cyc : Nat) (vals : List (Nat × Word)) (x : Group) : Group :=
  vals.foldl (fun x p => arriveV cyc (p.1 / 128) (p.1 % 128) p.2 x) x

/-- The s register of a result arrives in a group. -/
def arriveSreg (cyc : Nat) (sreg : Option (Nat × DWord)) (x : Group) : Group :=
  match sreg with
  | some q => arriveS cyc q.1 q.2 x
  | none => x

section
variable (cyc : Nat) (x : Group)

theorem arriveV_kept (r l : Nat) (w : Word) :
    arriveV cyc r l w x = { x with v := (arriveV cyc r l w x).v, recents := (arriveV cyc r l w x).recents } ∧
    SameDue (arriveV cyc r l w x).recents x.recents := by
  obtain ⟨rs, hrs, harrive⟩ := arrive_eq cyc 0 r l (w.setWidth 64) (fun g => putV g r l w) x
  rw [arriveV, harrive]
  split
  · exact ⟨rfl, hrs⟩
  · exact ⟨rfl, rfl⟩

theorem vRaw_arriveV (r l : Nat) (w : Word) (k m : Nat) : vRaw (arriveV cyc r l w x) k m =
    if k * 128 + m = r * 128 + l ∧ lateAt cyc 0 r l x.recents = false then w else vRaw x k m := by
  obtain ⟨rs, -, harrive⟩ := arrive_eq cyc 0 r l (w.setWidth 64) (fun g => putV g r l w) x
  rw [arriveV, harrive]
  by_cases hlate : lateAt cyc 0 r l x.recents = true
  · rw [if_pos hlate, if_neg (by rw [hlate]; exact fun h => Bool.noConfusion h.2)]
    rfl
  · rw [if_neg hlate, vRaw_putV]
    simp only [Bool.eq_false_iff.mpr hlate, and_true]

theorem arriveSreg_kept (sreg : Option (Nat × DWord)) :
    arriveSreg cyc sreg x = { x with s := (arriveSreg cyc sreg x).s, recents := (arriveSreg cyc sreg x).recents } ∧
    SameDue (arriveSreg cyc sreg x).recents x.recents := by
  cases sreg with
  | none => exact ⟨rfl, rfl⟩
  | some q =>
    obtain ⟨rs, hrs, harrive⟩ := arrive_eq cyc 1 q.1 0 q.2 (fun g => putS g q.1 q.2) x
    simp only [arriveSreg, arriveS, harrive]
    split
    · exact ⟨rfl, hrs⟩
    · exact ⟨rfl, rfl⟩

theorem sRaw_arriveS (q : Nat × DWord) (k : Nat) :
    sRaw (arriveS cyc q.1 q.2 x) k = if k = q.1 ∧ ¬ lateAt cyc 1 k 0 x.recents = true then q.2 else sRaw x k := by
  obtain ⟨rs, -, harrive⟩ := arrive_eq cyc 1 q.1 0 q.2 (fun g => putS g q.1 q.2) x
  rw [arriveS, harrive]
  by_cases hlate : lateAt cyc 1 q.1 0 x.recents = true
  · rw [if_pos hlate, if_neg]
    · rfl
    · rintro ⟨rfl, hnot⟩
      exact hnot hlate
  · rw [if_neg hlate, sRaw_putS]
    exact ite_congr (propext ⟨fun hk => ⟨hk, hk ▸ hlate⟩, And.left⟩) (fun _ => rfl) (fun _ => rfl)

end

theorem arriveVals_kept (cyc : Nat) (vals : List (Nat × Word)) (x : Group) :
    arriveVals cyc vals x = { x with v := (arriveVals cyc vals x).v, recents := (arriveVals cyc vals x).recents } ∧
    SameDue (arriveVals cyc vals x).recents x.recents := by
  induction vals generalizing x with
  | nil => exact ⟨rfl, rfl⟩
  | cons p vals ih =>
    obtain ⟨hframe, hdue⟩ := arriveV_kept cyc x (p.1 / 128) (p.1 % 128) p.2
    obtain ⟨hframes, hdues⟩ := ih (arriveV cyc (p.1 / 128) (p.1 % 128) p.2 x)
    have hcons : arriveVals cyc (p :: vals) x = arriveVals cyc vals (arriveV cyc (p.1 / 128) (p.1 % 128) p.2 x) := rfl
    rw [hcons]
    refine ⟨?_, hdues.trans hdue⟩
    generalize arriveVals cyc vals _ = z at *
    rw [hframes, hframe]

/-- A place that no value names keeps what it held. -/
theorem vRaw_arriveVals_ne (cyc : Nat) {vals : List (Nat × Word)} (x : Group) {k l : Nat} (hout : k * 128 + l ∉ vals.map (·.1)) :
    vRaw (arriveVals cyc vals x) k l = vRaw x k l := by
  induction vals generalizing x with
  | nil => rfl
  | cons p vals ih =>
    obtain ⟨hne, hrest⟩ := List.ne_and_not_mem_of_not_mem_cons (List.map_cons ▸ hout)
    have hcons : arriveVals cyc (p :: vals) x = arriveVals cyc vals (arriveV cyc (p.1 / 128) (p.1 % 128) p.2 x) := rfl
    rw [hcons, ih _ hrest, vRaw_arriveV, if_neg]
    rintro ⟨hplace, -⟩
    exact hne (hplace.trans (Nat.div_add_mod' p.1 128))

/-- A place that one value names holds it, unless a result is still due there. -/
theorem vRaw_arriveVals_mem (cyc : Nat) {vals : List (Nat × Word)}
    (hnodup : (vals.map (·.1)).Nodup) (x : Group) {p : Nat × Word} (hp : p ∈ vals) :
    vRaw (arriveVals cyc vals x) (p.1 / 128) (p.1 % 128) =
      if lateAt cyc 0 (p.1 / 128) (p.1 % 128) x.recents = true then vRaw x (p.1 / 128) (p.1 % 128) else p.2 := by
  induction vals generalizing x with
  | nil => cases hp
  | cons q vals ih =>
    obtain ⟨hfresh, hrest⟩ := List.nodup_cons.mp (List.map_cons ▸ hnodup)
    have hcons : arriveVals cyc (q :: vals) x = arriveVals cyc vals (arriveV cyc (q.1 / 128) (q.1 % 128) q.2 x) := rfl
    rw [hcons]
    obtain rfl | hp := List.mem_cons.mp hp
    · rw [vRaw_arriveVals_ne cyc _ (by rw [Nat.div_add_mod']; exact hfresh), vRaw_arriveV]
      by_cases hlate : lateAt cyc 0 (p.1 / 128) (p.1 % 128) x.recents = true
      · simp only [hlate, Bool.true_eq_false, and_false, if_false, if_true]
      · simp only [hlate, and_true, if_true, Bool.false_eq_true, if_false]
    · have hne : p.1 ≠ q.1 := fun heq => hfresh (heq ▸ List.mem_map_of_mem (f := (·.1)) hp)
      obtain ⟨-, hdue⟩ := arriveV_kept cyc x (q.1 / 128) (q.1 % 128) q.2
      have hplace : ¬ (p.1 / 128 * 128 + p.1 % 128 = q.1 / 128 * 128 + q.1 % 128) := by
        rw [Nat.div_add_mod', Nat.div_add_mod']
        exact hne
      rw [ih hrest _ hp, hdue.lateAt_eq, vRaw_arriveV, if_neg (not_and_of_not_left _ hplace)]

/-! ### The group of a uid keeps its slot -/

/-- A value that passes the same test in the same place of a map is found there. -/
theorem find?_key_mput {α : Type} (q : α → Bool) {m : SMap α} {k : Nat} {x y : α} (hx : mget? m k = some x) (hq : q y = q x) :
    ((mput m k y).find? fun p => q p.2).map (·.1) = (m.find? fun p => q p.2).map (·.1) := by
  induction m with
  | nil => cases hx
  | cons p r ih =>
    obtain ⟨a, z⟩ := p
    rw [mget?] at hx
    rw [mput]
    split at hx
    case isTrue hkey =>
      cases hx
      rw [if_pos hkey, hkey, List.find?_cons, List.find?_cons]
      simp only [hq]
      cases q x <;> rfl
    case isFalse hkey =>
      split at hx
      case isTrue => cases hx
      case isFalse hlt =>
        rw [if_neg hkey, if_neg hlt, List.find?_cons, List.find?_cons]
        split
        · rfl
        · exact ih hx

theorem slotOf_setGroup {s : State} {g : Nat} {x y : Group} (hx : groupAt s g = some x) (huid : y.uid = x.uid) (uid : Nat) :
    slotOf (setGroup s g y) uid = slotOf s uid :=
  find?_key_mput (fun z : Group => z.uid == uid) hx (by rw [huid])

/-! ### The result as a whole -/

/-- FSTAT takes the flags of a result (R209). -/
def orFlags (fl : DWord) (x : Group) : Group := { x with fstat := x.fstat ||| fl }

theorem orFstat_resident {s : State} {uid g : Nat} {x : Group} (hslot : slotOf s uid = some g) (hx : groupAt s g = some x) (fl : DWord) :
    orFstat s uid fl = setGroup s g (orFlags fl x) := by
  rw [orFstat]
  split
  case isTrue hnone =>
    have hsame : x.fstat ||| fl = x.fstat := by rw [hnone]; exact BitVec.or_zero
    rw [orFlags, hsame, setGroup, mput_self _ _ _ hx]
  case isFalse =>
    simp only [hslot, modGroup_eq hx]
    rfl

/-- The flag of SET falls in the group that it names (R152). -/
def fallIn (uid : Nat) (sg : Sig) (x : Group) : Group :=
  match sg with
  | .none => x
  | .grp u k => if u = uid then setFlag x k (flagOf x k - 1) else x

theorem fall_resident {s : State} {uid g : Nat} {x : Group} (hslot : slotOf s uid = some g) (hx : groupAt s g = some x) {sg : Sig}
    (hsig : sg = .none ∨ ∃ k, sg = .grp uid k) : fall s sg = setGroup s g (fallIn uid sg x) := by
  obtain rfl | ⟨k, rfl⟩ := hsig
  · rw [fall, fallIn, setGroup, mput_self _ _ _ hx]
  · simp only [fall, hslot, modGroup_eq hx, fallIn, if_true]

theorem fallIn_frame (uid : Nat) (sg : Sig) (x : Group) : fallIn uid sg x = { x with f := (fallIn uid sg x).f } := by
  cases sg with
  | none => rfl
  | grp u k =>
    rw [fallIn]
    split <;> rfl

theorem flagOf_fallIn (uid : Nat) (sg : Sig) (x : Group) (k : Nat) :
    flagOf (fallIn uid sg x) k = if sg = .grp uid k then flagOf x k - 1 else flagOf x k := by
  cases sg with
  | none => rfl
  | grp u m =>
    rw [fallIn]
    by_cases hu : u = uid
    · rw [if_pos hu, flagOf_setFlag]
      by_cases hk : k = m
      · rw [if_pos hk, if_pos (by rw [hu, hk]), hk]
      · rw [if_neg hk, if_neg fun h => hk (Sig.grp.inj h).2.symm]
    · rw [if_neg hu, if_neg fun h => hu (Sig.grp.inj h).1]

/-- The values of a result have arrived in its group, and its v registers are full (R152). -/
def landed (cyc : Nat) (r : Res) (x : Group) : Group := markFull r.vregs (arriveSreg cyc r.sreg (arriveVals cyc r.vals x))

theorem landed_kept (cyc : Nat) (r : Res) (x : Group) : landed cyc r x = { x with
      v := (landed cyc r x).v, s := (landed cyc r x).s, empt := x.empt.filter fun k => !r.vregs.contains k, recents := (landed cyc r x).recents } ∧
    SameDue (landed cyc r x).recents x.recents := by
  obtain ⟨hvals, hdue⟩ := arriveVals_kept cyc r.vals x
  obtain ⟨hsreg, hdue'⟩ := arriveSreg_kept cyc (arriveVals cyc r.vals x) r.sreg
  refine ⟨?_, hdue'.trans hdue⟩
  rw [landed, markFull]
  generalize arriveSreg cyc r.sreg (arriveVals cyc r.vals x) = z at *
  rw [hsreg, hvals]

theorem vRaw_landed (cyc : Nat) (r : Res) (x : Group) (k l : Nat) : vRaw (landed cyc r x) k l = vRaw (arriveVals cyc r.vals x) k l := by
  obtain ⟨hsreg, -⟩ := arriveSreg_kept cyc (arriveVals cyc r.vals x) r.sreg
  rw [landed, markFull, hsreg]
  rfl

/-- A result with an s register writes it, unless a result is still due there. -/
theorem sRaw_landed_some (cyc : Nat) {r : Res} (x : Group) {q : Nat × DWord} (hsreg : r.sreg = some q) (k : Nat) :
    sRaw (landed cyc r x) k = if k = q.1 ∧ ¬ lateAt cyc 1 k 0 x.recents = true then q.2 else sRaw x k := by
  obtain ⟨hvals, hdue⟩ := arriveVals_kept cyc r.vals x
  have hkept : sRaw (arriveVals cyc r.vals x) k = sRaw x k := by rw [hvals]; rfl
  have hwritten : sRaw (landed cyc r x) k = sRaw (arriveS cyc q.1 q.2 (arriveVals cyc r.vals x)) k := by
    rw [landed, hsreg]
    rfl
  rw [hwritten, sRaw_arriveS, hkept, hdue.lateAt_eq]

theorem sRaw_landed_none (cyc : Nat) {r : Res} (x : Group) (hsreg : r.sreg = none) (k : Nat) : sRaw (landed cyc r x) k = sRaw x k := by
  obtain ⟨hvals, -⟩ := arriveVals_kept cyc r.vals x
  rw [landed, hsreg, arriveSreg, markFull, hvals]
  rfl

/-- The group of a result, once the result has arrived: its flags are set, and the flag of SET has fallen (R152, R209). -/
def arrived (cyc : Nat) (r : Res) (x : Group) : Group := fallIn r.uid r.sig (orFlags r.fl (landed cyc r x))

/-- A result arrives in a resident group: it is dropped, and its group has it (R152). -/
theorem finishRes_resident {s : State} {r : Res} {g : Nat} {x : Group} (hpvals : r.pvals = []) (hthere : ∀ p, p ∈ s.parked → p.g.uid ≠ r.uid)
    (hslot : slotOf s r.uid = some g) (hx : groupAt s g = some x) (hsig : r.sig = .none ∨ ∃ k, r.sig = .grp r.uid k) : finishRes s r =
      setGroup { s with results := s.results.filter fun q => q.id != r.id } g (arrived (coreAt s (slotCore g)).cycle r x) := by
  generalize hu : ({ s with results := s.results.filter fun q => q.id != r.id } : State) = u
  have hslotU : slotOf u r.uid = some g := by rw [← hu]; exact hslot
  have hxU : groupAt u g = some x := by rw [← hu]; exact hx
  have hcycle : (coreAt u (slotCore g)).cycle = (coreAt s (slotCore g)).cycle := by rw [← hu]; rfl
  have hparked : u.parked.find? (fun p => p.g.uid == r.uid) = none := by
    rw [← hu]
    exact List.find?_eq_none.mpr fun p hp heq => hthere p hp (beq_iff_eq.mp heq)
  have hland : finishRes s r = fall (orFstat (setGroup u g (landed (coreAt s (slotCore g)).cycle r x)) r.uid r.fl) r.sig := by
    rw [finishRes, hu]
    simp only [hparked, modUid, hslotU, modGroup_eq hxU, hpvals, List.foldl_nil, Option.map_some, Option.getD_some, hcycle]
    rfl
  have huid : (landed (coreAt s (slotCore g)).cycle r x).uid = x.uid := by
    obtain ⟨hkept, -⟩ := landed_kept (coreAt s (slotCore g)).cycle r x
    rw [hkept]
  rw [hland, arrived]
  generalize landed (coreAt s (slotCore g)).cycle r x = y at *
  have hslotY : ∀ z : Group, z.uid = y.uid → slotOf (setGroup u g z) r.uid = some g := fun z hz => by
    rw [slotOf_setGroup hxU (hz.trans huid), hslotU]
  rw [orFstat_resident (hslotY y rfl) (groupAt_setGroup_same ..), setGroup_twice,
    fall_resident (hslotY (orFlags r.fl y) rfl) (groupAt_setGroup_same ..) hsig, setGroup_twice]

/-- Settles O15: in the slot of the result stands its group with the result arrived. -/
theorem resultArrives : Obligations.ResultArrives := by
  unfold Obligations.ResultArrives
  intro s id g r x _ hres hpvals hthere hslot hx hsig hnodup
  obtain ⟨cyc, hcyc⟩ : ∃ cyc, (coreAt s (slotCore g)).cycle = cyc := ⟨_, rfl⟩
  have hnow : ∀ kind k l, StillDue s g x kind k l ↔ lateAt cyc kind k l x.recents = true := by
    rw [← hcyc]
    exact fun _ _ _ => Iff.rfl
  have hexec : exec (.variableLatencyResult id) s =
      .next (setGroup { s with results := s.results.filter fun q => q.id != r.id } g (arrived cyc r x)) := by
    rw [exec_variableLatencyResult, execVariableLatencyResult]
    simp only [hres]
    rw [finishRes_resident hpvals hthere hslot hx hsig, hcyc]
  obtain ⟨hkept, hdue⟩ := landed_kept cyc r x
  have hframe := fallIn_frame r.uid r.sig (orFlags r.fl (landed cyc r x))
  have hv : ∀ k l, vRaw (arrived cyc r x) k l = vRaw (arriveVals cyc r.vals x) k l := fun k l => by
    rw [← vRaw_landed, arrived, hframe]
    rfl
  refine ⟨_, _, hexec, groupAt_setGroup_same _ _ _,
    fun k hk => groupAt_setGroup_ne _ _ _ _ hk, rfl, ?frame, fun p hp => ?values, fun k l hl hout => ?rest,
    fun k => ?scalar, fun q hq => ?due, fun k => ?flags⟩
  case frame =>
    rw [arrived]
    generalize fallIn r.uid r.sig _ = z at *
    rw [hframe, orFlags, hkept]
  case values =>
    rw [hv, vRaw_arriveVals_mem cyc hnodup x hp]
    exact ite_congr (propext (hnow ..).symm) (fun _ => rfl) (fun _ => rfl)
  case rest => rw [hv, vRaw_arriveVals_ne cyc x (by rw [Nat.mul_comm]; exact hout)]
  case scalar =>
    have hs : sRaw (arrived cyc r x) k = sRaw (landed cyc r x) k := by
      rw [arrived, hframe]
      rfl
    rw [hs]
    cases hsreg : r.sreg with
    | none => exact sRaw_landed_none cyc x hsreg k
    | some q =>
      rw [sRaw_landed_some cyc x hsreg]
      exact ite_congr (propext (and_congr_right fun _ => not_congr (hnow ..).symm)) (fun _ => rfl) (fun _ => rfl)
  case due =>
    rw [arrived, hframe] at hq
    exact hdue.mem hq
  case flags =>
    have hf : flagOf (orFlags r.fl (landed cyc r x)) k = flagOf x k := by
      rw [hkept]
      rfl
    rw [arrived, flagOf_fallIn, hf]

end Sys2Proof.Machine
end

section
/-! SUPPORT. RJSET, RJCLR and RJOIN where their stream issues (R141, R142, R145, R292): the register changes and its join is tested; O16. -/

namespace Sys2Proof.Machine

open Host

/-- The group with a rejoin register changed as the instruction says, before the join is tested (R142, R145, R292). -/
def JoinForm.change (φ : JoinForm) (m : LaneMask) (y : Group) : Group :=
  { y with
    j := mput y.j φ.k.toNat (φ.put m (mget y.j φ.k.toNat {}))
    stall := if φ.ends m (mget y.j φ.k.toNat {}) = true then 0 else y.stall }

/-- The test of a join changes no flag (R142). -/
theorem flagOf_joinStep (cyc : Nat) (y : Group) (k n : Nat) : flagOf (joinStep cyc y k) n = flagOf y n := by
  unfold joinStep
  dsimp only
  split
  · rfl
  · rfl

section
variable {s : State} {c : Cur} {x y : Group} {e : Env} {post : State}

/-- A rejoin register changed in the slot of the stream, its join tested, and the flag of SET fallen. -/
theorem setJoin_eq (hy : groupAt post e.g = some y) (k : BitVec 3) (f : Join → Join) (h : Hdr) : atOnce (setJoin post e k f) e h =
    setGroup post e.g (dropFlag h.set (joinStep e.cyc { y with j := mput y.j k.toNat (f (mget y.j k.toNat {})) } k.toNat)) := by
  rw [setJoin, modGroup_eq hy, atOnce_eq (groupAt_setGroup_same ..), setGroup_twice]
  rfl

/-- The registers that the stream sees are those of its group (R137). -/
theorem Goes.joins {i : Info} {dsts : Env → List Dest} (hg : Goes s c x i dsts e post) (hy : groupAt post c.g = some y) : e.grp.j = y.j := by
  obtain ⟨hmoved, -⟩ := goes_facts hg hy
  rw [hmoved, hg.env]
  rfl

theorem exec_joinForm {i : Instr} {φ : JoinForm} (hform : joinForm i = some φ) (hg : Goes s c x { h := φ.h } φ.dsts e post)
    (hy : groupAt post c.g = some y) :
    exec i s = .next (setGroup post c.g (dropFlag φ.h.set (joinStep e.cyc (φ.change e.act y) φ.k.toNat))) := by
  obtain ⟨hslot, -⟩ := env_facts hg
  have hacts : ∀ h : Hdr, actsIn e { h := h } = true := fun _ => rfl
  have hjoins := hg.joins hy
  rw [← hslot] at hy ⊢
  unfold joinForm at hform
  split at hform <;> cases hform
  case h_1 h k => rw [exec_rjset, execRjset, goes_gate hg, hacts, if_pos rfl, setJoin_eq hy]; rfl
  case h_2 h k => rw [exec_rjclr, execRjclr, goes_gate hg, hacts, if_pos rfl, setJoin_eq hy]; rfl
  case h_3 h k =>
    have hempty : modGroup post e.g (emptyJoin e k.toNat) = setGroup post e.g (emptyJoin e k.toNat y) := modGroup_eq hy _
    rw [exec_rjoin, execRjoin, goesTo_gate hg, hacts, if_pos rfl]
    dsimp only
    rw [hempty, setJoin_eq (groupAt_setGroup_same ..), setGroup_twice, emptyJoin, hjoins]
    simp only [JoinForm.change]
    split
    · rfl
    · rfl

end

/-- Settles O16: the test of the join follows the change of its register. -/
theorem rejoinResults : Obligations.RejoinResults := by
  unfold Obligations.RejoinResults
  intro s c x y i φ e post hform hg hy
  obtain ⟨-, hcounted, -, -⟩ := goes_facts hg hy
  obtain ⟨f, hdrop⟩ := dropFlag_frame φ.h.set (joinStep e.cyc (φ.change e.act y) φ.k.toNat)
  have htested := joinStep_tested e.cyc (φ.change e.act y) φ.k.toNat
  refine ⟨_, _, exec_joinForm hform hg hy, rfl, fun k hk => groupAt_setGroup_ne _ _ _ _ hk, groupAt_setGroup_same _ _ _, ?tested, fun k => ?flags⟩
  case tested =>
    rw [hdrop]
    exact htested.flags f
  case flags =>
    refine dropFlag_countSet x _ φ.h.set (fun n => ?_) k
    have hacts : actsIn e { h := φ.h } = true := rfl
    have hkept : flagOf (φ.change e.act y) n = flagOf y n := rfl
    rw [flagOf_joinStep, hkept, hcounted]
    simp only [hacts, and_true]

end Sys2Proof.Machine
end

section
/-! SUPPORT. TRAP, BKPT, UIVEC beyond its vector, and the words that are no instruction (R156, R244, R249, R275, R293, R294): O20. -/

namespace Sys2Proof.Machine

open Host

/-- A trap at the word of the stream under way (R249). -/
theorem trapAt_of_cur {s : State} {c : Cur} (hcur : s.cur = some c) (code : Nat) (lanes : LaneMask) (addr aux : DWord) :
    trapAt s code lanes addr aux = takeTrap s c.g { code := code, lanes := lanes, addr := addr, aux := aux } c.pc := by
  simp only [trapAt, hcur]

section
variable {s : State} {c : Cur} {x : Group} {h : Hdr} {e : Env} {post : State} (hg : Goes s c x { h := h, once := true } (nextWord { h := h }) e post)
  (hact : e.act ≠ 0)
include hg hact

theorem exec_trap_goes (a : SImm) : exec (.trap h a) s = .next (takeTrap (atOnce post e h) c.g { code := 0x09, lanes := e.act, aux := e.simm a }
    (nextPc c.pc h.sp)) := by
  obtain ⟨hslot, -, -, -, -, hpc, -⟩ := env_facts hg
  rw [exec_trap, execTrap, goes_once hg hact rfl, hslot, hpc]

theorem exec_bkpt_goes : exec (.bkpt h) s = .next (takeTrap (modGroup { s with free := s.free + 1 } c.g fun q => { q with bkptSp := h.sp }) c.g
    { code := 0x0A, lanes := e.act, aux := 0xFF } c.pc) := by
  obtain ⟨hslot, -⟩ := env_facts hg
  have hcur : (modGroup { s with free := s.free + 1 } c.g fun q => { q with bkptSp := h.sp }).cur = some c := by
    rw [modGroup_cur]
    exact hg.may.cur
  rw [exec_bkpt, execBkpt, goes_once hg hact rfl, hslot, trapAt_of_cur hcur]

theorem exec_uivec_beyond (a : SImm) (hbeyond : 0xFFFF < (e.simm a).toNat) :
    exec (.uivec h a) s = .next (takeTrap { s with free := s.free + 1 } c.g { code := 0x18, lanes := e.act } c.pc) := by
  rw [exec_uivec, execUivec, goes_once hg hact rfl, if_pos hbeyond, trapAt_eq hg rfl]

end

section
variable {s : State} {c : Cur} {y : Group} (hcur : s.cur = some c) (hy : groupAt s c.g = some y)
include hcur hy

theorem exec_illegalOpcode_met {w : IWord} (hdist : distMet s c y (Fields.ofWord w).dist.toNat = true)
    (hwait : waitMet (c.flags y) (Fields.ofWord w).wait = true) : exec (.illegalOpcode w) s = .next (takeTrap s c.g
      { code := 0x01, lanes := refusedLanes s c y (Fields.ofWord w), aux := w.extractLsb' 32 64 } c.pc) := by
  have hmet : hdrMet s c y (Fields.ofWord w).dist.toNat (Fields.ofWord w).wait = true := by rw [hdrMet, hdist, hwait]; rfl
  have hcode : ((0x01 : Nat) = 0x02) = False := by decide
  rw [exec_illegalOpcode, execIllegalOpcode, refuseWord]
  simp only [hcur, hy, hmet, hcode, decide_false, Bool.and_false, Bool.false_and, Bool.not_true, Bool.false_eq_true, if_false, trapAt_of_cur hcur]

theorem exec_liveExec_met {w : IWord} {p : Path} (hlive : isLive w = true) (hdist : distMet s c y 0 = true)
    (hpath : y.paths.find? (fun p => p.pc == c.pc && p.lanes &&& c.lanes != 0) = some p) : exec (.liveExec w) s =
      .next (takeTrap s c.g { code := 0x03, lanes := c.lanes, aux := p.via.setWidth 64 } c.pc) := by
  have hmet : hdrMet s c y 0 0 = true := by
    rw [hdrMet, hdist, Bool.true_and]
    exact waitMet_of fun k _ hwaits => absurd hwaits (by simp)
  rw [exec_liveExec, execLiveExec]
  simp only [hlive, hcur, hy, hmet, hpath, Option.map_some, Option.getD_some, Bool.not_true, Bool.false_eq_true, if_false, if_true,
    trapAt_of_cur hcur]

end

/-- Settles O20: each instruction takes its trap where its stream issues, and each of the other words once its header is met. -/
theorem trapInstructions : Obligations.TrapInstructions := by
  unfold Obligations.TrapInstructions
  intro s c x y h e post w
  refine ⟨fun hg hact => ⟨exec_trap_goes hg hact, exec_bkpt_goes hg hact, exec_uivec_beyond hg hact⟩,
    fun hcur hy => exec_illegalOpcode_met hcur hy, fun p hcur hy => exec_liveExec_met hcur hy⟩

end Sys2Proof.Machine
end

section
/-! SUPPORT. The gate of every instruction, check by check
(R148, R151, R152, R244, R265, R270, R275): what a stream that does not issue does, then O24. -/

namespace Sys2Proof.Machine

open Host

/-! ### The checks do not see which results are due -/

section
variable (s : State) (c : Cur) (cyc : Nat) (x : Group) (i : Info)

theorem distMet_retire (n : Nat) : distMet s c (retire cyc x) n = distMet s c x n := rfl

theorem waitMet_flags_retire (w : BitVec 12) : waitMet (c.flags (retire cyc x)) w = waitMet (c.flags x) w := by
  unfold Cur.flags
  split
  · rfl
  · rfl

theorem reads_retire : i.reads (retire cyc x) = i.reads x := by simp only [Info.reads, srcRegs_retire]

theorem feReads_retire : i.feReads (retire cyc x) = i.feReads x := by simp only [Info.feReads, srcRegs_retire]

theorem finds_retire (heads : List Nat) (r : Nat) : c.finds (retire cyc x) heads r = c.finds x heads r := by
  unfold Cur.finds Cur.empties
  split
  · rfl
  · rfl

theorem verdict_retire : verdict s c (retire cyc x) i = verdict s c x i := by
  have hlent : (retire cyc x).lent = x.lent := rfl
  have hfence : (retire cyc x).fence = x.fence := rfl
  simp only [verdict, regCount_retire, distMet_retire, waitMet_flags_retire, grpPriv_retire, reads_retire, feReads_retire, heads_retire,
    finds_retire, oddPair_retire, ringOf_retire, inRing_retire, flagOf_retire, hlent, hfence] <;> rfl

end

/-! ### What the gate makes of a verdict -/

section
variable {s : State} {c : Cur} {x : Group} {i : Info} (hcur : s.cur = some c) (hx : groupAt s c.g = some x) (act : Env → State → State → State)
include hcur hx

/-- A stream that waits leaves the machine as it was. -/
theorem gate_of_wait (hv : verdict s c x i = .wait) : gate i s act = .next s := by
  have hgrp : (issueEnv s c x i.h).grp = retire (coreAt s (slotCore c.g)).cycle x := rfl
  simp only [gate, gateTo, hcur, hx, hgrp, verdict_retire, hv]

/-- A check that fails takes its trap, in the elected lane or in every lane whose guard is true (R249, R380). -/
theorem gate_of_trap {code : Nat} {aux : DWord} {e : Env} {L : LaneMask} (he : e = issueEnv s c x i.h)
    (hL : L = if i.elect = true then e.act &&& (0 - e.act) else e.act) (hv : verdict s c x i = .trap code aux) :
    gate i s act = .next (takeTrap s c.g { code := code, lanes := L, aux := aux } c.pc) := by
  have hgrp : (issueEnv s c x i.h).grp = retire (coreAt s (slotCore c.g)).cycle x := rfl
  simp only [gate, gateTo, hcur, hx, hgrp, verdict_retire, hv, trapAt, hL, he]

/-- A LIVE word that cannot be fetched traps as its fetch does (R169, R275). -/
theorem gate_of_fetch {code : Nat} {addr aux : DWord} (hv : verdict s c x i = .fetch code addr aux) :
    gate i s act = .next (takeTrap s c.g { code := code, lanes := c.lanes, addr := addr, aux := aux } c.pc) := by
  have hgrp : (issueEnv s c x i.h).grp = retire (coreAt s (slotCore c.g)).cycle x := rfl
  simp only [gate, gateTo, hcur, hx, hgrp, verdict_retire, hv, trapAt]

end

/-! ### The checks in their order -/

section
variable {s : State} {c : Cur} {x : Group} {i : Info}

/-- SP keeps no stream whose LIVE word is there and sound. -/
theorem live_passes (hlive : i.h.sp = true → c.away = none ∧ isLive c.next = true ∧ liveOk c.next (regCount x) = true) :
    (i.h.sp && c.away.isSome) = false ∧ (i.h.sp && !isLive c.next) = false ∧ (i.h.sp && !liveOk c.next (regCount x)) = false := by
  cases hsp : i.h.sp with
  | false => exact ⟨rfl, rfl, rfl⟩
  | true =>
    obtain ⟨haway, hnext, hok⟩ := hlive hsp
    rw [haway, hnext, hok]
    exact ⟨rfl, rfl, rfl⟩

theorem verdict_unmet (hunmet : distMet s c x i.h.dist.toNat = false ∨ waitMet (c.flags x) i.h.wait = false) : verdict s c x i = .wait := by
  have hmet : (distMet s c x i.h.dist.toNat && waitMet (c.flags x) i.h.wait) = false := Bool.and_eq_false_iff.mpr hunmet
  simp only [verdict, hmet, Bool.not_false, if_true]

variable (hmet : (distMet s c x i.h.dist.toNat && waitMet (c.flags x) i.h.wait) = true)
include hmet

theorem verdict_privilege (hpriv : i.priv = true ∧ grpPriv s x = false) : verdict s c x i = .trap 0x04 0 := by
  obtain ⟨hasks, hnot⟩ := hpriv
  simp only [verdict, hmet, hasks, hnot, Bool.not_true, Bool.not_false, Bool.and_self, Bool.false_eq_true, if_false, if_true]

variable (hpriv : (i.priv && !grpPriv s x) = false)
include hpriv

theorem verdict_regs (hbeyond : ∃ r, r ∈ i.reads x ++ i.vw ∧ regCount x ≤ r) : verdict s c x i = .trap 0x02 (c.word.extractLsb' 32 64) := by
  have hany : ((i.reads x ++ i.vw).any fun r => decide (regCount x ≤ r)) = true := by
    simpa only [List.any_eq_true, decide_eq_true_eq] using hbeyond
  simp only [verdict, hmet, hpriv, hany, Bool.not_true, Bool.false_eq_true, if_false, if_true, BitVec.setWidth_eq]

variable (hregs : ((i.reads x ++ i.vw).any fun r => decide (regCount x ≤ r)) = false)
include hregs

theorem verdict_reserved (hbad : (i.bad || oddPair x i.a || oddPair x i.b) = true) : verdict s c x i = .trap 0x02 (c.word.extractLsb' 32 64) := by
  simp only [verdict, hmet, hpriv, hregs, hbad, Bool.not_true, Bool.false_eq_true, if_false, if_true, BitVec.setWidth_eq]

variable (hsound : (i.bad || oddPair x i.a || oddPair x i.b) = false)
include hsound

section
variable (hsp : i.h.sp = true)
include hsp

theorem verdict_live_absent (haway : c.away = some none) : verdict s c x i = .wait := by
  simp only [verdict, hmet, hpriv, hregs, hsound, hsp, haway, Option.isSome_some, Bool.not_true, Bool.and_self, Bool.false_eq_true, if_false, if_true]

theorem verdict_live_unfetched {k : Nat} {ad ax : DWord} (haway : c.away = some (some (k, ad, ax))) : verdict s c x i = .fetch k ad ax := by
  simp only [verdict, hmet, hpriv, hregs, hsound, hsp, haway, Option.isSome_some, Bool.not_true, Bool.and_self, Bool.false_eq_true, if_false, if_true]

theorem verdict_live_missing (haway : c.away = none) (hlive : isLive c.next = false) : verdict s c x i = .trap 0x17 (c.next.extractLsb' 32 64) := by
  simp only [verdict, hmet, hpriv, hregs, hsound, hsp, haway, hlive, Option.isSome_none, Bool.not_true, Bool.not_false, Bool.and_self,
    Bool.and_false, Bool.false_eq_true, if_false, if_true]

theorem verdict_live_bad (haway : c.away = none) (hlive : isLive c.next = true) (hbad : liveOk c.next (regCount x) = false) :
    verdict s c x i = .trap 0x02 (c.word.extractLsb' 32 64) := by
  simp only [verdict, hmet, hpriv, hregs, hsound, hsp, haway, hlive, hbad, Option.isSome_none, Bool.not_true, Bool.not_false, Bool.and_self,
    Bool.and_false, Bool.false_eq_true, if_false, if_true, BitVec.setWidth_eq]

end

variable (hlive : i.h.sp = true → c.away = none ∧ isLive c.next = true ∧ liveOk c.next (regCount x) = true)
include hlive

theorem verdict_queue {k : Nat} (hqueue : i.queues = [k]) (hconf : (ringOf x k).conf = false) : verdict s c x i = .trap 0x15 (BitVec.ofNat 64 k) := by
  obtain ⟨haway, hnext, hok⟩ := live_passes hlive
  simp only [verdict, hmet, hpriv, hregs, hsound, haway, hnext, hok, hqueue, hconf, List.any_cons, List.find?_cons, Option.getD_some, Bool.not_true,
    Bool.not_false, Bool.true_or, Bool.false_eq_true, if_false, if_true]

section
variable (hqueues : i.queues = []) (hnone : i.vw = []) (hfirst : c.second = none) {r : Nat} (hempty : r ∈ x.empt)
include hqueues hnone hfirst hempty

/-- The one source register, empty as the stream sees it, under FE (R270). -/
theorem verdict_empty_read (hreads : i.feReads x = [(r, true)]) : verdict s c x i = .trap 0x07 (BitVec.ofNat 64 r) := by
  obtain ⟨haway, hnext, hok⟩ := live_passes hlive
  rw [hnone] at hregs
  have hfound : ∀ heads, c.finds x heads r = true := fun heads => by
    simp only [Cur.finds, Cur.empties, hfirst, List.contains_iff_mem.mpr hempty, Bool.true_or]
  simp only [verdict, hmet, hpriv, hregs, hsound, haway, hnext, hok, hqueues, hnone, hreads, hfound, List.any_nil, List.find?_nil, List.filter_cons,
    List.find?_cons, Bool.not_true, Bool.false_eq_true, if_false, if_true]

/-- The one source register, empty as the stream sees it, without FE (R152). -/
theorem verdict_empty_waits (hreads : i.feReads x = [(r, false)]) : verdict s c x i = .wait := by
  obtain ⟨haway, hnext, hok⟩ := live_passes hlive
  rw [hnone] at hregs
  have hfound : ∀ heads, c.finds x heads r = true := fun heads => by
    simp only [Cur.finds, Cur.empties, hfirst, List.contains_iff_mem.mpr hempty, Bool.true_or]
  simp only [verdict, hmet, hpriv, hregs, hsound, haway, hnext, hok, hqueues, hnone, hreads, hfound, List.any_nil, List.find?_nil, List.filter_cons,
    List.filter_nil, List.find?_cons, List.isEmpty_nil, List.isEmpty_cons, Bool.not_true, Bool.not_false, Bool.false_and, Bool.true_or,
    Bool.false_eq_true, if_false, if_true]

end

end

/-- Settles O24: the first check that the stream does not pass says what the gate does. -/
theorem gateStops : Obligations.GateStops := by
  unfold Obligations.GateStops
  intro s c x i act e L hcur hx he hL
  have htrap : ∀ {code : Nat} {aux : DWord}, verdict s c x i = .trap code aux →
      gate i s act = .next (takeTrap s c.g { code := code, lanes := L, aux := aux } c.pc) := gate_of_trap hcur hx act he hL
  have hwait : verdict s c x i = .wait → gate i s act = .next s := gate_of_wait hcur hx act
  refine ⟨fun hunmet => hwait (verdict_unmet hunmet), fun hdist hwaits => ?met⟩
  have hmet : (distMet s c x i.h.dist.toNat && waitMet (c.flags x) i.h.wait) = true := by rw [hdist, hwaits]; rfl
  refine ⟨fun hasks => htrap (verdict_privilege hmet hasks), fun hasks => ?privileged⟩
  have hpriv : (i.priv && !grpPriv s x) = false := by
    cases hi : i.priv with
    | false => rfl
    | true => rw [hasks hi]; rfl
  refine ⟨fun hbeyond => htrap (verdict_regs hmet hpriv hbeyond), fun hallocated => ?allocated⟩
  have hregs : ((i.reads x ++ i.vw).any fun r => decide (regCount x ≤ r)) = false := by
    simpa only [List.any_eq_false, decide_eq_true_eq, Nat.not_le] using hallocated
  refine ⟨fun hbad => htrap (verdict_reserved hmet hpriv hregs ?bad), fun hgood hevenA hevenB => ?sound⟩
  case bad => simpa only [Bool.or_eq_true, or_assoc] using hbad
  case sound =>
    have hsound : (i.bad || oddPair x i.a || oddPair x i.b) = false := by rw [hgood, hevenA, hevenB]; rfl
    refine ⟨fun hsp => ⟨?absent, ?unfetched, ?missing, ?liveBad⟩, fun hlive => ⟨?queue, fun hqueues hnone hfirst => ⟨?reads, ?waits⟩⟩⟩
    case absent => exact fun haway => hwait (verdict_live_absent hmet hpriv hregs hsound hsp haway)
    case unfetched => exact fun k ad ax haway => gate_of_fetch hcur hx act (verdict_live_unfetched hmet hpriv hregs hsound hsp haway)
    case missing => exact fun haway hnext => htrap (verdict_live_missing hmet hpriv hregs hsound hsp haway hnext)
    case liveBad => exact fun haway hnext hbad => htrap (verdict_live_bad hmet hpriv hregs hsound hsp haway hnext hbad)
    case queue => exact fun k hqueue hconf => htrap (verdict_queue hmet hpriv hregs hsound hlive hqueue hconf)
    case reads => exact fun r hreads hempty => htrap (verdict_empty_read hmet hpriv hregs hsound hlive hqueues hnone hfirst hempty hreads)
    case waits => exact fun r hreads hempty => hwait (verdict_empty_waits hmet hpriv hregs hsound hlive hqueues hnone hfirst hempty hreads)

end Sys2Proof.Machine
end

section
/-! SUPPORT. LD and LDSC where every lane passes its checks (R152, R160, R170, R192, R350 to R353): O25. -/

namespace Sys2Proof.Machine

open Host

/-- An access at home goes on once the older stores of its group have drained (R190). -/
theorem afterDrain_drained {e : Env} {post u : State} (hu : u = drainAll post e.g) (hdrained : drained u e.g = true) (pre : State)
    (k : State → State) : afterDrain e pre post k = k u := by
  subst hu
  rw [afterDrain]
  simp only [hdrained, if_true]

section
variable {e : Env} {pre post s1 s2 s3 : State} {t : Ty} {strong acq home : Bool} {sc : Scope} {accs : List LaneAcc} {vals : List (Nat × List Byte)}
  (hhome : home = ((strong || acq) && sc != .core)) (hfree : anyShadow s1 e.core (asidOf s1 e.grp.ctx) home accs = false)
  (hold : (home = true ∧ s2 = drainAll s1 e.g ∧ drained s2 e.g = true) ∨ (home = false ∧ s2 = s1))
  (hclean : poisonedLanes s2 e.core (asidOf s2 e.grp.ctx) home accs = [])
include hhome hfree hold hclean

/-- A load whose lanes pass their checks reads them, in L1 or at home, and an acquire follows where the ordering asks for one (R160, R192, R350). -/
theorem loadLanes_reads {ea : Nat → DWord} (hchecked : checkGlobal post e .read (strong || acq) home t.size (lanesOf e.act) ea = (.ok accs, s1))
    {pick : List LaneAcc → List LaneAcc} (hread : readLanes s2 e home (pick accs) = (vals, s3))
    (k : List LaneAcc → List (Nat × List Byte) → State → State) :
    loadLanes e pre post t strong acq sc ea k pick = acqIf (markPeer e home (pick accs) s2 (k accs vals s3)) e.core acq sc := by
  rw [loadLanes, ← hhome, withGlobal, hchecked]
  simp only [hfree, Bool.false_eq_true, if_false]
  obtain ⟨hgoesHome, hdrain, hdrained⟩ | ⟨hstays, hsame⟩ := hold
  · rw [if_pos hgoesHome, afterDrain_drained hdrain hdrained]
    simp only [hclean, hread, List.isEmpty_nil, Bool.not_true, Bool.false_eq_true, if_false]
  · rw [if_neg (by rw [hstays]; exact Bool.false_ne_true), ← hsame]
    simp only [hclean, hread, List.isEmpty_nil, Bool.not_true, Bool.false_eq_true, if_false]

end

/-- Settles O25: LD reads the lanes of all its accesses, LDSC those of the first. -/
theorem loadResults : Obligations.LoadResults := by
  unfold Obligations.LoadResults
  intro s c x h t strong acq home sc e post s1 s2 s3 accs vals hhome hfree hold hclean
  refine ⟨fun d m hg hchecked hread => ?lanes, fun d base disp pk hact hg hchecked hread => ?scalar⟩
  case lanes =>
    obtain ⟨hslot, hctx, -⟩ := env_facts hg
    have hacts : actsIn e (memInfo h m.off [] (pairRegs t.wide d)) = true := rfl
    rw [exec_ld, execLd]
    dsimp only
    rw [goes_gate hg, hacts, if_pos rfl, loadLanes_reads hhome (by rw [hctx]; exact hfree) (by rw [hslot]; exact hold) (by rw [hctx]; exact hclean)
      hchecked hread, hslot]
    rfl
  case scalar =>
    obtain ⟨hslot, hctx, -⟩ := env_facts hg
    rw [exec_ldsc, execLdsc]
    dsimp only
    rw [goes_once hg hact rfl, loadLanes_reads hhome (by rw [hctx]; exact hfree) (by rw [hslot]; exact hold) (by rw [hctx]; exact hclean)
      hchecked hread, hslot]
    cases vals with
    | nil => rfl
    | cons v _ => rfl

end Sys2Proof.Machine
end

section
/-! SUPPORT. Stores, scratchpad accesses and atomics whose lanes pass their checks (R160, R161, R170, R187, R190 to R192, R198, R250, R350 to
R352, R354, R355): ST for O26, LDS, STS and ATOMS for O27, ATOM and RED for O28. -/

namespace Sys2Proof.Machine

open Host

/-- An instruction that acts lane by lane acts wherever it issues (R265). -/
theorem goes_lanes {s : State} {c : Cur} {x : Group} {i : Info} {e : Env} {post : State} (hg : Goes s c x i (nextWord i) e post)
    (hlanes : i.once = false) (act : Env → State → State → State) : gate i s act = .next (act e { s with free := s.free + 1 } post) := by
  rw [goes_gate hg, actsIn, hlanes, Bool.not_false, Bool.true_or, if_pos rfl]

/-! ### Scratchpad accesses that pass their checks (R161, R350) -/

theorem withSpad_passes {e : Env} {post : State} {strong : Bool} {size : Nat} {ea : Nat → DWord} {accs : List LaneAcc}
    (hchecked : checkSpad post e strong size (lanesOf e.act) ea = .ok accs) (pre : State) (k : List LaneAcc → State → State) :
    withSpad e pre post strong size ea k = k accs post := by
  simp only [withSpad, hchecked]

/-- One lane of ATOMS: its old value joins those before it, and the new one takes its place in the scratchpad (R355). -/
def spadAtomicStep (e : Env) (op : AtomOp) (t : Ty) (r : BitVec 10) (acc : List (Nat × Nat) × State) (a : LaneAcc) : List (Nat × Nat) × State :=
  let old := bytesNat (spadBytes acc.2 e a.ea.toNat t.size)
  (acc.1 ++ [(a.lane, old)], modTeam acc.2 e.grp.team fun tm => spadWrite tm a.ea.toNat
    (natBytes t.size (atomicOp op t old (atomArgs e t r a.lane).1 (atomArgs e t r a.lane).2)))

/-! ### Atomics of lanes (R355) -/

/-- One lane of ATOM or RED: nothing where its page is not resident, else its old value joins those before it (R170, R355). -/
def atomicStep (e : Env) (home : Bool) (op : AtomOp) (t : Ty) (r : BitVec 10) (acc : List (Nat × Nat) × State) (a : LaneAcc) :
    List (Nat × Nat) × State :=
  match a.pieces with
  | some (p :: _) =>
    let q := atomOne e home op t a p (atomArgs e t r a.lane).1 (atomArgs e t r a.lane).2 acc.2
    (acc.1 ++ [(a.lane, q.1)], q.2)
  | _ => acc

section
variable {e : Env} {pre post s1 s2 s3 : State} {op : AtomOp} {t : Ty} {sc : Scope} {accs : List LaneAcc} {vals : List (Nat × Nat)} {r : BitVec 10}
  (hfree : anyShadow s1 e.core (asidOf s1 e.grp.ctx) (sc != .core) accs = false)
  (hdrain : s2 = drainAll s1 e.g) (hdrained : drained s2 e.g = true)
  (hlanes : (vals, s3) = accs.foldl (atomicStep e (sc != .core) op t r) ([], s2))
include hfree hdrain hdrained hlanes

/-- An atomic without a release whose lanes pass their checks performs them in order; one that loads meets no poisoned line (R187, R350, R355). -/
theorem atomLanes_performs {ea : Nat → DWord} {loads : Bool} (acq : Bool)
    (hchecked : checkGlobal post e .atomic true (sc != .core) t.size (lanesOf e.act) ea = (.ok accs, s1))
    (hclean : loads = true → poisonedLanes s2 e.core (asidOf s2 e.grp.ctx) (sc != .core) accs = [])
    (k : List LaneAcc → List (Nat × Nat) → State → State) :
    atomLanes e pre post op t false acq loads sc ea r k =
      deferPoison (acqIf (markPeer e (sc != .core) accs s2 (k accs vals s3)) e.core acq sc) e
        (poisonedLanes s2 e.core (asidOf s2 e.grp.ctx) (sc != .core) accs) := by
  have hloads : (loads && !(poisonedLanes s2 e.core (asidOf s2 e.grp.ctx) (sc != .core) accs).isEmpty) = false := by
    cases loads with
    | false => rfl
    | true => rw [hclean rfl]; rfl
  rw [atomLanes, withGlobal, hchecked]
  simp only [hfree, Bool.false_eq_true, if_false]
  rw [afterDrain_drained hdrain hdrained]
  simp only [hloads, Bool.false_eq_true, if_false]
  change deferPoison (acqIf (markPeer e (sc != .core) accs s2 (k accs (accs.foldl (atomicStep e (sc != .core) op t r) ([], s2)).1
    (accs.foldl (atomicStep e (sc != .core) op t r) ([], s2)).2)) e.core acq sc) e _ = _
  rw [← hlanes]

end

/-- Settles O26: the parts of the store, queued at once or after its release. -/
theorem storeResults : Obligations.StoreResults := by
  unfold Obligations.StoreResults
  intro s c x h t strong rel sc r m e post s1 accs put hg hchecked hput
  obtain ⟨hslot, -⟩ := env_facts hg
  rw [exec_st, execSt, goes_lanes hg rfl]
  simp only [hchecked, hput, hslot]
  rfl

/-- Settles O27: what each instruction does with the accesses that pass the checks of the scratchpad. -/
theorem scratchpadResults : Obligations.ScratchpadResults := by
  unfold Obligations.ScratchpadResults
  intro s c x h t strong b base off disp e post accs pre hpre
  refine ⟨fun d hg hchecked => ?lds, fun r hg hchecked => ?sts, fun op o d r hg hchecked hrel hdrained => ?atoms⟩
  case lds => rw [exec_lds, execLds, goes_lanes hg rfl, withSpad_passes hchecked]
  case sts =>
    rw [exec_sts, execSts, goes_lanes hg rfl, withSpad_passes hchecked, hpre]
  case atoms =>
    obtain ⟨hslot, -, -, hteam, -⟩ := env_facts hg
    rw [← hslot] at hdrained ⊢
    rw [← hteam]
    refine ⟨_, _, ?_, Prod.eta (accs.foldl (spadAtomicStep e op t r) ([], drainAll post e.g))⟩
    rw [exec_atoms, execAtoms, goes_lanes hg rfl, withSpad_passes hchecked]
    simp only [hrel, Bool.false_eq_true, if_false]
    rw [afterDrain_drained rfl hdrained]
    rfl

/-- Settles O28: a lane after the other; ATOM meets no poisoned line, and RED defers what it meets. -/
theorem atomicResults : Obligations.AtomicResults := by
  unfold Obligations.AtomicResults
  intro s c x h op t sc e post s1 s2 s3 accs vals r hfree hdrain hdrained hlanes
  refine ⟨fun o d off base pk hrel hg hchecked hclean => ?atom, fun m hg hchecked => ?red⟩
  case atom =>
    obtain ⟨hslot, hctx, -⟩ := env_facts hg
    rw [← hslot] at hdrain hdrained ⊢
    rw [← hctx] at hfree hclean
    rw [exec_atom, execAtom, goes_lanes hg rfl, hrel, atomLanes_performs hfree hdrain hdrained hlanes (Ord.acq o) hchecked fun _ => hclean, hclean]
    rfl
  case red =>
    obtain ⟨hslot, hctx, -⟩ := env_facts hg
    rw [← hslot] at hdrain hdrained ⊢
    rw [← hctx] at hfree ⊢
    rw [exec_red, execRed, goes_lanes hg rfl, atomLanes_performs hfree hdrain hdrained hlanes false hchecked fun hno => absurd hno Bool.false_ne_true]

end Sys2Proof.Machine
end

section
/-! SUPPORT. Page requests, prefetches and cache control (R170, R350, R356 to R358): PREQ, PREF and CCTL case by case, then O29. -/

namespace Sys2Proof.Machine

open Host

/-- The lanes whose address is not canonical (R350). -/
def farLanes (e : Env) (ea : Nat → DWord) : List Nat := (lanesOf e.act).filter fun l => !canonical (ea l)

theorem farLanes_nil {e : Env} {ea : Nat → DWord} (hall : ∀ l, l ∈ lanesOf e.act → canonical (ea l) = true) : farLanes e ea = [] := by
  rw [farLanes, List.filter_eq_nil_iff]
  intro l hl
  rw [hall l hl]
  exact Bool.false_ne_true

/-- Where some lane's address is not canonical, the lowest such lane heads the list. -/
theorem farLanes_cons {e : Env} {ea : Nat → DWord} (hsome : ∃ l, l ∈ lanesOf e.act ∧ canonical (ea l) = false) :
    ∃ l0 rest, (lanesOf e.act).find? (fun l => !canonical (ea l)) = some l0 ∧ farLanes e ea = l0 :: rest := by
  obtain ⟨l, hl, hfar⟩ := hsome
  have hmem : l ∈ farLanes e ea := List.mem_filter.mpr ⟨hl, by rw [hfar]; rfl⟩
  obtain ⟨l0, rest, hcons⟩ := List.exists_cons_of_ne_nil (List.ne_nil_of_mem hmem)
  refine ⟨l0, rest, ?_, hcons⟩
  rw [← List.head?_filter, ← farLanes, hcons, List.head?_cons]

/-- With no sub-block under way and every tagged line free, CCTL finds no line of its own held (R175, R176, R358). -/
theorem no_line_held {u : State} {core asid : Nat} {lines : List Nat} (hsubs : u.subs = [])
    (hfree : ∀ v q, v ∈ lines → l1Find (coreAt u core) asid v = some q → lineFree u core q.line = true) :
    (lines.any fun v => match l1Find (coreAt u core) asid v with
      | some q => !lineFree u core q.line
      | none => u.subs.any fun b => b.core == core && b.asid == asid && b.vline == v) = false := by
  rw [List.any_eq_false]
  intro v hv
  cases hfound : l1Find (coreAt u core) asid v with
  | none => simp only [hsubs, List.any_nil, Bool.false_eq_true, not_false_eq_true]
  | some q => simp only [hfree v q hv hfound, Bool.not_true, Bool.false_eq_true, not_false_eq_true]

section
variable {s : State} {c : Cur} {x : Group} {h : Hdr} {t : Ty} {base : BitVec 6} {off disp : BitVec 10} {e : Env} {post : State}
  {ea : Nat → DWord} (hg : Goes s c x (memInfo h off [] []) (nextWord { h := h }) e post) (hea : ea = laneEa e base off disp t.size)
include hg hea

/-- PREQ traps on the lanes whose address is not canonical (R356). -/
theorem exec_preq_far {l0 : Nat} {rest : List Nat} (hfar : farLanes e ea = l0 :: rest) : exec (.preq h t base off disp) s =
    .next (takeTrap { s with free := s.free + 1 } c.g { code := 0x18, lanes := maskOf (farLanes e ea), addr := ea l0 } c.pc) := by
  rw [farLanes] at hfar ⊢
  rw [exec_preq, execPreq, goes_lanes hg rfl]
  simp only [← hea, hfar, trapAt_eq hg rfl]

/-- CCTL traps on the same (R358). -/
theorem exec_cctl_far (op : CctlOp) {l0 : Nat} {rest : List Nat} (hfar : farLanes e ea = l0 :: rest) : exec (.cctl h op t base off disp) s =
    .next (takeTrap { s with free := s.free + 1 } c.g { code := 0x18, lanes := maskOf (farLanes e ea), addr := ea l0 } c.pc) := by
  rw [farLanes] at hfar ⊢
  rw [exec_cctl, execCctl, goes_lanes hg rfl]
  simp only [← hea, hfar, trapAt_eq hg rfl]

/-- PREQ of canonical addresses is complete at once, or asks for the pages that are missing (R170, R356). -/
theorem exec_preq_goes (hfar : farLanes e ea = []) {pages : List (Nat × DWord)} {s1 u : State} (hpages : missingPages post e t.size ea = (pages, s1))
    (hu : u = pages.foldl (fun u p => residNotice u 1 0 x.ctx 0 e.core (c.g % 64) p.2) s1) :
    exec (.preq h t base off disp) s = .next (
      if pages = [] then atOnce s1 e h
      else { u with
        nextUid := u.nextUid + 1
        preqs := u.preqs ++ [{ id := u.nextUid, uid := x.uid, ctx := x.ctx, pages := pages.map (·.1), sig := sigOf x.uid h.set }] }) := by
  obtain ⟨hslot, hctx, huid, -⟩ := env_facts hg
  rw [farLanes] at hfar
  rw [exec_preq, execPreq, goes_lanes hg rfl]
  simp only [← hea, hfar, hpages, hslot, hctx, huid, ← hu, List.isEmpty_iff]
  rfl

/-- PREF fills the lines of its lanes, whatever their addresses (R357). -/
theorem exec_pref_goes : exec (.pref h t base off disp) s = .next (varResult ((lanesOf e.act).foldl (fun u l =>
    (linePieces (ea l).toNat t.size).foldl (fun u p => prefetchByte e (ea l + BitVec.ofNat 64 p.1) p.2 u) u) post) e h [] [] none 0 false) := by
  rw [exec_pref, execPref, goes_lanes hg rfl, ← hea]

/-- CCTL of canonical addresses, once older stores have drained and no line of it is held (R358). -/
theorem exec_cctl_goes (op : CctlOp) (hfar : farLanes e ea = []) {u : State} {lines : List Nat}
    (hlines : lines = dedup (((lanesOf e.act).map fun l => (linePieces (ea l).toNat t.size).map fun p =>
      (ea l + BitVec.ofNat 64 p.1).toNat % 2 ^ 56 / 128).flatten))
    (hu : u = drainAll post c.g) (hdrained : drained u c.g = true) (hsubs : u.subs = [])
    (hfree : ∀ v q, v ∈ lines → l1Find (coreAt u e.core) (asidOf u x.ctx) v = some q → lineFree u e.core q.line = true) :
    exec (.cctl h op t base off disp) s =
      .next (varResult (lines.foldl (fun w v => cctlLine op e.core (asidOf u x.ctx) v w) u) e h [] [] none 0 false) := by
  obtain ⟨hslot, hctx, -⟩ := env_facts hg
  rw [farLanes] at hfar
  rw [← hslot] at hu hdrained
  rw [exec_cctl, execCctl, goes_lanes hg rfl]
  simp only [← hea, hfar, hctx, ← hlines]
  rw [afterDrain_drained hu hdrained, if_neg (by rw [Bool.not_eq_true]; exact no_line_held hsubs hfree)]

end

/-- Settles O29: each instruction traps on its far lanes, or acts on the pages or lines of the others. -/
theorem pageAndCacheResults : Obligations.PageAndCacheResults := by
  unfold Obligations.PageAndCacheResults
  intro s c x h t base off disp e post s1 pages ea hg hea
  refine ⟨fun hsome => ?far, fun hall hpages => ⟨fun hnone => ?complete, fun hsome => ?asks⟩, exec_pref_goes hg hea,
    fun op lines hall hlines hdrained hsubs hfree => ?cctl⟩
  case far =>
    obtain ⟨l0, rest, hfound, hfar⟩ := farLanes_cons hsome
    refine ⟨l0, hfound, ?_⟩
    rintro i (rfl | ⟨op, rfl⟩)
    · exact exec_preq_far hg hea hfar
    · exact exec_cctl_far hg hea op hfar
  case complete => rw [exec_preq_goes hg hea (farLanes_nil hall) hpages rfl, if_pos hnone]
  case asks => exact ⟨_, rfl, by rw [exec_preq_goes hg hea (farLanes_nil hall) hpages rfl, if_neg hsome]⟩
  case cctl => exact exec_cctl_goes hg hea op (farLanes_nil hall) hlines rfl hdrained hsubs hfree

end Sys2Proof.Machine
end

section
/-! SUPPORT. Consorts (R179 to R181, R363, R364): CJOIN, CLEAVE and CLD case by case, then O33. -/

namespace Sys2Proof.Machine

open Host

/-- The consort `q` with team `uid` enrolled under index `i` (R179, R363). -/
def enrol (q : Consort) (i uid : Nat) (y : Consort) : Consort := if y = q then { y with members := y.members ++ [(i, uid)] } else y

/-- A team that joins or leaves consort `n` has status 0 and no most recent CLD there (R363, R365). -/
def startCstat (s : State) (uid n : Nat) : State := setCld (putCstat s uid n 0) uid n none

/-- The team of the stream under way, whatever its instruction names. -/
theorem myTeam_goes {s : State} {c : Cur} {x : Group} {i : Info} {dsts : Env → List Dest} {e : Env} {post : State} {t : Team}
    (hg : Goes s c x i dsts e post) (ht : teamOf post x.team = some t) : myTeam post e = t := by
  obtain ⟨-, -, -, hteam, -⟩ := env_facts hg
  rw [myTeam, hteam, ht, Option.getD_some]

/-- The consort shuts a team out: it has another timer, or holds the index or the team (R363). -/
theorem consort_shut_iff (q : Consort) (tm i uid : Nat) : (q.timer != tm || q.members.any fun m => m.1 == i || m.2 == uid) = true ↔
    q.timer ≠ tm ∨ ∃ m, m ∈ q.members ∧ (m.1 = i ∨ m.2 = uid) := by
  simp only [Bool.or_eq_true, bne_iff_ne, List.any_eq_true, beq_iff_eq]

section
variable {s : State} {c : Cur} {x : Group} {h : Hdr} {n : BitVec 4} {e : Env} {post pre : State} {t : Team} {k : Nat × Nat}

/-- CONSORT_STATE names the consort (R250). -/
theorem trapConsort_goes {i : Info} {dsts : Env → List Dest} (hg : Goes s c x i dsts e post) (hpre : pre = { s with free := s.free + 1 }) :
    trapConsort pre e n = takeTrap pre c.g { code := 0x14, lanes := e.act, aux := n.setWidth 64 } c.pc :=
  trapAt_eq hg hpre ..

variable (hact : e.act ≠ 0) (hpre : pre = { s with free := s.free + 1 }) (ht : teamOf post x.team = some t) (hk : k = teamCluster post t)
  (hg : Goes s c x { h := h, once := true } (nextWord { h := h }) e post)
include hact hpre ht hk hg

/-- CJOIN (R179, R363). -/
theorem exec_cjoin_goes (idx timer : SImm) {i tm : Nat} (hi : i = (e.simm idx).toNat) (htm : tm = (e.simm timer).toNat % 2 ^ 32) :
    exec (.cjoin h n idx timer) s = .next (
      if 11 < i then trapReserved pre e.act
      else match findConsort post k n.toNat with
        | none => atOnce (startCstat { post with consorts := post.consorts ++
            [{ fl := coreFlask e.core, grid := k.1, cluster := k.2, c := n.toNat, members := [(i, t.uid)], timer := tm }] } t.uid n.toNat) e h
        | some q =>
          if q.timer ≠ tm ∨ ∃ m, m ∈ q.members ∧ (m.1 = i ∨ m.2 = t.uid) then trapConsort pre e n
          else atOnce (startCstat { post with consorts := post.consorts.map (enrol q i t.uid) } t.uid n.toNat) e h) := by
  rw [exec_cjoin, execCjoin, goes_once hg hact hpre]
  simp only [myTeam_goes hg ht, ← hk, ← hi, ← htm, consort_shut_iff]
  cases findConsort post k n.toNat with
  | none => rfl
  | some q => simp only [startCstat, beq_iff_eq]; rfl

/-- CLEAVE (R179, R181, R363). -/
theorem exec_cleave_goes : exec (.cleave h n) s = .next (
    if t.uid ∈ enrolled post k n.toNat then atOnce (leaveConsort (startCstat post t.uid n.toNat) k n.toNat t.uid) e h
    else trapConsort pre e n) := by
  rw [exec_cleave, execCleave, goes_once hg hact hpre]
  simp only [myTeam_goes hg ht, ← hk, Bool.not_eq_true', ← Bool.not_eq_true, ite_not, List.contains_iff_mem, startCstat]

end

/-- Settles O33: each instruction issues once, and does the case of its consort. -/
theorem consortResults : Obligations.ConsortResults := by
  unfold Obligations.ConsortResults
  intro s c x h n e post pre t k hact hpre ht hk
  refine ⟨fun hg => ⟨fun idx timer i tm hi htm => ?cjoin, fun hout => ?stays, fun hin => ?leaves⟩,
    fun ui sa sb va w u v z hg hva hw hzero hsome hmost hspad hfits hlook hku henrolled hfresh hv hdrained hz => ?cld⟩
  case cjoin =>
    rw [exec_cjoin_goes hact hpre ht hk hg idx timer hi htm, trapConsort_goes hg hpre]
    refine ⟨fun hpast => by rw [if_pos hpast], fun hlow hnone => ?new, fun q hlow hfound => ?old⟩
    case new =>
      rw [if_neg (Nat.not_lt.mpr hlow), hnone]
      rfl
    case old =>
      rw [if_neg (Nat.not_lt.mpr hlow), hfound]
      dsimp only
      refine ⟨fun hshut => by rw [if_pos hshut], fun ⟨htimer, hapart⟩ => ?joins⟩
      have hopen : ¬ (q.timer ≠ tm ∨ ∃ m, m ∈ q.members ∧ (m.1 = i ∨ m.2 = t.uid)) := by
        rintro (hother | ⟨m, hm, hindex | hteam⟩)
        · exact hother htimer
        · exact (hapart m hm).1 hindex
        · exact (hapart m hm).2 hteam
      rw [if_neg hopen]
      rfl
  case stays => rw [exec_cleave_goes hact hpre ht hk hg, trapConsort_goes hg hpre, if_neg hout]
  case leaves =>
    rw [exec_cleave_goes hact hpre ht hk hg, if_pos hin]
    rfl
  case cld =>
    obtain ⟨hslot, hctx, huid, -⟩ := env_facts hg
    have hextent : (fld w 42 6 != 0 || decide (fld w 20 17 = 0) || decide (65536 < fld w 20 17)) = false := by
      simp only [hzero, bne_self_eq_false, Bool.false_or, Bool.or_eq_false_iff, decide_eq_false_iff_not]
      omega
    have hplace : (!false && decide (t.scratch < fld w 0 20 + fld w 20 17)) = false := by
      simp only [Bool.not_false, Bool.true_and, decide_eq_false_iff_not, Nat.not_lt, hfits]
    rw [← hslot] at hv hdrained hz
    rw [exec_cld, execCld, goes_once hg hact hpre]
    simp only [← hva, ← hw, myTeam_goes hg ht, hspad, hextent, hplace, hlook, ← hku, List.contains_iff_mem.mpr henrolled, hfresh, Bool.not_true,
      Bool.or_self, Bool.false_and, Bool.false_eq_true, if_false]
    rw [afterDrain_drained hv hdrained, hz]
    simp only [hctx, huid]
    rfl

end Sys2Proof.Machine
end

section
/-! SUPPORT. Circular buffers (R183, R201, R250, R370 to R372): CBINIT, CBACQ, CBREL and the service of a CBACQ that waits, case by case,
then O36. -/

namespace Sys2Proof.Machine

open Host

/-- Team `uid` may start buffer `b`: it is free, or its own and idle (R370). -/
def BufIdle (k : Core) (b uid : Nat) : Prop :=
  ∀ y, mget? k.bufs b = some y → y.team = uid ∧ y.held = 0 ∧ ∀ q, q ∈ k.copies → ¬ (q.dsp = 2 ∧ q.buf = b)

/-- A buffer of `n` slots of `size` bytes at `base` is aligned, of a legal size and inside `scratch` bytes (R183, R370). -/
def BufFits (base size n scratch : Nat) : Prop :=
  base % 128 = 0 ∧ size % 128 = 0 ∧ 128 ≤ size ∧ size ≤ 65536 ∧ 1 ≤ n ∧ n ≤ 256 ∧ base + size * n ≤ scratch

theorem copiesOf_iff (k : Core) (b : Nat) : copiesOf k b = true ↔ ∃ q, q ∈ k.copies ∧ q.dsp = 2 ∧ q.buf = b := by
  simp only [copiesOf, List.any_eq_true, Bool.and_eq_true, decide_eq_true_eq]

/-- What CBINIT finds busy is a buffer that is not idle. -/
theorem buf_busy_iff (k : Core) (b uid : Nat) : (match mget? k.bufs b with
    | some y => y.team != uid || y.held != 0 || copiesOf k b
    | none => false) = true ↔ ¬ BufIdle k b uid := by
  unfold BufIdle
  cases hb : mget? k.bufs b with
  | none => simp only [Bool.false_eq_true, reduceCtorEq, false_implies, implies_true, not_true_eq_false]
  | some y =>
    simp only [Bool.or_eq_true, bne_iff_ne, copiesOf_iff, Option.some.injEq, forall_eq', Classical.not_and_iff_not_or_not, Classical.not_forall,
      not_or, Classical.not_not, exists_prop, or_assoc, ne_eq]

/-- What CBINIT refuses: a busy buffer, or one that does not fit. -/
theorem cbinit_refused_iff (busy : Bool) (base size n scratch : Nat) : (busy || base % 128 != 0 || size % 128 != 0 || decide (size < 128) ||
    decide (65536 < size) || decide (n < 1) || decide (256 < n) || decide (scratch < base + size * n)) = true ↔
      busy = true ∨ ¬ BufFits base size n scratch := by
  unfold BufFits
  simp only [Bool.or_eq_true, bne_iff_ne, decide_eq_true_eq, Classical.not_and_iff_not_or_not, Nat.not_le, or_assoc, ne_eq]

section
variable {s : State} {c : Cur} {x : Group} {h : Hdr} {b : BitVec 4} {e : Env} {post pre : State} {t : Team}

/-- CB_STATE names the buffer (R250). -/
theorem trapCb_goes {i : Info} {dsts : Env → List Dest} (hg : Goes s c x i dsts e post) (hpre : pre = { s with free := s.free + 1 }) :
    trapCb pre e b = takeTrap pre c.g { code := 0x16, lanes := e.act, aux := b.setWidth 64 } c.pc :=
  trapAt_eq hg hpre ..

variable (hact : e.act ≠ 0) (hpre : pre = { s with free := s.free + 1 }) (ht : teamOf post x.team = some t)

section
variable (hg : Goes s c x { h := h, once := true, mem := true } (nextWord { h := h }) e post)
include hact hpre ht hg

/-- CBINIT (R183, R370; log entry 32). -/
theorem exec_cbinit_goes (sa sb sc : BitVec 6) {base size n : Nat} (hbase : base = (e.s sa.toNat).toNat % 2 ^ 32)
    (hsize : size = (e.s sb.toNat).toNat % 2 ^ 32) (hn : n = (e.s sc.toNat).toNat % 2 ^ 32)
    [Decidable (BufIdle (coreAt post e.core) b.toNat t.uid ∧ BufFits base size n t.scratch)] :
    exec (.cbinit h b sa sb sc) s = .next (
      if BufIdle (coreAt post e.core) b.toNat t.uid ∧ BufFits base size n t.scratch then
        atOnce (modCore post e.core fun k => { k with
          bufs := mput k.bufs b.toNat
            { team := t.uid, base := base, size := size, count := n, free := n, filled := 0,
              wait := ((mget? (coreAt post e.core).bufs b.toNat).map (·.wait)).getD [] } }) e h
      else trapCb pre e b) := by
  subst hbase hsize hn
  rw [exec_cbinit, execCbinit, goes_once hg hact hpre]
  dsimp only
  rw [myTeam_goes hg ht, ← ite_not (p := BufIdle (coreAt post e.core) b.toNat t.uid ∧ BufFits _ _ _ t.scratch)]
  exact congrArg Outcome.next <|
    ite_congr (propext ((cbinit_refused_iff ..).trans <| (or_congr_left (buf_busy_iff ..)).trans Classical.not_and_iff_not_or_not.symm))
      (fun _ => rfl) fun _ => rfl

/-- CBREL of a buffer that is there (R183, R201, R372). -/
theorem exec_cbrel_goes (sa : BitVec 6) {q : Buf} (hq : mget? (coreAt post e.core).bufs b.toNat = some q) :
    exec (.cbrel h b sa) s = .next (
      if q.team ≠ t.uid ∨ q.held = 0 ∨ (e.s sa.toNat).toNat % 2 ^ 32 ≠ q.base + q.ret * q.size then trapCb pre e b
      else afterRelease e pre post .core fun u => atOnce (modBuf u e.core b.toNat fun z =>
        { z with free := z.free + 1, ret := (z.ret + 1) % max 1 z.count, held := z.held - 1 }) e h) := by
  obtain ⟨-, -, -, hteam, -⟩ := env_facts hg
  rw [exec_cbrel, execCbrel, goes_once hg hact hpre]
  simp only [hq, hteam, uid_of_teamOf ht, Bool.or_eq_true, bne_iff_ne, decide_eq_true_eq, or_assoc]

end

section
variable {d : Reg} (hg : Goes s c x { h := h, once := true, vw := dstRegs false d, mem := true } (nextWord { h := h }) e post)
include hact hpre hg

/-- CBACQ of a buffer that no team has started (R371). -/
theorem exec_cbacq_none (hnone : mget? (coreAt post e.core).bufs b.toNat = none) : exec (.cbacq h d b) s = .next (trapCb pre e b) := by
  rw [exec_cbacq, execCbacq, goes_once hg hact hpre]
  simp only [hnone]

include ht

/-- CBACQ of a buffer that is there (R183, R371). -/
theorem exec_cbacq_goes {q : Buf} (hq : mget? (coreAt post e.core).bufs b.toNat = some q) : exec (.cbacq h d b) s = .next (
    if q.team ≠ t.uid then trapCb pre e b
    else modBuf (modGroup post c.g (markEmpty (dstRegs false d))) e.core b.toNat fun z => { z with
      wait := z.wait ++ [{ uid := x.uid, lanes := e.act, dst := d, sig := sigOf x.uid h.set }] }) := by
  obtain ⟨hslot, -, huid, hteam, -⟩ := env_facts hg
  rw [exec_cbacq, execCbacq, goes_once hg hact hpre]
  simp only [hq, hslot, huid, hteam, uid_of_teamOf ht, bne_iff_ne]

end

end

/-- What a served CBACQ brings to its destination: the address of its slot (R371). -/
def acquired (w : CbAcq) (addr : Nat) : Res :=
  match w.dst with
  | .v n => { id := 0, uid := w.uid, vregs := [n.toNat], sig := w.sig,
              vals := (lanesOf w.lanes).map fun l => (n.toNat * 128 + l, BitVec.ofNat 32 addr) }
  | .s n => { id := 0, uid := w.uid, sreg := some (n.toNat, BitVec.ofNat 64 addr), sig := w.sig }

section
variable {u : State} {core : Nat} {b : BitVec 4} {q : Buf} {w : CbAcq} {rest : List CbAcq} (hcore : core < 512)
  (hq : mget? (coreAt u core).bufs b.toNat = some q) (hwait : q.wait = w :: rest)
include hcore hq hwait

/-- The oldest CBACQ that waits is served once a slot is filled (R183, R371). -/
theorem exec_cbacqServe_next : exec (.cbacqServe core b) u = .next (
    if q.filled = 0 then u
    else finishRes (resave (modBuf u core b.toNat fun z => { z with
      filled := z.filled - 1, acq := (z.acq + 1) % max 1 z.count, held := z.held + 1, wait := rest }) q.team)
        (acquired w (q.base + q.acq * q.size))) := by
  rw [exec_cbacqServe, execCbacqServe, if_neg (Nat.not_le.mpr hcore)]
  simp only [hq, hwait]
  split
  · rfl
  · rfl

end

/-- Settles O36: each instruction does the case of its buffer, and the service that of its filled slots. -/
theorem bufferResults : Obligations.BufferResults := by
  unfold Obligations.BufferResults
  intro s c x h b e post pre trap t hact hpre ht htrap
  refine ⟨fun hg => ⟨fun sa sb sc base size n ok hbase hsize hn hok => ?cbinit, fun sa q hq => ?cbrel⟩,
    fun d hg => ⟨fun hother => ?shut, fun q hq hown => ?waits⟩,
    fun u v core q w rest hcore hq hwait => ?serve⟩
  case cbinit =>
    have hstarts : ok ↔ BufIdle (coreAt post e.core) b.toNat t.uid ∧ BufFits base size n t.scratch := hok
    classical
    rw [exec_cbinit_goes hact hpre ht hg sa sb sc hbase hsize hn, trapCb_goes hg hpre, ← htrap]
    exact ⟨fun hyes => by rw [if_pos (hstarts.mp hyes)], fun hno => by rw [if_neg fun hyes => hno (hstarts.mpr hyes)]⟩
  case cbrel =>
    rw [exec_cbrel_goes hact hpre ht hg sa hq, trapCb_goes hg hpre, ← htrap]
    refine ⟨fun hbad => by rw [if_pos hbad], fun hown hheld hdue => ?due⟩
    have hgood : ¬ (q.team ≠ t.uid ∨ q.held = 0 ∨ (e.s sa.toNat).toNat % 2 ^ 32 ≠ q.base + q.ret * q.size) := by
      rintro (hother | hnone | hwrong)
      · exact hother hown
      · exact hheld hnone
      · exact hwrong hdue
    obtain ⟨hslot, -⟩ := env_facts hg
    rw [if_neg hgood, ← hslot]
    exact ⟨fun u hu => by rw [afterRelease_done hu], fun hopen => by rw [afterRelease_waits hopen]⟩
  case shut =>
    rw [htrap, ← trapCb_goes hg hpre]
    cases hq : mget? (coreAt post e.core).bufs b.toNat with
    | none => exact exec_cbacq_none hact hpre hg hq
    | some q => rw [exec_cbacq_goes hact hpre ht hg hq, if_pos (hother q hq)]
  case waits => rw [exec_cbacq_goes hact hpre ht hg hq, if_neg fun hother => hother hown]
  case serve =>
    rw [exec_cbacqServe_next hcore hq hwait]
    refine ⟨fun hnone => by rw [if_pos hnone], fun hfilled hv => ?filled⟩
    rw [if_neg hfilled, ← hv, acquired]
    exact ⟨fun n hn => by rw [hn], fun n hn => by rw [hn]⟩

end Sys2Proof.Machine
end

section
/-! SUPPORT. Row operations as they issue (R184, R377, R378): NMCPY and NMZERO case by case, then O38. -/

namespace Sys2Proof.Machine

open Host

theorem rowVa_zero (base : DWord) : rowVa base 0 = base := BitVec.add_zero base

section
variable {o : NmOp} {s v : State} (fuel : Nat) (hnew : o.row = 0)
include hnew

/-- The first destination row is there: the operation joins the queue of its stack and pseudo-channel (R378). -/
theorem nmEnter_queues {leaf : DWord} {key : Nat} (hlook : rowLook s o none .write o.sd = (.ok leaf key, v)) :
    nmEnter (fuel + 1) o s = modStack v (keyStack key) fun t => { t with queues := mmod t.queues (keyPch key) [] (· ++ [o]) } := by
  simp only [nmEnter, hnew, rowVa_zero, hlook]

/-- Its page is not resident: the operation waits, with a notice (R378). -/
theorem nmEnter_waits {page : Nat} (hlook : rowLook s o none .write o.sd = (.nonres page, v)) :
    nmEnter (fuel + 1) o s = { nmNotice v o 1 o.sd with nmWait := v.nmWait ++ [{ o with halted := some page }] } := by
  simp only [nmEnter, hnew, rowVa_zero, hlook]

/-- Its page may not be written: the operation ends with ADDRESS_RANGE (R377, R378). -/
theorem nmEnter_ends (hlook : rowLook s o none .write o.sd = (.bad, v)) : nmEnter (fuel + 1) o s = nmDone (nmCause v o o.sd) o := by
  simp only [nmEnter, hnew, rowVa_zero, hlook]

end

/-- NMCPY or NMZERO: the instruction whose operation fills from zeros, or does not. -/
def rowInstr (h : Hdr) (ui zero : Bool) (sd ss : BitVec 6) (n : SImm) : Instr :=
  if zero = true then .nmzero h ui sd n else .nmcpy h ui sd ss n

theorem exec_rowInstr (h : Hdr) (ui zero : Bool) (sd ss : BitVec 6) (n : SImm) (s : State) :
    exec (rowInstr h ui zero sd ss n) s = nmIssue h ui zero sd (if zero = true then 0 else ss) n s := by
  cases zero with
  | false => rfl
  | true => rfl

/-- The operation that a row instruction asks for (R377). -/
def rowOp (x : Group) (h : Hdr) (ui zero : Bool) (e : Env) (d src : DWord) (k id : Nat) : NmOp :=
  { id := id, uid := x.uid, ctx := x.ctx, sysT := x.sysT, core := e.core, zero := zero, sd := d, ss := src, n := k, sig := sigOf x.uid h.set,
    ui := ui, word := e.pc, lanes := e.act }

section
variable {s : State} {c : Cur} {x : Group} {h : Hdr} {ui zero : Bool} {sd ss : BitVec 6} {n : SImm} {e : Env} {post pre : State}
  {d src : DWord} {k : Nat}
  (hg : Goes s c x { h := h, once := true, mem := true } (nextWord { h := h }) e post) (hact : e.act ≠ 0)
  (hpre : pre = { s with free := s.free + 1 }) (hd : d = e.s sd.toNat) (hsrc : src = e.s (if zero = true then 0 else ss).toNat)
  (hk : k = (e.simm n).toNat)
include hg hact hpre hd hsrc hk

/-- NMCPY and NMZERO check after check (R377; log entry 17). -/
theorem exec_rowInstr_goes : exec (rowInstr h ui zero sd ss n) s = .next (
    if d.toNat % 1024 ≠ 0 ∨ (zero = false ∧ src.toNat % 1024 ≠ 0) then
      takeTrap pre c.g { code := 0x05, lanes := e.act, addr := if d.toNat % 1024 ≠ 0 then d else src } c.pc
    else if k = 0 ∨ 65536 < k then trapReserved pre e.act
    else if rowsCanonical d k = false then takeTrap pre c.g { code := 0x18, lanes := e.act, addr := d } c.pc
    else if zero = false ∧ rowsCanonical src k = false then takeTrap pre c.g { code := 0x18, lanes := e.act, addr := src } c.pc
    else afterDrain e pre post fun u =>
      nmEnter k (rowOp x h ui zero e d src k u.nextUid) { u with nextUid := u.nextUid + 1 }) := by
  obtain ⟨-, hctx, huid, -⟩ := env_facts hg
  have hsys : e.grp.sysT = x.sysT := by rw [hg.env]; rfl
  rw [exec_rowInstr, nmIssue, goes_once hg hact hpre]
  simp only [← hd, ← hsrc, ← hk, trapAt_eq hg hpre, hctx, huid, hsys, bne_iff_ne, Bool.or_eq_true, Bool.and_eq_true, Bool.not_eq_true',
    decide_eq_true_eq]
  rfl

end

/-- Settles O38: the checks in their order, and then the case of the first destination row. -/
theorem rowOpIssues : Obligations.RowOpIssues := by
  unfold Obligations.RowOpIssues
  intro s c x h ui zero sd ss n e post pre u d src k i o hg hact hpre hi hd hsrc hk
  obtain ⟨hslot, -, -, -, -, hpc, -⟩ := env_facts hg
  have hsrc' : src = e.s (if zero = true then 0 else ss).toNat := by
    rw [hsrc]
    cases zero with
    | false => rfl
    | true => rfl
  rw [hi, ← rowInstr, exec_rowInstr_goes hg hact hpre hd hsrc' hk]
  refine ⟨fun hodd => ?oddD, fun heven hcopies hodd => ?oddS, fun heven hsource => ?aligned⟩
  case oddD => rw [if_pos (.inl hodd), if_pos hodd]
  case oddS => rw [if_pos (.inr ⟨hcopies, hodd⟩), if_neg fun hno => hno heven]
  case aligned =>
    have heven' : ¬ (d.toNat % 1024 ≠ 0 ∨ (zero = false ∧ src.toNat % 1024 ≠ 0)) := by
      rintro (hodd | ⟨hcopies, hodd⟩)
      · exact hodd heven
      · exact hodd (hsource.resolve_left fun hzero => Bool.false_ne_true (hcopies.symm.trans hzero))
    rw [if_neg heven']
    refine ⟨fun hbad => by rw [if_pos hbad], fun hsome hmost => ?extent⟩
    rw [if_neg (by omega)]
    refine ⟨fun hfar => by rw [if_pos hfar], fun hnear hcopies hfar => ?farS, fun hnear hreads hu hdrained ho => ?enters⟩
    case farS => rw [if_neg (by rw [hnear]; decide), if_pos ⟨hcopies, hfar⟩]
    case enters =>
      have hreach : ¬ (zero = false ∧ rowsCanonical src k = false) := by
        rintro ⟨hcopies, hfar⟩
        exact Bool.false_ne_true (hfar.symm.trans (hreads.resolve_left fun hzero => Bool.false_ne_true (hcopies.symm.trans hzero)))
      rw [← hslot] at hu hdrained
      rw [if_neg (by rw [hnear]; decide), if_neg hreach, afterDrain_drained hu hdrained]
      obtain ⟨fuel, rfl⟩ : ∃ fuel, k = fuel + 1 := ⟨k - 1, by omega⟩
      have hop : rowOp x h ui zero e d src (fuel + 1) u.nextUid = o := by
        rw [ho, hsrc]
        cases zero with
        | false => rfl
        | true => rfl
      have hnew : o.row = 0 := by rw [ho]
      have hdst : o.sd = d := by rw [ho]
      rw [hop, ← hdst]
      refine ⟨fun leaf key v hlook => by rw [nmEnter_queues fuel hnew hlook], fun page v hlook => by rw [nmEnter_waits fuel hnew hlook],
        fun v hlook => ?ends⟩
      rw [nmEnter_ends fuel hnew hlook, nmDone, nmCause, ho, hpc]

end Sys2Proof.Machine
end

section
/-! SUPPORT. Row operations at work in a stack (R175, R185, R186, R377, R378, R420, R421): start, pair, refresh and completion case by case,
then O39. -/

namespace Sys2Proof.Machine

open Host

/-- The module has this stack and this pseudo-channel. -/
theorem row_unit {stack pch : Nat} (hstack : stack < 16) (hpch : pch < 32) : (decide (16 ≤ stack) || decide (32 ≤ pch)) = false := by
  rw [Bool.or_eq_false_iff, decide_eq_false_iff_not, decide_eq_false_iff_not]
  exact ⟨Nat.not_le.mpr hstack, Nat.not_le.mpr hpch⟩

/-! ### A pair of rows (R185, R186, R377) -/

/-- A source row lies outside the subarray of the destination row. -/
def pairFar (dk : Nat) (src : Option (DWord × Nat)) : Bool :=
  match src with
  | some (_, sk) => keyBank sk != keyBank dk || keySub sk != keySub dk
  | none => false

/-- The banks that a pair uses. -/
def pairBanks (dk : Nat) (src : Option (DWord × Nat)) : List Nat :=
  keyBank dk :: match src with
    | some (_, sk) => if pairFar dk src = true then [keyBank sk] else []
    | none => []

/-- The lines that a pair reads or writes. -/
def pairLines (dk : Nat) (src : Option (DWord × Nat)) : List Nat :=
  rowLines dk ++ match src with
    | some (_, sk) => rowLines sk
    | none => []

theorem pairFar_iff (dk : Nat) (sl : DWord) (sk : Nat) :
    pairFar dk (some (sl, sk)) = true ↔ ¬ (keyBank sk = keyBank dk ∧ keySub sk = keySub dk) := by
  simp only [pairFar, Bool.or_eq_true, bne_iff_ne, Classical.not_and_iff_not_or_not, ne_eq]

/-- Both rows are there: the pair waits for its banks and lines, or moves (R185, R186). -/
def pairMove (w : State) (stack pch : Nat) (o : NmOp) (dl : DWord) (dk : Nat) (src : Option (DWord × Nat)) : State :=
  if (!(pairBanks dk src).all (bankFree w stack) || (pairLines dk src).any (locked w)) = true then w
  else
    let r := rowMove (tally w (coreDomain o.core) 20 o.ctx 1) o dl dk src
    modNm r.2 stack pch fun q => { q with
      row := q.row + 1, till := drone r.2 + (if pairFar dk src = true then 240 else 90), banks := pairBanks dk src, wrote := r.1 }

/-- What a pair of rows becomes, of what the stack has found on either side: a source page refused gives zeros (R377;
log entry 35). -/
def pairNext (w : State) (stack pch : Nat) (o : NmOp) : RowLook → RowLook → State
  | .bad, _ => modNm (nmCause w o (rowVa o.sd o.row)) stack pch fun q => { q with past := true }
  | .refused, _ => modNm w stack pch fun q => { q with row := q.row + 1 }
  | .nonres page, _ => modNm (nmNotice w o 1 (rowVa o.sd o.row)) stack pch fun q => { q with halted := some page }
  | .ok _ _, .bad => modNm (nmCause w o (rowVa o.ss o.row)) stack pch fun q => { q with past := true }
  | .ok _ _, .nonres page => modNm (nmNotice w o 0 (rowVa o.ss o.row)) stack pch fun q => { q with halted := some page }
  | .ok dl dk, .refused => pairMove w stack pch o dl dk none
  | .ok dl dk, .ok sl sk => pairMove w stack pch o dl dk (some (sl, sk))

/-- Once its banks and lines are free, the pair moves (R185, R186). -/
theorem pairMove_free {w : State} {stack pch : Nat} {o : NmOp} {dl : DWord} {dk : Nat} {src : Option (DWord × Nat)}
    (hbanks : ∀ b, b ∈ pairBanks dk src → bankFree w stack b = true) (hlines : ∀ l, l ∈ pairLines dk src → locked w l = false)
    {m : SMap (BitVec 1024)} {v : State} (hmove : rowMove (tally w (coreDomain o.core) 20 o.ctx 1) o dl dk src = (m, v)) :
    pairMove w stack pch o dl dk src = modNm v stack pch fun q => { q with
      row := q.row + 1, till := drone v + (if pairFar dk src = true then 240 else 90), banks := pairBanks dk src, wrote := m } := by
  have hall : (pairBanks dk src).all (bankFree w stack) = true := List.all_eq_true.mpr hbanks
  have hany : (pairLines dk src).any (locked w) = false :=
    List.any_eq_false.mpr fun l hl => by rw [hlines l hl]; exact Bool.false_ne_true
  rw [pairMove, hall, hany, if_neg (by decide), hmove]

section
variable {s : State} {stack pch : Nat} {o : NmOp} (hstack : stack < 16) (hpch : pch < 32) (hhead : nmHead s stack pch = some o)
include hstack hpch hhead

/-- ROW_OP_START of the operation at the head of its queue (R185, R421). -/
theorem exec_rowOpStart_next (hidle : o.going = false) {u clean : State} (hclean : clean = (if o.zero = true then s
      else (rowsFound s o stack .read o.ss).foldl (fun s p => (rowLines p.2).foldl cleanLine s) s))
    (hu : u = (rowsFound s o stack .write o.sd).foldl (fun s p => (rowLines p.2).foldl (fun s l => dropLine s o l) s) clean) :
    exec (.rowOpStart stack pch) s = .next (modNm { u with free := u.free + 1 } stack pch fun o => { o with going := true }) := by
  rw [exec_rowOpStart, execRowOpStart, row_unit hstack hpch, if_neg Bool.false_ne_true, hhead]
  simp only [hidle, Bool.false_eq_true, if_false]
  rw [hu, hclean]
  cases o.zero with
  | false => rfl
  | true => rfl

/-- ROW_PAIR of an operation that may go on (R185, R377). -/
theorem exec_rowPair_next (hgoing : o.going = true) (hpast : o.past = false) (hnotice : o.halted = none) (hmore : o.row < o.n)
    (htill : o.till ≤ drone s) (hyield : o.yield ≤ drone s) {u w : State} {dst src : RowLook}
    (hdst : rowLook s o (some stack) .write (rowVa o.sd o.row) = (dst, u))
    (hsrc : (src, w) = (if o.zero = true then (.refused, u) else rowLook u o (some stack) .read (rowVa o.ss o.row))) :
    exec (.rowPair stack pch) s = .next (pairNext w stack pch o dst src) := by
  have hready :
      (!o.going || o.past || o.halted.isSome || decide (o.n ≤ o.row) || decide (drone s < o.till) || decide (drone s < o.yield)) = false := by
    simp only [hgoing, hpast, hnotice, Option.isSome_none, Bool.not_true, Bool.or_eq_false_iff, decide_eq_false_iff_not, Nat.not_le, Nat.not_lt,
      and_self, true_and]
    exact ⟨⟨hmore, htill⟩, hyield⟩
  rw [exec_rowPair, execRowPair, row_unit hstack hpch, if_neg Bool.false_ne_true, hhead]
  simp only [hready, Bool.false_eq_true, if_false, hdst, ← hsrc]
  cases dst with
  | bad => rfl
  | refused => rfl
  | nonres page => rfl
  | ok dl dk =>
    cases src with
    | bad => rfl
    | nonres page => rfl
    | refused => rw [pairNext, pairMove, apply_ite Outcome.next]; rfl
    | ok sl sk => rw [pairNext, pairMove, apply_ite Outcome.next]; rfl

/-- ROW_OP_COMPLETE of an operation whose rows are done (R185, R378). -/
theorem exec_rowOpComplete_next (hgoing : o.going = true) (hnotice : o.halted = none) (htill : o.till ≤ drone s)
    (hdone : o.past = true ∨ o.row = o.n) {u : State} (hu : u = (o.wrote.map (·.1)).foldl (fun s l => dropLine s o l) s)
    (hinvs : noInvs u o.core = true) :
    exec (.rowOpComplete stack pch) s = .next (nmDone (modStack u stack fun t => { t with queues := mmod t.queues pch [] (·.drop 1) }) o) := by
  have hrows : (o.past || decide (o.row = o.n)) = true := by simpa only [Bool.or_eq_true, decide_eq_true_eq] using hdone
  have hready : (!o.going || o.halted.isSome || decide (drone s < o.till) || !(o.past || decide (o.row = o.n))) = false := by
    rw [hgoing, hnotice, hrows, decide_eq_false (Nat.not_lt.mpr htill)]
    rfl
  rw [exec_rowOpComplete, execRowOpComplete, row_unit hstack hpch, if_neg Bool.false_ne_true, hhead]
  simp only [hready, Bool.false_eq_true, if_false, ← hu, hinvs, Bool.not_true]

end

/-- REFRESH_DUE that a bank may still owe (R186, R420; log entry 35). -/
theorem exec_refreshDue_next {s : State} {stack pch bank ends busy : Nat} (hstack : stack < 16) (hpch : pch < 32) (hbank : bank < 64)
    (hends : ends = pairEnds s stack (64 * pch + bank)) (hbusy : busy = max ends (mget (stackAt s stack).fresh (64 * pch + bank) 0))
    (howes : busy + 350 ≤ ends + 4 * 350) :
    exec (.refreshDue stack pch bank) s = .next (modStack s stack fun t => { t with
      fresh := mput t.fresh (64 * pch + bank) (busy + 350)
      queues := t.queues.map fun q => (q.1, q.2.map fun o =>
        if drone s < o.till && o.banks.contains (64 * pch + bank) then { o with yield := max o.yield (busy + 350) } else o) }) := by
  rw [exec_refreshDue, execRefreshDue, row_unit hstack hpch, decide_eq_false (Nat.not_le.mpr hbank), Bool.or_self, if_neg Bool.false_ne_true]
  simp only [← hends, ← hbusy]
  rw [if_neg (Nat.not_lt.mpr howes)]

/-- Settles O39: each event is the step of the operation at the head of the queue. -/
theorem rowOpEvents : Obligations.RowOpEvents := by
  unfold Obligations.RowOpEvents
  intro s stack pch o hstack hpch hhead
  refine ⟨fun hidle => ⟨_, _, _, rfl, rfl, rfl, exec_rowOpStart_next hstack hpch hhead hidle rfl rfl⟩,
    fun u w dst src hgoing hpast hnotice hmore htill hyield hdst hsrc => ?pair,
    fun bank ends busy hbank hends hbusy howes => exec_refreshDue_next hstack hpch hbank hends hbusy howes,
    fun u hgoing hnotice htill hdone hu hinvs => exec_rowOpComplete_next hstack hpch hhead hgoing hnotice htill hdone hu hinvs⟩
  case pair =>
    rw [exec_rowPair_next hstack hpch hhead hgoing hpast hnotice hmore htill hyield hdst hsrc]
    refine ⟨fun page hd => by rw [hd]; rfl, fun hd => by rw [hd]; rfl, fun hd => by rw [hd]; rfl, fun dl dk hd => ?there⟩
    rw [hd]
    refine ⟨fun page hx => by rw [hx]; rfl, fun hx => by rw [hx]; rfl, fun hx hlines hbank m v hmove => ?zeros,
      fun sl sk hx hlines m v hmove => ?rows⟩
    case zeros =>
      have hbanks : ∀ b, b ∈ pairBanks dk none → bankFree w stack b = true := List.forall_mem_singleton.mpr hbank
      have hfree : ∀ l, l ∈ pairLines dk none → locked w l = false := fun l hl => hlines l (by simpa only [pairLines, List.append_nil] using hl)
      rw [hx]
      exact congrArg Outcome.next (pairMove_free hbanks hfree hmove)
    case rows =>
      have hfree : ∀ l, l ∈ pairLines dk (some (sl, sk)) → locked w l = false := fun l hl => hlines l (List.mem_append.mp hl)
      rw [hx]
      refine ⟨fun hnear hbank => ?near, fun hfar hbank hother => ?far⟩
      case near =>
        have hin : pairFar dk (some (sl, sk)) = false := by rw [← Bool.not_eq_true, pairFar_iff]; exact not_not_intro hnear
        have huses : pairBanks dk (some (sl, sk)) = [keyBank dk] := by simp only [pairBanks, hin, Bool.false_eq_true, if_false]
        have hmoves := pairMove_free (stack := stack) (pch := pch)
          (by rw [huses]; exact List.forall_mem_singleton.mpr hbank) hfree hmove
        rw [huses, hin] at hmoves
        exact congrArg Outcome.next hmoves
      case far =>
        have hout : pairFar dk (some (sl, sk)) = true := (pairFar_iff ..).mpr hfar
        have huses : pairBanks dk (some (sl, sk)) = [keyBank dk, keyBank sk] := by simp only [pairBanks, hout, if_true]
        have hmoves := pairMove_free (stack := stack) (pch := pch)
          (by rw [huses]; exact List.forall_mem_cons.mpr ⟨hbank, List.forall_mem_singleton.mpr hother⟩) hfree hmove
        rw [huses, hout] at hmoves
        exact congrArg Outcome.next hmoves

end Sys2Proof.Machine
end

section
/-! SUPPORT. Copies as they issue (R175, R176, R366, R367; log entry 32): CPY and CPYFILL case by case, then O34. -/

namespace Sys2Proof.Machine

open Host

/-- CPY or CPYFILL: the instruction whose copies have no source, or have one. -/
def copyInstr (h : Hdr) (ui fill : Bool) (pk : BitVec 3) (a : Reg) : Instr := if fill = true then .cpyfill h ui pk a else .cpy h ui pk a

theorem exec_copyInstr (h : Hdr) (ui fill : Bool) (pk : BitVec 3) (a : Reg) (s : State) :
    exec (copyInstr h ui fill pk a) s = copyIssue h ui fill pk a s := by
  cases fill with
  | false => rfl
  | true => rfl

/-- What a copy instruction names: v pairs of every lane, or one s register (R366). SET counts later, once for each record. -/
def CopyInfo (h : Hdr) (a : Reg) (i : Info) : Prop :=
  (∃ n, a = .v n ∧ i = { h := { h with set := 15 }, a := some (.v n, true), mem := true }) ∨
    ∃ n, a = .s n ∧ i = { h := { h with set := 15 }, once := true, mem := true }

/-- What becomes of the records `xs` that an issue has read: they trap, wait for a sub-block or for room in the flag of SET, or join the
queue of the copy engine (R175, R176, R367). -/
def recordsNext (h : Hdr) (pk : BitVec 3) (e : Env) (pre t : State) (xs : List (DWord × LaneMask × RecRead × Copy)) : State :=
  match copyBad t e.core xs with
  | some (code, lanes, addr, aux) => if code = 0x02 then trapReserved pre lanes else trapAt pre code lanes addr aux
  | none =>
    if (xs.any fun y => y.2.2.1 == .held) = true then pre
    else if (decide (h.set.toNat < 12) && decide (255 < flagOf e.grp h.set.toNat + (copyGood xs).length)) = true then pre
    else (copyGood xs).foldl (fun v k => queueCopy v e.core k)
      (modGroup (clearRes t e.g pk.toNat (copyLost xs)) e.g fun y => countSet y h.set (copyGood xs).length)

section
variable {s : State} {c : Cur} {x : Group} {h : Hdr} {i : Info} {ui fill : Bool} {pk : BitVec 3} {a : Reg} {e : Env} {post pre u t : State}
  {xs : List (DWord × LaneMask × RecRead × Copy)}

/-- CPY and CPYFILL whose older stores have drained act on the records that they read (R367). -/
theorem exec_copyInstr_goes (hform : CopyInfo h a i) (hg : Goes s c x i (nextWord i) e post) (hact : e.act ≠ 0)
    (hpre : pre = { s with free := s.free + 1 }) (hu : u = drainAll post c.g) (hdrained : drained u c.g = true)
    (hrecs : copyRecs e fill ui (sigOf x.uid h.set) (recNames e a) u = (xs, t)) :
    exec (copyInstr h ui fill pk a) s = .next (recordsNext h pk e pre t xs) := by
  obtain ⟨hslot, -, huid, -⟩ := env_facts hg
  rw [← hslot] at hu hdrained
  rw [exec_copyInstr]
  obtain ⟨n, rfl, rfl⟩ | ⟨n, rfl, rfl⟩ := hform
  · rw [copyIssue, goes_once hg hact hpre, afterDrain_drained hu hdrained, huid, hrecs]
    rfl
  · rw [copyIssue, goes_once hg hact hpre, afterDrain_drained hu hdrained, huid, hrecs]
    rfl

end

/-- RESERVED_FIELD of the stream under way (R250). -/
theorem trapReserved_goes {s pre : State} {c : Cur} {x : Group} {i : Info} {dsts : Env → List Dest} {e : Env} {post : State}
    (hg : Goes s c x i dsts e post) (hpre : pre = { s with free := s.free + 1 }) (lanes : LaneMask) :
    trapReserved pre lanes = takeTrap pre c.g { code := 0x02, lanes := lanes, aux := c.word.extractLsb' 32 64 } c.pc := by
  have hcur : pre.cur = some c := by rw [hpre]; exact hg.may.cur
  simp only [trapReserved, hcur, trapAt_eq hg hpre]

/-- Settles O34: the records trap, wait or join the queue. -/
theorem copyIssues : Obligations.CopyIssues := by
  unfold Obligations.CopyIssues
  intro s c x h i ui fill pk a e post pre u t xs hform hg hact hpre hu hdrained hrecs
  have hexec : exec (copyInstr h ui fill pk a) s = .next (recordsNext h pk e pre t xs) := exec_copyInstr_goes hform hg hact hpre hu hdrained hrecs
  obtain ⟨hslot, -⟩ := env_facts hg
  rw [← copyInstr, hexec, recordsNext]
  refine ⟨fun code lanes addr aux hbad => ?traps, fun hgood ⟨y, hy, hheld⟩ => ?waits, fun hgood hfree hroom => ?joins⟩
  case traps =>
    simp only [hbad, trapReserved_goes hg hpre, trapAt_eq hg hpre]
    split
    · rfl
    · rfl
  case waits =>
    have hany : (xs.any fun y => y.2.2.1 == .held) = true := List.any_eq_true.mpr ⟨y, hy, by rw [hheld]; rfl⟩
    simp only [hgood, hany, if_true]
  case joins =>
    have hany : (xs.any fun y => y.2.2.1 == .held) = false := List.any_eq_false.mpr fun y hy => by simpa only [beq_iff_eq] using hfree y hy
    have hcounts : (decide (h.set.toNat < 12) && decide (255 < flagOf e.grp h.set.toNat + (copyGood xs).length)) = false := by
      rw [Bool.and_eq_false_iff, decide_eq_false_iff_not, decide_eq_false_iff_not]
      omega
    simp only [hgood, hany, hcounts, Bool.false_eq_true, if_false, hslot]
    rfl

end Sys2Proof.Machine
end

section
/-! SUPPORT. How sub-blocks land, travel and return (R174 to R178) and how consort entries complete and fill (R181, R182, R364, R365), case by
case, then O31. -/

namespace Sys2Proof.Machine

open Host

/-! ### A departed sub-block lands (R174 to R176) -/

/-- Sub-block `b` run as far as it goes where `w` is the machine, and put back. -/
def landAt (w : State) (b : Sub) : State := putSub (subGo 10 { s := w, b := b }).s (subGo 10 { s := w, b := b }).b

/-- What the replica of its flask holds of the line of a sub-block. -/
def replicaOf (s : State) (b : Sub) : Option (BitVec 1024) := (mget? (flaskAt s (coreFlask b.core)).replicas b.line).map (·.data)

/-- The flask of a sub-block holds a valid replica of its line, away from the home (R174). -/
def replicaHeld (s : State) (b : Sub) : Bool :=
  homeFlask (128 * b.line) != coreFlask b.core &&
    ((mget (flaskAt s (homeFlask (128 * b.line))).dir (granuleOf (128 * b.line)) {}).rep ||
      (mget (flaskAt s (homeFlask (128 * b.line))).dir (granuleOf (128 * b.line)) {}).sharers.getLsbD (coreFlask b.core)) &&
    (replicaOf s b).isSome

/-- The anchor load of a sub-block is weak. -/
def anchorWeak (b : Sub) : Bool :=
  match (b.words[b.anchor]?).bind sinkMem with
  | some m => !m.strong
  | none => false

/-- A sub-block at level 1, on the replica of its flask. -/
def onReplica (s : State) (b : Sub) : Sub := { b with level := 1, snap := replicaOf s b }

/-- The line of a departed sub-block at its home, with the dirty bytes that it brings where the line is still usable (R174, R176). -/
def broughtHome (s : State) (b : Sub) : State :=
  remoteCount (if leafUsable s b.leaf (128 * b.line) = true then homeWrite s (coreFlask b.core) b.core (leafKeyid b.leaf) b.line none b.carried
    else s) (coreFlask b.core) (128 * b.line)

section
variable {s : State} {id : Nat} {b : Sub} (hfound : s.subs.find? (fun q => q.id == id) = some b) (hdeparted : b.level = 8)
include hfound hdeparted

/-- It waits while its line is kept at home, or an earlier sub-block of its core is out on it (R175, R176). -/
theorem exec_subBlockLand_waits (hkept : locked s b.line = true ∨ ∃ q, q ∈ s.subs ∧ q.core = b.core ∧ q.line = b.line ∧ q.id < b.id) :
    exec (.subBlockLand id) s = .next s := by
  have hblocked : (b.level != 8 || locked s b.line || s.subs.any fun q => q.core == b.core && q.line == b.line && decide (q.id < b.id)) = true := by
    rw [hdeparted, bne_self_eq_false, Bool.false_or]
    simpa only [Bool.or_eq_true, List.any_eq_true, Bool.and_eq_true, beq_iff_eq, decide_eq_true_eq, and_assoc] using hkept
  rw [exec_subBlockLand, execSubBlockLand, hfound]
  simp only [hblocked, if_true]

variable (hfree : locked s b.line = false) (hfirst : ∀ q, q ∈ s.subs → q.core = b.core → q.line = b.line → b.id ≤ q.id)
include hfree hfirst

/-- Otherwise it lands: on the replica where it is weak, brings nothing and would write nothing of the line, else at its home (R174). -/
theorem exec_subBlockLand_goes : exec (.subBlockLand id) s = .next (
    if (replicaHeld s b && anchorWeak b && b.carried.isEmpty && !(subDry 200 (subGo 10 { s := s, b := onReplica s b })).wrote) = true then
      landAt s (onReplica s b)
    else landAt (broughtHome s b) { b with level := homeLevel s b.line }) := by
  have hclear : (b.level != 8 || locked s b.line || s.subs.any fun q => q.core == b.core && q.line == b.line && decide (q.id < b.id)) = false := by
    rw [hdeparted, hfree, bne_self_eq_false, Bool.false_or, Bool.false_or, List.any_eq_false]
    intro q hq hearlier
    simp only [Bool.and_eq_true, beq_iff_eq, decide_eq_true_eq] at hearlier
    obtain ⟨⟨hcore, hline⟩, hid⟩ := hearlier
    exact Nat.not_le_of_lt hid (hfirst q hq hcore hline)
  rw [exec_subBlockLand, execSubBlockLand, hfound]
  simp only [hclear, Bool.false_eq_true, if_false]
  rw [apply_ite Outcome.next]
  rfl

end

/-! ### Follow accesses and the return (R175 to R178) -/

theorem exec_followAccess_next {s : State} {id : Nat} {b : Sub} (hfound : s.subs.find? (fun q => q.id == id && !q.sent.isEmpty) = some b) :
    exec (.followAccess id) s = .next (if (subTrip { s := s, b := b }).shadow = true then s
      else putSub (subTrip { s := s, b := b }).s (subTrip { s := s, b := b }).b) := by
  rw [exec_followAccess, execFollowAccess, hfound]

theorem exec_subBlockReturn_next {s u : State} {id : Nat} {b : Sub} {k k' : Block}
    (hfound : s.subs.find? (fun q => q.id == id && q.done) = some b) (hblock : s.blocks.find? (fun k => k.id == b.blk) = some k)
    (hk' : k' = { blockTake k b with left := k.left - 1 })
    (hu : u = { s with subs := s.subs.filter (fun q => q.id != id), blocks := updFirst (fun q => q.id == k'.id) (fun _ => k') s.blocks }) :
    exec (.subBlockReturn id) s = .next (if k.left ≤ 1 then blockDone u k' else u) := by
  have hlast : k.left - 1 = 0 ↔ k.left ≤ 1 := Nat.sub_eq_zero_iff_le
  rw [exec_subBlockReturn, execSubBlockReturn, hfound]
  subst hk' hu
  simp only [hblock, hlast]

/-! ### Consort entries (R181, R182, R364, R365) -/

/-- The timer of a held entry that is not complete (R181; log entry 27). -/
theorem exec_consortTimer_next {s : State} {id : Nat} {q : Entry} {k : Consort} (hfound : s.entries.find? (fun y => y.id == id) = some q)
    (hconsort : findConsort s (q.grid, q.cluster) q.c = some k) (hheld : q.held = true) (hopen : q.comp = false) (htimer : k.timer ≠ 0) :
    exec (.consortTimer id) s = .next (
      if q.took + k.timer ≤ flaskDrone s (q.lead / 16) then settleEntries (completeEntry s q true) else s) := by
  have hdue : entryDue s q = decide (q.took + k.timer ≤ flaskDrone s (q.lead / 16)) := by
    rw [entryDue, hheld, hconsort, Bool.true_and]
    simp only [bne_iff_ne.mpr htimer, Bool.true_and]
  rw [exec_consortTimer, execConsortTimer, hfound]
  simp only [hopen, hdue, Bool.not_false, Bool.true_and, decide_eq_true_eq]

/-- A fill of the scratchpad, from lines that are sound and in range, reaches its requester (R182, R364, R365). -/
theorem exec_consortFillDone_next {s : State} {id team : Nat} {q : Entry} {f : Fill}
    (hfound : s.entries.find? (fun y => y.id == id && y.fills.any fun f => f.req.team == team) = some q)
    (hfill : q.fills.find? (fun f => f.req.team == team) = some f) (hspad : f.req.ob = false) (hsound : f.poison = none) (hrange : f.range = none) :
    exec (.consortFillDone id team) s = .next (settleEntries (modEntry (complete (modUid
      (let v := spadStore s f.req.team f.req.off f.bytes
       if latestCld v f.req q.c = true then putCstat v f.req.team q.c (BitVec.ofNat 64 (f.status + 1)) else v) f.req.uid
      fun y => { y with cldOut := y.cldOut - 1 }) f.req.uid f.req.sig f.req.ui (BitVec.ofNat 64 f.req.tag)) id
      fun y => { y with fills := y.fills.filter fun z => z.req.team != team })) := by
  rw [exec_consortFillDone, execConsortFillDone, hfound]
  simp only [hfill, hspad, hsound, hrange, Bool.false_eq_true, if_false]

/-- Settles O31: a departed sub-block waits, lands at its home or on a replica; each other event is the case of what it finds. -/
theorem sinkAndConsortEvents : Obligations.SinkAndConsortEvents := by
  unfold Obligations.SinkAndConsortEvents
  refine ⟨fun s id b => ⟨fun hfound hdeparted _ => ⟨fun hkept => exec_subBlockLand_waits hfound hdeparted hkept,
    fun hfree hfirst haway husable => ?home, fun d m near hfree hfirst haway hempty hreplica hvalid hanchor hweak hnear hdry => ?replica⟩,
    fun hfound => ⟨_, rfl, exec_followAccess_next hfound⟩,
    fun k hfound hblock => ⟨_, _, rfl, rfl, exec_subBlockReturn_next hfound hblock rfl rfl⟩⟩,
    fun s id team q k => ⟨fun hfound hconsort hheld hopen htimer => ?timer,
      fun f hfound hfill hspad hsound hrange => exec_consortFillDone_next hfound hfill hspad hsound hrange⟩⟩
  case home =>
    have hno : (replicaHeld s b && anchorWeak b && b.carried.isEmpty && !(subDry 200 (subGo 10 { s := s, b := onReplica s b })).wrote) = false := by
      rcases haway with hbrings | hhome
      · rw [List.isEmpty_eq_false_iff.mpr hbrings, Bool.and_false, Bool.false_and]
      · rw [replicaHeld, hhome, bne_self_eq_false]
        simp only [Bool.false_and]
    refine ⟨_, rfl, ?_⟩
    rw [exec_subBlockLand_goes hfound hdeparted hfree hfirst, hno, if_neg Bool.false_ne_true, landAt, broughtHome, if_pos husable]
    rfl
  case replica =>
    have hlands : onReplica s b = { b with level := 1, snap := some d } := by rw [onReplica, replicaOf, hreplica]
    have hheld : replicaHeld s b = true := by
      rw [replicaHeld, replicaOf, hreplica, bne_iff_ne.mpr haway, Bool.true_and, Option.isSome_some, Bool.and_true, Bool.or_eq_true]
      exact hvalid
    have hyes : (replicaHeld s b && anchorWeak b && b.carried.isEmpty && !(subDry 200 (subGo 10 { s := s, b := onReplica s b })).wrote) = true := by
      rw [hheld, hlands, ← hnear, hdry, hempty, anchorWeak, hanchor]
      simp only [hweak]
      rfl
    rw [exec_subBlockLand_goes hfound hdeparted hfree hfirst, hyes, if_pos rfl, landAt, hlands, ← hnear]
    rfl
  case timer =>
    rw [exec_consortTimer_next hfound hconsort hheld hopen htimer]
    exact ⟨fun hpast => by rw [if_pos hpast], fun hearly => by rw [if_neg (Nat.not_le.mpr hearly)]⟩

end Sys2Proof.Machine
end

section
/-! SUPPORT. SINK as it issues (R172, R174 to R177, R361; log entry 26): the words of its block, then its registers and its anchor load, then
O30. -/

namespace Sys2Proof.Machine

open Host

/-- The lanes of a SINK as its anchor load sees them: the words before it have run (R174). -/
def anchorSub (e : Env) (is : List Instr) (k0 : Nat) : Sub :=
  (is.take k0).foldl subAlu (newSub e is k0 0 e.act ⟨0, 0, 0, 0⟩ (snapshot e))

section
variable {s : State} {c : Cur} {x : Group} {h : Hdr} {n : BitVec 4} {e : Env} {post pre : State}
  (hg : Goes s c x { h := h, mem := true } (fun e => [(e.pc + 1 + n.setWidth 32, .run, e.lanes)]) e post) (hpre : pre = { s with free := s.free + 1 })
include hg hpre

/-- A SINK acts lane by lane, wherever it issues (R265, R361). -/
theorem sink_gate (act : Env → State → State → State) :
    gateTo { h := h, mem := true } s (fun e => [(e.pc + 1 + n.setWidth 32, .run, e.lanes)]) act = .next (act e pre post) := by
  rw [goesTo_gate hg, hpre]
  rfl

/-- The first word that fails its fetch or its checks traps at the SINK (R361). -/
theorem exec_sink_bad {k code : Nat} {addr aux : DWord} (hwords : sinkWords pre e (nextPc e.pc h.sp) n.toNat 0 0 = .error (.trap k code addr aux)) :
    exec (.sink h n) s = .next (takeTrap pre c.g { code := code, lanes := e.act, addr := addr, aux := aux, word := k } c.pc) := by
  obtain ⟨hslot, -, -, -, -, hpc, -⟩ := env_facts hg
  rw [exec_sink, execSink, sink_gate hg hpre]
  simp only [hwords]
  rw [trapSink, hslot, hpc]

/-- A fetch that waits keeps the SINK waiting (R361). -/
theorem exec_sink_waits (hwords : sinkWords pre e (nextPc e.pc h.sp) n.toNat 0 0 = .error .wait) : exec (.sink h n) s = .next pre := by
  rw [exec_sink, execSink, sink_gate hg hpre]
  simp only [hwords]

/-- A SINK whose words, registers and anchor load pass: it is refused for SP or for a predicate without a flag, or forms its sub-blocks,
after its release where a word asks for one (R174 to R177, R191, R361). -/
theorem exec_sink_goes {is : List Instr} {k0 : Nat} {m : SinkMem} {b0 : Sub} {accs : List LaneAcc} {u t : State}
    (hwords : sinkWords pre e (nextPc e.pc h.sp) n.toNat 0 0 = .ok is) (hregs : sinkRegs e.grp (blockUse is).1 (blockUse is).2.1 = .go)
    (hu : u = drainAll post c.g) (hdrained : drained u c.g = true) (hk0 : k0 = is.findIdx (fun i => (sinkMem i).isSome))
    (hanchor : (is[k0]?).bind sinkMem = some m) (hb0 : b0 = anchorSub e is k0)
    (hchecked : checkGlobal u e .read m.strong m.goesHome m.t.size (lanesOf (subAct b0 m.h)) (subEa b0 m) = (.ok accs, t)) :
    exec (.sink h n) s = .next (
      if h.sp = true ∨ ((blockUse is).2.2 ≠ [] ∧ 12 ≤ h.set.toNat) then trapReserved pre e.act
      else match scopeOf is (·.rel) with
        | some sc => afterRelease e pre t sc fun v =>
          (sinkRun e h is k0 (snapshot e) (dedup ((blockUse is).2.1.map (·.1))) (blockUse is).2.2 accs v).getD pre
        | none => (sinkRun e h is k0 (snapshot e) (dedup ((blockUse is).2.1.map (·.1))) (blockUse is).2.2 accs t).getD pre) := by
  obtain ⟨hslot, -⟩ := env_facts hg
  rw [← hslot] at hu hdrained
  rw [hb0, anchorSub] at hchecked
  have hrefused : (h.sp || (!(blockUse is).2.2.isEmpty && decide (12 ≤ h.set.toNat))) = true ↔
      h.sp = true ∨ ((blockUse is).2.2 ≠ [] ∧ 12 ≤ h.set.toNat) := by
    simp only [Bool.or_eq_true, Bool.and_eq_true, Bool.not_eq_true', List.isEmpty_eq_false_iff, decide_eq_true_eq, ne_eq]
  rw [exec_sink, execSink, sink_gate hg hpre]
  simp only [hwords, hregs]
  rw [afterDrain_drained hu hdrained]
  cases scopeOf is (·.rel) <;> simp only [← hk0, hanchor, hchecked, hrefused]

end

/-- Settles O30: the words of the block stop the SINK or let it on to its registers and its anchor load. -/
theorem sinkIssues : Obligations.SinkIssues := by
  unfold Obligations.SinkIssues
  intro s c x h n e post pre u hg hpre
  refine ⟨fun k code addr aux hwords => exec_sink_bad hg hpre hwords, fun hwords => exec_sink_waits hg hpre hwords,
    fun is k0 m b0 accs t hwords hregs hu hdrained hk0 hanchor hb0 hchecked => ?passes⟩
  case passes =>
    rw [exec_sink_goes hg hpre hwords hregs hu hdrained hk0 hanchor hb0 hchecked]
    refine ⟨fun hrefused => by rw [if_pos hrefused], fun hsp hflag hscope => ?runs⟩
    have hgood : ¬ (h.sp = true ∨ ((blockUse is).2.2 ≠ [] ∧ 12 ≤ h.set.toNat)) := by
      rintro (hset | ⟨hwrites, hnone⟩)
      · exact Bool.false_ne_true (hsp.symm.trans hset)
      · exact Nat.not_lt_of_le hnone (hflag.resolve_left hwrites)
    rw [if_neg hgood, hscope]

end Sys2Proof.Machine
end

section
/-! SUPPORT. How a stop is finished (R197, R246, R247; log entry 18): what keeps the group in its slot, and what parks it, then O22. -/

namespace Sys2Proof.Machine

open Host

section
variable {s u v : State} {g : Nat} {x y : Group} {st : Stop} {ok : Bool} (hx : groupAt s g = some x) (hstop : x.stop = some st)
  (hu : u = settleFixed (stopStreams (dropReplies (endBurst s g) g) g) x.uid) (hrel : release u g .dev = (ok, v))
  (hy : groupAt v g = some y)
include hx hstop hu hrel hy

/-- While its release is not complete or something keeps it from being saved, the group stays in its slot (R246). -/
theorem finishStop_waits (hwait : ok = false ∨ saveReady v y (st.flags / 2 % 2 == 1) = false) : finishStop s g = v := by
  have hkept : (!ok || !saveReady v y (st.flags / 2 % 2 == 1)) = true := by
    simpa only [Bool.or_eq_true, Bool.not_eq_true'] using hwait
  simp only [finishStop, hx, hstop, ← hu, hrel, hy]
  exact if_pos hkept

section
variable {w : State} {b : Bool} (hok : ok = true) (hready : saveReady v y (st.flags / 2 % 2 == 1) = true)
  (himage : writeImage v g { y with recents := [] } st (st.flags / 2 % 2 == 1) = (some b, w))
include hok hready himage

/-- With its image written and its record in the trap queue of its context, the group is parked (R247). -/
theorem finishStop_parks {z : State} (hqueue : queuePut w (4 + y.ctx)
      (recordBytes v g { y with recents := [] } { st with flags := st.flags + if b then 1 else 0 }) = some z) :
    finishStop s g = parkAs z g { y with recents := [] } b st none (st.flags / 2 % 2 == 1) := by
  simp only [finishStop, hx, hstop, ← hu, hrel, hy, hok, hready, himage, hqueue, Bool.not_true, Bool.or_self, Bool.false_eq_true,
    if_false]

/-- Where the trap queue has no room, the group stays in its slot and its image is not kept (R72, R247). -/
theorem finishStop_full (hqueue : queuePut w (4 + y.ctx)
      (recordBytes v g { y with recents := [] } { st with flags := st.flags + if b then 1 else 0 }) = none) :
    finishStop s g = v := by
  simp only [finishStop, hx, hstop, ← hu, hrel, hy, hok, hready, himage, hqueue, Bool.not_true, Bool.or_self, Bool.false_eq_true,
    if_false]

end

end

/-- Settles O22: the group waits in its slot, or its image is written and its record finds room in the trap queue or not. -/
theorem stopSavesGroup : Obligations.StopSavesGroup := by
  unfold Obligations.StopSavesGroup
  intro s u v g x y st ok hx hstop hu hrel hy
  exact ⟨finishStop_waits hx hstop hu hrel hy,
    fun _ _ _ hok hready himage hqueue => finishStop_parks hx hstop hu hrel hy hok hready himage hqueue,
    fun _ _ hok hready himage hqueue => finishStop_full hx hstop hu hrel hy hok hready himage hqueue⟩

end Sys2Proof.Machine
end

section
/-! SUPPORT. FENCE as it issues, and how a fence under way goes on (R191, R192, R360; log entry 52): its release, what its acquire waits for,
its end, then O32. -/

namespace Sys2Proof.Machine

open Host

/-- What a FENCE leaves to be done in its group: the parts that its order asks for, the loads and sink blocks before it, its flag (R360). -/
def fenceAsked (h : Hdr) (o : Ord) (sc : Scope) (uid : Nat) (post : State) : FenceS :=
  { rel := if Ord.rel o then some sc else none, acq := if Ord.acq o then some sc else none, sig := sigOf uid h.set,
    waits := ((post.results.filter fun r => r.uid == uid && r.load).map (·.id)) ++
      (post.blocks.filter fun b => b.uid == uid).map (·.id) }

/-- The release of a fence, where one is due (R191). -/
def fenceRelease (u : State) (g : Nat) (f : FenceS) : Bool × State :=
  match f.rel with
  | some sc => release u g sc
  | none => (true, u)

/-- The acquire of a fence, where it has one (R192). -/
def fenceAcquire (v : State) (g : Nat) (f : FenceS) : State :=
  match f.acq with
  | some sc => acquire v (slotCore g) sc
  | none => v

/-- A load or sink block before the fence has not returned. Log entry 52. -/
def fenceOut (v : State) (f : FenceS) : Bool :=
  f.waits.any fun id => v.results.any (·.id == id) || v.blocks.any (·.id == id)

/-- A fence whose release is complete: its acquire waits for what is outstanding, or it ends (R360). -/
def fenceReleased (v : State) (g : Nat) (f : FenceS) : State :=
  if (f.acq.isSome && fenceOut v f) = true then modGroup v g fun q => { q with fence := some { f with rel := none } }
  else fall (modGroup (fenceAcquire v g f) g fun q => { q with fence := none }) f.sig

theorem fenceOut_iff (v : State) (f : FenceS) : fenceOut v f = true ↔
    ∃ id, id ∈ f.waits ∧ ((∃ r, r ∈ v.results ∧ r.id = id) ∨ ∃ b, b ∈ v.blocks ∧ b.id = id) := by
  simp only [fenceOut, List.any_eq_true, Bool.or_eq_true, beq_iff_eq]

theorem fenceOut_false_iff (v : State) (f : FenceS) : fenceOut v f = false ↔
    ∀ id, id ∈ f.waits → (∀ r, r ∈ v.results → r.id ≠ id) ∧ ∀ b, b ∈ v.blocks → b.id ≠ id := by
  rw [← Bool.not_eq_true, fenceOut_iff]
  simp only [not_exists, not_and, not_or, ne_eq]

/-- With a load or sink block outstanding, the acquire waits and the release is not due again (R360). -/
theorem fenceReleased_waits {v : State} {f : FenceS} (g : Nat) (hacq : f.acq ≠ none) (hout : fenceOut v f = true) :
    fenceReleased v g f = modGroup v g fun q => { q with fence := some { f with rel := none } } := by
  have hdue : (f.acq.isSome && fenceOut v f) = true := by rw [Option.isSome_iff_ne_none.mpr hacq, hout]; rfl
  rw [fenceReleased, if_pos hdue]

/-- With no acquire, or nothing outstanding, the fence ends and its flag falls (R360). -/
theorem fenceReleased_ends {v : State} {f : FenceS} (g : Nat) (hready : f.acq = none ∨ fenceOut v f = false) :
    fenceReleased v g f = fall (modGroup (fenceAcquire v g f) g fun q => { q with fence := none }) f.sig := by
  have hfree : ¬ (f.acq.isSome && fenceOut v f) = true := by
    rw [Bool.not_eq_true, Bool.and_eq_false_iff, Option.isSome_eq_false_iff, Option.isNone_iff_eq_none]
    exact hready
  rw [fenceReleased, if_neg hfree]

/-- One step of a fence under way: its release comes first (R360). -/
theorem fenceStep_eq {u : State} {g : Nat} {z : Group} {f : FenceS} (hz : groupAt u g = some z) (hf : z.fence = some f) :
    fenceStep u g = if (!(fenceRelease u g f).1) = true then (fenceRelease u g f).2 else fenceReleased (fenceRelease u g f).2 g f := by
  simp only [fenceStep, hz, hf]
  rfl

/-- A release is complete where none is due, or where the one that is due is (R191). -/
theorem fenceRelease_complete {u : State} {g : Nat} {f : FenceS} (h : ∀ sc, f.rel = some sc → (release u g sc).1 = true) :
    (fenceRelease u g f).1 = true := by
  cases hrel : f.rel with
  | none => simp only [fenceRelease, hrel]
  | some sc => simpa only [fenceRelease, hrel] using h sc hrel

/-- FENCE issues at once, with the fence under way in its group (R360). -/
theorem exec_fence_goes {s : State} {c : Cur} {x y : Group} {h : Hdr} {o : Ord} {sc : Scope} {e : Env} {post : State}
    (hg : Goes s c x { h := h, once := true, mem := true } (nextWord { h := h }) e post) (hact : e.act ≠ 0)
    (hy : groupAt post c.g = some y) : exec (.fence h o sc) s =
      .next (fenceStep (setGroup post c.g { y with fence := some (fenceAsked h o sc x.uid post) }) c.g) := by
  obtain ⟨hslot, -, huid, -⟩ := env_facts hg
  rw [exec_fence, execFence, goes_once hg hact rfl, hslot, huid]
  simp only [modGroup_eq hy]
  rfl

/-- Settles O32: FENCE starts a fence, and a step of the fence is the case of its release and of what is outstanding. -/
theorem fenceResults : Obligations.FenceResults := by
  unfold Obligations.FenceResults
  intro s c x y h o sc e post f
  refine ⟨?issues, fun u v z g hz hf hv => ?goesOn⟩
  case issues =>
    rintro hg hact hy rfl
    exact exec_fence_goes hg hact hy
  case goesOn =>
    have hreleased : v = (fenceRelease u g f).2 := by
      rw [hv, fenceRelease]
      cases f.rel <;> rfl
    rw [fenceStep_eq hz hf, ← hreleased]
    refine ⟨fun ⟨sc, hrel, hopen⟩ => ?releasing, fun hcomplete => ?released⟩
    case releasing =>
      have hdue : (fenceRelease u g f).1 = false := by simpa only [fenceRelease, hrel] using hopen
      rw [hdue, Bool.not_false, if_pos rfl]
    case released =>
      rw [fenceRelease_complete hcomplete, Bool.not_true, if_neg Bool.false_ne_true]
      exact ⟨fun ⟨hacq, hout⟩ => fenceReleased_waits g hacq ((fenceOut_iff v f).mpr hout),
        fun hready => fenceReleased_ends g (hready.imp_right (fenceOut_false_iff v f).mpr)⟩

end Sys2Proof.Machine
end

section
/-! SUPPORT. Operations of the matrix unit as they issue (R216 to R220, R223, R224, R250, R380, R382, R386 to R389, R391, R392; log entry 34): what
the queue of the unit asks of every operation, then SCPY, PTLD, ACCZ, ACCLD and ACCST, and O41, then MMA and O42. -/

namespace Sys2Proof.Machine

open Host

section
variable {s : State} {c : Cur} {x : Group} {h : Hdr} {mem : Bool} {e : Env} {post pre u : State}
  (hg : Goes s c x (engInfo h mem) (nextWord (engInfo h mem)) e post) (hact : e.act ≠ 0) (hpre : pre = { s with free := s.free + 1 })

include hg hpre in
/-- OB_RANGE of an operation names the elected lane and the slot (R250). -/
theorem trapOb_goes (slot : Nat) : trapOb pre e slot =
    takeTrap pre c.g { code := 0x12, lanes := e.elect, aux := BitVec.ofNat 64 slot } c.pc :=
  trapAt_eq hg hpre ..

include hg hact hpre

/-- An operation that does not need the baton traps where its team does not hold the unit (R382; log entry 34). -/
theorem mxIssue_elsewhere (k : Env → State → State → State) (hother : (mxAt post e.core).holder ≠ some x.team) :
    mxIssue h false s k mem = .next (takeTrap pre c.g { code := 0x12, lanes := e.elect } c.pc) := by
  obtain ⟨-, -, -, hteam, -⟩ := env_facts hg
  have hforeign : ((mxAt post e.core).holder != some e.grp.team) = true := bne_iff_ne.mpr (hteam ▸ hother)
  rw [mxIssue, goes_once hg hact hpre]
  simp only [Bool.false_and, Bool.false_eq_true, if_false, hforeign, if_true]
  rw [trapOb_goes hg hpre]
  rfl

variable (hheld : (mxAt post e.core).holder = some x.team) (hroom : (mxAt post e.core).ops.length < 8)
  (hu : u = drainAll post c.g) (hdrained : drained u c.g = true)
include hheld hroom hu hdrained

/-- An operation acts where its team holds the unit, its wave the baton if it needs it, the queue has room and older stores have drained
(R190, R224, R382). -/
theorem mxIssue_admits (k : Env → State → State → State) {baton : Bool} (hbaton : baton = true → hasBaton post e = true) :
    mxIssue h baton s k mem = .next (k e pre u) := by
  obtain ⟨hslot, -, -, hteam, -⟩ := env_facts hg
  have hready : (baton && !hasBaton post e) = false := by
    cases baton with
    | false => rfl
    | true => rw [hbaton rfl]; rfl
  rw [← hslot] at hu hdrained
  rw [mxIssue, goes_once hg hact hpre]
  simp only [hready, hheld, hteam, bne_self_eq_false, Bool.false_eq_true, if_false, Nat.not_le_of_lt hroom]
  rw [afterDrain_drained hu hdrained]

end

section
variable {s : State} {c : Cur} {x : Group} {h : Hdr} {e : Env} {post pre u : State}
  (hg : Goes s c x (engInfo h) (nextWord (engInfo h)) e post) (hact : e.act ≠ 0) (hpre : pre = { s with free := s.free + 1 })
  (hheld : (mxAt post e.core).holder = some x.team) (hroom : (mxAt post e.core).ops.length < 8)
  (hu : u = drainAll post c.g) (hdrained : drained u c.g = true)
include hg hact hpre hheld hroom hu hdrained

/-! ### Scales and tables (R386, R387) -/

/-- PTLD joins the queue. -/
theorem exec_ptld_goes (ui : Bool) (t : BitVec 3) (sa : BitVec 6) :
    exec (.ptld h ui t sa) s = .next (mxAccept u e h ui 0 (.ptld t.toNat (e.s sa.toNat))) := by
  rw [exec_ptld, execPtld, mxIssue_admits hg hact hpre hheld hroom hu hdrained _ Bool.false_ne_true.elim]

/-- SCPY of no rows or columns or of too many is refused, one that leaves the array of scales traps, and another joins the queue. -/
theorem exec_scpy_goes (ui : Bool) (sa sb : BitVec 6) {w : DWord} (hw : w = e.s sb.toNat) : exec (.scpy h ui sa sb) s = .next (
    if fld w 15 7 < 1 ∨ 64 < fld w 15 7 ∨ fld w 22 10 < 1 ∨ 512 < fld w 22 10 then trapReserved pre e.elect
    else if 64 < fld w 0 6 + fld w 15 7 ∨ 512 < fld w 6 9 + fld w 22 10 then
      takeTrap pre c.g { code := 0x12, lanes := e.elect } c.pc
    else mxAccept u e h ui 0
      (.scpy (e.s sa.toNat) (ofInt64 (sextNat 32 (fld w 32 32))) (fld w 22 10) (fld w 15 7) (fld w 6 9) (fld w 0 6))) := by
  rw [exec_scpy, execScpy, mxIssue_admits hg hact hpre hheld hroom hu hdrained _ Bool.false_ne_true.elim]
  simp only [← hw, Bool.or_eq_true, decide_eq_true_eq, or_assoc, trapField, trapOb_goes hg hpre]
  rfl

variable (hbaton : hasBaton post e = true)
include hbaton

/-! ### The accumulator (R391, R392) -/

/-- ACCZ of no rows is refused, one that leaves the accumulator traps, and another joins the queue. -/
theorem exec_accz_goes (a b : SImm) : exec (.accz h a b) s = .next (
    if (e.simm b).toNat = 0 then trapReserved pre e.elect
    else if 2048 < (e.simm a).toNat + (e.simm b).toNat then takeTrap pre c.g { code := 0x12, lanes := e.elect } c.pc
    else mxAccept u e h false 0 (.accz (e.simm a).toNat (e.simm b).toNat)) := by
  rw [exec_accz, execAccz, mxIssue_admits hg hact hpre hheld hroom hu hdrained _ fun _ => hbaton]
  simp only [trapField, trapOb_goes hg hpre]
  rfl

/-- ACCLD or ACCST with reserved bits or a row count out of range is refused, one that leaves the accumulator or its allocation of the
scratchpad traps, and another joins the queue. -/
theorem accMove_goes (ui : Bool) (es : Nat) (sa sb : BitVec 6) (k : Env → DWord → DWord → Bool → Nat → Nat → MxKind) {w stride : DWord}
    (hw : w = e.s sb.toNat) (hstride : stride = ofInt64 (sextNat 32 (fld w 32 32))) : accMove h ui es sa sb s k = .next (
    if fld w 24 8 ≠ 0 ∨ fld w 11 12 < 1 ∨ 2048 < fld w 11 12 then trapReserved pre e.elect
    else if 2048 < fld w 0 11 + fld w 11 12 then takeTrap pre c.g { code := 0x12, lanes := e.elect } c.pc
    else if bit w 23 = true ∧ spanIn (e.s sa.toNat) stride (32 * es) (fld w 11 12) (myTeam u e).scratch = false then
      takeTrap pre c.g { code := 0x18, lanes := e.elect } c.pc
    else mxAccept u e h ui 0 (k e (e.s sa.toNat) stride (bit w 23) (fld w 11 12) (fld w 0 11))) := by
  rw [accMove, mxIssue_admits hg hact hpre hheld hroom hu hdrained _ fun _ => hbaton]
  simp only [← hw, ← hstride, Bool.or_eq_true, Bool.and_eq_true, Bool.not_eq_true', bne_iff_ne, decide_eq_true_eq, or_assoc, trapField,
    trapOb_goes hg hpre, trapAt_eq hg hpre]
  rfl

end

/-- Settles O41: an operation of another team traps, and one that the unit admits is the case of its fields. -/
theorem matrixIssues : Obligations.MatrixIssues := by
  unfold Obligations.MatrixIssues
  intro s c x h e post pre u hg hact hpre
  refine ⟨fun hother ui sa sb t i hi => ?elsewhere, fun hheld hroom hu hdrained => ⟨fun ui t sa => ?ptld, fun ui sa sb w hw => ?scpy,
    fun hbaton => ⟨fun a b row n hrow hn => ?accz, fun i ui t r sa sb w a stride scr k size hw ha hstride hscr hi => ?move⟩⟩⟩
  case elsewhere =>
    rcases hi with rfl | rfl
    · rw [exec_scpy, execScpy, mxIssue_elsewhere hg hact hpre _ hother]
    · rw [exec_ptld, execPtld, mxIssue_elsewhere hg hact hpre _ hother]
  case ptld => exact exec_ptld_goes hg hact hpre hheld hroom hu hdrained ui t sa
  case scpy =>
    rw [exec_scpy_goes hg hact hpre hheld hroom hu hdrained ui sa sb hw]
    refine ⟨fun hbad => by rw [if_pos hbad], fun hrow1 hrows hcol1 hcols => ?_⟩
    rw [if_neg (by omega)]
    exact ⟨fun hleaves => by rw [if_pos hleaves], fun hr hc => by rw [if_neg (by omega)]⟩
  case accz =>
    rw [exec_accz_goes hg hact hpre hheld hroom hu hdrained hbaton, ← hrow, ← hn]
    exact ⟨fun hnone => by rw [if_pos hnone], fun hsome hleaves => by rw [if_neg hsome, if_pos hleaves],
      fun hsome hfits => by rw [if_neg hsome, if_neg (Nat.not_lt_of_le hfits)]⟩
  case move =>
    have hexec : ∃ kind : Env → DWord → DWord → Bool → Nat → Nat → MxKind,
        exec i s = accMove h ui size sa sb s kind ∧ kind e a stride scr (fld w 11 12) (fld w 0 11) = k := by
      rcases hi with ⟨rfl, rfl, rfl⟩ | ⟨rfl, rfl, rfl⟩
      · exact ⟨_, exec_accld .., rfl⟩
      · exact ⟨_, exec_accst .., rfl⟩
    obtain ⟨kind, hexec, hkind⟩ := hexec
    rw [hexec, accMove_goes hg hact hpre hheld hroom hu hdrained hbaton ui size sa sb kind hw hstride, ← ha, ← hscr, hkind]
    refine ⟨fun hbad => by rw [if_pos hbad], fun hclear hsome hmost => ?_⟩
    rw [if_neg (by omega)]
    refine ⟨fun hleaves => by rw [if_pos hleaves], fun hfits => ?_⟩
    rw [if_neg (Nat.not_lt_of_le hfits)]
    refine ⟨fun hscratch hout => by rw [if_pos ⟨hscratch, hout⟩], fun hin => ?_⟩
    have hinside : ¬ (scr = true ∧ spanIn a stride (32 * size) (fld w 11 12) (myTeam u e).scratch = false) := fun ⟨hscratch, hout⟩ =>
      hin.elim (fun hmemory => Bool.false_ne_true (hmemory.symm.trans hscratch)) fun hspan => Bool.false_ne_true (hout.symm.trans hspan)
    rw [if_neg hinside]

/-! ### MMA (R216 to R220, R223, R388, R389) -/

/-- The fields of an MMA's record that rest on nothing else keep the rules (R388). -/
def MmaFieldsOk (bs : List Byte) : Prop :=
  recNat bs 0xC 1 / 2 = 0 ∧ recNat bs 0xD 3 = 0 ∧ recNat bs 0x1A 38 = 0 ∧ (recNat bs 0 1 = 16 ∨ recNat bs 0 1 = 32) ∧ recNat bs 1 1 = 32 ∧
    32 ≤ recNat bs 2 2 ∧ recNat bs 2 2 ≤ 512 ∧ recNat bs 2 2 % 32 = 0 ∧ recNat bs 0xA 2 ≤ 511

/-- MMA refuses a record exactly where a field of it breaks a rule (R388). -/
theorem mmaFields_refused_iff (bs : List Byte) :
    (recNat bs 0xC 1 / 2 != 0 || recNat bs 0xD 3 != 0 || recNat bs 0x1A 38 != 0 || !(recNat bs 0 1 == 16 || recNat bs 0 1 == 32)
      || recNat bs 1 1 != 32 || decide (recNat bs 2 2 < 32) || decide (512 < recNat bs 2 2) || recNat bs 2 2 % 32 != 0
      || decide (511 < recNat bs 0xA 2)) = true ↔ ¬ MmaFieldsOk bs := by
  simp only [MmaFieldsOk, Bool.or_eq_true, Bool.not_eq_true', Bool.or_eq_false_iff, bne_iff_ne, beq_eq_false_iff_ne, decide_eq_true_eq]
  omega

/-- The A bytes, the scale columns of a scaled operand and the accumulator rows of an MMA lie in their storage: no check of them traps (R389). -/
theorem mmaRanges_kept {mx : Matrix} {aty : Ty} {r : DWord} {m k acc bscol : Nat} (hbytes : mmaBytesOk mx r aty m k = true)
    (hscales : aty = .b4 → fld r 37 9 + ceilDiv k (mmaBl r) ≤ 512 ∧ bscol + ceilDiv k (mmaBl r) ≤ 512) (hacc : acc + m ≤ 2048) :
    (!mmaBytesOk mx r aty m k || (aty == .b4 && (decide (511 < fld r 37 9 + ceilDiv k (mmaBl r) - 1) ||
        decide (511 < bscol + ceilDiv k (mmaBl r) - 1))) || decide (2048 < acc + m)) = false := by
  simp only [Bool.or_eq_false_iff, Bool.not_eq_false', Bool.and_eq_false_imp, beq_iff_eq, decide_eq_false_iff_not]
  refine ⟨⟨hbytes, fun hscaled => ?_⟩, Nat.not_lt_of_le hacc⟩
  obtain ⟨hcolsA, hcolsB⟩ := hscales hscaled
  omega

section
variable {s : State} {c : Cur} {x : Group} {h : Hdr} {sat ui : Bool} {sa : BitVec 6} {pk : BitVec 3} {e : Env} {post pre u v : State}
  {bs : List Byte} {r : DWord}
  (hg : Goes s c x (engInfo h true) (nextWord (engInfo h true)) e post) (hact : e.act ≠ 0) (hpre : pre = { s with free := s.free + 1 })
  (hheld : (mxAt post e.core).holder = some x.team) (hroom : (mxAt post e.core).ops.length < 8)
  (hu : u = drainAll post c.g) (hdrained : drained u c.g = true) (hbaton : hasBaton post e = true)
include hg hact hpre hheld hroom hu hdrained hbaton

/-- A record that cannot be read traps (R367). -/
theorem exec_mma_unreadable {code : Nat} {addr aux : DWord} (hread : readRec u e (e.s sa.toNat) 64 64 = (.bad code addr aux, v)) :
    exec (.mma h sat ui sa pk) s = .next (takeTrap pre c.g { code := code, lanes := e.elect, addr := addr, aux := aux } c.pc) := by
  rw [exec_mma, execMma, mxIssue_admits hg hact hpre hheld hroom hu hdrained _ fun _ => hbaton]
  simp only [hread, trapAt_eq hg hpre]

/-- An MMA whose record is not resident is complete at once (R388). -/
theorem exec_mma_nonresident (hread : readRec u e (e.s sa.toNat) 64 64 = (.nonres, v)) : exec (.mma h sat ui sa pk) s = .next (
    clearRes (modGroup v c.g fun y => if h.set.toNat < 12 then setFlag y h.set.toNat (flagOf y h.set.toNat - 1) else y)
      c.g pk.toNat (lanesOf e.act)) := by
  obtain ⟨hslot, -⟩ := env_facts hg
  rw [exec_mma, execMma, mxIssue_admits hg hact hpre hheld hroom hu hdrained _ fun _ => hbaton]
  simp only [hread, hslot]

variable (hread : readRec u e (e.s sa.toNat) 64 64 = (.ok bs, v))
include hread

/-- A record whose fields break the rules is refused (R388). -/
theorem exec_mma_refused (hbad : ¬ MmaFieldsOk bs) : exec (.mma h sat ui sa pk) s = .next (trapReserved pre e.elect) := by
  rw [exec_mma, execMma, mxIssue_admits hg hact hpre hheld hroom hu hdrained _ fun _ => hbaton]
  simp only [hread]
  rw [if_pos ((mmaFields_refused_iff bs).mpr hbad), trapField]

/-- An MMA whose slot is not live, or another wave's, traps (R216, R389). -/
theorem exec_mma_slotTraps (hok : MmaFieldsOk bs) (hslot : mget? (mxAt v e.core).recs (recNat bs 4 1) = none ∨
      ∃ r, mget? (mxAt v e.core).recs (recNat bs 4 1) = some r ∧ fld r 46 2 ≠ waveOf e.grp) :
    exec (.mma h sat ui sa pk) s =
      .next (takeTrap pre c.g { code := 0x12, lanes := e.elect, aux := BitVec.ofNat 64 (recNat bs 4 1) } c.pc) := by
  rw [exec_mma, execMma, mxIssue_admits hg hact hpre hheld hroom hu hdrained _ fun _ => hbaton]
  simp only [hread, trapOb_goes hg hpre]
  rw [if_neg fun hbad => (mmaFields_refused_iff bs).mp hbad hok]
  rcases hslot with hdead | ⟨r, hlive, hother⟩
  · simp only [hdead]
  · simp only [hlive, bne_iff_ne, if_pos hother]

/-- An MMA that keeps every rule lends its B registers of every group of its wave and joins the queue (R216 to R220, R223, R389). -/
theorem exec_mma_accepted {aty bty : Ty} (hok : MmaFieldsOk bs) (hlive : mget? (mxAt v e.core).recs (recNat bs 4 1) = some r)
    (hwave : fld r 46 2 = waveOf e.grp) (htable : tablePending (mxAt v e.core) r = false)
    (haty : Ty.ofCode (BitVec.ofNat 4 (recFmt r)) = some aty) (hcode : recNat bs 5 1 < 16)
    (hbty : Ty.ofCode (BitVec.ofNat 4 (recNat bs 5 1)) = some bty) (htypes : mmaTypes aty bty sat = true)
    (hbytes : mmaBytesOk (mxAt v e.core) r aty (recNat bs 0 1) (recNat bs 2 2) = true)
    (hscales : aty = .b4 → fld r 37 9 + ceilDiv (recNat bs 2 2) (mmaBl r) ≤ 512 ∧ recNat bs 0xA 2 + ceilDiv (recNat bs 2 2) (mmaBl r) ≤ 512)
    (hacc : recNat bs 8 2 + recNat bs 0 1 ≤ 2048)
    (hregs : recNat bs 6 2 + mmaNb bty (recNat bs 2 2) ≤ regCount e.grp) : exec (.mma h sat ui sa pk) s = .next (
    mxAccept (lendWave v x.team (waveOf e.grp) ((List.range (mmaNb bty (recNat bs 2 2))).map (· + recNat bs 6 2))) e h ui (recNat bs 0x18 2)
      (.mma (recNat bs 0 1) (recNat bs 2 2) (recNat bs 4 1) r bty (recNat bs 6 2) (recNat bs 8 2) (recNat bs 0xA 2)
        (recNat bs 0xC 1 % 2 == 1) sat (recD bs 0x10) (waveOf e.grp))) := by
  obtain ⟨-, -, -, hteam, -⟩ := env_facts hg
  rw [exec_mma, execMma, mxIssue_admits hg hact hpre hheld hroom hu hdrained _ fun _ => hbaton]
  simp only [hread]
  rw [if_neg fun hbad => (mmaFields_refused_iff bs).mp hbad hok]
  simp only [hlive, hwave, bne_self_eq_false, htable, Bool.false_eq_true, if_false, haty, if_pos hcode, hbty, htypes, Bool.not_true,
    mmaRanges_kept hbytes hscales hacc, if_neg (Nat.not_lt_of_le hregs), hteam]

end

/-- Settles O42: the record of an MMA cannot be read, is not resident, or is the case of what it says. -/
theorem mmaIssues : Obligations.MmaIssues := by
  unfold Obligations.MmaIssues
  intro s c x h sat ui sa pk e post pre u v hg hact hpre hheld hroom hu hdrained hbaton
  refine ⟨fun code a aux hread => exec_mma_unreadable hg hact hpre hheld hroom hu hdrained hbaton hread,
    fun hread => exec_mma_nonresident hg hact hpre hheld hroom hu hdrained hbaton hread, ?read⟩
  case read =>
    rintro bs f m k ah acc bscol vb legal hread rfl rfl rfl rfl rfl rfl rfl hlegal
    have hfields : legal ↔ MmaFieldsOk bs := hlegal
    refine ⟨fun hbad => ?refused, fun hok hslot => ?slotTraps,
      fun r aty bty hok hlive hwave htable haty hcode hbty htypes hbytes hscales hacc hregs => ?accepted⟩
    case refused => exact exec_mma_refused hg hact hpre hheld hroom hu hdrained hbaton hread (mt hfields.mpr hbad)
    case slotTraps => exact exec_mma_slotTraps hg hact hpre hheld hroom hu hdrained hbaton hread (hfields.mp hok) hslot
    case accepted =>
      exact exec_mma_accepted hg hact hpre hheld hroom hu hdrained hbaton hread (hfields.mp hok) hlive hwave htable haty hcode hbty htypes
        hbytes hscales hacc hregs

end Sys2Proof.Machine
end

section
/-! SUPPORT. Words as fields (R264), and the operands, codes and modifiers in them (R266, R269, R272, R274, R280): each decoder of a part
accepts exactly what the encoder writes for it. -/

namespace Sys2Proof

-- One theorem after the other: many of them wait for the same equations of the decoder, and each would hold a thread meanwhile.
set_option Elab.async false

/-! ### Bit fields and checks -/

theorem eq_append_iff (m n : Nat) {a : BitVec m} {b : BitVec n} {x : BitVec (m + n)} :
    x = a ++ b ↔ x.extractLsb' n m = a ∧ x.extractLsb' 0 n = b := by
  constructor
  · rintro rfl
    exact ⟨BitVec.extractLsb'_append_eq_left, BitVec.extractLsb'_append_eq_right⟩
  · rintro ⟨rfl, rfl⟩
    exact BitVec.extractLsb'_append_extractLsb'.symm

theorem slice_eq_append_iff {w : Nat} {x : BitVec w} (lo m n : Nat) {a : BitVec m} {b : BitVec n} :
    x.extractLsb' lo (m + n) = a ++ b ↔ x.extractLsb' (lo + n) m = a ∧ x.extractLsb' lo n = b := by
  have hslice : ∀ s k, s + k ≤ m + n → (x.extractLsb' lo (m + n)).extractLsb' s k = x.extractLsb' (lo + s) k := by
    intro s k hk
    ext i hi
    simp [show s + i < m + n by omega, Nat.add_assoc]
  rw [eq_append_iff m n, hslice n m (by omega), hslice 0 n (by omega), Nat.add_zero]

theorem eq_toWord_iff {w : IWord} {f : Fields} : w = f.toWord ↔ Fields.ofWord w = f := by
  obtain ⟨⟩ := f
  rw [Fields.toWord, eq_append_iff 92 4, slice_eq_append_iff 4 80 12, slice_eq_append_iff 16 76 4, slice_eq_append_iff 20 75 1,
    slice_eq_append_iff 21 72 3, slice_eq_append_iff 24 60 12, slice_eq_append_iff 36 50 10, slice_eq_append_iff 46 48 2,
    slice_eq_append_iff 48 46 2, slice_eq_append_iff 50 44 2, slice_eq_append_iff 52 34 10, slice_eq_append_iff 62 24 10,
    slice_eq_append_iff 72 14 10, slice_eq_append_iff 82 10 4]
  simp only [and_assoc, Fields.ofWord, Fields.mk.injEq]

theorem ite_ok_eq_iff {α : Type} {p : Prop} [Decidable p] {x : Dec α} {r : α} {e : DecodeError} :
    (if p then x else .error e) = .ok r ↔ p ∧ x = .ok r := by
  split <;> simp_all

theorem Dec.bind_eq_ok {α β : Type} {x : Dec α} {k : α → Dec β} {b : β} :
    (x >>= k) = .ok b ↔ ∃ a, x = .ok a ∧ k a = .ok b := by
  cases x <;> simp [bind, Except.bind]

@[simp] theorem Dec.ok_bind {α β : Type} (a : α) (k : α → Dec β) : ((.ok a : Dec α) >>= k) = k a := rfl

theorem need_eq_ok {b : Bool} {e : DecodeError} {u : Unit} : need b e = .ok u ↔ b = true := by
  cases b <;> simp [need]

@[simp] theorem get?_some {α : Type} (x : α) (e : DecodeError) : get? (some x) e = .ok x := rfl

@[simp] theorem need_true (e : DecodeError) : need true e = .ok () := rfl

theorem get?_eq_ok {α : Type} {x : Option α} {e : DecodeError} {a : α} : get? x e = .ok a ↔ x = some a := by
  cases x <;> simp [get?]

theorem toWord_ofWord (w : IWord) : (Fields.ofWord w).toWord = w := (eq_toWord_iff.mpr rfl).symm
theorem ofWord_toWord {f : Fields} : Fields.ofWord f.toWord = f := eq_toWord_iff.mp rfl

/-! ### Operand classes (R266) -/

/-- The four operand classes. -/
theorem forall_class {P : BitVec 2 → Prop} (h0 : P 0) (h1 : P 1) (h2 : P 2) (h3 : P 3) (c : BitVec 2) : P c := by
  obtain ⟨⟨c, hc⟩⟩ := c
  match c, hc with
  | 0, _ => exact h0
  | 1, _ => exact h1
  | 2, _ => exact h2
  | 3, _ => exact h3

section

variable {c : BitVec 2} {x : BitVec 10}

theorem eq_sField_iff {n : BitVec 6} : x = 0#4 ++ n ↔ x.extractLsb' 6 4 = 0#4 ∧ x.extractLsb' 0 6 = n := eq_append_iff 4 6

theorem eq_qField_iff {n : BitVec 2} : x = 0x80#8 ++ n ↔ x.extractLsb' 2 8 = 0x80#8 ∧ x.extractLsb' 0 2 = n := eq_append_iff 8 2

theorem dReg_eq_ok {r : Reg} : dReg c x = .ok r ↔ (c, x) = eReg r := by
  induction c using forall_class with
  | h0 => cases r <;> simp [dReg, eReg]
  | h1 => cases r <;> simp [dReg, eReg, ite_ok_eq_iff, eq_sField_iff]
  | h2 => cases r <;> simp [dReg, eReg]
  | h3 => cases r <;> simp [dReg, eReg]

theorem dSrc_eq_ok {r : Src} : dSrc c x = .ok r ↔ (c, x) = eSrc r := by
  induction c using forall_class with
  | h0 => cases r <;> simp [dSrc, eSrc]
  | h1 => cases r <;> simp [dSrc, eSrc, ite_ok_eq_iff, eq_sField_iff]
  | h2 => cases r <;> simp [dSrc, eSrc, ite_ok_eq_iff, eq_qField_iff]
  | h3 => cases r <;> simp [dSrc, eSrc]

theorem dSImm_eq_ok {r : SImm} : dSImm c x = .ok r ↔ (c, x) = eSImm r := by
  induction c using forall_class with
  | h0 => cases r <;> simp [dSImm, eSImm]
  | h1 => cases r <;> simp [dSImm, eSImm, ite_ok_eq_iff, eq_sField_iff]
  | h2 => cases r <;> simp [dSImm, eSImm]
  | h3 => cases r <;> simp [dSImm, eSImm]

theorem dV_eq_ok {n : BitVec 10} : dV c x = .ok n ↔ (c, x) = eV n := by simp [dV, eV, ite_ok_eq_iff]

theorem dS_eq_ok {n : BitVec 6} : dS c x = .ok n ↔ (c, x) = eS n := by simp [dS, eS, ite_ok_eq_iff, eq_sField_iff]

theorem dP_eq_ok {n : BitVec 3} : dP c x = .ok n ↔ (c, x) = eP n := by
  have hp : x = 0#7 ++ n ↔ x.extractLsb' 3 7 = 0#7 ∧ x.extractLsb' 0 3 = n := eq_append_iff 7 3
  simp [dP, eP, ite_ok_eq_iff, hp]

theorem dJ_eq_ok {n : BitVec 3} : dJ c x = .ok n ↔ (c, x) = eJ n := by
  have hj : x = 0x20#7 ++ n ↔ x.extractLsb' 3 7 = 0x20#7 ∧ x.extractLsb' 0 3 = n := eq_append_iff 7 3
  simp [dJ, eJ, ite_ok_eq_iff, hj]

theorem dQ_eq_ok {n : BitVec 2} : dQ c x = .ok n ↔ (c, x) = eQ n := by simp [dQ, eQ, ite_ok_eq_iff, eq_qField_iff]

theorem dI_eq_ok {k : Nat} {n : BitVec k} (hk : k ≤ 10) : dI k c x = .ok n ↔ (c, x) = eI n := by
  have himm : x = n.setWidth 10 ↔ x.toNat < 2 ^ k ∧ x.setWidth k = n := by
    have hx : x.toNat < 1024 := x.isLt
    constructor
    · rintro rfl
      exact ⟨by simpa using Nat.lt_of_le_of_lt (Nat.mod_le _ _) n.isLt, by simp [hk]⟩
    · rintro ⟨hlt, rfl⟩
      exact BitVec.eq_of_toNat_eq (by simp [Nat.mod_eq_of_lt hlt, Nat.mod_eq_of_lt hx])
  simp [dI, eI, ite_ok_eq_iff, himm]

end

@[simp] theorem dReg_eReg (r : Reg) : dReg (eReg r).1 (eReg r).2 = .ok r := dReg_eq_ok.mpr rfl
@[simp] theorem dSrc_eSrc (r : Src) : dSrc (eSrc r).1 (eSrc r).2 = .ok r := dSrc_eq_ok.mpr rfl
@[simp] theorem dV_eV (n : BitVec 10) : dV (eV n).1 (eV n).2 = .ok n := dV_eq_ok.mpr rfl
@[simp] theorem dS_eS (n : BitVec 6) : dS (eS n).1 (eS n).2 = .ok n := dS_eq_ok.mpr rfl
@[simp] theorem dP_eP (n : BitVec 3) : dP (eP n).1 (eP n).2 = .ok n := dP_eq_ok.mpr rfl
theorem dI_eI {k : Nat} (hk : k ≤ 10) (n : BitVec k) : dI k (eI n).1 (eI n).2 = .ok n := (dI_eq_ok hk).mpr rfl

/-! ### Codes (R269, R274, R280) -/

/-- What makes a list of codes one to one: every code read is the code of what it names, and each name's code is read. -/
theorem ofCode_eq_some_iff {w : Nat} {α : Type} {of : BitVec w → Option α} {code : α → BitVec w}
    (hcode : ∀ n, ∀ x ∈ of n, n = code x) (hof : ∀ x, of (code x) = some x) {n : BitVec w} {x : α} : of n = some x ↔ n = code x :=
  ⟨hcode n x, fun h => h ▸ hof x⟩

@[simp] theorem Ty.ofCode_eq_some {n : BitVec 4} {x : Ty} : Ty.ofCode n = some x ↔ n = x.code :=
  ofCode_eq_some_iff (by decide) (by rintro ⟨⟩ <;> rfl)
@[simp] theorem Ty.ofCode_code (x : Ty) : Ty.ofCode x.code = some x := Ty.ofCode_eq_some.mpr rfl

@[simp] theorem AtomOp.ofCode_eq_some {n : BitVec 4} {x : AtomOp} : AtomOp.ofCode n = some x ↔ n = x.code :=
  ofCode_eq_some_iff (by decide) (by rintro ⟨⟩ <;> rfl)

@[simp] theorem RedOp.ofCode_eq_some {n : BitVec 3} {x : RedOp} : RedOp.ofCode n = some x ↔ n = x.code :=
  ofCode_eq_some_iff (by decide) (by rintro ⟨⟩ <;> rfl)

@[simp] theorem PlogOp.ofCode_eq_some {n : BitVec 3} {x : PlogOp} : PlogOp.ofCode n = some x ↔ n = x.code :=
  ofCode_eq_some_iff (by decide) (by rintro ⟨⟩ <;> rfl)

@[simp] theorem PollMode.ofCode_eq_some {n : BitVec 3} {x : PollMode} : PollMode.ofCode n = Option.some x ↔ n = x.code :=
  ofCode_eq_some_iff (by decide) (by rintro ⟨⟩ <;> rfl)

@[simp] theorem LxMode.ofCode_eq_some {n : BitVec 3} {x : LxMode} : LxMode.ofCode n = some x ↔ n = x.code :=
  ofCode_eq_some_iff (by decide) (by rintro ⟨⟩ <;> rfl)

@[simp] theorem BlkTy.ofCode_eq_some {n : BitVec 3} {x : BlkTy} : BlkTy.ofCode n = some x ↔ n = x.code :=
  ofCode_eq_some_iff (by decide) (by rintro ⟨⟩ <;> rfl)

@[simp] theorem CctlOp.ofCode_eq_some {n : BitVec 3} {x : CctlOp} : CctlOp.ofCode n = some x ↔ n = x.code :=
  ofCode_eq_some_iff (by decide) (by rintro ⟨⟩ <;> rfl)

/-! ### MOD (R269) -/

theorem eq_modOf_iff {m : BitVec 12} {t : BitVec 4} {r : BitVec 2} {s : BitVec 1} {sc : BitVec 2} {o : BitVec 3} :
    m = modOf t r s sc o ↔ mTy m = t ∧ mRnd m = r ∧ mSat m = s ∧ mScope m = sc ∧ mOpx m = o := by
  rw [modOf, eq_append_iff 9 3, slice_eq_append_iff 3 7 2, slice_eq_append_iff 5 6 1, slice_eq_append_iff 6 4 2]
  simp only [and_assoc]
  rfl

theorem eq_modAtom_iff {m : BitVec 12} {t op : BitVec 4} {sc o : BitVec 2} :
    m = modAtom t op sc o ↔ mTy m = t ∧ mAtom m = op ∧ mScope m = sc ∧ (mOpx m).extractLsb' 0 2 = o := by
  have hop : mAtom m = op ↔ m.extractLsb' 5 3 = op.extractLsb' 1 3 ∧ m.extractLsb' 2 1 = op.extractLsb' 0 1 := by
    rw [eq_comm, mAtom, eq_append_iff 3 1, eq_comm, @eq_comm _ (op.extractLsb' 0 1)]
  have ho : (mOpx m).extractLsb' 0 2 = m.extractLsb' 0 2 := BitVec.extractLsb'_extractLsb'_of_le (by omega)
  rw [hop, ho, modAtom, eq_append_iff 10 2, slice_eq_append_iff 2 9 1, slice_eq_append_iff 3 7 2, slice_eq_append_iff 5 4 3]
  simp only [and_assoc, mTy, mScope]
  tauto

@[simp] theorem Rnd.ofCode_code (r : Rnd) : Rnd.ofCode r.code = r := by cases r <;> rfl
@[simp] theorem Rnd.code_ofCode (n : BitVec 2) : (Rnd.ofCode n).code = n := by revert n; decide
@[simp] theorem Scope.ofCode_code (s : Scope) : Scope.ofCode s.code = s := by cases s <;> rfl
@[simp] theorem Scope.code_ofCode (n : BitVec 2) : (Scope.ofCode n).code = n := by revert n; decide
@[simp] theorem Ord.ofCode_code (o : Ord) : Ord.ofCode o.code = o := by cases o <;> rfl
@[simp] theorem Ord.code_ofCode (n : BitVec 2) : (Ord.ofCode n).code = n := by revert n; decide
@[simp] theorem Cmp.ofCode_code (c : Cmp) : Cmp.ofCode c.code = c := by cases c <;> rfl
@[simp] theorem Cmp.code_ofCode (n : BitVec 3) : (Cmp.ofCode n).code = n := by revert n; decide

/-! ### The C field, and codes in a place of their own -/

theorem eq_eCP_iff {c : BitVec 10} {n : BitVec 3} : c = eCP n ↔ c.extractLsb' 3 7 = 0#7 ∧ c.extractLsb' 0 3 = n := eq_append_iff 7 3
theorem eq_c4_iff {c : BitVec 10} {n : BitVec 4} : c = 0#6 ++ n ↔ c.extractLsb' 4 6 = 0#6 ∧ c.extractLsb' 0 4 = n := eq_append_iff 6 4

theorem beq_one_eq_iff (x : BitVec 1) {b : Bool} : (x == 1#1) = b ↔ x = eB b := by revert x b; decide

theorem ord_eq_iff {f : Fields} {o : Ord} : f.ord = o ↔ (mOpx f.mod).extractLsb' 0 2 = o.code :=
  ⟨fun h => h ▸ (Ord.code_ofCode _).symm, fun h => (congrArg Ord.ofCode h).trans (Ord.ofCode_code _)⟩

theorem eq_ofNat_of_toNat {w k : Nat} {x : BitVec w} (h : x.toNat = k) : x = BitVec.ofNat w k := by
  rw [← h, BitVec.ofNat_toNat, BitVec.setWidth_eq]

theorem eq_eOpx_iff {x : BitVec 3} {s : Bool} {o : Ord} :
    x = eOpx s o ↔ x.extractLsb' 2 1 = eB s ∧ x.extractLsb' 0 2 = o.code := eq_append_iff 1 2

end Sys2Proof
end

section
/-! SUPPORT. The places of a word (R266, R269, R273, R274): what the decoder checks and reads there, and that what it reads has
one spelling. -/

namespace Sys2Proof

-- One theorem after the other: many of them wait for the same equations of the decoder, and each would hold a thread meanwhile.
set_option Elab.async false

/-! ### Places of a word (R266) -/

/-- One place of a word as the decoder reads it: what it checks before it reads any operand, what it reads there, and the one
spelling there of what it reads. -/
structure Slot {X : Type} (place : Fields → X) (α : Type) where
  enc : α → X
  check : Fields → Dec Instr → Dec Instr
  read : Fields → (α → Dec Instr) → Dec Instr
  Checked : X → Prop
  Reads : X → α → Prop
  check_eq_ok : ∀ {f k i}, check f k = .ok i ↔ Checked (place f) ∧ k = .ok i
  read_eq_ok : ∀ {f k i}, read f k = .ok i ↔ ∃ a, Reads (place f) a ∧ k a = .ok i
  spelled : ∀ {x a}, Checked x ∧ Reads x a ↔ x = enc a

abbrev placeD (f : Fields) : BitVec 2 × BitVec 10 := (f.cd, f.d)
abbrev placeA (f : Fields) : BitVec 2 × BitVec 10 := (f.ca, f.a)
abbrev placeB (f : Fields) : BitVec 2 × BitVec 10 := (f.cb, f.b)

namespace Slot

section
variable {X α : Type} {place : Fields → X}

/-- A place that must hold `x`. -/
noncomputable def fixed (x : X) (c : Fields → Dec Unit) (hc : ∀ {f u}, c f = .ok u ↔ place f = x) : Slot place Unit where
  enc _ := x
  check f k := c f >>= fun _ => k
  read _ k := k ()
  Checked y := y = x
  Reads _ _ := True
  check_eq_ok := by simp [Dec.bind_eq_ok, hc]
  read_eq_ok := ⟨fun h => ⟨(), trivial, h⟩, fun ⟨_, _, h⟩ => h⟩
  spelled := by simp

/-- A place that an operand is read from. -/
noncomputable def operand (enc : α → X) (r : Fields → Dec α) (hr : ∀ {f a}, r f = .ok a ↔ place f = enc a) : Slot place α where
  enc := enc
  check _ k := k
  read f k := r f >>= k
  Checked _ := True
  Reads x a := x = enc a
  check_eq_ok := by simp
  read_eq_ok := by simp [Dec.bind_eq_ok, hr]
  spelled := by simp

/-- A place that is taken as it stands. -/
noncomputable def raw : Slot place X where
  enc x := x
  check _ k := k
  read f k := k (place f)
  Checked _ := True
  Reads x y := x = y
  check_eq_ok := by simp
  read_eq_ok := by simp
  spelled := by simp
end

noncomputable def noD : Slot placeD Unit := fixed e0 Sys2Proof.noD (by simp [Sys2Proof.noD, need_eq_ok, e0, and_comm])
noncomputable def noA : Slot placeA Unit := fixed e0 Sys2Proof.noA (by simp [Sys2Proof.noA, need_eq_ok, e0, and_comm])
noncomputable def noB : Slot placeB Unit := fixed e0 Sys2Proof.noB (by simp [Sys2Proof.noB, need_eq_ok, e0, and_comm])
noncomputable def noC : Slot Fields.c Unit := fixed 0 Sys2Proof.noC (by simp [Sys2Proof.noC, need_eq_ok])

section
variable (c : Fields → BitVec 2) (x : Fields → BitVec 10)
noncomputable def reg : Slot (fun f => (c f, x f)) Reg := operand eReg (fun f => dReg (c f) (x f)) dReg_eq_ok
noncomputable def src : Slot (fun f => (c f, x f)) Src := operand eSrc (fun f => dSrc (c f) (x f)) dSrc_eq_ok
noncomputable def simm : Slot (fun f => (c f, x f)) SImm := operand eSImm (fun f => dSImm (c f) (x f)) dSImm_eq_ok
noncomputable def v : Slot (fun f => (c f, x f)) (BitVec 10) := operand eV (fun f => dV (c f) (x f)) dV_eq_ok
noncomputable def s : Slot (fun f => (c f, x f)) (BitVec 6) := operand eS (fun f => dS (c f) (x f)) dS_eq_ok
noncomputable def p : Slot (fun f => (c f, x f)) (BitVec 3) := operand eP (fun f => dP (c f) (x f)) dP_eq_ok
noncomputable def j : Slot (fun f => (c f, x f)) (BitVec 3) := operand eJ (fun f => dJ (c f) (x f)) dJ_eq_ok
noncomputable def q : Slot (fun f => (c f, x f)) (BitVec 2) := operand eQ (fun f => dQ (c f) (x f)) dQ_eq_ok
noncomputable def imm3 : Slot (fun f => (c f, x f)) (BitVec 3) := operand eI (fun f => dI 3 (c f) (x f)) (dI_eq_ok (by decide))
noncomputable def imm4 : Slot (fun f => (c f, x f)) (BitVec 4) := operand eI (fun f => dI 4 (c f) (x f)) (dI_eq_ok (by decide))
noncomputable def imm10 : Slot (fun f => (c f, x f)) (BitVec 10) := operand eI (fun f => dI 10 (c f) (x f)) (dI_eq_ok (by decide))
end

/-- A predicate in C. -/
noncomputable def cp : Slot Fields.c (BitVec 3) := operand eCP dCP (by simp [dCP, ite_ok_eq_iff, eq_eCP_iff])
/-- The source type of CVT and CVTPK, in C. -/
noncomputable def stTy : Slot Fields.c Ty := operand (fun t => 0#6 ++ t.code) dStTy (by
  simp [dStTy, Dec.bind_eq_ok, need_eq_ok, get?_eq_ok, eq_c4_iff])
/-- Four bits in C, the rest zero. -/
noncomputable def c4 : Slot Fields.c (BitVec 4) where
  enc n := 0#6 ++ n
  check f k := need (f.c.extractLsb' 4 6 == 0) .unusedField >>= fun _ => k
  read f k := k (f.c.extractLsb' 0 4)
  Checked c := c.extractLsb' 4 6 = 0
  Reads c n := c.extractLsb' 0 4 = n
  check_eq_ok := by simp [Dec.bind_eq_ok, need_eq_ok]
  read_eq_ok := by simp
  spelled := eq_c4_iff.symm
/-- The register counts of APXB, in C. -/
noncomputable def counts : Slot Fields.c (BitVec 3 × BitVec 2) where
  enc n := 0#5 ++ n.2 ++ n.1
  check f k := need (f.c.extractLsb' 5 5 == 0) .unusedField >>= fun _ => k
  read f k := k (f.c.extractLsb' 0 3, f.c.extractLsb' 3 2)
  Checked c := c.extractLsb' 5 5 = 0
  Reads c n := (c.extractLsb' 0 3, c.extractLsb' 3 2) = n
  check_eq_ok := by simp [Dec.bind_eq_ok, need_eq_ok]
  read_eq_ok := by simp
  spelled {c n} := by
    rw [eq_append_iff 7 3, slice_eq_append_iff 3 5 2, Prod.ext_iff]
    tauto

end Slot

/-! ### MOD as a place (R269, R274, R280) -/

/-- What is read of MOD: the values, and what they say of MOD. -/
structure ModRead (α : Type) where
  read : Fields → (α → Dec Instr) → Dec Instr
  Reads : BitVec 12 → α → Prop
  read_eq_ok : ∀ {f k i}, read f k = .ok i ↔ ∃ a, Reads f.mod a ∧ k a = .ok i

namespace ModRead

section
variable {α β : Type}

/-- A field of MOD that decodes to a value or to none. -/
noncomputable def step (r : Fields → Dec α) (Reads : BitVec 12 → α → Prop) (hr : ∀ {f a}, r f = .ok a ↔ Reads f.mod a) : ModRead α where
  read f k := r f >>= k
  Reads := Reads
  read_eq_ok := by simp [Dec.bind_eq_ok, hr]

/-- A field of MOD every value of which has a meaning. -/
noncomputable def value (v : Fields → α) (Reads : BitVec 12 → α → Prop) (hv : ∀ {f a}, v f = a ↔ Reads f.mod a) : ModRead α where
  read f k := k (v f)
  Reads := Reads
  read_eq_ok := by simp [← hv]

/-- Two fields of MOD, one after the other. -/
noncomputable def and (r : ModRead α) (q : ModRead β) : ModRead (α × β) where
  read f k := r.read f fun a => q.read f fun b => k (a, b)
  Reads m x := r.Reads m x.1 ∧ q.Reads m x.2
  read_eq_ok := by simp [r.read_eq_ok, q.read_eq_ok, and_assoc]

@[simp] theorem and_reads {r : ModRead α} {q : ModRead β} {m : BitVec 12} {x : α × β} :
    (r.and q).Reads m x ↔ r.Reads m x.1 ∧ q.Reads m x.2 := Iff.rfl

/-- A code in OPX that names one of a list. -/
noncomputable def code (e : DecodeError) (of : BitVec 3 → Option α) (code : α → BitVec 3) (hof : ∀ {n a}, of n = some a ↔ n = code a) :
    ModRead α :=
  step (fun f => get? (of (mOpx f.mod)) e) (fun m a => mOpx m = code a) (by simp [get?_eq_ok, hof])

@[simp] theorem code_reads {e : DecodeError} {of : BitVec 3 → Option α} {code : α → BitVec 3} {hof : ∀ {n a}, of n = some a ↔ n = code a}
    {m : BitVec 12} {a : α} : (ModRead.code e of code hof).Reads m a ↔ mOpx m = code a := Iff.rfl
end

/-- Nothing. -/
noncomputable def none : ModRead Unit := value (fun _ => ()) (fun _ _ => True) (by simp)
/-- A type that the instruction has fixed before. -/
noncomputable def anyTy : ModRead Unit where
  read f k := dTy f >>= fun _ => k ()
  Reads m _ := ∃ t : Ty, mTy m = t.code
  read_eq_ok := by
    simp only [Dec.bind_eq_ok, dTy, get?_eq_ok, Ty.ofCode_eq_some]
    exact ⟨fun ⟨t, ht, h⟩ => ⟨(), ⟨t, ht⟩, h⟩, fun ⟨_, ⟨t, ht⟩, h⟩ => ⟨t, ht, h⟩⟩
noncomputable def ty : ModRead Ty := step dTy (fun m t => mTy m = t.code) (by simp [dTy, get?_eq_ok])
noncomputable def sat : ModRead Bool := value Fields.sat (fun m s => mSat m = eB s) (beq_one_eq_iff _)
noncomputable def rnd : ModRead Rnd := value Fields.rnd (fun m r => mRnd m = r.code)
  ⟨fun h => h ▸ (Rnd.code_ofCode _).symm, fun h => (congrArg Rnd.ofCode h).trans (Rnd.ofCode_code _)⟩
noncomputable def scope : ModRead Scope := value Fields.scope (fun m s => mScope m = s.code)
  ⟨fun h => h ▸ (Scope.code_ofCode _).symm, fun h => (congrArg Scope.ofCode h).trans (Scope.ofCode_code _)⟩
noncomputable def cmp : ModRead Cmp := value (fun f => Cmp.ofCode (mOpx f.mod)) (fun m c => mOpx m = c.code)
  ⟨fun h => h ▸ (Cmp.code_ofCode _).symm, fun h => (congrArg Cmp.ofCode h).trans (Cmp.ofCode_code _)⟩
noncomputable def ord : ModRead Ord := value Fields.ord (fun m o => (mOpx m).extractLsb' 0 2 = o.code) ord_eq_iff
noncomputable def strong : ModRead Bool := value Fields.strong (fun m s => (mOpx m).extractLsb' 2 1 = eB s) (beq_one_eq_iff _)
/-- A load's order: its own or none. -/
noncomputable def acq : ModRead Bool := step (dOrd1 · .acq) (fun m b => (mOpx m).extractLsb' 0 2 = (eAcq b).code) (by
  intro f b
  rw [← ord_eq_iff, dOrd1]
  generalize f.ord = o
  cases o <;> cases b <;> decide)
/-- A store's order: its own or none. -/
noncomputable def rel : ModRead Bool := step (dOrd1 · .rel) (fun m b => (mOpx m).extractLsb' 0 2 = (eRel b).code) (by
  intro f b
  rw [← ord_eq_iff, dOrd1]
  generalize f.ord = o
  cases o <;> cases b <;> decide)
noncomputable def ui : ModRead Bool := step dUi (fun m b => mOpx m = if b then 1 else 0) (by
  intro f b
  rw [dUi]
  generalize mOpx f.mod = o
  revert o b
  decide)
noncomputable def opx : ModRead (BitVec 3) := value (fun f => mOpx f.mod) (fun m o => mOpx m = o) Iff.rfl
noncomputable def tyField : ModRead (BitVec 4) := value (fun f => mTy f.mod) (fun m t => mTy m = t) Iff.rfl
noncomputable def table : ModRead (BitVec 8) := value (fun f => f.mod.extractLsb' 0 8) (fun m x => m.extractLsb' 0 8 = x) Iff.rfl
noncomputable def atomOp : ModRead AtomOp := step (fun f => get? (AtomOp.ofCode (mAtom f.mod)) .badModifier) (fun m a => mAtom m = a.code)
  (by simp [get?_eq_ok])

@[simp] theorem none_reads {m : BitVec 12} {x : Unit} : none.Reads m x ↔ True := Iff.rfl
@[simp] theorem anyTy_reads {m : BitVec 12} {x : Unit} : anyTy.Reads m x ↔ ∃ t : Ty, mTy m = t.code := Iff.rfl
@[simp] theorem ty_reads {m : BitVec 12} {t : Ty} : ty.Reads m t ↔ mTy m = t.code := Iff.rfl
@[simp] theorem sat_reads {m : BitVec 12} {b : Bool} : sat.Reads m b ↔ mSat m = eB b := Iff.rfl
@[simp] theorem rnd_reads {m : BitVec 12} {r : Rnd} : rnd.Reads m r ↔ mRnd m = r.code := Iff.rfl
@[simp] theorem scope_reads {m : BitVec 12} {s : Scope} : scope.Reads m s ↔ mScope m = s.code := Iff.rfl
@[simp] theorem cmp_reads {m : BitVec 12} {c : Cmp} : cmp.Reads m c ↔ mOpx m = c.code := Iff.rfl
@[simp] theorem ord_reads {m : BitVec 12} {o : Ord} : ord.Reads m o ↔ (mOpx m).extractLsb' 0 2 = o.code := Iff.rfl
@[simp] theorem strong_reads {m : BitVec 12} {b : Bool} : strong.Reads m b ↔ (mOpx m).extractLsb' 2 1 = eB b := Iff.rfl
@[simp] theorem acq_reads {m : BitVec 12} {b : Bool} : acq.Reads m b ↔ (mOpx m).extractLsb' 0 2 = (eAcq b).code := Iff.rfl
@[simp] theorem rel_reads {m : BitVec 12} {b : Bool} : rel.Reads m b ↔ (mOpx m).extractLsb' 0 2 = (eRel b).code := Iff.rfl
@[simp] theorem ui_reads {m : BitVec 12} {b : Bool} : ui.Reads m b ↔ mOpx m = if b then 1 else 0 := Iff.rfl
@[simp] theorem opx_reads {m : BitVec 12} {o : BitVec 3} : opx.Reads m o ↔ mOpx m = o := Iff.rfl
@[simp] theorem tyField_reads {m : BitVec 12} {t : BitVec 4} : tyField.Reads m t ↔ mTy m = t := Iff.rfl
@[simp] theorem table_reads {m : BitVec 12} {x : BitVec 8} : table.Reads m x ↔ m.extractLsb' 0 8 = x := Iff.rfl
@[simp] theorem atomOp_reads {m : BitVec 12} {a : AtomOp} : atomOp.Reads m a ↔ mAtom m = a.code := Iff.rfl

end ModRead

/-- The MOD fields that an instruction does not read are zero (R269). -/
def OnlyUses (u : ModUse) (m : BitVec 12) : Prop :=
  (u.ty = true ∨ mTy m = 0) ∧ (u.rnd = true ∨ mRnd m = 0) ∧ (u.sat = true ∨ mSat m = 0) ∧ (u.sc = true ∨ mScope m = 0) ∧
    (u.opx = true ∨ mOpx m = 0)

theorem dMod_eq_ok {f : Fields} {u : ModUse} {x : Unit} : dMod f u = .ok x ↔ OnlyUses u f.mod := by
  simp [dMod, need_eq_ok, OnlyUses, and_assoc]

theorem needF32_eq_ok {f : Fields} {x : Unit} : needF32 f = .ok x ↔ mTy f.mod = Ty.f32.code := by simp [needF32, need_eq_ok, Ty.code]
theorem needB4_eq_ok {f : Fields} {x : Unit} : needB4 f = .ok x ↔ mTy f.mod = Ty.b4.code := by simp [needB4, need_eq_ok, Ty.code]

namespace Slot

section
variable {α : Type} (u : ModUse) (r : ModRead α) (enc : α → BitVec 12)

/-- MOD, of which the instruction reads the fields `u`. -/
noncomputable def mod (h : ∀ {m a}, OnlyUses u m ∧ r.Reads m a ↔ m = enc a := by
      simp [OnlyUses, eq_modOf_iff, eq_modAtom_iff, eq_eOpx_iff, eT, eTS, eTR, eTO, eUi]
      tauto) : Slot Fields.mod α where
  enc := enc
  check f k := dMod f u >>= fun _ => k
  read := r.read
  Checked := OnlyUses u
  Reads := r.Reads
  check_eq_ok := by simp [Dec.bind_eq_ok, dMod_eq_ok]
  read_eq_ok := r.read_eq_ok
  spelled := h

/-- MOD of an instruction of one type. -/
noncomputable def modOfTy (t : Ty) (need : Fields → Dec Unit) (hneed : ∀ {f x}, need f = .ok x ↔ mTy f.mod = t.code)
    (h : ∀ {m a}, (mTy m = t.code ∧ OnlyUses u m) ∧ r.Reads m a ↔ m = enc a := by
      simp [OnlyUses, eq_modOf_iff, eq_modAtom_iff, eq_eOpx_iff, eT, eTS, eTR, eTO, eUi]
      tauto) : Slot Fields.mod α where
  enc := enc
  check f k := need f >>= fun _ => dMod f u >>= fun _ => k
  read := r.read
  Checked m := mTy m = t.code ∧ OnlyUses u m
  Reads := r.Reads
  check_eq_ok := by simp [Dec.bind_eq_ok, hneed, dMod_eq_ok, and_assoc]
  read_eq_ok := r.read_eq_ok
  spelled := h
end

noncomputable def unused : Slot Fields.mod Unit :=
  mod {} .none (fun _ => 0) (by
    intro m _
    rw [show (0 : BitVec 12) = modOf 0 0 0 0 0 from rfl, eq_modOf_iff]
    simp [OnlyUses])
noncomputable def ty : Slot Fields.mod Ty := mod { ty := true } .ty eT
noncomputable def tyOnly : Slot Fields.mod (Ty × Unit) := mod { ty := true } (.and .ty .none) (fun x => eT x.1)
noncomputable def tySat : Slot Fields.mod (Ty × Bool) := mod { ty := true, sat := true } (.and .ty .sat) (fun x => eTS x.1 x.2)
noncomputable def tyRnd : Slot Fields.mod (Ty × Rnd) := mod { ty := true, rnd := true } (.and .ty .rnd) (fun x => eTR x.1 x.2)
noncomputable def tyTable : Slot Fields.mod (Ty × BitVec 8) :=
  mod { ty := true, rnd := true, sat := true, sc := true, opx := true } (.and .ty .table)
    (fun x => x.1.code ++ x.2) (by
    intro m x
    rw [eq_append_iff 4 8]
    simp [OnlyUses, Sys2Proof.mTy])
noncomputable def tyRndSat : Slot Fields.mod (Ty × Rnd × Bool) :=
  mod { ty := true, rnd := true, sat := true } (.and .ty (.and .rnd .sat)) (fun x => modOf x.1.code x.2.1.code (eB x.2.2) 0 0)
noncomputable def f32 : Slot Fields.mod (Unit × Unit) :=
  modOfTy { ty := true } (.and .anyTy .none) (fun _ => eT .f32) .f32 needF32 needF32_eq_ok
noncomputable def f32Rnd : Slot Fields.mod (Unit × Rnd) :=
  modOfTy { ty := true, rnd := true } (.and .anyTy .rnd) (fun x => eTR .f32 x.2) .f32 needF32 needF32_eq_ok
noncomputable def f32Cmp : Slot Fields.mod Cmp :=
  modOfTy { ty := true, opx := true } .cmp (fun c => eTO .f32 c.code) .f32 needF32 needF32_eq_ok
noncomputable def b4 : Slot Fields.mod Unit :=
  modOfTy { ty := true } .none (fun _ => eT .b4) .b4 needB4 needB4_eq_ok (by simp [OnlyUses, eT, eq_modOf_iff])
noncomputable def b4Blk : Slot Fields.mod BlkTy :=
  modOfTy { ty := true, opx := true } (.code .badModifier BlkTy.ofCode BlkTy.code BlkTy.ofCode_eq_some)
    (fun t => eTO .b4 t.code) .b4 needB4 needB4_eq_ok
noncomputable def tyCmp : Slot Fields.mod (Ty × Cmp) := mod { ty := true, opx := true } (.and .ty .cmp) (fun x => eTO x.1 x.2.code)
noncomputable def tyFieldOpx : Slot Fields.mod (BitVec 4 × BitVec 3) :=
  mod { ty := true, opx := true } (.and .tyField .opx) (fun x => modOf x.1 0 0 0 x.2)
noncomputable def plog : Slot Fields.mod PlogOp :=
  mod { opx := true } (.code .badModifier PlogOp.ofCode PlogOp.code PlogOp.ofCode_eq_some) (fun o => modOf 0 0 0 0 o.code)
noncomputable def poll : Slot Fields.mod PollMode :=
  mod { opx := true } (.code .badModifier PollMode.ofCode PollMode.code PollMode.ofCode_eq_some) (fun o => modOf 0 0 0 0 o.code)
noncomputable def opx : Slot Fields.mod (BitVec 3) := mod { opx := true } .opx (fun o => modOf 0 0 0 0 o)
noncomputable def tyLx : Slot Fields.mod (Ty × LxMode) :=
  mod { ty := true, opx := true } (.and .ty (.code .badModifier LxMode.ofCode LxMode.code LxMode.ofCode_eq_some))
    (fun x => eTO x.1 x.2.code)
noncomputable def tyRedRnd : Slot Fields.mod (Ty × RedOp × Rnd) :=
  mod { ty := true, rnd := true, opx := true } (.and .ty (.and (.code .badModifier RedOp.ofCode RedOp.code RedOp.ofCode_eq_some) .rnd))
    (fun x => modOf x.1.code x.2.2.code 0 0 x.2.1.code)
noncomputable def ui : Slot Fields.mod Bool := mod { opx := true } .ui eUi
noncomputable def satUi : Slot Fields.mod (Bool × Bool) :=
  mod { sat := true, opx := true } (.and .sat .ui) (fun x => modOf 0 0 (eB x.1) 0 (if x.2 then 1 else 0))
noncomputable def tyUi : Slot Fields.mod (Ty × Bool) :=
  mod { ty := true, opx := true } (.and .ty .ui) (fun x => eTO x.1 (if x.2 then 1 else 0))
noncomputable def tyRndUi : Slot Fields.mod (Ty × Rnd × Bool) :=
  mod { ty := true, rnd := true, opx := true } (.and .ty (.and .rnd .ui))
    (fun x => modOf x.1.code x.2.1.code 0 0 (if x.2.2 then 1 else 0))
noncomputable def scope : Slot Fields.mod Scope := mod { sc := true } .scope (fun s => modOf 0 0 0 s.code 0)
noncomputable def load : Slot Fields.mod (Ty × Bool × Bool × Scope) :=
  mod { ty := true, sc := true, opx := true } (.and .ty (.and .strong (.and .acq .scope)))
    (fun x => modOf x.1.code 0 0 x.2.2.2.code (eOpx x.2.1 (eAcq x.2.2.1)))
noncomputable def store : Slot Fields.mod (Ty × Bool × Bool × Scope) :=
  mod { ty := true, sc := true, opx := true } (.and .ty (.and .strong (.and .rel .scope)))
    (fun x => modOf x.1.code 0 0 x.2.2.2.code (eOpx x.2.1 (eRel x.2.2.1)))
noncomputable def localLoad : Slot Fields.mod (Ty × Bool × Bool) :=
  mod { ty := true, opx := true } (.and .ty (.and .strong .acq)) (fun x => modOf x.1.code 0 0 0 (eOpx x.2.1 (eAcq x.2.2)))
noncomputable def localStore : Slot Fields.mod (Ty × Bool × Bool) :=
  mod { ty := true, opx := true } (.and .ty (.and .strong .rel)) (fun x => modOf x.1.code 0 0 0 (eOpx x.2.1 (eRel x.2.2)))
noncomputable def atom : Slot Fields.mod (AtomOp × Ty × Ord × Scope) :=
  mod { ty := true, rnd := true, sat := true, sc := true, opx := true } (.and .atomOp (.and .ty (.and .ord .scope)))
    (fun x => modAtom x.2.1.code x.1.code x.2.2.2.code x.2.2.1.code)
noncomputable def localAtom : Slot Fields.mod (AtomOp × Ty × Ord) :=
  mod { ty := true, rnd := true, sat := true, opx := true } (.and .atomOp (.and .ty .ord))
    (fun x => modAtom x.2.1.code x.1.code 0 x.2.2.code)
noncomputable def red : Slot Fields.mod (AtomOp × Ty × Bool × Scope) :=
  mod { ty := true, rnd := true, sat := true, sc := true, opx := true } (.and .atomOp (.and .ty (.and .rel .scope)))
    (fun x => modAtom x.2.1.code x.1.code x.2.2.2.code (eRel x.2.2.1).code)
noncomputable def cctl : Slot Fields.mod (CctlOp × Ty) :=
  mod { ty := true, opx := true } (.and (.code .badModifier CctlOp.ofCode CctlOp.code CctlOp.ofCode_eq_some) .ty)
    (fun x => eTO x.2 x.1.code)

/-- TYPE of RDSYS, which gives the width of its value. -/
noncomputable def wide : Slot Fields.mod Bool where
  enc w := eT (if w then .z64 else .z32)
  check f k := dMod f { ty := true } >>= fun _ => k
  read f k := dTy f >>= fun t => need (t == .z32 || t == .z64) .badType >>= fun _ => k (t == .z64)
  Checked := OnlyUses { ty := true }
  Reads m w := Sys2Proof.mTy m = (if w then Ty.z64 else Ty.z32).code
  check_eq_ok := by simp [Dec.bind_eq_ok, dMod_eq_ok]
  read_eq_ok {f k i} := by
    simp only [Dec.bind_eq_ok, dTy, get?_eq_ok, Ty.ofCode_eq_some, need_eq_ok, Bool.or_eq_true, beq_iff_eq]
    constructor
    · rintro ⟨t, ht, _, rfl | rfl, hk⟩
      · exact ⟨false, ht, hk⟩
      · exact ⟨true, ht, hk⟩
    · rintro ⟨_ | _, ht, hk⟩
      · exact ⟨.z32, ht, (), .inl rfl, hk⟩
      · exact ⟨.z64, ht, (), .inr rfl, hk⟩
  spelled := by
    simp [OnlyUses, eT, eq_modOf_iff]
    tauto
/-- TYPE of TNOW. -/
noncomputable def z64 : Slot Fields.mod Unit where
  enc _ := eT .z64
  check f k := dClassB.needTyZ64 f >>= fun _ => k
  read _ k := k ()
  Checked m := OnlyUses { ty := true } m ∧ Sys2Proof.mTy m = Ty.z64.code
  Reads _ _ := True
  check_eq_ok := by simp [dClassB.needTyZ64, Dec.bind_eq_ok, dMod_eq_ok, need_eq_ok, Ty.code, and_assoc]
  read_eq_ok := ⟨fun h => ⟨(), trivial, h⟩, fun ⟨_, _, h⟩ => h⟩
  spelled := by
    simp [OnlyUses, eT, eq_modOf_iff]
    tauto
/-- MOD of FENCE: any order, which is not strong. -/
noncomputable def fence : Slot Fields.mod (Ord × Scope) where
  enc x := modOf 0 0 0 x.2.code (eOpx false x.1)
  check f k := dMod f { sc := true, opx := true } >>= fun _ => k
  read f k := need (!f.strong) .badModifier >>= fun _ => k (f.ord, f.scope)
  Checked := OnlyUses { sc := true, opx := true }
  Reads m x := ModRead.strong.Reads m false ∧ ModRead.ord.Reads m x.1 ∧ ModRead.scope.Reads m x.2
  check_eq_ok := by simp [Dec.bind_eq_ok, dMod_eq_ok]
  read_eq_ok {f k i} := by
    simp only [Dec.bind_eq_ok, need_eq_ok, Bool.not_eq_true']
    constructor
    · rintro ⟨_, hstrong, hk⟩
      exact ⟨(f.ord, f.scope), ⟨(beq_one_eq_iff _).mp hstrong, ord_eq_iff.mp rfl, (Scope.code_ofCode _).symm⟩, hk⟩
    · rintro ⟨⟨o, sc⟩, ⟨hstrong, ho, hsc⟩, hk⟩
      have hscope : f.scope = sc := (congrArg Scope.ofCode hsc).trans (Scope.ofCode_code _)
      exact ⟨(), (beq_one_eq_iff _).mpr hstrong, ord_eq_iff.mpr ho ▸ hscope ▸ hk⟩
  spelled := by
    simp [OnlyUses, eq_modOf_iff, eq_eOpx_iff]
    tauto

end Slot

/-! ### The memory format as a place (R273) -/

/-- The address operands of the memory format: A, B and C. -/
abbrev placeR (f : Fields) : (BitVec 2 × BitVec 10) × (BitVec 2 × BitVec 10) × BitVec 10 := ((f.ca, f.a), (f.cb, f.b), f.c)

noncomputable def eRef (r : MemRef) : (BitVec 2 × BitVec 10) × (BitVec 2 × BitVec 10) × BitVec 10 :=
  ((1, r.disp.extractLsb' 6 4 ++ r.base), (0, r.off), 0#1 ++ r.disp.extractLsb' 0 6 ++ r.pk)

theorem dMem_eq_ok {f : Fields} {r : MemRef} : dMem f = .ok r ↔ placeR f = eRef r := by
  obtain ⟨base, off, disp, pk⟩ := r
  have ha : f.a = disp.extractLsb' 6 4 ++ base ↔ f.a.extractLsb' 6 4 = disp.extractLsb' 6 4 ∧ f.a.extractLsb' 0 6 = base :=
    eq_append_iff 4 6
  have hc : f.c = 0#1 ++ disp.extractLsb' 0 6 ++ pk ↔
      (f.c.extractLsb' 9 1 = 0#1 ∧ f.c.extractLsb' 3 6 = disp.extractLsb' 0 6) ∧ f.c.extractLsb' 0 3 = pk := by
    rw [eq_append_iff 7 3, slice_eq_append_iff 3 1 6]
  have hdisp : f.a.extractLsb' 6 4 ++ f.c.extractLsb' 3 6 = disp ↔
      disp.extractLsb' 6 4 = f.a.extractLsb' 6 4 ∧ disp.extractLsb' 0 6 = f.c.extractLsb' 3 6 := eq_comm.trans (eq_append_iff 4 6)
  simp only [dMem, Dec.bind_eq_ok, need_eq_ok, eRef, Prod.mk.injEq, ha, hc, Except.ok.injEq, MemRef.mk.injEq, hdisp, Bool.and_eq_true,
    beq_iff_eq]
  grind

theorem atomX_of_ref {f : Fields} {r : MemRef} (hr : placeR f = eRef r) : f.atomX = r.disp := by
  have ha : f.a = r.disp.extractLsb' 6 4 ++ r.base := congrArg (·.1.2) hr
  have hc : f.c = 0#1 ++ r.disp.extractLsb' 0 6 ++ r.pk := congrArg (·.2.2) hr
  have ha6 := ((eq_append_iff 4 6).mp ha).1
  have hc3 := ((slice_eq_append_iff 3 1 6).mp ((eq_append_iff 7 3).mp hc).1).2
  rw [Fields.atomX, ha6, hc3]
  exact BitVec.extractLsb'_append_extractLsb'

theorem dMem7_eq_ok {f : Fields} {r : MemRef} : dMem7 f = .ok r ↔ placeR f = eRef r ∧ r.pk = 7 := by
  simp only [dMem7, Dec.bind_eq_ok, dMem_eq_ok, need_eq_ok, beq_iff_eq]
  exact ⟨fun ⟨_, hr, _, hpk, h⟩ => Except.ok.inj h ▸ ⟨hr, hpk⟩, fun ⟨hr, hpk⟩ => ⟨r, hr, (), hpk, rfl⟩⟩

namespace Slot

noncomputable def ref : Slot placeR MemRef := operand eRef dMem dMem_eq_ok
/-- A reference that names no predicate. -/
noncomputable def ref7 : Slot placeR (BitVec 6 × BitVec 10 × BitVec 10) where
  enc r := eRef ⟨r.1, r.2.1, r.2.2, 7⟩
  check _ k := k
  read f k := dMem7 f >>= fun r => k (r.base, r.off, r.disp)
  Checked _ := True
  Reads x r := x = eRef ⟨r.1, r.2.1, r.2.2, 7⟩
  check_eq_ok := by simp
  read_eq_ok {f k i} := by
    simp only [Dec.bind_eq_ok, dMem7_eq_ok]
    constructor
    · rintro ⟨⟨base, off, disp, pk⟩, ⟨hr, rfl⟩, hk⟩
      exact ⟨(base, off, disp), hr, hk⟩
    · rintro ⟨⟨base, off, disp⟩, hr, hk⟩
      exact ⟨_, ⟨hr, rfl⟩, hk⟩
  spelled := by simp
/-- The reference of ATOM and ATOMS: the bits of the displacement name the data register (R274). -/
noncomputable def refX : Slot placeR MemRef where
  enc := eRef
  check _ k := k
  read f k := dMem f >>= fun r => k { r with disp := f.atomX }
  Checked _ := True
  Reads x r := x = eRef r
  check_eq_ok := by simp
  read_eq_ok {f k i} := by
    simp only [Dec.bind_eq_ok, dMem_eq_ok]
    exact exists_congr fun r => and_congr_right fun hr => by rw [atomX_of_ref hr]
  spelled := by simp
/-- The same without a predicate. -/
noncomputable def ref7X : Slot placeR (BitVec 6 × BitVec 10 × BitVec 10) where
  enc r := eRef ⟨r.1, r.2.1, r.2.2, 7⟩
  check _ k := k
  read f k := dMem7 f >>= fun r => k (r.base, r.off, f.atomX)
  Checked _ := True
  Reads x r := x = eRef ⟨r.1, r.2.1, r.2.2, 7⟩
  check_eq_ok := by simp
  read_eq_ok {f k i} := by
    refine Iff.trans ?_ ref7.read_eq_ok
    simp only [ref7, Dec.bind_eq_ok, dMem7_eq_ok]
    exact exists_congr fun r => and_congr_right fun hr => by rw [atomX_of_ref hr.1]
  spelled := by simp
/-- A reference without an offset register. -/
noncomputable def ref0 : Slot placeR (BitVec 6 × BitVec 10 × BitVec 3) where
  enc r := eRef ⟨r.1, 0, r.2.1, r.2.2⟩
  check f k := need (f.b == 0) .unusedField >>= fun _ => k
  read f k := dMem f >>= fun r => k (r.base, r.disp, r.pk)
  Checked x := x.2.1.2 = 0
  Reads x r := ∃ off, x = eRef ⟨r.1, off, r.2.1, r.2.2⟩
  check_eq_ok := by simp [Dec.bind_eq_ok, need_eq_ok]
  read_eq_ok {f k i} := by
    simp only [Dec.bind_eq_ok, dMem_eq_ok]
    exact ⟨fun ⟨⟨base, off, disp, pk⟩, hr, hk⟩ => ⟨(base, disp, pk), ⟨off, hr⟩, hk⟩, fun ⟨_, ⟨_, hr⟩, hk⟩ => ⟨_, hr, hk⟩⟩
  spelled := by
    rintro x r
    constructor
    · rintro ⟨hoff, off, rfl⟩
      exact congrArg (fun off => eRef ⟨r.1, off, r.2.1, r.2.2⟩) hoff
    · rintro rfl
      exact ⟨rfl, 0, rfl⟩
end Slot

end Sys2Proof
end

section
/-! SUPPORT. The rows of the opcode map (R276): in each, the words that parse are those of the row's instructions. -/

namespace Sys2Proof

-- One theorem after the other: many of them wait for the same equations of the decoder, and each would hold a thread meanwhile.
set_option Elab.async false

/-! ### Rows of the opcode map -/

/-- The fields of an instruction, one by one. -/
theorem eMk_eq_iff {f : Fields} {op : BitVec 10} {h : Hdr} {d a b : BitVec 2 × BitVec 10} {c : BitVec 10} {m : BitVec 12} :
    eMk op h d a b c m = f ↔ f.op = op ∧ f.hdr = h ∧ (f.cd, f.d) = d ∧ (f.ca, f.a) = a ∧ (f.cb, f.b) = b ∧ f.c = c ∧ f.mod = m := by
  constructor
  · rintro rfl
    exact ⟨rfl, Laws.AssignedWord.hdr_eMk .., rfl, rfl, rfl, rfl, rfl⟩
  · rintro ⟨rfl, rfl, rfl, rfl, rfl, rfl, rfl⟩
    obtain ⟨op, g, d, a, b, cd, ca, cb, c, m, fe, sp, di, w, st⟩ := f
    have hsp : ∀ sp : BitVec 1, sp = 0#1 ∨ sp = 1#1 := by decide
    obtain rfl | rfl := hsp sp <;> rfl

/-- The words of opcode `op` that parse are those of the instructions of `S`, each the word of what it parses to. -/
def Row (op : BitVec 10) (S : Instr → Prop) : Prop :=
  ∀ (f : Fields) (i : Instr), f.op = op ∧ parse f = .ok i ↔ S i ∧ encodeFields i = some f

/-- `g` is what the decoder does with a word of opcode `op`. -/
structure Decoder (op : BitVec 10) (g : Fields → Dec Instr) : Prop where
  eq_parse : ∀ f : Fields, g { f with op := op } = parse { f with op := op } := by
    intro
    dsimp only [parse, dClass0, dClass1, dClass2, dClass3, dClass4, dClass5, dClass6, dClass7, dClass8, dClass9, dClassA, dClassB, dClassC,
      dClassD, BitVec.reduceToNat, Nat.reduceDiv, Nat.reduceMod]
    rfl

section
variable {μ δ α β γ : Type} {op : BitVec 10}

section
variable (M : Slot Fields.mod μ) (D : Slot placeD δ) (A : Slot placeA α) (B : Slot placeB β) (C : Slot Fields.c γ)

/-- The instructions that `K` makes of a header and of what the places say. -/
def Made (K : Hdr → μ → δ → α → β → γ → Dec Instr) (i : Instr) : Prop := ∃ h m d a b c, K h m d a b c = .ok i

/-- The decoder's order: the checks of MOD, D, A, B and C, and then what is read of them. -/
noncomputable def reading (K : Hdr → μ → δ → α → β → γ → Dec Instr) (f : Fields) : Dec Instr :=
  M.check f <| D.check f <| A.check f <| B.check f <| C.check f <| M.read f fun m => D.read f fun d => A.read f fun a =>
    B.read f fun b => C.read f fun c => K f.hdr m d a b c

variable {M D A B C}

theorem reading_eq_ok {K : Hdr → μ → δ → α → β → γ → Dec Instr} {f : Fields} {i : Instr} : reading M D A B C K f = .ok i ↔
    ∃ m d a b c, placeD f = D.enc d ∧ placeA f = A.enc a ∧ placeB f = B.enc b ∧ f.c = C.enc c ∧ f.mod = M.enc m ∧
      K f.hdr m d a b c = .ok i := by
  simp only [reading, Slot.check_eq_ok, Slot.read_eq_ok, ← Slot.spelled]
  constructor
  · rintro ⟨hM, hD, hA, hB, hC, m, hm, d, hd, a, ha, b, hb, c, hc, hi⟩
    exact ⟨m, d, a, b, c, ⟨hD, hd⟩, ⟨hA, ha⟩, ⟨hB, hb⟩, ⟨hC, hc⟩, ⟨hM, hm⟩, hi⟩
  · rintro ⟨m, d, a, b, c, ⟨hD, hd⟩, ⟨hA, ha⟩, ⟨hB, hb⟩, ⟨hC, hc⟩, ⟨hM, hm⟩, hi⟩
    exact ⟨hM, hD, hA, hB, hC, m, hm, d, hd, a, ha, b, hb, c, hc, hi⟩

theorem row_of_reading {K : Hdr → μ → δ → α → β → γ → Dec Instr} (M : Slot Fields.mod μ) (D : Slot placeD δ) (A : Slot placeA α)
    (B : Slot placeB β) (C : Slot Fields.c γ)
    (henc : ∀ h m d a b c i, K h m d a b c = .ok i →
      encodeFields i = some (eMk op h (D.enc d) (A.enc a) (B.enc b) (C.enc c) (M.enc m)))
    (hparse : Decoder op (reading M D A B C K)) : Row op (Made K) := by
  intro f i
  constructor
  · rintro ⟨rfl, hi⟩
    obtain ⟨m, d, a, b, c, hd, ha, hb, hc, hm, hi⟩ := reading_eq_ok.mp ((hparse.eq_parse f).trans hi)
    exact ⟨⟨f.hdr, m, d, a, b, c, hi⟩,
      (henc _ _ _ _ _ _ _ hi).trans (congrArg some (eMk_eq_iff.mpr ⟨rfl, rfl, hd, ha, hb, hc, hm⟩))⟩
  · rintro ⟨⟨h, m, d, a, b, c, hi⟩, he⟩
    obtain ⟨rfl, rfl, hd, ha, hb, hc, hm⟩ := eMk_eq_iff.mp (Option.some.inj ((henc _ _ _ _ _ _ _ hi).symm.trans he))
    exact ⟨rfl, (hparse.eq_parse f).symm.trans (reading_eq_ok.mpr ⟨m, d, a, b, c, hd, ha, hb, hc, hm, hi⟩)⟩
end

/-- The instructions that `K` makes, where nothing more is to be checked. -/
abbrev Just (K : Hdr → μ → δ → α → β → γ → Instr) : Instr → Prop := Made fun h m d a b c => .ok (K h m d a b c)

/-- A row that is read place by place. -/
theorem row {K : Hdr → μ → δ → α → β → γ → Instr} (M : Slot Fields.mod μ) (D : Slot placeD δ) (A : Slot placeA α) (B : Slot placeB β)
    (C : Slot Fields.c γ)
    (henc : ∀ h m d a b c, encodeFields (K h m d a b c) = some (eMk op h (D.enc d) (A.enc a) (B.enc b) (C.enc c) (M.enc m)))
    (hparse : Decoder op (reading M D A B C fun h m d a b c => .ok (K h m d a b c))) : Row op (Just K) :=
  row_of_reading M D A B C (fun h m d a b c _ hi => Except.ok.inj hi ▸ henc h m d a b c) hparse

/-! The rows of classes 0x1 to 0x6 that begin with `dABT`, `dABCT` or `dAT`, and with a check for f32 before it or not. -/

/-- MOD is read as a type and the value `y`, and its fields are those of `u`. -/
structure TyFirst (M : Slot Fields.mod (Ty × μ)) (u : ModUse) (y : Fields → μ) : Prop where
  check : ∀ f k, M.check f k = dMod f u >>= fun _ => k
  read : ∀ f k, M.read f k = dTy f >>= fun t => k (t, y f)

/-- The same for f32. -/
structure F32First (M : Slot Fields.mod (Unit × μ)) (u : ModUse) (y : Fields → μ) : Prop where
  check : ∀ f k, M.check f k = needF32 f >>= fun _ => dMod f u >>= fun _ => k
  read : ∀ f k, M.read f k = dTy f >>= fun _ => k ((), y f)

theorem TyFirst.tyOnly : TyFirst .tyOnly { ty := true } (fun _ => ()) :=
  ⟨fun _ _ => rfl, fun _ _ => rfl⟩
theorem TyFirst.tySat : TyFirst .tySat { ty := true, sat := true } Fields.sat :=
  ⟨fun _ _ => rfl, fun _ _ => rfl⟩
theorem TyFirst.tyRnd : TyFirst .tyRnd { ty := true, rnd := true } Fields.rnd :=
  ⟨fun _ _ => rfl, fun _ _ => rfl⟩
theorem TyFirst.tyTable :
    TyFirst .tyTable { ty := true, rnd := true, sat := true, sc := true, opx := true } (fun f => f.mod.extractLsb' 0 8) :=
  ⟨fun _ _ => rfl, fun _ _ => rfl⟩
theorem F32First.f32 : F32First .f32 { ty := true } (fun _ => ()) := ⟨fun _ _ => rfl, fun _ _ => rfl⟩
theorem F32First.f32Rnd : F32First .f32Rnd { ty := true, rnd := true } Fields.rnd := ⟨fun _ _ => rfl, fun _ _ => rfl⟩

section
variable {M : Slot Fields.mod (Ty × μ)} {u : ModUse} {y : Fields → μ} (h : TyFirst M u y)
include h

theorem rowABT {K : Hdr → Ty × μ → Reg → Src → Src → Unit → Instr}
    (henc : ∀ h m d a b c, encodeFields (K h m d a b c) = some (eMk op h (eReg d) (eSrc a) (eSrc b) 0 (M.enc m)))
    (hparse : Decoder op fun f => dABT f u >>= fun x => .ok (K f.hdr (x.1, y f) x.2.1 x.2.2.1 x.2.2.2 ())) :
    Row op (Just K) := by
  refine row M (.reg Fields.cd Fields.d) (.src Fields.ca Fields.a) (.src Fields.cb Fields.b) .noC henc
    ⟨fun f => Eq.trans ?_ (hparse.eq_parse f)⟩
  simp only [reading, h.check, h.read, dABT, bind_assoc, Dec.ok_bind]
  rfl

theorem rowABCT {K : Hdr → Ty × μ → Reg → Src → Src → BitVec 10 → Instr}
    (henc : ∀ h m d a b c, encodeFields (K h m d a b c) = some (eMk op h (eReg d) (eSrc a) (eSrc b) c (M.enc m)))
    (hparse : Decoder op fun f => dABCT f u >>= fun x => .ok (K f.hdr (x.1, y f) x.2.1 x.2.2.1 x.2.2.2.1 x.2.2.2.2)) :
    Row op (Just K) := by
  refine row M (.reg Fields.cd Fields.d) (.src Fields.ca Fields.a) (.src Fields.cb Fields.b) .raw henc
    ⟨fun f => Eq.trans ?_ (hparse.eq_parse f)⟩
  simp only [reading, h.check, h.read, dABCT, bind_assoc, Dec.ok_bind]
  rfl

theorem rowAT {K : Hdr → Ty × μ → Reg → Src → Unit → Unit → Instr}
    (henc : ∀ h m d a b c, encodeFields (K h m d a b c) = some (eMk op h (eReg d) (eSrc a) e0 0 (M.enc m)))
    (hparse : Decoder op fun f => dAT f u >>= fun x => .ok (K f.hdr (x.1, y f) x.2.1 x.2.2 () ())) :
    Row op (Just K) := by
  refine row M (.reg Fields.cd Fields.d) (.src Fields.ca Fields.a) .noB .noC henc
    ⟨fun f => Eq.trans ?_ (hparse.eq_parse f)⟩
  simp only [reading, h.check, h.read, dAT, bind_assoc, Dec.ok_bind]
  rfl
end

section
variable {M : Slot Fields.mod (Unit × μ)} {u : ModUse} {y : Fields → μ} (h : F32First M u y)
include h

theorem rowF32ABT {K : Hdr → Unit × μ → Reg → Src → Src → Unit → Instr}
    (henc : ∀ h m d a b c, encodeFields (K h m d a b c) = some (eMk op h (eReg d) (eSrc a) (eSrc b) 0 (M.enc m)))
    (hparse : Decoder op fun f => needF32 f >>= fun _ => dABT f u >>= fun x => .ok (K f.hdr ((), y f) x.2.1 x.2.2.1 x.2.2.2 ())) :
    Row op (Just K) := by
  refine row M (.reg Fields.cd Fields.d) (.src Fields.ca Fields.a) (.src Fields.cb Fields.b) .noC henc
    ⟨fun f => Eq.trans ?_ (hparse.eq_parse f)⟩
  simp only [reading, h.check, h.read, dABT, bind_assoc, Dec.ok_bind]
  rfl

theorem rowF32ABCT {K : Hdr → Unit × μ → Reg → Src → Src → BitVec 10 → Instr}
    (henc : ∀ h m d a b c, encodeFields (K h m d a b c) = some (eMk op h (eReg d) (eSrc a) (eSrc b) c (M.enc m)))
    (hparse : Decoder op fun f => needF32 f >>= fun _ => dABCT f u >>= fun x => .ok (K f.hdr ((), y f) x.2.1 x.2.2.1 x.2.2.2.1 x.2.2.2.2)) :
    Row op (Just K) := by
  refine row M (.reg Fields.cd Fields.d) (.src Fields.ca Fields.a) (.src Fields.cb Fields.b) .raw henc
    ⟨fun f => Eq.trans ?_ (hparse.eq_parse f)⟩
  simp only [reading, h.check, h.read, dABCT, bind_assoc, Dec.ok_bind]
  rfl

theorem rowF32AT {K : Hdr → Unit × μ → Reg → Src → Unit → Unit → Instr}
    (henc : ∀ h m d a b c, encodeFields (K h m d a b c) = some (eMk op h (eReg d) (eSrc a) e0 0 (M.enc m)))
    (hparse : Decoder op fun f => needF32 f >>= fun _ => dAT f u >>= fun x => .ok (K f.hdr ((), y f) x.2.1 x.2.2 () ())) :
    Row op (Just K) := by
  refine row M (.reg Fields.cd Fields.d) (.src Fields.ca Fields.a) .noB .noC henc
    ⟨fun f => Eq.trans ?_ (hparse.eq_parse f)⟩
  simp only [reading, h.check, h.read, dAT, bind_assoc, Dec.ok_bind]
  rfl
end
end

namespace Row

theorem nop : Row 0x000 (Just fun h (_ _ _ _ _ : Unit) => .nop h) := row .unused .noD .noA .noB .noC (fun _ _ _ _ _ _ => rfl) {}
theorem brx : Row 0x002 (Just fun h (_ _ : Unit) a (_ _ : Unit) => .brx h a) :=
  row .unused .noD (.reg _ _) .noB .noC (fun _ _ _ _ _ _ => rfl) {}
theorem ret : Row 0x004 (Just fun h (_ _ : Unit) a (_ _ : Unit) => .ret h a) :=
  row .unused .noD (.reg _ _) .noB .noC (fun _ _ _ _ _ _ => rfl) {}
theorem exit : Row 0x005 (Just fun h (_ _ _ _ _ : Unit) => .exit h) := row .unused .noD .noA .noB .noC (fun _ _ _ _ _ _ => rfl) {}
theorem rjset : Row 0x006 (Just fun h (_ : Unit) d (_ _ _ : Unit) => .rjset h d) :=
  row .unused (.j _ _) .noA .noB .noC (fun _ _ _ _ _ _ => rfl) {}
theorem rjoin : Row 0x007 (Just fun h (_ : Unit) d (_ _ _ : Unit) => .rjoin h d) :=
  row .unused (.j _ _) .noA .noB .noC (fun _ _ _ _ _ _ => rfl) {}
theorem rjclr : Row 0x008 (Just fun h (_ : Unit) d (_ _ _ : Unit) => .rjclr h d) :=
  row .unused (.j _ _) .noA .noB .noC (fun _ _ _ _ _ _ => rfl) {}
theorem yield : Row 0x009 (Just fun h (_ _ : Unit) a (_ _ : Unit) => .yield h a) :=
  row .unused .noD (.imm10 _ _) .noB .noC (fun _ _ _ _ _ _ => rfl) {}
theorem waitf : Row 0x00A (Just fun h (_ _ _ _ _ : Unit) => .waitf h) := row .unused .noD .noA .noB .noC (fun _ _ _ _ _ _ => rfl) {}
theorem trap : Row 0x00B (Just fun h (_ _ : Unit) a (_ _ : Unit) => .trap h a) :=
  row .unused .noD (.simm _ _) .noB .noC (fun _ _ _ _ _ _ => rfl) {}
theorem bkpt : Row 0x00C (Just fun h (_ _ _ _ _ : Unit) => .bkpt h) := row .unused .noD .noA .noB .noC (fun _ _ _ _ _ _ => rfl) {}
theorem uivec : Row 0x00D (Just fun h (_ _ : Unit) a (_ _ : Unit) => .uivec h a) :=
  row .unused .noD (.simm _ _) .noB .noC (fun _ _ _ _ _ _ => rfl) {}
theorem uiret : Row 0x00E (Just fun h (_ _ _ _ _ : Unit) => .uiret h) := row .unused .noD .noA .noB .noC (fun _ _ _ _ _ _ => rfl) {}
theorem iadd : Row 0x040 (Just fun h (m : Ty × Bool) d a b (_ : Unit) => .iadd h m.1 m.2 d a b) :=
  rowABT .tySat (fun _ _ _ _ _ _ => rfl) {}
theorem isub : Row 0x041 (Just fun h (m : Ty × Bool) d a b (_ : Unit) => .isub h m.1 m.2 d a b) :=
  rowABT .tySat (fun _ _ _ _ _ _ => rfl) {}
theorem iaddc : Row 0x042 (Just fun h m d a b c => .iaddc h m d a b c) :=
  row .ty (.reg _ _) (.src _ _) (.src _ _) .cp (fun _ _ _ _ _ _ => rfl) {}
theorem isubb : Row 0x043 (Just fun h m d a b c => .isubb h m d a b c) :=
  row .ty (.reg _ _) (.src _ _) (.src _ _) .cp (fun _ _ _ _ _ _ => rfl) {}
theorem imul : Row 0x044 (Just fun h (m : Ty × Bool) d a b (_ : Unit) => .imul h m.1 m.2 d a b) :=
  rowABT .tySat (fun _ _ _ _ _ _ => rfl) {}
theorem imulh : Row 0x045 (Just fun h (m : Ty × Unit) d a b (_ : Unit) => .imulh h m.1 d a b) :=
  rowABT .tyOnly (fun _ _ _ _ _ _ => rfl) {}
theorem imad : Row 0x046 (Just fun h (m : Ty × Bool) d a b c => .imad h m.1 m.2 d a b c) := rowABCT .tySat (fun _ _ _ _ _ _ => rfl) {}
theorem idiv : Row 0x047 (Just fun h (m : Ty × Unit) d a b (_ : Unit) => .idiv h m.1 d a b) :=
  rowABT .tyOnly (fun _ _ _ _ _ _ => rfl) {}
theorem irem : Row 0x048 (Just fun h (m : Ty × Unit) d a b (_ : Unit) => .irem h m.1 d a b) :=
  rowABT .tyOnly (fun _ _ _ _ _ _ => rfl) {}
theorem imin : Row 0x049 (Just fun h (m : Ty × Unit) d a b (_ : Unit) => .imin h m.1 d a b) :=
  rowABT .tyOnly (fun _ _ _ _ _ _ => rfl) {}
theorem imax : Row 0x04A (Just fun h (m : Ty × Unit) d a b (_ : Unit) => .imax h m.1 d a b) :=
  rowABT .tyOnly (fun _ _ _ _ _ _ => rfl) {}
theorem iabs : Row 0x04B (Just fun h (m : Ty × Bool) d a (_ _ : Unit) => .iabs h m.1 m.2 d a) :=
  rowAT .tySat (fun _ _ _ _ _ _ => rfl) {}
theorem ineg : Row 0x04C (Just fun h (m : Ty × Bool) d a (_ _ : Unit) => .ineg h m.1 m.2 d a) :=
  rowAT .tySat (fun _ _ _ _ _ _ => rfl) {}
theorem idp4 : Row 0x04D (Just fun h (m : Ty × Bool) d a b c => .idp4 h m.1 m.2 d a b c) := rowABCT .tySat (fun _ _ _ _ _ _ => rfl) {}
theorem idp2 : Row 0x04E (Just fun h (m : Ty × Bool) d a b c => .idp2 h m.1 m.2 d a b c) := rowABCT .tySat (fun _ _ _ _ _ _ => rfl) {}
theorem iadd3 : Row 0x04F (Just fun h (m : Ty × Bool) d a b c => .iadd3 h m.1 m.2 d a b c) := rowABCT .tySat (fun _ _ _ _ _ _ => rfl) {}
theorem and : Row 0x080 (Just fun h (m : Ty × Unit) d a b (_ : Unit) => .and h m.1 d a b) := rowABT .tyOnly (fun _ _ _ _ _ _ => rfl) {}
theorem or : Row 0x081 (Just fun h (m : Ty × Unit) d a b (_ : Unit) => .or h m.1 d a b) := rowABT .tyOnly (fun _ _ _ _ _ _ => rfl) {}
theorem xor : Row 0x082 (Just fun h (m : Ty × Unit) d a b (_ : Unit) => .xor h m.1 d a b) := rowABT .tyOnly (fun _ _ _ _ _ _ => rfl) {}
theorem andn : Row 0x083 (Just fun h (m : Ty × Unit) d a b (_ : Unit) => .andn h m.1 d a b) :=
  rowABT .tyOnly (fun _ _ _ _ _ _ => rfl) {}
theorem not : Row 0x084 (Just fun h (m : Ty × Unit) d a (_ _ : Unit) => .not h m.1 d a) := rowAT .tyOnly (fun _ _ _ _ _ _ => rfl) {}
theorem bmix3 : Row 0x085 (Just fun h (m : Ty × BitVec 8) d a b c => .bmix3 h m.1 d a b c m.2) :=
  rowABCT .tyTable (fun _ _ _ _ _ _ => rfl) {}
theorem shl : Row 0x086 (Just fun h (m : Ty × Unit) d a b (_ : Unit) => .shl h m.1 d a b) := rowABT .tyOnly (fun _ _ _ _ _ _ => rfl) {}
theorem shr : Row 0x087 (Just fun h (m : Ty × Unit) d a b (_ : Unit) => .shr h m.1 d a b) := rowABT .tyOnly (fun _ _ _ _ _ _ => rfl) {}
theorem sar : Row 0x088 (Just fun h (m : Ty × Unit) d a b (_ : Unit) => .sar h m.1 d a b) := rowABT .tyOnly (fun _ _ _ _ _ _ => rfl) {}
theorem rotl : Row 0x089 (Just fun h (m : Ty × Unit) d a b (_ : Unit) => .rotl h m.1 d a b) :=
  rowABT .tyOnly (fun _ _ _ _ _ _ => rfl) {}
theorem rotr : Row 0x08A (Just fun h (m : Ty × Unit) d a b (_ : Unit) => .rotr h m.1 d a b) :=
  rowABT .tyOnly (fun _ _ _ _ _ _ => rfl) {}
theorem dshr : Row 0x08B (Just fun h (m : Ty × Unit) d a b c => .dshr h m.1 d a b c) := rowABCT .tyOnly (fun _ _ _ _ _ _ => rfl) {}
theorem ones : Row 0x08C (Just fun h (m : Ty × Unit) d a (_ _ : Unit) => .ones h m.1 d a) := rowAT .tyOnly (fun _ _ _ _ _ _ => rfl) {}
theorem clz : Row 0x08D (Just fun h (m : Ty × Unit) d a (_ _ : Unit) => .clz h m.1 d a) := rowAT .tyOnly (fun _ _ _ _ _ _ => rfl) {}
theorem ctz : Row 0x08E (Just fun h (m : Ty × Unit) d a (_ _ : Unit) => .ctz h m.1 d a) := rowAT .tyOnly (fun _ _ _ _ _ _ => rfl) {}
theorem brev : Row 0x08F (Just fun h (m : Ty × Unit) d a (_ _ : Unit) => .brev h m.1 d a) := rowAT .tyOnly (fun _ _ _ _ _ _ => rfl) {}
theorem fxtr : Row 0x090 (Just fun h (m : Ty × Unit) d a b (_ : Unit) => .fxtr h m.1 d a b) :=
  rowABT .tyOnly (fun _ _ _ _ _ _ => rfl) {}
theorem fins : Row 0x091 (Just fun h (m : Ty × Unit) d a b c => .fins h m.1 d a b c) := rowABCT .tyOnly (fun _ _ _ _ _ _ => rfl) {}
theorem clmul : Row 0x092 (Just fun h (m : Ty × Unit) d a b (_ : Unit) => .clmul h m.1 d a b) :=
  rowABT .tyOnly (fun _ _ _ _ _ _ => rfl) {}
theorem clmulh : Row 0x093 (Just fun h (m : Ty × Unit) d a b (_ : Unit) => .clmulh h m.1 d a b) :=
  rowABT .tyOnly (fun _ _ _ _ _ _ => rfl) {}
theorem fadd : Row 0x0C0 (Just fun h (m : Unit × Rnd) d a b (_ : Unit) => .fadd h m.2 d a b) :=
  rowF32ABT .f32Rnd (fun _ _ _ _ _ _ => rfl) {}
theorem fsub : Row 0x0C1 (Just fun h (m : Unit × Rnd) d a b (_ : Unit) => .fsub h m.2 d a b) :=
  rowF32ABT .f32Rnd (fun _ _ _ _ _ _ => rfl) {}
theorem fmul : Row 0x0C2 (Just fun h (m : Unit × Rnd) d a b (_ : Unit) => .fmul h m.2 d a b) :=
  rowF32ABT .f32Rnd (fun _ _ _ _ _ _ => rfl) {}
theorem ffma : Row 0x0C3 (Just fun h (m : Unit × Rnd) d a b c => .ffma h m.2 d a b c) := rowF32ABCT .f32Rnd (fun _ _ _ _ _ _ => rfl) {}
theorem fmin : Row 0x0C4 (Just fun h (_ : Unit × Unit) d a b (_ : Unit) => .fmin h d a b) := rowF32ABT .f32 (fun _ _ _ _ _ _ => rfl) {}
theorem fmax : Row 0x0C5 (Just fun h (_ : Unit × Unit) d a b (_ : Unit) => .fmax h d a b) := rowF32ABT .f32 (fun _ _ _ _ _ _ => rfl) {}
theorem frnd : Row 0x0C6 (Just fun h (m : Unit × Rnd) d a (_ _ : Unit) => .frnd h m.2 d a) :=
  rowF32AT .f32Rnd (fun _ _ _ _ _ _ => rfl) {}
theorem fscale : Row 0x0C7 (Just fun h (m : Unit × Rnd) d a b (_ : Unit) => .fscale h m.2 d a b) :=
  rowF32ABT .f32Rnd (fun _ _ _ _ _ _ => rfl) {}
theorem fclass : Row 0x0C8 (Just fun h (_ : Unit × Unit) d a (_ _ : Unit) => .fclass h d a) := rowF32AT .f32 (fun _ _ _ _ _ _ => rfl) {}
theorem fabs : Row 0x0C9 (Just fun h (_ : Unit × Unit) d a (_ _ : Unit) => .fabs h d a) := rowF32AT .f32 (fun _ _ _ _ _ _ => rfl) {}
theorem fneg : Row 0x0CA (Just fun h (_ : Unit × Unit) d a (_ _ : Unit) => .fneg h d a) := rowF32AT .f32 (fun _ _ _ _ _ _ => rfl) {}
theorem fcpys : Row 0x0CB (Just fun h (_ : Unit × Unit) d a b (_ : Unit) => .fcpys h d a b) :=
  rowF32ABT .f32 (fun _ _ _ _ _ _ => rfl) {}
theorem hadd2 : Row 0x100 (Just fun h (m : Ty × Rnd) d a b (_ : Unit) => .hadd2 h m.1 m.2 d a b) :=
  rowABT .tyRnd (fun _ _ _ _ _ _ => rfl) {}
theorem hmul2 : Row 0x101 (Just fun h (m : Ty × Rnd) d a b (_ : Unit) => .hmul2 h m.1 m.2 d a b) :=
  rowABT .tyRnd (fun _ _ _ _ _ _ => rfl) {}
theorem hfma2 : Row 0x102 (Just fun h (m : Ty × Rnd) d a b c => .hfma2 h m.1 m.2 d a b c) := rowABCT .tyRnd (fun _ _ _ _ _ _ => rfl) {}
theorem hmin2 : Row 0x103 (Just fun h (m : Ty × Unit) d a b (_ : Unit) => .hmin2 h m.1 d a b) :=
  rowABT .tyOnly (fun _ _ _ _ _ _ => rfl) {}
theorem hmax2 : Row 0x104 (Just fun h (m : Ty × Unit) d a b (_ : Unit) => .hmax2 h m.1 d a b) :=
  rowABT .tyOnly (fun _ _ _ _ _ _ => rfl) {}
theorem qblk : Row 0x107 (Just fun h m d a b (_ : Unit) => .qblk h m d a b) :=
  row .b4Blk (.v _ _) (.src _ _) (.src _ _) .noC (fun _ _ _ _ _ _ => rfl) {}
theorem dqblk : Row 0x108 (Just fun h (_ : Unit) d a (_ _ : Unit) => .dqblk h d a) :=
  row .b4 (.v _ _) (.src _ _) .noB .noC (fun _ _ _ _ _ _ => rfl) {}
theorem mov : Row 0x140 (Just fun h (m : Ty × Unit) d a (_ _ : Unit) => .mov h m.1 d a) := rowAT .tyOnly (fun _ _ _ _ _ _ => rfl) {}
theorem movh : Row 0x142 (Just fun h (m : Ty × Unit) d a b (_ : Unit) => .movh h m.1 d a b) :=
  rowABT .tyOnly (fun _ _ _ _ _ _ => rfl) {}
theorem sel : Row 0x143 (Just fun h m d a b c => .sel h m d a b c) :=
  row .ty (.reg _ _) (.src _ _) (.src _ _) .cp (fun _ _ _ _ _ _ => rfl) {}
theorem icmp : Row 0x144 (Just fun h (m : Ty × Cmp) d a b (_ : Unit) => .icmp h m.1 m.2 d a b) :=
  row .tyCmp (.p _ _) (.src _ _) (.src _ _) .noC (fun _ _ _ _ _ _ => rfl) {}
theorem fcmp : Row 0x145 (Just fun h m d a b (_ : Unit) => .fcmp h m d a b) :=
  row .f32Cmp (.p _ _) (.src _ _) (.src _ _) .noC (fun _ _ _ _ _ _ => rfl) {}
theorem plog : Row 0x146 (Just fun h m d a b (_ : Unit) => .plog h m d a b) :=
  row .plog (.p _ _) (.p _ _) (.p _ _) .noC (fun _ _ _ _ _ _ => rfl) {}
theorem rdsys : Row 0x14A (Just fun h m d a b (_ : Unit) => .rdsys h d m a b) :=
  row .wide (.reg _ _) (.imm10 _ _) (.imm10 _ _) .noC (fun _ _ _ _ _ _ => rfl) {}
theorem wrsys : Row 0x14B (Just fun h (_ : Unit) d a (_ _ : Unit) => .wrsys h d a) :=
  row .unused (.imm10 _ _) (.simm _ _) .noB .noC (fun _ _ _ _ _ _ => rfl) {}
theorem frcp : Row 0x180 (Just fun h (m : Unit × Rnd) d a (_ _ : Unit) => .frcp h m.2 d a) :=
  rowF32AT .f32Rnd (fun _ _ _ _ _ _ => rfl) {}
theorem frsq : Row 0x181 (Just fun h (_ : Unit × Unit) d a (_ _ : Unit) => .frsq h d a) := rowF32AT .f32 (fun _ _ _ _ _ _ => rfl) {}
theorem fsqrt : Row 0x182 (Just fun h (m : Unit × Rnd) d a (_ _ : Unit) => .fsqrt h m.2 d a) :=
  rowF32AT .f32Rnd (fun _ _ _ _ _ _ => rfl) {}
theorem fexp2 : Row 0x183 (Just fun h (_ : Unit × Unit) d a (_ _ : Unit) => .fexp2 h d a) := rowF32AT .f32 (fun _ _ _ _ _ _ => rfl) {}
theorem flog2 : Row 0x184 (Just fun h (_ : Unit × Unit) d a (_ _ : Unit) => .flog2 h d a) := rowF32AT .f32 (fun _ _ _ _ _ _ => rfl) {}
theorem fsin : Row 0x185 (Just fun h (_ : Unit × Unit) d a (_ _ : Unit) => .fsin h d a) := rowF32AT .f32 (fun _ _ _ _ _ _ => rfl) {}
theorem fcos : Row 0x186 (Just fun h (_ : Unit × Unit) d a (_ _ : Unit) => .fcos h d a) := rowF32AT .f32 (fun _ _ _ _ _ _ => rfl) {}
theorem ftanh : Row 0x187 (Just fun h (_ : Unit × Unit) d a (_ _ : Unit) => .ftanh h d a) := rowF32AT .f32 (fun _ _ _ _ _ _ => rfl) {}
theorem lxch : Row 0x188 (Just fun h (m : Ty × LxMode) d a b (_ : Unit) => .lxch h m.1 m.2 d a b) :=
  row .tyLx (.v _ _) (.src _ _) (.src _ _) .noC (fun _ _ _ _ _ _ => rfl) {}
theorem redux : Row 0x189 (Just fun h (m : Ty × RedOp × Rnd) d a (_ _ : Unit) => .redux h m.1 m.2.1 m.2.2 d a) :=
  row .tyRedRnd (.reg _ _) (.src _ _) .noB .noC (fun _ _ _ _ _ _ => rfl) {}
theorem scan : Row 0x18A (Just fun h (m : Ty × RedOp × Rnd) d a (_ _ : Unit) => .scan h m.1 m.2.1 m.2.2 d a) :=
  row .tyRedRnd (.v _ _) (.src _ _) .noB .noC (fun _ _ _ _ _ _ => rfl) {}
theorem sink : Row 0x200 (Just fun h (_ _ _ _ : Unit) c => .sink h c) := row .unused .noD .noA .noB .c4 (fun _ _ _ _ _ _ => rfl) {}
theorem srec : Row 0x201 (Just fun h (_ : Unit) d (_ _ _ : Unit) => .srec h d) :=
  row .unused (.v _ _) .noA .noB .noC (fun _ _ _ _ _ _ => rfl) {}
theorem fence : Row 0x202 (Just fun h (m : Ord × Scope) (_ _ _ _ : Unit) => .fence h m.1 m.2) :=
  row .fence .noD .noA .noB .noC (fun _ _ _ _ _ _ => rfl) {}
theorem cjoin : Row 0x203 (Just fun h (_ : Unit) d a b (_ : Unit) => .cjoin h d a b) :=
  row .unused (.imm4 _ _) (.simm _ _) (.simm _ _) .noC (fun _ _ _ _ _ _ => rfl) {}
theorem cleave : Row 0x204 (Just fun h (_ : Unit) d (_ _ _ : Unit) => .cleave h d) :=
  row .unused (.imm4 _ _) .noA .noB .noC (fun _ _ _ _ _ _ => rfl) {}
theorem cld : Row 0x205 (Just fun h m d a b (_ : Unit) => .cld h m d a b) :=
  row .ui (.imm4 _ _) (.s _ _) (.s _ _) .noC (fun _ _ _ _ _ _ => rfl) {}
theorem cstat : Row 0x206 (Just fun h (_ : Unit) d a (_ _ : Unit) => .cstat h d a) :=
  row .unused (.s _ _) (.imm4 _ _) .noB .noC (fun _ _ _ _ _ _ => rfl) {}
theorem cpy : Row 0x240 (Just fun h m d a (_ _ : Unit) => .cpy h m d a) :=
  row .ui (.p _ _) (.reg _ _) .noB .noC (fun _ _ _ _ _ _ => rfl) {}
theorem cpyfill : Row 0x241 (Just fun h m d a (_ _ : Unit) => .cpyfill h m d a) :=
  row .ui (.p _ _) (.reg _ _) .noB .noC (fun _ _ _ _ _ _ => rfl) {}
theorem cbacq : Row 0x243 (Just fun h (_ : Unit) d a (_ _ : Unit) => .cbacq h d a) :=
  row .unused (.reg _ _) (.imm4 _ _) .noB .noC (fun _ _ _ _ _ _ => rfl) {}
theorem cbrel : Row 0x244 (Just fun h (_ : Unit) d a (_ _ : Unit) => .cbrel h d a) :=
  row .unused (.imm4 _ _) (.s _ _) .noB .noC (fun _ _ _ _ _ _ => rfl) {}
theorem blws : Row 0x245 (Just fun h m d a (_ _ : Unit) => .blws h m d a) :=
  row .ty (.q _ _) (.s _ _) .noB .noC (fun _ _ _ _ _ _ => rfl) {}
theorem blwstop : Row 0x246 (Just fun h (_ : Unit) d (_ _ _ : Unit) => .blwstop h d) :=
  row .unused (.q _ _) .noA .noB .noC (fun _ _ _ _ _ _ => rfl) {}
theorem qcfg : Row 0x247 (Just fun h (_ : Unit) d a b (_ : Unit) => .qcfg h d a b) :=
  row .unused (.q _ _) (.simm _ _) (.simm _ _) .noC (fun _ _ _ _ _ _ => rfl) {}
theorem nmcpy : Row 0x248 (Just fun h m d a b (_ : Unit) => .nmcpy h m d a b) :=
  row .ui (.s _ _) (.s _ _) (.simm _ _) .noC (fun _ _ _ _ _ _ => rfl) {}
theorem nmzero : Row 0x249 (Just fun h m d a (_ _ : Unit) => .nmzero h m d a) :=
  row .ui (.s _ _) (.simm _ _) .noB .noC (fun _ _ _ _ _ _ => rfl) {}
theorem obres : Row 0x280 (Just fun h (_ : Unit) d a (_ _ : Unit) => .obres h d a) :=
  row .unused (.imm4 _ _) (.s _ _) .noB .noC (fun _ _ _ _ _ _ => rfl) {}
theorem obrel : Row 0x281 (Just fun h (_ : Unit) d (_ _ _ : Unit) => .obrel h d) :=
  row .unused (.imm4 _ _) .noA .noB .noC (fun _ _ _ _ _ _ => rfl) {}
theorem scpy : Row 0x282 (Just fun h m (_ : Unit) a b (_ : Unit) => .scpy h m a b) :=
  row .ui .noD (.s _ _) (.s _ _) .noC (fun _ _ _ _ _ _ => rfl) {}
theorem ptld : Row 0x283 (Just fun h m d a (_ _ : Unit) => .ptld h m d a) :=
  row .ui (.imm3 _ _) (.s _ _) .noB .noC (fun _ _ _ _ _ _ => rfl) {}
theorem accz : Row 0x285 (Just fun h (_ _ : Unit) a b (_ : Unit) => .accz h a b) :=
  row .unused .noD (.simm _ _) (.simm _ _) .noC (fun _ _ _ _ _ _ => rfl) {}
theorem accld : Row 0x286 (Just fun h (m : Ty × Bool) (_ : Unit) a b (_ : Unit) => .accld h m.1 m.2 a b) :=
  row .tyUi .noD (.s _ _) (.s _ _) .noC (fun _ _ _ _ _ _ => rfl) {}
theorem accst : Row 0x287 (Just fun h (m : Ty × Rnd × Bool) (_ : Unit) a b (_ : Unit) => .accst h m.1 m.2.1 m.2.2 a b) :=
  row .tyRndUi .noD (.s _ _) (.s _ _) .noC (fun _ _ _ _ _ _ => rfl) {}
theorem bar : Row 0x2C0 (Just fun h m (_ _ _ _ : Unit) => .bar h m) := row .scope .noD .noA .noB .noC (fun _ _ _ _ _ _ => rfl) {}
theorem phase : Row 0x2C1 (Just fun h (_ _ : Unit) a (_ _ : Unit) => .phase h a) :=
  row .unused .noD (.simm _ _) .noB .noC (fun _ _ _ _ _ _ => rfl) {}
theorem signal : Row 0x2C2 (Just fun h (_ _ : Unit) a (_ _ : Unit) => .signal h a) :=
  row .unused .noD (.simm _ _) .noB .noC (fun _ _ _ _ _ _ => rfl) {}
theorem amsg : Row 0x2C4 (Just fun h (_ _ : Unit) a b (_ : Unit) => .amsg h a b) :=
  row .unused .noD (.s _ _) (.v _ _) .noC (fun _ _ _ _ _ _ => rfl) {}
theorem tnow : Row 0x2C5 (Just fun h (_ : Unit) d a (_ _ : Unit) => .tnow h d a) :=
  row .z64 (.reg _ _) (.simm _ _) .noB .noC (fun _ _ _ _ _ _ => rfl) {}
theorem twait : Row 0x2C6 (Just fun h (_ _ : Unit) a (_ _ : Unit) => .twait h a) :=
  row .unused .noD (.s _ _) .noB .noC (fun _ _ _ _ _ _ => rfl) {}
theorem gwnote : Row 0x2C7 (Just fun h (_ _ : Unit) a (_ _ : Unit) => .gwnote h a) :=
  row .unused .noD (.s _ _) .noB .noC (fun _ _ _ _ _ _ => rfl) {}
theorem apxe : Row 0x301 (Just fun h (_ _ _ _ _ : Unit) => .apxe h) := row .unused .noD .noA .noB .noC (fun _ _ _ _ _ _ => rfl) {}
theorem ftcfg : Row 0x302 (Just fun h (_ _ : Unit) a b (_ : Unit) => .ftcfg h a b) :=
  row .unused .noD (.simm _ _) (.s _ _) .noC (fun _ _ _ _ _ _ => rfl) {}
theorem ftinv : Row 0x303 (Just fun h (_ _ : Unit) a (_ _ : Unit) => .ftinv h a) :=
  row .unused .noD (.simm _ _) .noB .noC (fun _ _ _ _ _ _ => rfl) {}
theorem ftstat : Row 0x304 (Just fun h (_ : Unit) d a (_ _ : Unit) => .ftstat h d a) :=
  row .unused (.s _ _) (.simm _ _) .noB .noC (fun _ _ _ _ _ _ => rfl) {}
theorem sysrd : Row 0x340 (Just fun h (_ : Unit) d a (_ _ : Unit) => .sysrd h d a) :=
  row .unused (.s _ _) (.s _ _) .noB .noC (fun _ _ _ _ _ _ => rfl) {}
theorem syswr : Row 0x341 (Just fun h (_ _ : Unit) a b (_ : Unit) => .syswr h a b) :=
  row .unused .noD (.s _ _) (.s _ _) .noC (fun _ _ _ _ _ _ => rfl) {}
theorem slcfg : Row 0x342 (Just fun h (_ _ : Unit) a (_ _ : Unit) => .slcfg h a) :=
  row .unused .noD (.simm _ _) .noB .noC (fun _ _ _ _ _ _ => rfl) {}
theorem tlbinv : Row 0x343 (Just fun h (_ _ : Unit) a b c => .tlbinv h a b c) :=
  row .unused .noD (.simm _ _) (.s _ _) .c4 (fun _ _ _ _ _ _ => rfl) {}
theorem crrel : Row 0x345 (Just fun h (_ _ _ _ _ : Unit) => .crrel h) := row .unused .noD .noA .noB .noC (fun _ _ _ _ _ _ => rfl) {}

end Row

/-! ### Rows of class 0x7 -/

section
variable {μ δ ρ : Type} {op : BitVec 10} (M : Slot Fields.mod μ) (D : Slot placeD δ) (R : Slot placeR ρ)

/-- LD, ST and RED read MOD, the register and the reference. -/
noncomputable def readingRefLast (K : Hdr → μ → δ → ρ → Instr) (f : Fields) : Dec Instr :=
  M.check f <| D.check f <| R.check f <| M.read f fun m => D.read f fun d => R.read f fun r => .ok (K f.hdr m d r)

/-- The other rows of the class read the reference before MOD and the register. -/
noncomputable def readingRefFirst (K : Hdr → μ → δ → ρ → Instr) (f : Fields) : Dec Instr :=
  M.check f <| D.check f <| R.check f <| R.read f fun r => M.read f fun m => D.read f fun d => .ok (K f.hdr m d r)

variable {M D R}

theorem readingRefLast_eq_ok {K : Hdr → μ → δ → ρ → Instr} {f : Fields} {i : Instr} : readingRefLast M D R K f = .ok i ↔
    ∃ m d r, f.mod = M.enc m ∧ placeD f = D.enc d ∧ placeR f = R.enc r ∧ K f.hdr m d r = i := by
  simp only [readingRefLast, Slot.check_eq_ok, Slot.read_eq_ok, ← Slot.spelled, Except.ok.injEq]
  constructor
  · rintro ⟨hM, hD, hR, m, hm, d, hd, r, hr, hi⟩
    exact ⟨m, d, r, ⟨hM, hm⟩, ⟨hD, hd⟩, ⟨hR, hr⟩, hi⟩
  · rintro ⟨m, d, r, ⟨hM, hm⟩, ⟨hD, hd⟩, ⟨hR, hr⟩, hi⟩
    exact ⟨hM, hD, hR, m, hm, d, hd, r, hr, hi⟩

theorem readingRefFirst_eq_ok {K : Hdr → μ → δ → ρ → Instr} {f : Fields} {i : Instr} : readingRefFirst M D R K f = .ok i ↔
    ∃ m d r, f.mod = M.enc m ∧ placeD f = D.enc d ∧ placeR f = R.enc r ∧ K f.hdr m d r = i := by
  simp only [readingRefFirst, Slot.check_eq_ok, Slot.read_eq_ok, ← Slot.spelled, Except.ok.injEq]
  constructor
  · rintro ⟨hM, hD, hR, r, hr, m, hm, d, hd, hi⟩
    exact ⟨m, d, r, ⟨hM, hm⟩, ⟨hD, hd⟩, ⟨hR, hr⟩, hi⟩
  · rintro ⟨m, d, r, ⟨hM, hm⟩, ⟨hD, hd⟩, ⟨hR, hr⟩, hi⟩
    exact ⟨hM, hD, hR, r, hr, m, hm, d, hd, hi⟩

/-- The instructions that `K` makes of MOD, the register and the reference. -/
def MadeRef (K : Hdr → μ → δ → ρ → Instr) (i : Instr) : Prop := ∃ h m d r, K h m d r = i

theorem row_of_ref {K : Hdr → μ → δ → ρ → Instr}
    (henc : ∀ h m d r, encodeFields (K h m d r) = some (eMk op h (D.enc d) (R.enc r).1 (R.enc r).2.1 (R.enc r).2.2 (M.enc m)))
    {g : Fields → Dec Instr} (hparse : Decoder op g)
    (hg : ∀ {f i}, g f = .ok i ↔ ∃ m d r, f.mod = M.enc m ∧ placeD f = D.enc d ∧ placeR f = R.enc r ∧ K f.hdr m d r = i) :
    Row op (MadeRef K) := by
  intro f i
  constructor
  · rintro ⟨rfl, hi⟩
    obtain ⟨m, d, r, hm, hd, hr, rfl⟩ := hg.mp ((hparse.eq_parse f).trans hi)
    refine ⟨⟨f.hdr, m, d, r, rfl⟩, (henc _ _ _ _).trans (congrArg some (eMk_eq_iff.mpr ⟨rfl, rfl, hd, ?_, ?_, ?_, hm⟩))⟩
    · exact congrArg (·.1) hr
    · exact congrArg (·.2.1) hr
    · exact congrArg (·.2.2) hr
  · rintro ⟨⟨h, m, d, r, rfl⟩, he⟩
    obtain ⟨rfl, rfl, hd, ha, hb, hc, hm⟩ := eMk_eq_iff.mp (Option.some.inj ((henc _ _ _ _).symm.trans he))
    exact ⟨rfl, (hparse.eq_parse f).symm.trans (hg.mpr ⟨m, d, r, hm, hd, Prod.ext ha (Prod.ext hb hc), rfl⟩)⟩

variable (M D R)

theorem rowRefLast {K : Hdr → μ → δ → ρ → Instr}
    (henc : ∀ h m d r, encodeFields (K h m d r) = some (eMk op h (D.enc d) (R.enc r).1 (R.enc r).2.1 (R.enc r).2.2 (M.enc m)))
    (hparse : Decoder op (readingRefLast M D R K)) : Row op (MadeRef K) :=
  row_of_ref henc hparse readingRefLast_eq_ok

theorem rowRefFirst {K : Hdr → μ → δ → ρ → Instr}
    (henc : ∀ h m d r, encodeFields (K h m d r) = some (eMk op h (D.enc d) (R.enc r).1 (R.enc r).2.1 (R.enc r).2.2 (M.enc m)))
    (hparse : Decoder op (readingRefFirst M D R K)) : Row op (MadeRef K) :=
  row_of_ref henc hparse readingRefFirst_eq_ok
end

namespace Row

theorem ld : Row 0x1C0 (MadeRef fun h (m : Ty × Bool × Bool × Scope) d r => .ld h m.1 m.2.1 m.2.2.1 m.2.2.2 d r) :=
  rowRefLast .load (.v _ _) .ref (fun _ _ _ _ => rfl) {}
theorem st : Row 0x1C1 (MadeRef fun h (m : Ty × Bool × Bool × Scope) d r => .st h m.1 m.2.1 m.2.2.1 m.2.2.2 d r) :=
  rowRefLast .store (.v _ _) .ref (fun _ _ _ _ => rfl) {}
theorem lds : Row 0x1C2 (MadeRef fun h (m : Ty × Bool × Bool) d (r : BitVec 6 × BitVec 10 × BitVec 10) =>
    .lds h m.1 m.2.1 m.2.2 d r.1 r.2.1 r.2.2) := rowRefFirst .localLoad (.v _ _) .ref7 (fun _ _ _ _ => rfl) {}
theorem sts : Row 0x1C3 (MadeRef fun h (m : Ty × Bool × Bool) d (r : BitVec 6 × BitVec 10 × BitVec 10) =>
    .sts h m.1 m.2.1 m.2.2 d r.1 r.2.1 r.2.2) := rowRefFirst .localStore (.v _ _) .ref7 (fun _ _ _ _ => rfl) {}
theorem atom : Row 0x1C4 (MadeRef fun h (m : AtomOp × Ty × Ord × Scope) d (r : MemRef) =>
    .atom h m.1 m.2.1 m.2.2.1 m.2.2.2 d r.base r.off r.disp r.pk) := rowRefFirst .atom (.v _ _) .refX (fun _ _ _ _ => rfl) {}
theorem atoms : Row 0x1C5 (MadeRef fun h (m : AtomOp × Ty × Ord) d (r : BitVec 6 × BitVec 10 × BitVec 10) =>
    .atoms h m.1 m.2.1 m.2.2 d r.1 r.2.1 r.2.2) := rowRefFirst .localAtom (.v _ _) .ref7X (fun _ _ _ _ => rfl) {}
theorem red : Row 0x1C6 (MadeRef fun h (m : AtomOp × Ty × Bool × Scope) d r => .red h m.1 m.2.1 m.2.2.1 m.2.2.2 d r) :=
  rowRefLast .red (.v _ _) .ref (fun _ _ _ _ => rfl) {}
theorem ldsc : Row 0x1C7 (MadeRef fun h (m : Ty × Bool × Bool × Scope) d (r : BitVec 6 × BitVec 10 × BitVec 3) =>
    .ldsc h m.1 m.2.1 m.2.2.1 m.2.2.2 d r.1 r.2.1 r.2.2) := rowRefFirst .load (.s _ _) .ref0 (fun _ _ _ _ => rfl) {}
theorem preq : Row 0x1C8 (MadeRef fun h m (_ : Unit) (r : BitVec 6 × BitVec 10 × BitVec 10) => .preq h m r.1 r.2.1 r.2.2) :=
  rowRefFirst .ty .noD .ref7 (fun _ _ _ _ => rfl) {}
theorem pref : Row 0x1C9 (MadeRef fun h m (_ : Unit) (r : BitVec 6 × BitVec 10 × BitVec 10) => .pref h m r.1 r.2.1 r.2.2) :=
  rowRefFirst .ty .noD .ref7 (fun _ _ _ _ => rfl) {}
theorem cctl : Row 0x1CA (MadeRef fun h (m : CctlOp × Ty) (_ : Unit) (r : BitVec 6 × BitVec 10 × BitVec 10) =>
    .cctl h m.1 m.2 r.1 r.2.1 r.2.2) := rowRefFirst .cctl .noD .ref7 (fun _ _ _ _ => rfl) {}

end Row

/-! ### Rows of a shape of their own -/

/-- The value of the wide format (R272), from the places that hold its parts. -/
noncomputable def wideOf (d a b : BitVec 2 × BitVec 10) (c : BitVec 10) : BitVec 32 := a.2.extractLsb' 0 6 ++ b.2 ++ d.1 ++ a.1 ++ b.1 ++ c

theorem eWide_wideOf {op : BitVec 10} {h : Hdr} {d a b : BitVec 2 × BitVec 10} {c : BitVec 10} (ha : a.2.extractLsb' 6 4 = 0) :
    eWide op h d.2 (wideOf d a b c) = eMk op h d a b c 0 := by
  have hparts := (rfl : wideOf d a b c = _)
  rw [wideOf, eq_append_iff 22 10, slice_eq_append_iff 10 20 2, slice_eq_append_iff 12 18 2, slice_eq_append_iff 14 16 2,
    slice_eq_append_iff 16 6 10] at hparts
  obtain ⟨⟨⟨⟨⟨hahigh, hb⟩, hd1⟩, ha1⟩, hb1⟩, hc⟩ := hparts
  have ha2 : 0#4 ++ (wideOf d a b c).extractLsb' 26 6 = a.2 := ((eq_append_iff 4 6).mpr ⟨ha, hahigh.symm⟩).symm
  rw [eWide, ha2, wideOf, hb, hd1, ha1, hb1, hc]
  rfl

theorem wideOf_parts (x : BitVec 32) (y : BitVec 10) : wideOf (x.extractLsb' 14 2, y) (x.extractLsb' 12 2, 0#4 ++ x.extractLsb' 26 6)
    (x.extractLsb' 10 2, x.extractLsb' 16 10) (x.extractLsb' 0 10) = x := by
  rw [eq_comm, wideOf, eq_append_iff 22 10, slice_eq_append_iff 10 20 2, slice_eq_append_iff 12 18 2, slice_eq_append_iff 14 16 2,
    slice_eq_append_iff 16 6 10]
  exact ⟨⟨⟨⟨⟨((eq_append_iff 4 6).mp rfl).2.symm, rfl⟩, rfl⟩, rfl⟩, rfl⟩, rfl⟩

noncomputable def ePx : PxArgs → (BitVec 2 × BitVec 10) × (BitVec 2 × BitVec 10)
  | .ps pd a => (eP pd, eSrc a)
  | .vp vd pa => (eV vd, eP pa)
  | .vs vd a => (eV vd, eSImm a)

theorem places_of_dPx {f : Fields} {x : PxArgs} (h : dPx f = .ok x) : (placeD f, placeA f) = ePx x := by
  unfold dPx at h
  split at h
  · obtain ⟨pd, hd, h⟩ := Dec.bind_eq_ok.mp h
    obtain ⟨a, ha, ⟨⟩⟩ := Dec.bind_eq_ok.mp h
    exact Prod.ext (dP_eq_ok.mp hd) (dSrc_eq_ok.mp ha)
  · obtain ⟨vd, hd, h⟩ := Dec.bind_eq_ok.mp h
    split at h
    · obtain ⟨pa, ha, ⟨⟩⟩ := Dec.bind_eq_ok.mp h
      exact Prod.ext (dV_eq_ok.mp hd) (dP_eq_ok.mp ha)
    · obtain ⟨a, ha, ⟨⟩⟩ := Dec.bind_eq_ok.mp h
      exact Prod.ext (dV_eq_ok.mp hd) (dSImm_eq_ok.mp ha)

theorem dPx_of_places {f : Fields} {x : PxArgs} (h : (placeD f, placeA f) = ePx x) : dPx f = .ok x := by
  have hd := congrArg (·.1) h
  have ha := congrArg (·.2) h
  have hcd := congrArg (·.1) hd
  have hca := congrArg (·.1) ha
  cases x with
  | ps pd a =>
    exact (if_pos (beq_iff_eq.mpr hcd)).trans (Dec.bind_eq_ok.mpr ⟨pd, dP_eq_ok.mpr hd, Dec.bind_eq_ok.mpr ⟨a, dSrc_eq_ok.mpr ha, rfl⟩⟩)
  | vp vd pa =>
    have hv : ¬ (f.cd == 2) = true := by rw [show f.cd = 0 from hcd]; decide
    exact (if_neg hv).trans (Dec.bind_eq_ok.mpr ⟨vd, dV_eq_ok.mpr hd, (if_pos (beq_iff_eq.mpr hca)).trans
      (Dec.bind_eq_ok.mpr ⟨pa, dP_eq_ok.mpr ha, rfl⟩)⟩)
  | vs vd a =>
    have hv : ¬ (f.cd == 2) = true := by rw [show f.cd = 0 from hcd]; decide
    have hp : ¬ (f.ca == 2) = true := by rw [show f.ca = (eSImm a).1 from hca]; cases a <;> exact ne_true_of_eq_false rfl
    exact (if_neg hv).trans (Dec.bind_eq_ok.mpr ⟨vd, dV_eq_ok.mpr hd, (if_neg hp).trans
      (Dec.bind_eq_ok.mpr ⟨a, dSImm_eq_ok.mpr ha, rfl⟩)⟩)

namespace Row

theorem bra : Row 0x001 (Made fun h (m : BitVec 12) d a b c => need (d.2 == 0 && a.2.extractLsb' 6 4 == 0 && m == 0) .unusedField >>=
    fun _ => .ok (.bra h (wideOf d a b c))) := by
  refine row_of_reading .raw .raw .raw .raw .raw (fun h m d a b c i hi => ?_) {}
  obtain ⟨_, hneed, ⟨⟩⟩ := Dec.bind_eq_ok.mp hi
  obtain ⟨⟨hd, ha⟩, rfl⟩ : (d.2 = 0 ∧ a.2.extractLsb' 6 4 = 0) ∧ m = 0 := by simpa [need_eq_ok] using hneed
  exact congrArg some (hd ▸ eWide_wideOf ha)
theorem call : Row 0x003 (Made fun h (m : BitVec 12) d a b c => need (d.2 == 0 && a.2.extractLsb' 6 4 == 0 && m == 0) .unusedField >>=
    fun _ => .ok (.call h (wideOf d a b c))) := by
  refine row_of_reading .raw .raw .raw .raw .raw (fun h m d a b c i hi => ?_) {}
  obtain ⟨_, hneed, ⟨⟩⟩ := Dec.bind_eq_ok.mp hi
  obtain ⟨⟨hd, ha⟩, rfl⟩ : (d.2 = 0 ∧ a.2.extractLsb' 6 4 = 0) ∧ m = 0 := by simpa [need_eq_ok] using hneed
  exact congrArg some (hd ▸ eWide_wideOf ha)
theorem movi : Row 0x141 (Made fun h (m : BitVec 12) d a b c => need (a.2.extractLsb' 6 4 == 0 && m == 0) .unusedField >>=
    fun _ => .ok (.movi h d.2 (wideOf d a b c))) := by
  refine row_of_reading .raw .raw .raw .raw .raw (fun h m d a b c i hi => ?_) {}
  obtain ⟨_, hneed, ⟨⟩⟩ := Dec.bind_eq_ok.mp hi
  obtain ⟨ha, rfl⟩ : a.2.extractLsb' 6 4 = 0 ∧ m = 0 := by simpa [need_eq_ok] using hneed
  exact congrArg some (eWide_wideOf ha)
theorem bsel : Row 0x094 (Made fun h (m : Ty × Unit) d a b c => need (m.1 == .z32) .badType >>= fun _ => .ok (.bsel h d a b c)) := by
  refine row_of_reading .tyOnly (.reg _ _) (.src _ _) (.src _ _) .raw (fun h m d a b c i hi => ?_)
    ⟨fun f => Eq.trans ?_ (Decoder.eq_parse (g := fun f => dABCT f { ty := true } >>= fun x => need (x.1 == .z32) .badType >>= fun _ =>
      .ok (.bsel f.hdr x.2.1 x.2.2.1 x.2.2.2.1 x.2.2.2.2)) {} f)⟩
  · obtain ⟨_, hneed, ⟨⟩⟩ := Dec.bind_eq_ok.mp hi
    obtain ⟨t, _⟩ := m
    obtain rfl : t = .z32 := beq_iff_eq.mp (need_eq_ok.mp hneed)
    rfl
  · simp only [reading, TyFirst.tyOnly.check, TyFirst.tyOnly.read, dABCT, bind_assoc, Dec.ok_bind]
    rfl
theorem cvt : Row 0x105 (Made fun h (m : Ty × Rnd × Bool) (d a : BitVec 2 × BitVec 10) (_ : Unit) c => dReg d.1 d.2 >>= fun d =>
    dSrc a.1 a.2 >>= fun a => .ok (.cvt h m.1 c m.2.1 m.2.2 d a)) := by
  refine row_of_reading .tyRndSat .raw .raw .noB .stTy (fun h m d a b c i hi => ?_) {}
  obtain ⟨r, hr, hi⟩ := Dec.bind_eq_ok.mp hi
  obtain ⟨x, hx, ⟨⟩⟩ := Dec.bind_eq_ok.mp hi
  obtain rfl : d = eReg r := dReg_eq_ok.mp hr
  obtain rfl : a = eSrc x := dSrc_eq_ok.mp hx
  rfl
theorem cvtpk : Row 0x106 (Made fun h (m : Ty × Rnd × Bool) (d a b : BitVec 2 × BitVec 10) c => dReg d.1 d.2 >>= fun d =>
    dSrc a.1 a.2 >>= fun a => dSrc b.1 b.2 >>= fun b => .ok (.cvtpk h m.1 c m.2.1 m.2.2 d a b)) := by
  refine row_of_reading .tyRndSat .raw .raw .raw .stTy (fun h m d a b c i hi => ?_) {}
  obtain ⟨r, hr, hi⟩ := Dec.bind_eq_ok.mp hi
  obtain ⟨x, hx, hi⟩ := Dec.bind_eq_ok.mp hi
  obtain ⟨y, hy, ⟨⟩⟩ := Dec.bind_eq_ok.mp hi
  obtain rfl : d = eReg r := dReg_eq_ok.mp hr
  obtain rfl : a = eSrc x := dSrc_eq_ok.mp hx
  obtain rfl : b = eSrc y := dSrc_eq_ok.mp hy
  rfl
theorem pxfr : Row 0x147 (Made fun h (_ : Unit) d a (_ _ : Unit) => dPx (eMk 0x147 h d a e0 0 0) >>= fun x => .ok (.pxfr h x)) := by
  refine row_of_reading .unused .raw .raw .noB .noC (fun h m d a b c i hi => ?_) {}
  obtain ⟨x, hx, ⟨⟩⟩ := Dec.bind_eq_ok.mp hi
  obtain ⟨rfl, rfl⟩ : d = (ePx x).1 ∧ a = (ePx x).2 := Prod.mk.inj (places_of_dPx hx)
  cases x <;> rfl
theorem poll : Row 0x148 (Made fun h (m : PollMode) (d a : BitVec 2 × BitVec 10) (_ _ : Unit) =>
    if m == .mask then dS d.1 d.2 >>= fun n => dP a.1 a.2 >>= fun p => .ok (.poll h m (.s n) p)
    else dP d.1 d.2 >>= fun n => dP a.1 a.2 >>= fun p => .ok (.poll h m (.p n) p)) := by
  refine row_of_reading .poll .raw .raw .noB .noC (fun h m d a b c i hi => ?_) {}
  split at hi
  · obtain ⟨n, hn, hi⟩ := Dec.bind_eq_ok.mp hi
    obtain ⟨p, hp, ⟨⟩⟩ := Dec.bind_eq_ok.mp hi
    obtain rfl : d = eS n := dS_eq_ok.mp hn
    obtain rfl : a = eP p := dP_eq_ok.mp hp
    rfl
  · obtain ⟨n, hn, hi⟩ := Dec.bind_eq_ok.mp hi
    obtain ⟨p, hp, ⟨⟩⟩ := Dec.bind_eq_ok.mp hi
    obtain rfl : d = eP n := dP_eq_ok.mp hn
    obtain rfl : a = eP p := dP_eq_ok.mp hp
    rfl
theorem peers : Row 0x149 (Made fun h (m : BitVec 4 × BitVec 3) (d a : BitVec 2 × BitVec 10) (_ _ : Unit) =>
    match m.2.toNat with
    | 0 => get? (Ty.ofCode m.1) .badType >>= fun t => dV d.1 d.2 >>= fun n => dSrc a.1 a.2 >>= fun x => .ok (.peers h t (.lead n) x)
    | 1 => get? (Ty.ofCode m.1) .badType >>= fun t => dP d.1 d.2 >>= fun n => dSrc a.1 a.2 >>= fun x => .ok (.peers h t (.one n) x)
    | _ => .error .badModifier) := by
  refine row_of_reading .tyFieldOpx .raw .raw .noB .noC (fun h m d a b c i hi => ?_) {}
  obtain ⟨m, o⟩ := m
  split at hi
  next ho =>
    obtain ⟨t, ht, hi⟩ := Dec.bind_eq_ok.mp hi
    obtain ⟨n, hn, hi⟩ := Dec.bind_eq_ok.mp hi
    obtain ⟨x, hx, ⟨⟩⟩ := Dec.bind_eq_ok.mp hi
    obtain rfl : o = 0 := eq_ofNat_of_toNat ho
    obtain rfl : m = t.code := Ty.ofCode_eq_some.mp (get?_eq_ok.mp ht)
    obtain rfl : d = eV n := dV_eq_ok.mp hn
    obtain rfl : a = eSrc x := dSrc_eq_ok.mp hx
    rfl
  next ho =>
    obtain ⟨t, ht, hi⟩ := Dec.bind_eq_ok.mp hi
    obtain ⟨n, hn, hi⟩ := Dec.bind_eq_ok.mp hi
    obtain ⟨x, hx, ⟨⟩⟩ := Dec.bind_eq_ok.mp hi
    obtain rfl : o = 1 := eq_ofNat_of_toNat ho
    obtain rfl : m = t.code := Ty.ofCode_eq_some.mp (get?_eq_ok.mp ht)
    obtain rfl : d = eP n := dP_eq_ok.mp hn
    obtain rfl : a = eSrc x := dSrc_eq_ok.mp hx
    rfl
  next => cases hi
theorem cbinit : Row 0x242 (Made fun h (_ : Unit) (d a b : BitVec 2 × BitVec 10) (_ : Unit) =>
    need (a.1 == 1 && b.1 == 1 && b.2.extractLsb' 8 2 == 0) .operandClass >>= fun _ => dI 4 d.1 d.2 >>= fun n =>
      .ok (.cbinit h n (a.2.extractLsb' 0 6) (b.2.extractLsb' 0 6) (a.2.extractLsb' 6 4 ++ b.2.extractLsb' 6 2))) := by
  refine row_of_reading .unused .raw .raw .raw .noC (fun h m d a b c i hi => ?_) {}
  obtain ⟨_, hneed, hi⟩ := Dec.bind_eq_ok.mp hi
  obtain ⟨n, hn, ⟨⟩⟩ := Dec.bind_eq_ok.mp hi
  obtain rfl : d = eI n := (dI_eq_ok (by decide)).mp hn
  obtain ⟨ca, a⟩ := a
  obtain ⟨cb, b⟩ := b
  obtain ⟨⟨rfl, rfl⟩, hb⟩ : (ca = 1 ∧ cb = 1) ∧ b.extractLsb' 8 2 = 0 := by simpa [need_eq_ok] using hneed
  obtain ⟨ha2, hb2⟩ := (eq_append_iff 4 2).mp (rfl : a.extractLsb' 6 4 ++ b.extractLsb' 6 2 = _)
  have ha : (a.extractLsb' 6 4 ++ b.extractLsb' 6 2).extractLsb' 2 4 ++ a.extractLsb' 0 6 = a :=
    ((eq_append_iff 4 6).mpr ⟨ha2.symm, rfl⟩).symm
  have hb : 0#2 ++ (a.extractLsb' 6 4 ++ b.extractLsb' 6 2).extractLsb' 0 2 ++ b.extractLsb' 0 6 = b := by
    rw [eq_comm, eq_append_iff 4 6, slice_eq_append_iff 6 2 2]
    exact ⟨⟨hb, hb2.symm⟩, rfl⟩
  exact congrArg₂ (fun a b => some (eMk 0x242 h (eI n) (1, a) (1, b) 0 0)) ha hb
theorem mma : Row 0x284 (Made fun h (m : Bool × Bool) (d : BitVec 2 × BitVec 10) a (_ _ : Unit) => dP d.1 d.2 >>= fun p =>
    .ok (.mma h m.1 m.2 a p)) := by
  refine row_of_reading .satUi .raw (.s _ _) .noB .noC (fun h m d a b c i hi => ?_) {}
  obtain ⟨p, hp, ⟨⟩⟩ := Dec.bind_eq_ok.mp hi
  obtain rfl : d = eP p := dP_eq_ok.mp hp
  rfl
theorem baton : Row 0x288 (Made fun h (o : BitVec 3) (d : BitVec 2 × BitVec 10) (_ _ _ : Unit) =>
    match o.toNat with
    | 0 => need (d.2 == 0 && d.1 == 0) .unusedField >>= fun _ => .ok (.batonTake h)
    | 1 => need (d.2 == 0 && d.1 == 0) .unusedField >>= fun _ => .ok (.batonPass h)
    | 2 => dS d.1 d.2 >>= fun n => .ok (.batonQuery h n)
    | _ => .error .badModifier) := by
  refine row_of_reading .opx .raw .noA .noB .noC (fun h o d a b c i hi => ?_) {}
  obtain ⟨cd, d⟩ := d
  split at hi
  next ho =>
    obtain ⟨_, hneed, ⟨⟩⟩ := Dec.bind_eq_ok.mp hi
    obtain rfl : o = 0 := eq_ofNat_of_toNat ho
    obtain ⟨rfl, rfl⟩ : d = 0 ∧ cd = 0 := by simpa [need_eq_ok] using hneed
    rfl
  next ho =>
    obtain ⟨_, hneed, ⟨⟩⟩ := Dec.bind_eq_ok.mp hi
    obtain rfl : o = 1 := eq_ofNat_of_toNat ho
    obtain ⟨rfl, rfl⟩ : d = 0 ∧ cd = 0 := by simpa [need_eq_ok] using hneed
    rfl
  next ho =>
    obtain ⟨n, hn, ⟨⟩⟩ := Dec.bind_eq_ok.mp hi
    obtain rfl : o = 2 := eq_ofNat_of_toNat ho
    obtain ⟨rfl, rfl⟩ := Prod.mk.inj (dS_eq_ok.mp hn)
    rfl
  next => cases hi
theorem spawn : Row 0x2C3 (Made fun h (_ _ : Unit) a (b : BitVec 2 × BitVec 10) c => dI 10 b.1 b.2 >>= fun n =>
    match n.toNat with
    | 0 => .ok (.spawnTask h a c)
    | 1 => .ok (.spawnGrid h a c)
    | 2 => .ok (.spawnGraph h a c)
    | _ => .error .illFormed) := by
  refine row_of_reading .unused .noD (.s _ _) .raw .cp (fun h m d a b c i hi => ?_) {}
  obtain ⟨n, hb, hk⟩ := Dec.bind_eq_ok.mp hi
  obtain rfl : b = eI n := (dI_eq_ok (by decide)).mp hb
  clear hi
  split at hk
  next hn =>
    cases hk
    obtain rfl : n = 0 := eq_ofNat_of_toNat hn
    rfl
  next hn =>
    cases hk
    obtain rfl : n = 1 := eq_ofNat_of_toNat hn
    rfl
  next hn =>
    cases hk
    obtain rfl : n = 2 := eq_ofNat_of_toNat hn
    rfl
  next => cases hk
theorem apxb : Row 0x300 (Made fun h m (d a : BitVec 2 × BitVec 10) id (n : BitVec 3 × BitVec 2) => dV a.1 a.2 >>= fun vin =>
    dV d.1 d.2 >>= fun vout => .ok (.apxb h id vin n.1 vout n.2 m)) := by
  refine row_of_reading .raw .raw .raw (.simm _ _) .counts (fun h m d a b c i hi => ?_) {}
  obtain ⟨vin, ha, hi⟩ := Dec.bind_eq_ok.mp hi
  obtain ⟨vout, hd, ⟨⟩⟩ := Dec.bind_eq_ok.mp hi
  obtain rfl : a = eV vin := dV_eq_ok.mp ha
  obtain rfl : d = eV vout := dV_eq_ok.mp hd
  rfl
theorem cres : Row 0x344 (Made fun h (_ _ : Unit) a b (_ : Unit) =>
    if b == .imm 0 then .ok (.cres h a) else .ok (.cresHold h a b)) := by
  refine row_of_reading .unused .noD (.simm _ _) (.simm _ _) .noC (fun h m d a b c i hi => ?_) {}
  split at hi
  next hb =>
    cases hi
    obtain rfl := beq_iff_eq.mp hb
    rfl
  next =>
    cases hi
    rfl
theorem quiesce : Row 0x346 (Made fun h (_ _ : Unit) a (n : BitVec 10) (_ : Unit) =>
    match n.toNat with
    | 0 => .ok (.quiesce h a)
    | 1 => .ok (.quiesceResume h a)
    | _ => .error .illFormed) := by
  refine row_of_reading .unused .noD (.simm _ _) (.imm10 _ _) .noC (fun h m d a n c i hi => ?_) {}
  split at hi
  next hn =>
    cases hi
    obtain rfl : n = 0 := eq_ofNat_of_toNat hn
    rfl
  next hn =>
    cases hi
    obtain rfl : n = 1 := eq_ofNat_of_toNat hn
    rfl
  next => cases hi
theorem halt : Row 0x347 (Made fun h (_ _ : Unit) a (n : BitVec 10) (_ : Unit) =>
    match n.toNat with
    | 0 => .ok (.halt h a)
    | 1 => .ok (.haltRelease h a)
    | _ => .error .illFormed) := by
  refine row_of_reading .unused .noD (.simm _ _) (.imm10 _ _) .noC (fun h m d a n c i hi => ?_) {}
  split at hi
  next hn =>
    cases hi
    obtain rfl : n = 0 := eq_ofNat_of_toNat hn
    rfl
  next hn =>
    cases hi
    obtain rfl : n = 1 := eq_ofNat_of_toNat hn
    rfl
  next => cases hi

end Row

end Sys2Proof
end

section
/-! SUPPORT. A word that decodes is the word of what it decodes to (O3), and every instruction is what its word decodes to (O2). -/

namespace Sys2Proof

-- One theorem after the other: many of them wait for the same equations of the decoder, and each would hold a thread meanwhile.
set_option Elab.async false

/-! ### Every word that parses is spelled so (O3) -/

/-- A word of opcode `n` that parses holds the fields of what it parses to. -/
def Spells (n : Nat) : Prop := ∀ f i, f.op.toNat = n → parse f = .ok i → encodeFields i = some f

theorem Row.spells {op : BitVec 10} {S : Instr → Prop} (hrow : Row op S) : Spells op.toNat :=
  fun f i hop hparse => ((hrow f i).mp ⟨BitVec.eq_of_toNat_eq hop, hparse⟩).2

theorem Spells.none {n : Nat} : ∀ k < 0, Spells (n + k) := nofun

theorem Spells.cons {n l : Nat} (hn : Spells n) (hl : ∀ k < l, Spells (n + 1 + k)) : ∀ k < l + 1, Spells (n + k)
  | 0, _ => hn
  | k + 1, hk => Nat.add_right_comm n k 1 ▸ hl k (Nat.lt_of_succ_lt_succ hk)

namespace Spells

theorem class0 : ∀ k < 15, Spells (0 + k) :=
  cons Row.nop.spells <| cons Row.bra.spells <| cons Row.brx.spells <| cons Row.call.spells <| cons Row.ret.spells <|
  cons Row.exit.spells <| cons Row.rjset.spells <| cons Row.rjoin.spells <| cons Row.rjclr.spells <| cons Row.yield.spells <|
  cons Row.waitf.spells <| cons Row.trap.spells <| cons Row.bkpt.spells <| cons Row.uivec.spells <| cons Row.uiret.spells <| none

theorem class1 : ∀ k < 16, Spells (64 + k) :=
  cons Row.iadd.spells <| cons Row.isub.spells <| cons Row.iaddc.spells <| cons Row.isubb.spells <| cons Row.imul.spells <|
  cons Row.imulh.spells <| cons Row.imad.spells <| cons Row.idiv.spells <| cons Row.irem.spells <| cons Row.imin.spells <|
  cons Row.imax.spells <| cons Row.iabs.spells <| cons Row.ineg.spells <| cons Row.idp4.spells <| cons Row.idp2.spells <|
  cons Row.iadd3.spells <| none

theorem class2 : ∀ k < 21, Spells (128 + k) :=
  cons Row.and.spells <| cons Row.or.spells <| cons Row.xor.spells <| cons Row.andn.spells <| cons Row.not.spells <|
  cons Row.bmix3.spells <| cons Row.shl.spells <| cons Row.shr.spells <| cons Row.sar.spells <| cons Row.rotl.spells <|
  cons Row.rotr.spells <| cons Row.dshr.spells <| cons Row.ones.spells <| cons Row.clz.spells <| cons Row.ctz.spells <|
  cons Row.brev.spells <| cons Row.fxtr.spells <| cons Row.fins.spells <| cons Row.clmul.spells <| cons Row.clmulh.spells <|
  cons Row.bsel.spells <| none

theorem class3 : ∀ k < 12, Spells (192 + k) :=
  cons Row.fadd.spells <| cons Row.fsub.spells <| cons Row.fmul.spells <| cons Row.ffma.spells <| cons Row.fmin.spells <|
  cons Row.fmax.spells <| cons Row.frnd.spells <| cons Row.fscale.spells <| cons Row.fclass.spells <| cons Row.fabs.spells <|
  cons Row.fneg.spells <| cons Row.fcpys.spells <| none

theorem class4 : ∀ k < 9, Spells (256 + k) :=
  cons Row.hadd2.spells <| cons Row.hmul2.spells <| cons Row.hfma2.spells <| cons Row.hmin2.spells <| cons Row.hmax2.spells <|
  cons Row.cvt.spells <| cons Row.cvtpk.spells <| cons Row.qblk.spells <| cons Row.dqblk.spells <| none

theorem class5 : ∀ k < 12, Spells (320 + k) :=
  cons Row.mov.spells <| cons Row.movi.spells <| cons Row.movh.spells <| cons Row.sel.spells <| cons Row.icmp.spells <|
  cons Row.fcmp.spells <| cons Row.plog.spells <| cons Row.pxfr.spells <| cons Row.poll.spells <| cons Row.peers.spells <|
  cons Row.rdsys.spells <| cons Row.wrsys.spells <| none

theorem class6 : ∀ k < 11, Spells (384 + k) :=
  cons Row.frcp.spells <| cons Row.frsq.spells <| cons Row.fsqrt.spells <| cons Row.fexp2.spells <| cons Row.flog2.spells <|
  cons Row.fsin.spells <| cons Row.fcos.spells <| cons Row.ftanh.spells <| cons Row.lxch.spells <| cons Row.redux.spells <|
  cons Row.scan.spells <| none

theorem class7 : ∀ k < 11, Spells (448 + k) :=
  cons Row.ld.spells <| cons Row.st.spells <| cons Row.lds.spells <| cons Row.sts.spells <| cons Row.atom.spells <|
  cons Row.atoms.spells <| cons Row.red.spells <| cons Row.ldsc.spells <| cons Row.preq.spells <| cons Row.pref.spells <|
  cons Row.cctl.spells <| none

theorem class8 : ∀ k < 7, Spells (512 + k) :=
  cons Row.sink.spells <| cons Row.srec.spells <| cons Row.fence.spells <| cons Row.cjoin.spells <| cons Row.cleave.spells <|
  cons Row.cld.spells <| cons Row.cstat.spells <| none

theorem class9 : ∀ k < 10, Spells (576 + k) :=
  cons Row.cpy.spells <| cons Row.cpyfill.spells <| cons Row.cbinit.spells <| cons Row.cbacq.spells <| cons Row.cbrel.spells <|
  cons Row.blws.spells <| cons Row.blwstop.spells <| cons Row.qcfg.spells <| cons Row.nmcpy.spells <| cons Row.nmzero.spells <| none

theorem classA : ∀ k < 9, Spells (640 + k) :=
  cons Row.obres.spells <| cons Row.obrel.spells <| cons Row.scpy.spells <| cons Row.ptld.spells <| cons Row.mma.spells <|
  cons Row.accz.spells <| cons Row.accld.spells <| cons Row.accst.spells <| cons Row.baton.spells <| none

theorem classB : ∀ k < 8, Spells (704 + k) :=
  cons Row.bar.spells <| cons Row.phase.spells <| cons Row.signal.spells <| cons Row.spawn.spells <| cons Row.amsg.spells <|
  cons Row.tnow.spells <| cons Row.twait.spells <| cons Row.gwnote.spells <| none

theorem classC : ∀ k < 5, Spells (768 + k) :=
  cons Row.apxb.spells <| cons Row.apxe.spells <| cons Row.ftcfg.spells <| cons Row.ftinv.spells <| cons Row.ftstat.spells <| none

theorem classD : ∀ k < 8, Spells (832 + k) :=
  cons Row.sysrd.spells <| cons Row.syswr.spells <| cons Row.slcfg.spells <| cons Row.tlbinv.spells <| cons Row.cres.spells <|
  cons Row.crrel.spells <| cons Row.quiesce.spells <| cons Row.halt.spells <| none

end Spells

theorem Spells.of_assigned {n : Nat} (h : assignedOp n = true) : Spells n := by
  have hof : ∀ {c l : Nat}, n / 64 = c → (∀ k < l + 1, Spells (64 * c + k)) → n % 64 ≤ l → Spells n := by
    rintro _ l rfl hrows hl
    exact Nat.div_add_mod n 64 ▸ hrows _ (Nat.lt_succ_of_le hl)
  unfold assignedOp at h
  split at h
  next hc => exact hof hc class0 (of_decide_eq_true h)
  next hc => exact hof hc class1 (of_decide_eq_true h)
  next hc => exact hof hc class2 (of_decide_eq_true h)
  next hc => exact hof hc class3 (of_decide_eq_true h)
  next hc => exact hof hc class4 (of_decide_eq_true h)
  next hc => exact hof hc class5 (of_decide_eq_true h)
  next hc => exact hof hc class6 (of_decide_eq_true h)
  next hc => exact hof hc class7 (of_decide_eq_true h)
  next hc => exact hof hc class8 (of_decide_eq_true h)
  next hc => exact hof hc class9 (of_decide_eq_true h)
  next hc => exact hof hc classA (of_decide_eq_true h)
  next hc => exact hof hc classB (of_decide_eq_true h)
  next hc => exact hof hc classC (of_decide_eq_true h)
  next hc => exact hof hc classD (of_decide_eq_true h)
  next => cases h

theorem decodeFields_eq_ok {f : Fields} {i : Instr} : decodeFields f = .ok i ↔ parse f = .ok i ∧ i.wf = true := by
  unfold decodeFields
  split
  next j hj =>
    rw [ite_ok_eq_iff, hj]
    constructor
    · rintro ⟨hw, h⟩
      cases h
      exact ⟨rfl, hw⟩
    · rintro ⟨h, hw⟩
      cases h
      exact ⟨hw, rfl⟩
  next e he => simp [he]

/-- Settles O3: a stop is its word, and the fields of any other word are those of the instruction that they parse to. -/
theorem encodeDecode : Obligations.EncodeDecode := by
  unfold Obligations.EncodeDecode
  intro w i hdec
  unfold decode at hdec
  split at hdec
  · cases hdec
    exact congrArg some (toWord_ofWord w)
  · split at hdec
    next hassigned =>
      have hspelled := Spells.of_assigned hassigned (Fields.ofWord w) i (Laws.AssignedWord.opOf_ofWord w).symm
        (decodeFields_eq_ok.mp hdec).1
      rw [encode, hspelled, Option.map_some, toWord_ofWord]
    next =>
      cases hdec
      exact congrArg some (toWord_ofWord w)

/-! ### Every instruction parses from its fields (O2) -/

/-- The word of an instruction decodes to it. -/
def Decodes (i : Instr) : Prop := i.wf = true → ∀ f, encodeFields i = some f → decode f.toWord = .ok i

theorem Row.decodes_of {op : BitVec 10} {S : Instr → Prop} {i : Instr} (hrow : Row op S) (hi : S i) (ha : assignedOp op.toNat = true) :
    Decodes i := by
  intro hw f hf
  obtain ⟨rfl, hparse⟩ := (hrow f i).mpr ⟨hi, hf⟩
  have hop : f.op.toNat = opOf f.toWord := by rw [← Laws.AssignedWord.opOf_ofWord, ofWord_toWord]
  have hlive : ¬ isLive f.toWord = true := by
    intro h
    have hge : 1020 ≤ opOf f.toWord := by simpa [isLive] using h
    rw [hop, Laws.AssignedWord.assignedOp_live hge] at ha
    cases ha
  rw [decode, if_neg hlive, if_pos (hop ▸ ha), ofWord_toWord, decodeFields_eq_ok]
  exact ⟨hparse, hw⟩

section
variable {μ δ α β γ ρ : Type} {op : BitVec 10} {i : Instr} (h : Hdr)

theorem Row.decodes {K : Hdr → μ → δ → α → β → γ → Dec Instr} (hrow : Row op (Made K)) (m : μ) (d : δ) (a : α) (b : β) (c : γ)
    (hi : K h m d a b c = .ok i) (hop : assignedOp op.toNat = true) : Decodes i :=
  hrow.decodes_of ⟨h, m, d, a, b, c, hi⟩ hop

theorem Row.decodesRef {K : Hdr → μ → δ → ρ → Instr} (hrow : Row op (MadeRef K)) (m : μ) (d : δ) (r : ρ)
    (hi : K h m d r = i) (hop : assignedOp op.toNat = true) : Decodes i :=
  hrow.decodes_of ⟨h, m, d, r, hi⟩ hop
end

theorem Decodes.of_none {i : Instr} (h : encodeFields i = none) : Decodes i := fun _ _ hf => nomatch h.symm.trans hf

theorem wide_unused (x : BitVec 6) : (0#4 ++ x).extractLsb' 6 4 = 0#4 := ((eq_append_iff 4 6).mp rfl).1

theorem Decodes.poll {h : Hdr} {m : PollMode} {d : PollDst} {p : BitVec 3} : Decodes (.poll h m d p) := by
  intro hw
  have hwf : (h.ok && pollOk m d) = true := hw
  have hd := (Bool.and_eq_true_iff.mp hwf).2
  refine (?_ : Decodes _) hw
  cases d with
  | p n =>
    have hm : m ≠ .mask := by simpa [pollOk] using hd
    exact Row.poll.decodes h m (eP n) (eP p) () () (by simp [hm]) rfl
  | s n =>
    obtain rfl : m = .mask := by simpa [pollOk] using (Bool.and_eq_true_iff.mp hd).1
    exact Row.poll.decodes h .mask (eS n) (eP p) () () (by simp) rfl

theorem Decodes.cresHold {h : Hdr} {a b : SImm} : Decodes (.cresHold h a b) := by
  intro hw
  have hwf : (h.ok && a.within 1 511 && b.within 0 511 && b != .imm 0) = true := hw
  have hb : b ≠ .imm 0 := by simpa using (Bool.and_eq_true_iff.mp hwf).2
  exact (Row.cres.decodes h () () a b () (if_neg (by simpa using hb)) rfl : Decodes _) hw

theorem Decodes.peers {h : Hdr} {t : Ty} {d : PeerDst} {a : Src} : Decodes (.peers h t d a) := by
  cases d with
  | lead n => exact Row.peers.decodes h (t.code, 0) (eV n) (eSrc a) () () (by simp) rfl
  | one n => exact Row.peers.decodes h (t.code, 1) (eP n) (eSrc a) () () (by simp) rfl

theorem Decodes.pxfr {h : Hdr} {x : PxArgs} : Decodes (.pxfr h x) := by
  exact Row.pxfr.decodes h () (ePx x).1 (ePx x).2 () () (Dec.bind_eq_ok.mpr ⟨x, dPx_of_places rfl, rfl⟩) rfl

theorem Decodes.cbinit {h : Hdr} {n : BitVec 4} {sa sb sc : BitVec 6} : Decodes (.cbinit h n sa sb sc) := by
  obtain ⟨ha6, ha0⟩ := (eq_append_iff 4 6 (a := sc.extractLsb' 2 4) (b := sa)).mp rfl
  obtain ⟨⟨hb8, hb6⟩, hb0⟩ : (((0#2 ++ sc.extractLsb' 0 2 ++ sb : BitVec 10).extractLsb' 8 2 = 0#2 ∧
      (0#2 ++ sc.extractLsb' 0 2 ++ sb : BitVec 10).extractLsb' 6 2 = sc.extractLsb' 0 2) ∧
      (0#2 ++ sc.extractLsb' 0 2 ++ sb : BitVec 10).extractLsb' 0 6 = sb) := by
    rw [← slice_eq_append_iff 6 2 2, ← eq_append_iff 4 6]
  have hsc : sc.extractLsb' 2 4 ++ sc.extractLsb' 0 2 = sc := ((eq_append_iff 4 2).mpr ⟨rfl, rfl⟩).symm
  exact Row.cbinit.decodes h () (eI n) (1, sc.extractLsb' 2 4 ++ sa) (1, 0#2 ++ sc.extractLsb' 0 2 ++ sb) () (by
    simp [ha6, ha0, hb8, hb6, hb0, hsc, dI_eI]) rfl

/-- The word of a LIVE opcode, and of one that is not assigned, is a step of its own (R275). -/
theorem Decodes.stop (w : IWord) : Decodes (.illegalOpcode w) ∧ Decodes (.liveExec w) := by
  constructor
  · rintro hw _ ⟨⟩
    have hwf : (!isLive w && !assignedOp (opOf w)) = true := hw
    obtain ⟨hlive, hassigned⟩ : isLive w = false ∧ assignedOp (opOf w) = false := by simpa using hwf
    rw [toWord_ofWord, decode, if_neg (ne_true_of_eq_false hlive), if_neg (ne_true_of_eq_false hassigned)]
  · rintro hw _ ⟨⟩
    rw [toWord_ofWord]
    exact if_pos hw

theorem decodes (i : Instr) : Decodes i := by
  cases i with
  | nop h => exact Row.nop.decodes h () () () () () rfl rfl
  | bra h off =>
    exact Row.bra.decodes h 0 (off.extractLsb' 14 2, 0) (off.extractLsb' 12 2, 0#4 ++ off.extractLsb' 26 6)
      (off.extractLsb' 10 2, off.extractLsb' 16 10) (off.extractLsb' 0 10) (by simp [wideOf_parts, wide_unused]) rfl
  | brx h a => exact Row.brx.decodes h () () a () () rfl rfl
  | call h off =>
    exact Row.call.decodes h 0 (off.extractLsb' 14 2, 0) (off.extractLsb' 12 2, 0#4 ++ off.extractLsb' 26 6)
      (off.extractLsb' 10 2, off.extractLsb' 16 10) (off.extractLsb' 0 10) (by simp [wideOf_parts, wide_unused]) rfl
  | ret h a => exact Row.ret.decodes h () () a () () rfl rfl
  | exit h => exact Row.exit.decodes h () () () () () rfl rfl
  | rjset h k => exact Row.rjset.decodes h () k () () () rfl rfl
  | rjoin h k => exact Row.rjoin.decodes h () k () () () rfl rfl
  | rjclr h k => exact Row.rjclr.decodes h () k () () () rfl rfl
  | yield h n => exact Row.yield.decodes h () () n () () rfl rfl
  | waitf h => exact Row.waitf.decodes h () () () () () rfl rfl
  | trap h a => exact Row.trap.decodes h () () a () () rfl rfl
  | bkpt h => exact Row.bkpt.decodes h () () () () () rfl rfl
  | uivec h a => exact Row.uivec.decodes h () () a () () rfl rfl
  | uiret h => exact Row.uiret.decodes h () () () () () rfl rfl
  | iadd h t sat d a b => exact Row.iadd.decodes h (t, sat) d a b () rfl rfl
  | isub h t sat d a b => exact Row.isub.decodes h (t, sat) d a b () rfl rfl
  | iaddc h t d a b pk => exact Row.iaddc.decodes h t d a b pk rfl rfl
  | isubb h t d a b pk => exact Row.isubb.decodes h t d a b pk rfl rfl
  | imul h t sat d a b => exact Row.imul.decodes h (t, sat) d a b () rfl rfl
  | imulh h t d a b => exact Row.imulh.decodes h (t, ()) d a b () rfl rfl
  | imad h t sat d a b c => exact Row.imad.decodes h (t, sat) d a b c rfl rfl
  | idiv h t d a b => exact Row.idiv.decodes h (t, ()) d a b () rfl rfl
  | irem h t d a b => exact Row.irem.decodes h (t, ()) d a b () rfl rfl
  | imin h t d a b => exact Row.imin.decodes h (t, ()) d a b () rfl rfl
  | imax h t d a b => exact Row.imax.decodes h (t, ()) d a b () rfl rfl
  | iabs h t sat d a => exact Row.iabs.decodes h (t, sat) d a () () rfl rfl
  | ineg h t sat d a => exact Row.ineg.decodes h (t, sat) d a () () rfl rfl
  | idp4 h t sat d a b c => exact Row.idp4.decodes h (t, sat) d a b c rfl rfl
  | idp2 h t sat d a b c => exact Row.idp2.decodes h (t, sat) d a b c rfl rfl
  | iadd3 h t sat d a b c => exact Row.iadd3.decodes h (t, sat) d a b c rfl rfl
  | and h t d a b => exact Row.and.decodes h (t, ()) d a b () rfl rfl
  | or h t d a b => exact Row.or.decodes h (t, ()) d a b () rfl rfl
  | xor h t d a b => exact Row.xor.decodes h (t, ()) d a b () rfl rfl
  | andn h t d a b => exact Row.andn.decodes h (t, ()) d a b () rfl rfl
  | not h t d a => exact Row.not.decodes h (t, ()) d a () () rfl rfl
  | bmix3 h t d a b c tbl => exact Row.bmix3.decodes h (t, tbl) d a b c rfl rfl
  | shl h t d a b => exact Row.shl.decodes h (t, ()) d a b () rfl rfl
  | shr h t d a b => exact Row.shr.decodes h (t, ()) d a b () rfl rfl
  | sar h t d a b => exact Row.sar.decodes h (t, ()) d a b () rfl rfl
  | rotl h t d a b => exact Row.rotl.decodes h (t, ()) d a b () rfl rfl
  | rotr h t d a b => exact Row.rotr.decodes h (t, ()) d a b () rfl rfl
  | dshr h t d a b c => exact Row.dshr.decodes h (t, ()) d a b c rfl rfl
  | ones h t d a => exact Row.ones.decodes h (t, ()) d a () () rfl rfl
  | clz h t d a => exact Row.clz.decodes h (t, ()) d a () () rfl rfl
  | ctz h t d a => exact Row.ctz.decodes h (t, ()) d a () () rfl rfl
  | brev h t d a => exact Row.brev.decodes h (t, ()) d a () () rfl rfl
  | fxtr h t d a b => exact Row.fxtr.decodes h (t, ()) d a b () rfl rfl
  | fins h t d a b c => exact Row.fins.decodes h (t, ()) d a b c rfl rfl
  | clmul h t d a b => exact Row.clmul.decodes h (t, ()) d a b () rfl rfl
  | clmulh h t d a b => exact Row.clmulh.decodes h (t, ()) d a b () rfl rfl
  | bsel h d a b c => exact Row.bsel.decodes h (.z32, ()) d a b c rfl rfl
  | fadd h r d a b => exact Row.fadd.decodes h ((), r) d a b () rfl rfl
  | fsub h r d a b => exact Row.fsub.decodes h ((), r) d a b () rfl rfl
  | fmul h r d a b => exact Row.fmul.decodes h ((), r) d a b () rfl rfl
  | ffma h r d a b c => exact Row.ffma.decodes h ((), r) d a b c rfl rfl
  | fmin h d a b => exact Row.fmin.decodes h ((), ()) d a b () rfl rfl
  | fmax h d a b => exact Row.fmax.decodes h ((), ()) d a b () rfl rfl
  | frnd h r d a => exact Row.frnd.decodes h ((), r) d a () () rfl rfl
  | fscale h r d a b => exact Row.fscale.decodes h ((), r) d a b () rfl rfl
  | fclass h d a => exact Row.fclass.decodes h ((), ()) d a () () rfl rfl
  | fabs h d a => exact Row.fabs.decodes h ((), ()) d a () () rfl rfl
  | fneg h d a => exact Row.fneg.decodes h ((), ()) d a () () rfl rfl
  | fcpys h d a b => exact Row.fcpys.decodes h ((), ()) d a b () rfl rfl
  | hadd2 h t r d a b => exact Row.hadd2.decodes h (t, r) d a b () rfl rfl
  | hmul2 h t r d a b => exact Row.hmul2.decodes h (t, r) d a b () rfl rfl
  | hfma2 h t r d a b c => exact Row.hfma2.decodes h (t, r) d a b c rfl rfl
  | hmin2 h t d a b => exact Row.hmin2.decodes h (t, ()) d a b () rfl rfl
  | hmax2 h t d a b => exact Row.hmax2.decodes h (t, ()) d a b () rfl rfl
  | cvt h dt su r sat d a => exact Row.cvt.decodes h (dt, r, sat) (eReg d) (eSrc a) () su (by simp) rfl
  | cvtpk h dt su r sat d a b => exact Row.cvtpk.decodes h (dt, r, sat) (eReg d) (eSrc a) (eSrc b) su (by simp) rfl
  | qblk h t d a b => exact Row.qblk.decodes h t d a b () rfl rfl
  | dqblk h d a => exact Row.dqblk.decodes h () d a () () rfl rfl
  | mov h t d a => exact Row.mov.decodes h (t, ()) d a () () rfl rfl
  | movi h d x =>
    exact Row.movi.decodes h 0 (x.extractLsb' 14 2, d) (x.extractLsb' 12 2, 0#4 ++ x.extractLsb' 26 6)
      (x.extractLsb' 10 2, x.extractLsb' 16 10) (x.extractLsb' 0 10) (by simp [wideOf_parts, wide_unused]) rfl
  | movh h t d a b => exact Row.movh.decodes h (t, ()) d a b () rfl rfl
  | sel h t d a b pk => exact Row.sel.decodes h t d a b pk rfl rfl
  | icmp h t c pd a b => exact Row.icmp.decodes h (t, c) pd a b () rfl rfl
  | fcmp h c pd a b => exact Row.fcmp.decodes h c pd a b () rfl rfl
  | plog h op pd pa pb => exact Row.plog.decodes h op pd pa pb () rfl rfl
  | pxfr => exact .pxfr
  | poll => exact .poll
  | peers => exact .peers
  | rdsys h d wide num axis => exact Row.rdsys.decodes h wide d num axis () rfl rfl
  | wrsys h num a => exact Row.wrsys.decodes h () num a () () rfl rfl
  | frcp h r d a => exact Row.frcp.decodes h ((), r) d a () () rfl rfl
  | frsq h d a => exact Row.frsq.decodes h ((), ()) d a () () rfl rfl
  | fsqrt h r d a => exact Row.fsqrt.decodes h ((), r) d a () () rfl rfl
  | fexp2 h d a => exact Row.fexp2.decodes h ((), ()) d a () () rfl rfl
  | flog2 h d a => exact Row.flog2.decodes h ((), ()) d a () () rfl rfl
  | fsin h d a => exact Row.fsin.decodes h ((), ()) d a () () rfl rfl
  | fcos h d a => exact Row.fcos.decodes h ((), ()) d a () () rfl rfl
  | ftanh h d a => exact Row.ftanh.decodes h ((), ()) d a () () rfl rfl
  | lxch h t m d a b => exact Row.lxch.decodes h (t, m) d a b () rfl rfl
  | redux h t op r d a => exact Row.redux.decodes h (t, op, r) d a () () rfl rfl
  | scan h t op r d a => exact Row.scan.decodes h (t, op, r) d a () () rfl rfl
  | ld h t strong acq sc d m => exact Row.ld.decodesRef h (t, strong, acq, sc) d m rfl rfl
  | st h t strong rel sc x m => exact Row.st.decodesRef h (t, strong, rel, sc) x m rfl rfl
  | lds h t strong acq d base off disp => exact Row.lds.decodesRef h (t, strong, acq) d (base, off, disp) rfl rfl
  | sts h t strong rel x base off disp => exact Row.sts.decodesRef h (t, strong, rel) x (base, off, disp) rfl rfl
  | atom h op t o sc d base off x pk => exact Row.atom.decodesRef h (op, t, o, sc) d ⟨base, off, x, pk⟩ rfl rfl
  | atoms h op t o d base off x => exact Row.atoms.decodesRef h (op, t, o) d (base, off, x) rfl rfl
  | red h op t rel sc x m => exact Row.red.decodesRef h (op, t, rel, sc) x m rfl rfl
  | ldsc h t strong acq sc d base disp pk => exact Row.ldsc.decodesRef h (t, strong, acq, sc) d (base, disp, pk) rfl rfl
  | preq h t base off disp => exact Row.preq.decodesRef h t () (base, off, disp) rfl rfl
  | pref h t base off disp => exact Row.pref.decodesRef h t () (base, off, disp) rfl rfl
  | cctl h op t base off disp => exact Row.cctl.decodesRef h (op, t) () (base, off, disp) rfl rfl
  | sink h n => exact Row.sink.decodes h () () () () n rfl rfl
  | srec h d => exact Row.srec.decodes h () d () () () rfl rfl
  | fence h o sc => exact Row.fence.decodes h (o, sc) () () () () rfl rfl
  | cjoin h c idx timer => exact Row.cjoin.decodes h () c idx timer () rfl rfl
  | cleave h c => exact Row.cleave.decodes h () c () () () rfl rfl
  | cld h ui c sa sb => exact Row.cld.decodes h ui c sa sb () rfl rfl
  | cstat h d c => exact Row.cstat.decodes h () d c () () rfl rfl
  | cpy h ui pk a => exact Row.cpy.decodes h ui pk a () () rfl rfl
  | cpyfill h ui pk a => exact Row.cpyfill.decodes h ui pk a () () rfl rfl
  | cbinit => exact .cbinit
  | cbacq h d b => exact Row.cbacq.decodes h () d b () () rfl rfl
  | cbrel h b sa => exact Row.cbrel.decodes h () b sa () () rfl rfl
  | blws h t q sa => exact Row.blws.decodes h t q sa () () rfl rfl
  | blwstop h q => exact Row.blwstop.decodes h () q () () () rfl rfl
  | qcfg h q rbase depth => exact Row.qcfg.decodes h () q rbase depth () rfl rfl
  | nmcpy h ui sd ss n => exact Row.nmcpy.decodes h ui sd ss n () rfl rfl
  | nmzero h ui sd n => exact Row.nmzero.decodes h ui sd n () () rfl rfl
  | obres h k sa => exact Row.obres.decodes h () k sa () () rfl rfl
  | obrel h k => exact Row.obrel.decodes h () k () () () rfl rfl
  | scpy h ui sa sb => exact Row.scpy.decodes h ui () sa sb () rfl rfl
  | ptld h ui t sa => exact Row.ptld.decodes h ui t sa () () rfl rfl
  | mma h sat ui sa pk => exact Row.mma.decodes h (sat, ui) (eP pk) sa () () (by simp) rfl
  | accz h a b => exact Row.accz.decodes h () () a b () rfl rfl
  | accld h t ui sa sb => exact Row.accld.decodes h (t, ui) () sa sb () rfl rfl
  | accst h t r ui sa sb => exact Row.accst.decodes h (t, r, ui) () sa sb () rfl rfl
  | batonTake h => exact Row.baton.decodes h 0 e0 () () () rfl rfl
  | batonPass h => exact Row.baton.decodes h 1 e0 () () () rfl rfl
  | batonQuery h d => exact Row.baton.decodes h 2 (eS d) () () () (by simp) rfl
  | bar h sc => exact Row.bar.decodes h sc () () () () rfl rfl
  | phase h n => exact Row.phase.decodes h () () n () () rfl rfl
  | signal h i => exact Row.signal.decodes h () () i () () rfl rfl
  | spawnTask h sa pk => exact Row.spawn.decodes h () () sa (eI (0 : BitVec 10)) pk rfl rfl
  | spawnGrid h sa pk => exact Row.spawn.decodes h () () sa (eI (1 : BitVec 10)) pk rfl rfl
  | spawnGraph h sa pk => exact Row.spawn.decodes h () () sa (eI (2 : BitVec 10)) pk rfl rfl
  | amsg h sa vb => exact Row.amsg.decodes h () () sa vb () rfl rfl
  | tnow h d a => exact Row.tnow.decodes h () d a () () rfl rfl
  | twait h sa => exact Row.twait.decodes h () () sa () () rfl rfl
  | gwnote h sa => exact Row.gwnote.decodes h () () sa () () rfl rfl
  | apxb h id vin nin vout nout fin => exact Row.apxb.decodes h fin (eV vout) (eV vin) id (nin, nout) (by simp) rfl
  | apxe h => exact Row.apxe.decodes h () () () () () rfl rfl
  | ftcfg h id sa => exact Row.ftcfg.decodes h () () id sa () rfl rfl
  | ftinv h id => exact Row.ftinv.decodes h () () id () () rfl rfl
  | ftstat h d id => exact Row.ftstat.decodes h () d id () () rfl rfl
  | sysrd h d sa => exact Row.sysrd.decodes h () d sa () () rfl rfl
  | syswr h sa sb => exact Row.syswr.decodes h () () sa sb () rfl rfl
  | slcfg h a => exact Row.slcfg.decodes h () () a () () rfl rfl
  | tlbinv h ctx sa size => exact Row.tlbinv.decodes h () () ctx sa size rfl rfl
  | cres h a => exact Row.cres.decodes h () () a (.imm 0) () rfl rfl
  | cresHold => exact .cresHold
  | crrel h => exact Row.crrel.decodes h () () () () () rfl rfl
  | quiesce h a => exact Row.quiesce.decodes h () () a 0 () rfl rfl
  | quiesceResume h a => exact Row.quiesce.decodes h () () a 1 () rfl rfl
  | halt h a => exact Row.halt.decodes h () () a 0 () rfl rfl
  | haltRelease h a => exact Row.halt.decodes h () () a 1 () rfl rfl
  | illegalOpcode w => exact (Decodes.stop w).1
  | liveExec w => exact (Decodes.stop w).2
  | _ => exact .of_none rfl

/-- Settles O2: row by row. -/
theorem decodeEncode : Obligations.DecodeEncode := by
  unfold Obligations.DecodeEncode
  intro i w hw henc
  obtain ⟨f, hf, rfl⟩ := Option.map_eq_some_iff.mp henc
  exact decodes i hw f hf

end Sys2Proof
end


section
/-! SUPPORT. Words of the spec decode to their instructions (O1), and the layout of a trap record (O23, R248). -/

namespace Sys2Proof.Machine


/-- Settles O1: the decoder run on each of the words. -/
theorem decodedWords : Obligations.DecodedWords := by
  unfold Obligations.DecodedWords
  refine ⟨?icmp, ?mma, ?batonPass, ?apxb, ?sink, ?wrsys, ?exit, ?liveExec⟩
  all_goals decide

/-- The fields of a trap record in the order of R248's table, each with its width in bytes. -/
def recordFields (s : State) (g : Nat) (x : Group) (st : Stop) : List (Nat × Nat) :=
  [(1, st.code), (1, x.ctx), (2, slotCore g), (1, g % 64), (1, x.gid), (1, st.flags), (1, st.word), (4, st.pc.toNat),
    (4, ((teamOf s x.team).map (·.index)).getD 0), (16, st.lanes.toNat), (8, st.addr.toNat), (8, st.aux.toNat),
    (8, st.drone.toNat), (4, x.image), (4, st.origin.toNat)]

/-- The widths of the fields of a trap record, which are the same in every record. -/
def recordWidths : List Nat := [1, 1, 2, 1, 1, 1, 1, 4, 4, 16, 8, 8, 8, 4, 4]

theorem recordFields_widths (s : State) (g : Nat) (x : Group) (st : Stop) :
    (recordFields s g x st).map (·.1) = recordWidths := rfl

def fieldBytes (fs : List (Nat × Nat)) : List Byte := fs.flatMap fun f => natBytes f.1 f.2

theorem recordBytes_eq_fieldBytes (s : State) (g : Nat) (x : Group) (st : Stop) :
    recordBytes s g x st = fieldBytes (recordFields s g x st) := by
  simp only [recordBytes, recordFields, fieldBytes, List.flatMap_cons, List.flatMap_nil, List.append_nil, List.append_assoc]

theorem fieldBytes_length (fs : List (Nat × Nat)) : (fieldBytes fs).length = (fs.map (·.1)).sum := by
  simp only [fieldBytes, List.length_flatMap, natBytes_length]

theorem toNat_lt_of_bytes {w n : Nat} (b : BitVec w) (hw : w = 8 * n) : b.toNat < 256 ^ n := by
  calc b.toNat < 2 ^ w := b.isLt
    _ = 256 ^ n := by rw [hw, Nat.pow_mul]

/-- A field stands after the bytes of the fields before it. -/
theorem bytesAt_fieldBytes {fs : List (Nat × Nat)} {ws : List Nat} {off n x : Nat} (k : Nat) (hwidths : fs.map (·.1) = ws)
    (hfield : fs[k]? = some (n, x)) (hoff : (ws.take k).sum = off) (hx : x < 256 ^ n) : bytesAt (fieldBytes fs) off n = x := by
  obtain ⟨hk, hget⟩ := List.getElem?_eq_some_iff.mp hfield
  have hsplit : fieldBytes fs = fieldBytes (fs.take k) ++ (natBytes n x ++ fieldBytes (fs.drop (k + 1))) := by
    conv_lhs => rw [← List.take_append_drop k fs, List.drop_eq_getElem_cons hk, hget]
    simp only [fieldBytes, List.flatMap_append, List.flatMap_cons]
  have hlen : (fieldBytes (fs.take k)).length = off := by rw [fieldBytes_length, List.map_take, hwidths, hoff]
  rw [hsplit, bytesAt_skip _ _ _ _ hlen.le, hlen, Nat.sub_self, bytesAt_first, Nat.mod_eq_of_lt hx]

/-- Settles O23: the record is the bytes of its fields, and each is below what its width holds. -/
theorem recordLayout : Obligations.RecordLayout := by
  unfold Obligations.RecordLayout
  intro s g x st t hteam hg hcode hctx hgid hflags hword hindex himage
  have hslot : g % 64 = 16 * slotQuarter g + slotSlot g := by
    unfold slotQuarter slotSlot
    omega
  have hcore : slotCore g < 256 ^ 2 := by
    unfold slotCore
    omega
  have hteamIndex : ((teamOf s x.team).map (·.index)).getD 0 = t.index := by rw [hteam]; rfl
  rw [recordBytes_eq_fieldBytes, ← hslot, ← hteamIndex]
  have hwidths := recordFields_widths s g x st
  have hlength : (fieldBytes (recordFields s g x st)).length = 64 := by
    rw [fieldBytes_length, hwidths]
    decide
  refine ⟨hlength, ?_, ?_, ?_, ?_, ?_, ?_, ?_, ?_, ?_, ?_, ?_, ?_, ?_, ?_, ?_⟩
  · exact bytesAt_fieldBytes 0 hwidths rfl (by decide) hcode
  · exact bytesAt_fieldBytes 1 hwidths rfl (by decide) hctx
  · exact bytesAt_fieldBytes 2 hwidths rfl (by decide) hcore
  · exact bytesAt_fieldBytes 3 hwidths rfl (by decide) (by omega)
  · exact bytesAt_fieldBytes 4 hwidths rfl (by decide) hgid
  · exact bytesAt_fieldBytes 5 hwidths rfl (by decide) hflags
  · exact bytesAt_fieldBytes 6 hwidths rfl (by decide) hword
  · exact bytesAt_fieldBytes 7 hwidths rfl (by decide) (toNat_lt_of_bytes st.pc rfl)
  · exact bytesAt_fieldBytes 8 hwidths rfl (by decide) (hteamIndex ▸ hindex)
  · exact bytesAt_fieldBytes 9 hwidths rfl (by decide) (toNat_lt_of_bytes st.lanes rfl)
  · exact bytesAt_fieldBytes 10 hwidths rfl (by decide) (toNat_lt_of_bytes st.addr rfl)
  · exact bytesAt_fieldBytes 11 hwidths rfl (by decide) (toNat_lt_of_bytes st.aux rfl)
  · exact bytesAt_fieldBytes 12 hwidths rfl (by decide) (toNat_lt_of_bytes st.drone rfl)
  · exact bytesAt_fieldBytes 13 hwidths rfl (by decide) himage
  · exact bytesAt_fieldBytes 14 hwidths rfl (by decide) (toNat_lt_of_bytes st.origin rfl)

end Sys2Proof.Machine
end

section
/-! SUPPORT. Taking a trap (R245, R247, R251). -/

namespace Sys2Proof.Machine


theorem withdrawMig_settled {s : State} {x : Group} (code : Nat)
    (hsettled : ∀ t, teamOf s x.team = some t → migPending s t = false ∧ t.moving = false) : withdrawMig s x code = s := by
  unfold withdrawMig
  split
  · rfl
  · next t hteam =>
    obtain ⟨hpending, hmoving⟩ := hsettled t hteam
    simp [hpending, hmoving]

/-- The stop that a trap of cause `k` at word `pc` leaves in the group of slot `g` (R248, R251). -/
def trapStop (s : State) (g : Nat) (x : Group) (k : Cause) (pc : Pc) : Stop :=
  { code := k.code, pc := pc, lanes := k.lanes, addr := k.addr, aux := k.aux, word := k.word, origin := k.origin,
    drone := BitVec.ofNat 64 (flaskDrone s (coreFlask (slotCore g))), flags := if grpSafe x then 2 else 0 }

/-- The group that a trap stops: a park request and a debugger step are absorbed (R247). -/
def trapped (s : State) (g : Nat) (x : Group) (k : Cause) (pc : Pc) : Group :=
  { x with stop := some (trapStop s g x k pc), park := none, stepPc := none, stepAll := false }

theorem takeTrap_eq {s : State} {g : Nat} {x : Group} (k : Cause) (pc : Pc) (hgroup : groupAt s g = some x)
    (hsettled : ∀ t, teamOf s x.team = some t → migPending s t = false ∧ t.moving = false)
    (hdebug : (k.code = 0x0A ∨ k.code = 0x0B) → sysFld s (sel 27 (slotCore g)) 3 1 = 0) :
    takeTrap s g k pc = finishStop { setGroup s g (trapped s g x k pc) with cur := none } g := by
  have hquiet : ¬ ((k.code == 0x0A || k.code == 0x0B) && sysFld s (sel 27 (slotCore g)) 3 1 == 1) = true := by
    by_cases hcode : k.code = 0x0A ∨ k.code = 0x0B
    · simp [hdebug hcode]
    · obtain ⟨hbkpt, hdebugger⟩ := not_or.mp hcode
      simp [hbkpt, hdebugger]
  have hsys : sysFld (setGroup s g (trapped s g x k pc)) (sel 27 (slotCore g)) 3 1 = sysFld s (sel 27 (slotCore g)) 3 1 := rfl
  unfold takeTrap
  rw [hgroup]
  dsimp only
  rw [withdrawMig_settled _ hsettled, modGroup_eq hgroup]
  change finishStop { (if ((k.code == 0x0A || k.code == 0x0B) &&
    sysFld (setGroup s g (trapped s g x k pc)) (sel 27 (slotCore g)) 3 1 == 1) = true then _ else setGroup s g (trapped s g x k pc)) with
      cur := none } g = _
  rw [hsys, if_neg hquiet]

/-- Settles O21: nothing is withdrawn and no other group is asked to park, so that the stop is all that the trap writes. -/
theorem trapStopsGroup : Obligations.TrapStopsGroup := by
  unfold Obligations.TrapStopsGroup
  intro s g k pc x hgroup hsettled hdebug
  refine ⟨_, takeTrap_eq k pc hgroup hsettled hdebug, rfl, ?others, groupAt_setGroup_same s g _⟩
  case others => exact fun n hn => groupAt_setGroup_ne s g n _ hn

end Sys2Proof.Machine
end

section
/-! SUPPORT. Instructions that are complete at issue (R271): what each does to the group and where its lanes go, then O13. -/

namespace Sys2Proof.Machine

open Host

/-- An instruction that names no flag lets none fall. -/
theorem atOnce_unset (s : State) (e : Env) {h : Hdr} (hset : h.set = 15) : atOnce s e h = s := by
  have hkept : dropFlag h.set = fun y => y := by
    rw [hset]
    rfl
  rw [atOnce, hkept, modGroup_same]

/-- WRSYS, register by register (R303). -/
theorem writeSpecial_eq (num : Nat) (v : DWord) (x : Group) : writeSpecial num v x =
    if num = 16 then { x with prio := v.setWidth 4 } else if num = 17 then { x with fstat := v &&& 0x11F }
    else if num = 18 then { x with mstat := v &&& 0xF } else { x with uiEn := bit v 0, uiOvf := bit v 1 } := by
  unfold writeSpecial
  split
  · rfl
  · rfl
  · rfl
  next h16 h17 h18 => rw [if_neg h16, if_neg h17, if_neg h18]

theorem writeSpecial_movedAs (num : Nat) (v : DWord) (x y : Group) :
    writeSpecial num v (x.movedAs y) = (writeSpecial num v x).movedAs y := by
  unfold writeSpecial
  split
  · rfl
  · rfl
  · rfl
  · rfl

section
variable {s : State} {c : Cur} {x : Group} {e : Env} (i : Info) (dsts : Env → List Dest) (tgt : Nat → Pc × Wait)
  (act : Env → State → State → State) (hsets : i.sets = 1) (hmay : MayIssue s c x i) (he : e = issueEnv s c x i.h)
include hsets hmay he

/-- An instruction that moves its lanes and does nothing more. -/
theorem move_issued (hact : ∀ post pre, act e pre post = atOnce post e i.h)
    (hto : ∀ l pc w, (∃ d ∈ dsts e, inLanes d.2.2 l = true ∧ d.1 = pc ∧ d.2.1 = w) ↔ (inLanes c.lanes l = true ∧ tgt l = (pc, w))) :
    ∃ t, gateTo i s dsts act = .next t ∧ Issued s t c x x i tgt := by
  obtain ⟨t, ht, hissued⟩ := prompt_done i hsets hmay he dsts tgt (fun _ y => y) act
    (fun post pre _ => by rw [modGroup_same, hact]) hto fun _ => rfl
  exact ⟨t, ht, by simpa only [ite_self] using hissued⟩
end

section
variable {s : State} {c : Cur} {x : Group} {e : Env} {h : Hdr}

/-- Where the lanes of BRX and RET go: those whose guard is true to the word that the register names in each (R287). -/
theorem indirect_to (n : BitVec 10) (he : e = issueEnv s c x h) (l : Nat) (pc : Pc) (w : Wait) :
    (∃ d ∈ ((byTarget (fun l => e.v n.toNat l) (lanesOf e.act)).map fun p => ((p.1, .run, p.2) : Dest)) ++
        [(nextPc e.pc h.sp, .run, e.lanes &&& ~~~ e.act)], inLanes d.2.2 l = true ∧ d.1 = pc ∧ d.2.1 = w) ↔
      (inLanes c.lanes l = true ∧ parted e h (fun l => (e.v n.toNat l, .run)) l = (pc, w)) := by
  have hlanes : e.lanes = c.lanes := by rw [he]; rfl
  have hsub : inLanes e.act l = true → inLanes c.lanes l = true := by
    intro hact
    rw [he] at hact
    exact act_sub _ _ _ _ _ hact
  have hnamed := byTarget_mem (fun l => e.v n.toNat l) (lanesOf e.act) (lanesOf_lt e.act) l pc
  rw [mem_lanesOf] at hnamed
  have hdest : (∃ d ∈ (byTarget (fun l => e.v n.toNat l) (lanesOf e.act)).map fun p => ((p.1, .run, p.2) : Dest),
      inLanes d.2.2 l = true ∧ d.1 = pc ∧ d.2.1 = w) ↔ (inLanes e.act l = true ∧ e.v n.toNat l = pc) ∧ Wait.run = w := by
    rw [← hnamed]
    constructor
    · rintro ⟨_, hd, hl, hpc, hw⟩
      obtain ⟨p, hp, rfl⟩ := List.mem_map.mp hd
      exact ⟨⟨p, hp, hl, hpc⟩, hw⟩
    · rintro ⟨⟨p, hp, hl, hpc⟩, hw⟩
      exact ⟨_, List.mem_map.mpr ⟨p, hp, rfl⟩, hl, hpc, hw⟩
  simp only [List.mem_append, or_and_right, exists_or, hdest, List.mem_singleton, exists_eq_left, inLanes_without, hlanes, parted]
  by_cases hact : inLanes e.act l = true
  · simp [hact, hsub hact]
  · simp [hact]

theorem indBranch_v (n : BitVec 10) : indBranch h (.v n) s = gateTo { h := h, a := some (.v n, false) } s
    (fun e => ((byTarget (fun l => e.v n.toNat l) (lanesOf e.act)).map fun p => (p.1, .run, p.2)) ++
      [(nextPc e.pc h.sp, .run, e.lanes &&& ~~~ e.act)]) fun e _ post => atOnce post e h := rfl

theorem indBranch_s (n : BitVec 6) : indBranch h (.s n) s = gateTo { h := h, a := some (.s n, false) } s
    (splitTo { h := h } (fun e => (e.s n.toNat).setWidth 32) fun _ => .run) fun e _ post => atOnce post e h := rfl

/-- BRX and RET (R287). -/
theorem indBranch_issued (a : Reg) (hmay : MayIssue s c x (promptForm.indirect h a).info) (he : e = issueEnv s c x h) :
    ∃ t, indBranch h a s = .next t ∧ Issued s t c x x (promptForm.indirect h a).info ((promptForm.indirect h a).dsts e) := by
  cases a with
  | v n =>
    rw [indBranch_v]
    dsimp only [promptForm.indirect] at hmay ⊢
    exact move_issued { h := h, a := some (.v n, false) } _ _ _ rfl hmay he (fun _ _ => rfl) (indirect_to n he)
  | s n =>
    rw [indBranch_s]
    dsimp only [promptForm.indirect] at hmay ⊢
    exact move_issued { h := h, a := some (.s n, false) } _ _ _ rfl hmay he (fun _ _ => rfl) (split_to h { h := h } rfl he _)

variable (hmay : MayIssue s c x { h := h }) (hmay1 : MayIssue s c x { h := h, once := true }) (he : e = issueEnv s c x h)

include hmay he in
/-- NOP that names no flag (R289). -/
theorem nop_issued (hset : h.set = 15) :
    ∃ t, exec (.nop h) s = .next t ∧ Issued s t c x x { h := h } fun _ => (nextPc e.pc h.sp, .run) :=
  move_issued { h := h } (nextWord { h := h }) _ (fun _ _ post => post) rfl hmay he (fun post _ => (atOnce_unset post e hset).symm)
    (onward_to { h := h } (by rw [he]; rfl))

include hmay he in
theorem bra_issued (off : BitVec 32) :
    ∃ t, exec (.bra h off) s = .next t ∧ Issued s t c x x { h := h } (parted e h fun _ => (e.pc + off, .run)) :=
  move_issued { h := h } (splitTo { h := h } (fun e => e.pc + off) fun _ => .run) _ (fun e _ post => atOnce post e h) rfl hmay he
    (fun _ _ => rfl) (split_to h { h := h } rfl he _)

include hmay1 he in
theorem waitf_issued :
    ∃ t, exec (.waitf h) s = .next t ∧ Issued s t c x x { h := h, once := true } fun _ => (nextPc e.pc h.sp, .run) :=
  move_issued { h := h, once := true } (nextWord { h := h }) _ (fun e _ post => atOnce post e h) rfl hmay1 he (fun _ _ => rfl)
    (onward_to { h := h } (by rw [he]; rfl))

/-- The group that UIVEC leaves (R294). -/
def vectored (a : SImm) (e : Env) (y : Group) : Group := { y with uiVec := (e.simm a).setWidth 16 }

include hmay1 he in
theorem uivec_issued (a : SImm) (hsmall : actsIn e { h := h, once := true } = true → (e.simm a).toNat ≤ 0xFFFF) :
    ∃ t, exec (.uivec h a) s = .next t ∧ Issued s t c x (if actsIn e { h := h, once := true } = true then vectored a e x else x)
      { h := h, once := true } fun _ => (nextPc e.pc h.sp, .run) :=
  prompt_done { h := h, once := true } rfl hmay1 he (nextWord { h := h }) _ (vectored a)
    (fun e pre post => if 0xFFFF < (e.simm a).toNat then trapAt pre 0x18 e.act 0 0 else atOnce (modGroup post e.g (vectored a e)) e h)
    (fun _ _ hacts => if_neg (Nat.not_lt_of_le (hsmall hacts))) (onward_to { h := h } (by rw [he]; rfl)) fun _ => rfl

include hmay1 he in
theorem wrsys_issued (num : BitVec 10) (a : SImm) :
    ∃ t, exec (.wrsys h num a) s = .next t ∧
      Issued s t c x (if actsIn e { h := h, once := true } = true then writeSpecial num.toNat (e.simm a) x else x)
        { h := h, once := true } fun _ => (nextPc e.pc h.sp, .run) :=
  prompt_done { h := h, once := true } rfl hmay1 he (nextWord { h := h }) _ (fun e => writeSpecial num.toNat (e.simm a))
    (fun e _ post => atOnce (modGroup post e.g (writeSpecial num.toNat (e.simm a))) e h) (fun _ _ _ => rfl) (onward_to { h := h } (by rw [he]; rfl)) fun y => writeSpecial_movedAs _ _ x y
end

/-- What O13 says of one instruction. -/
def Prompt (i : Instr) (φ : PromptForm) : Prop :=
  ∀ (s : State) (c : Cur) (x : Group) (e : Env), MayIssue s c x φ.info → e = issueEnv s c x φ.info.h →
    (actsIn e φ.info = true → φ.ok e) →
    ∃ t, exec i s = .next t ∧ Issued s t c x (if actsIn e φ.info = true then φ.eff e x else x) φ.info (φ.dsts e)

/-- A form without an effect or a demand. -/
theorem Prompt.of_move {i : Instr} {φ : PromptForm} (heff : φ.eff = fun _ y => y)
    (hmove : ∀ (s : State) (c : Cur) (x : Group) (e : Env), MayIssue s c x φ.info → e = issueEnv s c x φ.info.h →
      ∃ t, exec i s = .next t ∧ Issued s t c x x φ.info (φ.dsts e)) : Prompt i φ := by
  intro s c x e hmay he _
  rw [heff, ite_self]
  exact hmove s c x e hmay he

theorem Prompt.indirect {i : Instr} {h : Hdr} {a : Reg} (hexec : ∀ s, exec i s = indBranch h a s) :
    Prompt i (promptForm.indirect h a) := by
  have heff : (promptForm.indirect h a).eff = fun _ y => y := by cases a <;> rfl
  have hh : (promptForm.indirect h a).info.h = h := by cases a <;> rfl
  refine .of_move heff fun s c x e hmay he => ?_
  rw [hexec]
  exact indBranch_issued a hmay (hh ▸ he)

theorem Prompt.of_none {i : Instr} (hnone : promptForm i = none) (φ : PromptForm) (hform : promptForm i = some φ) : Prompt i φ :=
  absurd (hnone.symm.trans hform) (Option.some_ne_none φ).symm

theorem prompt_of_form (i : Instr) : ∀ φ, promptForm i = some φ → Prompt i φ := by
  cases i with
  | nop h =>
    rintro φ hform
    obtain ⟨hset, ⟨⟩⟩ := Option.ite_none_right_eq_some.mp hform
    exact .of_move rfl fun _ _ _ _ hmay he => nop_issued hmay he hset
  | bra h off => exact fun _ hform => Option.some.inj hform ▸ .of_move rfl fun _ _ _ _ hmay he => bra_issued hmay he off
  | brx h a => exact fun _ hform => Option.some.inj hform ▸ .indirect fun _ => rfl
  | ret h a => exact fun _ hform => Option.some.inj hform ▸ .indirect fun _ => rfl
  | waitf h => exact fun _ hform => Option.some.inj hform ▸ .of_move rfl fun _ _ _ _ hmay he => waitf_issued hmay he
  | uivec h a => exact fun _ hform => Option.some.inj hform ▸ fun _ _ _ _ hmay he hok => uivec_issued hmay he a hok
  | wrsys h num a =>
    refine fun _ hform => Option.some.inj hform ▸ fun _ _ _ _ hmay he _ => ?_
    have hdone := wrsys_issued hmay he num a
    rw [writeSpecial_eq] at hdone
    exact hdone
  | _ => exact Prompt.of_none rfl

/-- Settles O13: each is a move of lanes, and UIVEC and WRSYS an effect in the group that no move touches. -/
theorem promptResults : Obligations.PromptResults :=
  fun s c x i φ e hform hmay he hok => prompt_of_form i φ hform s c x e hmay he hok

end Sys2Proof.Machine
end

section
/-! SUPPORT. YIELD and CALL (R284, R287, R290): the group that each leaves, then O17. -/

namespace Sys2Proof.Machine

open Host

/-- The paths of a stream that yields are not ready before `due` (R290). -/
def held (m : LaneMask) (due : Nat) (ps : List Path) : List Path :=
  ps.map fun p => if p.lanes &&& m != 0 then { p with ready := due } else p

/-- The group whose stream yields until `due`. -/
def yielded (m : LaneMask) (due : Nat) (y : Group) : Group := { y with paths := held m due y.paths }

section
variable {s : State} {c : Cur} {x y : Group} {h : Hdr} {e : Env} {post : State}

/-- An effect in the group and then the fall of the flag. -/
theorem atOnce_modGroup (hslot : e.g = c.g) (hy : groupAt post c.g = some y) (f : Group → Group) :
    atOnce (modGroup post c.g f) e h = setGroup post c.g (dropFlag h.set (f y)) := by
  rw [modGroup_eq hy, atOnce_eq (by rw [hslot]; exact groupAt_setGroup_same ..), hslot, setGroup_twice]

/-- The fall of the flag after the issue has counted it (R152). -/
theorem flagOf_dropFlag_counted {i : Info} {dsts : Env → List Dest} (hg : Goes s c x i dsts e post) (hy : groupAt post c.g = some y)
    (hacts : actsIn e i = true) (hsets : i.sets = 1) (z : Group) (hf : z.f = y.f) (k : Nat) :
    flagOf (dropFlag i.h.set z) k = flagOf x k := by
  obtain ⟨-, hcounted, -⟩ := goes_facts hg hy
  refine dropFlag_countSet x z i.h.set (fun k => ?_) k
  have hflags : flagOf z k = flagOf y k := by rw [flagOf, flagOf, hf]
  rw [hflags, hcounted k, hsets]
  simp only [hacts, and_true]

/-- YIELD (R290; log entry 23). -/
theorem exec_yield_goes {n : BitVec 10} (hg : Goes s c x { h := h, once := true } (nextWord { h := h }) e post) :
    exec (.yield h n) s = .next (if e.act ≠ 0 then
      atOnce (modGroup post c.g (yielded c.lanes (e.cyc + n.toNat + 1))) e h else post) := by
  obtain ⟨hslot, -, -, -, hlanes, -⟩ := env_facts hg
  have hacts : actsIn e { h := h, once := true } = true ↔ e.act ≠ 0 := by simp only [actsIn, Bool.not_true, Bool.false_or, bne_iff_ne]
  rw [exec_yield, execYield, goes_gate hg]
  simp only [hacts, hslot, hlanes]
  rfl

/-- CALL (R284, R287). -/
theorem exec_call_goes {off : BitVec 32}
    (hg : Goes s c x { h := h, vw := [regCount x - 1] } (splitTo { h := h } (fun e => e.pc + off) fun _ => .run) e post) :
    exec (.call h off) s = .next (fixTail (modGroup post c.g
      (fixLanes (e.cyc + 6) (regCount x - 1) (fun _ => nextPc e.pc h.sp) (lanesOf e.act))) e h 6 0) := by
  obtain ⟨hslot, -⟩ := env_facts hg
  have hlink : linkReg s = regCount x - 1 := by simp only [linkReg, hg.may.cur, hg.may.group]
  rw [exec_call, execCall, hlink, relBranch]
  refine (goesTo_gate hg _).trans ?_
  rw [show actsIn e { h := h, vw := [regCount x - 1] } = true from rfl, if_pos rfl, hslot]
end

/-- Settles O17: a yield changes paths, and a call one register in the lanes that it sends. -/
theorem yieldCallResults : Obligations.YieldCallResults := by
  unfold Obligations.YieldCallResults
  intro s c x y h e post hy
  refine ⟨fun n hg => ?yield, fun off hg => ?call⟩
  case yield =>
    obtain ⟨-, hcounted, hslot, -⟩ := goes_facts hg hy
    rw [exec_yield_goes hg]
    by_cases hact : e.act = 0
    · refine ⟨post, y, by rw [if_neg (not_not.mpr hact)], rfl, fun _ _ => rfl, hy, rfl, fun k => ?_, ?_⟩
      · have hidle : actsIn e { h := h, once := true } = false := by simp only [actsIn, hact]; rfl
        simpa only [hidle, Bool.false_eq_true, and_false, if_false, Nat.add_zero] using hcounted k
      · simp only [hact, ne_eq, not_true_eq_false, false_and, if_false, List.map_id']
    · obtain ⟨f, hdrop⟩ := dropFlag_frame h.set (yielded c.lanes (e.cyc + n.toNat + 1) y)
      rw [if_pos hact, atOnce_modGroup hslot hy]
      refine ⟨_, _, rfl, rfl, fun k hk => groupAt_setGroup_ne _ _ _ _ hk, groupAt_setGroup_same _ _ _, ?frame, fun k => ?flags, ?paths⟩
      case frame =>
        rw [hdrop]
        rfl
      case flags => exact flagOf_dropFlag_counted hg hy (once_act hact) rfl (yielded c.lanes (e.cyc + n.toNat + 1) y) rfl k
      case paths =>
        rw [hdrop]
        exact List.map_congr_left fun p _ => by simp only [bne_iff_ne, hact, ne_eq, not_false_eq_true, true_and]
  case call =>
    obtain ⟨v, rs, hframe⟩ := fixLanes_frame (e.cyc + 6) (regCount x - 1) (fun _ => nextPc e.pc h.sp) (lanesOf e.act) y
    obtain ⟨-, -, huid, -⟩ := env_facts hg
    have htail := fixTail_plain (setGroup post c.g
      (fixLanes (e.cyc + 6) (regCount x - 1) (fun _ => nextPc e.pc h.sp) (lanesOf e.act) y)) e h 6
    rw [huid] at htail
    rw [exec_call_goes hg, modGroup_eq hy, htail]
    refine ⟨_, _, rfl, fun k hk => groupAt_setGroup_ne _ _ _ _ hk, groupAt_setGroup_same _ _ _, rfl, ?frame, fun r l hl => ?link⟩
    case frame => rw [hframe]
    case link =>
      simp only [vRaw_fixLanes _ _ _ _ _ hl _ _ (fun m hm => lanesOf_lt e.act m hm), mem_lanesOf]

end Sys2Proof.Machine
end

section
/-! SUPPORT. UIRET (R275, R295): its trap outside a handler, and what it leaves of the group inside one, then O19. -/

namespace Sys2Proof.Machine

open Host

section
variable {s : State} {c : Cur} {x y : Group} {h : Hdr} {e : Env} {post : State}

/-- Outside a handler UIRET is malformed, and the check of reserved fields finds it before anything of the word is done. -/
theorem exec_uiret_outside (hcur : s.cur = some c) (hx : groupAt s c.g = some x) (hdist : distMet s c x h.dist.toNat = true)
    (hwait : waitMet (c.flags x) h.wait = true) (houtside : x.uiAct = false) :
    exec (.uiret h) s = .next (takeTrap s c.g
      { code := 0x02, lanes := (issueEnv s c x h).act, aux := c.word.extractLsb' 32 64 } c.pc) := by
  have hgroup : curGroup s = some x := by rw [curGroup, hcur, Option.bind_some, hx]
  have hbad : ((curGroup s).any fun x => !x.uiAct) = true := by rw [hgroup, Option.any_some, houtside]; rfl
  have hmet : (distMet s c x h.dist.toNat && waitMet (c.flags x) h.wait) = true := by rw [hdist, hwait]; rfl
  have hstops : verdict s c x { h := h, bad := true } = .trap 0x02 (c.word.extractLsb' 32 64) :=
    verdict_reserved hmet rfl rfl rfl
  have hseen : (issueEnv s c x h).grp = retire (coreAt s (slotCore c.g)).cycle x := rfl
  rw [exec_uiret, execUiret, hbad]
  simp only [gateTo, hcur, hx, hseen, verdict_retire, hstops, trapAt, Bool.false_eq_true, if_false]

/-- Inside a handler the stream parks, and the test of the handler set follows. -/
theorem exec_uiret_goes (hg : Goes s c x { h := h } (splitTo { h := h } (fun e => e.pc) fun _ => .uiret) e post)
    (hinside : x.uiAct = true) : exec (.uiret h) s = .next (atOnce (modGroup post c.g uiCheck) e h) := by
  obtain ⟨hslot, -⟩ := env_facts hg
  have hgroup : curGroup s = some x := by rw [curGroup, hg.may.cur, Option.bind_some, hg.may.group]
  have hsound : ((curGroup s).any fun x => !x.uiAct) = false := by rw [hgroup, Option.any_some, hinside]; rfl
  rw [exec_uiret, execUiret, hsound]
  refine (goesTo_gate hg _).trans ?_
  rw [show actsIn e { h := h } = true from rfl, if_pos rfl, hslot]

end

/-- Settles O19: the handler is over once the test of its set finds no lane under way. -/
theorem interruptReturn : Obligations.InterruptReturn := by
  unfold Obligations.InterruptReturn
  intro s c x y h e post
  refine ⟨fun hcur hx hdist hwait houtside => exec_uiret_outside hcur hx hdist hwait houtside, fun hg hy hinside => ?_⟩
  obtain ⟨hmoved, -, hslot, -⟩ := goes_facts hg hy
  have hact : y.uiAct = true := by
    rw [hmoved]
    exact hinside
  obtain ⟨f, hdrop⟩ := dropFlag_frame h.set (uiCheck y)
  obtain ⟨hkept, -⟩ := uiCheck_kept y
  have hflags : (uiCheck y).f = y.f := by rw [hkept]
  rw [exec_uiret_goes hg hinside, atOnce_modGroup hslot hy]
  refine ⟨_, _, rfl, rfl, fun k hk => groupAt_setGroup_ne _ _ _ _ hk, groupAt_setGroup_same _ _ _,
    flagOf_dropFlag_counted hg hy rfl rfl (uiCheck y) hflags, ?frame, fun hwaits => ?waits, fun hend => ?ends⟩
  case frame =>
    rw [hdrop]
    dsimp only
    rw [hkept]
  case waits =>
    rw [hdrop, uiCheck_waits y (.inr hwaits)]
    exact ⟨rfl, hact, rfl⟩
  case ends =>
    obtain ⟨hended, hplaced⟩ := uiCheck_done y hact hend
    rw [hdrop]
    dsimp only
    refine ⟨?_, ?_, hplaced⟩
    · rw [hended]
    · rw [hended]

end Sys2Proof.Machine
end

section
/-! SUPPORT. IMULH (R317): the number that `fit` writes is congruent to the one that it is given, so O59. -/

namespace Sys2Proof.Machine

open Host

/-- The high half of a number of two digits, below or above zero, is its quotient within one digit. -/
theorem high_digit (p : Int) {n : Int} (hn : 0 < n) : p % (n * n) / n = p / n % n := by
  have hquot : p / (n * n) = p / n / n := (Int.ediv_ediv_of_nonneg hn.le).symm
  calc p % (n * n) / n = (p + n * -(n * (p / n / n))) / n := by rw [Int.emod_def, hquot]; ring_nf
    _ = p / n + -(n * (p / n / n)) := Int.add_mul_ediv_left p _ hn.ne'
    _ = p / n % n := by rw [Int.emod_def]; ring

section
variable {t : Ty}

/-- An integer of a type is its pattern but for a multiple of the type's range. -/
theorem intOf_emod (x : Nat) : intOf t x % (2 ^ t.bits : Nat) = (x : Int) % (2 ^ t.bits : Nat) := by
  have hlow : (((x % 2 ^ t.bits : Nat) : Int)) % (2 ^ t.bits : Nat) = (x : Int) % (2 ^ t.bits : Nat) := by
    rw [Int.natCast_emod, Int.emod_emod]
  unfold intOf sextNat
  split
  · dsimp only
    split
    · exact hlow
    · rw [Int.sub_emod_right, hlow]
  · exact hlow

theorem patOf_emod (ht : t.bits ≤ 64) (x : Int) : (patOf x : Int) % (2 ^ t.bits : Nat) = x % (2 ^ t.bits : Nat) := by
  have hdvd : ((2 ^ t.bits : Nat) : Int) ∣ ((2 ^ 64 : Nat) : Int) := Int.natCast_dvd_natCast.mpr (pow_dvd_pow 2 ht)
  rw [patOf, BitVec.toNat_ofInt, Int.toNat_of_nonneg (Int.emod_nonneg _ (by decide)), Int.emod_emod_of_dvd _ hdvd]

theorem fit_emod (ht : t.bits ≤ 64) (x : Int) : (fit t false x : Int) % (2 ^ t.bits : Nat) = x % (2 ^ t.bits : Nat) := by
  rw [fit, if_neg Bool.false_ne_true, patOf_emod ht, intOf_emod, patOf_emod ht]

/-- The quotient of the exact product, fitted to the type, has the high half of the product in its low bits. -/
theorem fit_highHalf (ht : t.bits ≤ 64) (a b : Nat) :
    fit t false (intOf t a * intOf t b / (2 ^ t.bits : Nat)) % 2 ^ t.bits = highHalf t a b := by
  have hpos : 0 < ((2 ^ t.bits : Nat) : Int) := Int.natCast_pos.mpr (Nat.two_pow_pos _)
  have hsquare : ((2 ^ (2 * t.bits) : Nat) : Int) = (2 ^ t.bits : Nat) * (2 ^ t.bits : Nat) := by
    rw [two_mul, pow_add, Int.natCast_mul]
  apply Int.natCast_inj.mp
  rw [Int.natCast_emod, fit_emod ht, highHalf, Int.natCast_ediv, BitVec.toNat_ofInt, hsquare,
    Int.toNat_of_nonneg (Int.emod_nonneg _ (mul_pos hpos hpos).ne'), high_digit _ hpos]

end

/-- Settles O59: the form of IMULH writes the quotient of the exact product by 2^w, fitted to the type. -/
theorem imulhHighHalf : Obligations.ImulhHighHalf := by
  unfold Obligations.ImulhHighHalf
  refine ⟨fun s c x h t d a b ht => ?_, by decide, by decide⟩
  have hbits : t.bits ≤ 64 := by obtain rfl | rfl | rfl | rfl := ht <;> decide
  refine ⟨fun e l => fit t false (e.int t a l * e.int t b l / (2 ^ t.bits : Nat)), fun e l => fit_highHalf hbits _ _, ?_⟩
  rintro φ rfl hmay
  have hform : integerForm (.imulh h t d a b) = some (dForm (info2 h t d a b) d t.wide 10 fun e l =>
      fit t false (e.int t a l * e.int t b l / (2 ^ t.bits : Nat))) := rfl
  exact laneDone_of_form (exec_integerForm hform s) (integerForm_onceToS hform) hmay

end Sys2Proof.Machine
end

section
/-! SUPPORT. The instructions of class 0xC (R229, R231, R233, R234, R241, R394 to R398), each as its cases, then O47. -/

namespace Sys2Proof.Machine

open Host

/-- An instruction whose lanes act each for itself acts (R265). -/
theorem actsIn_each {e : Env} {i : Info} (honce : i.once = false) : actsIn e i = true := by
  rw [actsIn, honce]
  rfl

section
variable {s : State} {c : Cur} {x : Group} {h : Hdr} {e : Env} {post pre u : State} (hpre : pre = { s with free := s.free + 1 })
  (hact : e.act ≠ 0)
include hpre hact

section
variable {id : SImm} {vin vout : BitVec 10} {nin : BitVec 3} {nout : BitVec 2} {fin : BitVec 12} {ins outs : List Nat} {i : Info}
  (hins : ins = (List.range (nin.toNat + 1)).map (· + vin.toNat)) (houts : outs = (List.range (nout.toNat + 1)).map (· + vout.toNat))
  (hi : i = { h := h, cA := ins, vw := outs }) (hg : Goes s c x i (splitTo i (fun e => e.pc) fun _ => .apx 0) e post)
include hins houts hi hg

omit hact in
/-- APXB of an identifier that no region has (R381). -/
theorem exec_apxb_beyond (hnone : e.region id = none) : exec (.apxb h id vin nin vout nout fin) s = .next (trapReserved pre e.act) := by
  subst hi hins houts hpre
  rw [exec_apxb, execApxb]
  refine (goesTo_gate hg _).trans ?_
  rw [actsIn_each rfl, if_pos rfl]
  simp only [hnone]

omit hpre in
/-- APXB (R232, R233, R394). -/
theorem exec_apxb_sends {rid : Nat} {lanes : List (Nat × List Word)} (hrid : e.region id = some rid)
    (hlanes : lanes = (lanesOf e.act).map fun l => (l, ins.map fun r => e.v r l))
    (hu : u = modGroup { post with nextUid := post.nextUid + 1 } c.g (openRegion post.nextUid rid vout.toNat outs c.pc lanes)) :
    exec (.apxb h id vin nin vout nout fin) s = .next (modFlask u (coreFlask e.core) fun f => { f with
      reqs := f.reqs ++ [{ id := post.nextUid, uid := x.uid, ctx := x.ctx, rid := rid, lanes := lanes, nout := outs.length,
                           vout := vout.toNat, fin := fin.toNat, pc := c.pc, granule := codeGranule u x.ctx c.pc,
                           sig := sigOf x.uid h.set }] }) := by
  obtain ⟨hslot, hctx, huid, -, -, hpc, -⟩ := env_facts hg
  subst hi hins houts
  rw [exec_apxb, execApxb]
  refine (goesTo_gate hg _).trans ?_
  rw [actsIn_each rfl, if_pos rfl]
  simp only [hrid, if_neg hact, freshUid, hslot, hctx, huid, hpc, ← hlanes, ← hu]

end

/-- APXE (R233, R234, R395). -/
theorem exec_apxe_goes (hg : Goes s c x { h := h } (nextWord { h := h }) e post) {opens : List (Nat × Open)} {qs : List Sample}
    (hopens : opens = (lanesOf e.act).filterMap fun l => (mget? e.grp.apx l).map fun o => (l, o))
    (hqs : qs = opens.map fun p => ({ ctx := x.ctx, id := p.2.id, xs := p.2.input,
                                      ys := ((List.range p.2.nout).map (· + p.2.vout)).map fun r => e.v r p.1 } : Sample)) :
    exec (.apxe h) s = .next (if ∃ p, p ∈ opens ∧ ∃ k, k < p.2.nout ∧ isEmpty e.grp (k + p.2.vout) = true then pre
      else atOnce (modGroup (sendSamples post (coreFlask e.core) qs) c.g fun y =>
        { y with apx := y.apx.filter fun p => !inLanes e.act p.1 }) e h) := by
  obtain ⟨hslot, hctx, -⟩ := env_facts hg
  rw [exec_apxe, execApxe, goes_once hg hact hpre]
  simp only [← hopens, hctx, ← hqs, hslot, List.any_eq_true, List.any_map, List.mem_range, Function.comp_apply]

section
variable {id : SImm}

/-- FTCFG (R229, R396). -/
theorem exec_ftcfg_goes (sa : BitVec 6) (hg : Goes s c x (engInfo h true) (nextWord (engInfo h true)) e post) (hu : u = drainAll post c.g)
    (hdrained : drained u c.g = true) : exec (.ftcfg h id sa) s = .next (match e.region id with
      | none => trapReserved pre e.elect
      | some rid =>
        match readRec u e (e.s sa.toNat) 1 32 with
        | (.bad code addr aux, _) => takeTrap pre c.g { code := code, lanes := e.elect, addr := addr, aux := aux } c.pc
        | (.held, _) => pre
        | (.nonres, v) => atOnce (residNotice v 5 0 x.ctx 0 e.core (c.g % 64) (e.s sa.toNat)) e h
        | (.ok bs, v) =>
          if (e.s sa.toNat).toNat % 32 ≠ 0 ∨ regionOk bs = false then trapReserved pre e.elect
          else atOnce (idleEverywhere (ctxWrite (settleFit v) x.ctx (regionVa v x.ctx rid) bs) x.ctx rid (regionOf bs)) e h) := by
  obtain ⟨hslot, hctx, -⟩ := env_facts hg
  rw [exec_ftcfg, execFtcfg, goes_once hg hact hpre, afterDrain, hslot]
  simp only [← hu, hdrained, if_true, hctx, trapField, trapAt_eq hg hpre, Bool.or_eq_true, bne_iff_ne, Bool.not_eq_true'] <;> rfl

/-- FTINV (R241, R397). -/
theorem exec_ftinv_goes (hg : Goes s c x (engInfo h) (nextWord (engInfo h)) e post) (hu : u = drainAll post c.g)
    (hdrained : drained u c.g = true) : exec (.ftinv h id) s = .next (match e.region id with
      | none => trapReserved pre e.elect
      | some rid => atOnce (invalidate (settleFit u) x.ctx rid) e h) := by
  obtain ⟨hslot, hctx, -⟩ := env_facts hg
  rw [exec_ftinv, execFtinv, goes_once hg hact hpre, afterDrain, hslot]
  simp only [← hu, hdrained, if_true, hctx, trapField] <;> rfl

/-- FTSTAT (R398). -/
theorem exec_ftstat_goes (d : BitVec 6) (hg : Goes s c x (engInfo h) (nextWord (engInfo h)) e post) :
    exec (.ftstat h d id) s = .next (match e.region id with
      | none => trapReserved pre e.elect
      | some rid =>
        let v := settleFit post
        varResult v e h [] [] (some (d.toNat, fitStat v.free
          ((fitSlot v (coreFlask e.core) x.ctx rid).or (loadSlot v (coreFlask e.core) x.ctx rid 0)))) 0 false) := by
  obtain ⟨-, hctx, -⟩ := env_facts hg
  rw [exec_ftstat, execFtstat, goes_once hg hact hpre]
  simp only [hctx, trapField] <;> rfl

end

end

/-- Settles O47: each instruction issues once, and its effect is the case of its region and its record. -/
theorem fitResults : Obligations.FitResults := by
  unfold Obligations.FitResults
  intro s c x h e post pre u hpre hact
  refine ⟨fun id vin vout nin nout fin ins outs i hins houts hi hg => ?apxb, fun opens qs hg hopens hqs => ?apxe,
    fun id sa v hg hu hdrained => ?ftcfg, fun id d hg => ?inquire⟩
  case apxb =>
    exact ⟨exec_apxb_beyond hpre hins houts hi hg,
      fun rid lanes hrid hlanes hu => exec_apxb_sends hact hins houts hi hg hrid hlanes hu⟩
  case apxe =>
    rw [exec_apxe_goes hpre hact hg hopens hqs]
    refine ⟨fun hempty => by rw [if_pos hempty], fun hfull => ?_⟩
    rw [if_neg]
    · rfl
    · rintro ⟨p, hp, k, hk, hempty⟩
      exact Bool.false_ne_true ((hfull p hp k hk).symm.trans hempty)
  case ftcfg =>
    rw [exec_ftcfg_goes hpre hact sa hg hu hdrained]
    refine ⟨fun hnone => by rw [hnone], fun rid hrid => ?_⟩
    rw [hrid]
    refine ⟨fun code a aux hread => by simp only [hread], fun hread => by simp only [hread], fun bs hread => ?_⟩
    simp only [hread]
    refine ⟨fun hbad => by rw [if_pos hbad], fun haligned hok => ?_⟩
    rw [if_neg (not_or.mpr ⟨not_not.mpr haligned, by rw [hok]; decide⟩)]
  case inquire =>
    rw [exec_ftstat_goes hpre hact d hg]
    refine ⟨fun hnone => ⟨by rw [hnone], fun hu hdrained => by rw [exec_ftinv_goes hpre hact hg hu hdrained, hnone]⟩,
      fun rid hrid => ⟨fun hu hdrained => by rw [exec_ftinv_goes hpre hact hg hu hdrained, hrid], ?_⟩⟩
    rintro v rfl
    rw [hrid]

end Sys2Proof.Machine
end

section
/-! SUPPORT. The steps of the fitting engine (R230 to R237, R240, R394), each as its cases, then O48. -/

namespace Sys2Proof.Machine

open Host

/-- Neither a request nor the last sample keeps the head of the queue (R234). -/
theorem head_ready {now busy next : Nat} (hfree : busy ≤ now) (hnext : next ≤ now) :
    (decide (now < busy) || decide (now < next)) = false := by
  rw [decide_eq_false (Nat.not_lt.mpr hfree), decide_eq_false (Nat.not_lt.mpr hnext)]
  rfl

section
variable {s u : State} {fl : Nat} (hfl : fl < 32) (hu : u = settleFit s)
include hfl hu

/-! ### A request (R230, R232, R234, R240) -/

section
variable {q : FitReq} (hq : (flaskAt u fl).reqs.find? (fun q => q.reply.isNone) = some q)
include hq

theorem fitRequest_unconfigured (hrec : regionRec (occupy u fl) q.ctx q.rid = none) :
    exec (.fitRequest fl) s = .next (answerReq (occupy u fl) fl q.id [] true) := by
  rw [exec_fitRequest, execFitRequest, if_neg (Nat.not_le.mpr hfl)]
  simp only [← hu, hq, hrec]

variable {r : Region} {v : State} {y : FitSlot} (hrec : regionRec (occupy u fl) q.ctx q.rid = some r)
  (hv : v = requestSlot (occupy u fl) fl q r) (hy : fitSlot v fl q.ctx q.rid = some y)
include hrec hv hy

theorem fitRequest_configured : exec (.fitRequest fl) s = .next (if y.st = 4 then
    answerReq (modSlot v fl q.ctx q.rid fun y' => { y' with lec := (substitute r y q).2 }) fl q.id (substitute r y q).1 false
    else answerReq v fl q.id [] false) := by
  rw [exec_fitRequest, execFitRequest, if_neg (Nat.not_le.mpr hfl)]
  simp only [← hu, hq, hrec, ← hv, hy, bne_iff_ne, ite_not, apply_ite Outcome.next]

end

/-! ### A sample (R234 to R237, R240) -/

theorem fitSample_waits (hwait : u.fab < (flaskAt u fl).fitBusy ∨ u.fab < (flaskAt u fl).fitNext) :
    exec (.fitSample fl) s = .next u := by
  rw [exec_fitSample, execFitSample, if_neg (Nat.not_le.mpr hfl), takeHead, ← hu]
  dsimp only
  split
  case h_1 => rfl
  case h_2 => rw [if_pos (by simpa only [Bool.or_eq_true, decide_eq_true_eq] using hwait)]

section
variable {q : Sample} {rest : List Sample} {v : State} (hsamples : (flaskAt u fl).samples = q :: rest)
  (hfree : (flaskAt u fl).fitBusy ≤ u.fab) (hnext : (flaskAt u fl).fitNext ≤ u.fab)
  (hv : v = modFlask u fl fun f => { f with samples := rest, fitNext := u.fab + 8 })
include hsamples hfree hnext hv

theorem fitSample_unconfigured (hrec : regionRec v q.ctx q.id = none) : exec (.fitSample fl) s = .next v := by
  rw [exec_fitSample, execFitSample, if_neg (Nat.not_le.mpr hfl), takeHead]
  simp only [← hu, hsamples, head_ready hfree hnext, ← hv, hrec, Bool.false_eq_true, if_false]

variable {r : Region} {w : State} {y z : FitSlot} (hrec : regionRec v q.ctx q.id = some r) (hw : w = useSlot v fl q.ctx q.id r)
  (hy : fitSlot w fl q.ctx q.id = some y) (hz : z = takeSample r y q)
include hrec hw hy hz

theorem fitSample_configured : exec (.fitSample fl) s = .next (modFlask (modSlot w fl q.ctx q.id fun _ => z) fl fun f => { f with
    fitNext := w.fab + sampleHold y z }) := by
  rw [exec_fitSample, execFitSample, if_neg (Nat.not_le.mpr hfl), takeHead]
  simp only [← hu, hsamples, head_ready hfree hnext, ← hv, hrec, ← hw, hy, ← hz, Bool.false_eq_true, if_false]

end

end

/-- The 32nd sample of a training batch holds the next back for 64 cycles more (R234). -/
theorem sampleHold_eq (y z : FitSlot) :
    sampleHold y z = if (y.st = 2 ∨ y.st = 5) ∧ y.batch.length = 31 ∧ z.batch = [] then 72 else 8 := by
  simp only [sampleHold, Bool.and_eq_true, Bool.or_eq_true, decide_eq_true_eq, List.isEmpty_iff, and_assoc]

/-- A reply that no handler of its group holds back (R232, R394; log entry 25). -/
theorem exec_apxbReply_taken {s : State} {id : Nat} {q : FitReq}
    (hq : (s.flasks.map fun p => p.2.reqs).flatten.find? (fun q => q.id == id && q.reply.isSome) = some q)
    (hopen : ∀ g x, slotOf s q.uid = some g → groupAt s g = some x → ¬ (x.uiAct = true ∧ x.uiWait = .apx id)) :
    exec (.apxbReply id) s = .next (fall (modUid { s with
      flasks := s.flasks.map fun p => (p.1, { p.2 with reqs := p.2.reqs.filter fun y => y.id != id }) } q.uid
        (replyTo (((slotOf s q.uid).map fun g => (coreAt s (slotCore g)).cycle).getD 0) q)) q.sig) := by
  have hfree : (((slotOf s q.uid).bind (groupAt s)).any fun x => x.uiAct && x.uiWait == .apx id) = false := by
    refine Bool.eq_false_iff.mpr fun hheld => ?_
    obtain ⟨x, hx, hin⟩ := (Option.any_eq_true _ _).mp hheld
    obtain ⟨g, hg, hgx⟩ := Option.bind_eq_some_iff.mp hx
    exact hopen g x hg hgx (by simpa only [Bool.and_eq_true, beq_iff_eq] using hin)
  rw [exec_apxbReply, execApxbReply]
  simp only [hq, hfree, Bool.false_eq_true, if_false]
  rfl

/-- Settles O48: each step of the engine is the case of what stands at its head. -/
theorem fitEvents : Obligations.FitEvents := by
  unfold Obligations.FitEvents
  intro s u o fl hfl hu ho
  subst ho
  refine ⟨fun q r v hq => ⟨fitRequest_unconfigured hfl hu hq, fun hrec hv y hy => ?request⟩,
    fun id q hq hopen => exec_apxbReply_taken hq hopen,
    fitSample_waits hfl hu, fun q rest v hsamples hfree hnext hv => ⟨fitSample_unconfigured hfl hu hsamples hfree hnext hv,
      fun r w y z hrec hw hy hz => ?sample⟩⟩
  case request =>
    rw [fitRequest_configured hfl hu hq hrec hv hy]
    refine ⟨fun hst => by rw [if_neg hst], fun hst ls lec hsub => ?_⟩
    rw [if_pos hst, hsub]
  case sample =>
    rw [fitSample_configured hfl hu hsamples hfree hnext hv hrec hw hy hz, sampleHold_eq]

end Sys2Proof.Machine
end
